-- ==== Sys2Proof/Word.lean ====
section
/-! DEFINITION. The word types of the HK4 and the plainest arithmetic on them. -/

namespace Sys2Proof

/-- A 64-bit value of an integer register, a CSR or an address being computed. -/
abbrev Word := BitVec 64

/-- A byte of any memory. -/
abbrev Byte := BitVec 8

/-- The 512 bits of a vector register, a stream chunk or an inbound message. -/
abbrev Vec := BitVec 512

/-- A 4,096-byte tile of an operand slot. -/
abbrev Tile := BitVec 32768

/-- A code line of 64 bytes (R167): halfword i stands in bits [16i + 15 : 16i]. -/
abbrev Line := BitVec 512

/-- A 5-bit register field (R67): bit [4] the bank, bits [3:0] the index. -/
abbrev Reg := BitVec 5

/-- A finite map kept as a list of keys and values, keys strictly rising; what an unlisted key
reads as is said by the operation that reads it. -/
abbrev SMap (α : Type) := List (Nat × α)

/-- Is field `r` a register of the shared bank (R67)? -/
def Reg.shared (r : Reg) : Bool := r.getLsbD 4

/-- The index bits of a register field (R67). -/
def Reg.idx (r : Reg) : Fin 16 := (r.extractLsb' 0 4).toFin

/-- The private register with index `i`. -/
def Reg.priv (i : Nat) : Reg := BitVec.ofNat 5 (i % 16)

end Sys2Proof
end

