-- ==== Sys2Proof/Syntax.lean ====
section
/-! DEFINITION. The abstract syntax: the decoded fields, the raw forms of R171, the payloads of events,
and the one type `Instr` with a constructor for every row of the table of operations and events. -/

namespace Sys2Proof

/-- The head and tail of an instruction cut into the fields of R170 and R171, before the stall count. -/
inductive Raw where
  /-- Form H: no tail. -/
  | h (op : BitVec 6) (d : Reg)
  /-- Form A: one halfword. -/
  | a (op : BitVec 6) (d a b : Reg) (fn : BitVec 6)
  /-- Form I: two halfwords. -/
  | i (op : BitVec 6) (d a b : Reg) (fn : BitVec 6) (imm : BitVec 16)
  /-- Form L: three halfwords. -/
  | l (op : BitVec 6) (d a : Reg) (fn : BitVec 6) (b : Reg) (imm : BitVec 32)
  deriving DecidableEq, Repr

/-- The major opcode of a raw form (R170). -/
def Raw.op : Raw → BitVec 6
  | .h op _ => op
  | .a op _ _ _ _ => op
  | .i op _ _ _ _ _ => op
  | .l op _ _ _ _ _ => op

/-- The functions of `ldg` and `lds` in FN order (R219): width and extension. -/
inductive LdFn where
  | b | h | w | d | bz | hz | wz
  deriving DecidableEq, Repr

/-- The widths of stores and of vector store lanes (R219). -/
inductive MemW where
  | b | h | w | d
  deriving DecidableEq, Repr

/-- The widths of atomics and reductions other than `cas` (R234). -/
inductive AtomW where
  | w | d
  deriving DecidableEq, Repr

/-- The widths of `amo.cas` (R234). -/
inductive CasW where
  | w | d | q
  deriving DecidableEq, Repr

/-- The four CSR operations (R209). -/
inductive CsrOp where
  | r | w | s | c
  deriving DecidableEq, Repr

/-- The lane types 0 to 10 of the control halfword (R247). -/
inductive LaneT where
  | i8 | i16 | i32 | i64 | z8 | z16 | z32 | z64 | s | hf | bf
  deriving DecidableEq, Repr

/-- The rounding selector RM of the control halfword (R247). -/
inductive RmSel where
  | csr | rne | rtz | rdn | rup | rna
  deriving DecidableEq, Repr

/-- The control halfword of R247 without its IDX, ST and G bits: LT, RM, MK and X2. -/
structure VCtl where
  lt : LaneT
  rm : RmSel
  merge : Bool
  x2 : Bool
  deriving DecidableEq, Repr

/-- IMM32 of `mx.mul` and `mx.mrot` (R276); the format codes 8 to 15 are no instruction. -/
structure MxFields where
  i40 : Bool
  fb : BitVec 3
  fa : BitVec 3
  seg : BitVec 8
  ob : BitVec 6
  oa : BitVec 6
  deriving DecidableEq, Repr

/-- The destination types of `mx.drain` (R280). -/
inductive DrainT where
  | i8 | i16 | i32 | s | hf | bf
  deriving DecidableEq, Repr

/-- IMM32 of `mx.drain` (R280). -/
structure DrainFields where
  i40 : Bool
  sb : BitVec 3
  sa : BitVec 3
  fb : BitVec 3
  seg : BitVec 8
  fa : BitVec 3
  zr : Bool
  rm : RmSel
  dt : DrainT
  deriving DecidableEq, Repr

/-- What an ATS translation completion carries (R374, R375): the permissions it grants, the size of the
page as a power of two in bytes and the host physical address of the page. -/
structure AtsAnswer where
  read : Bool
  write : Bool
  exec : Bool
  log2 : Nat
  pa : Nat
  deriving DecidableEq, Repr

/-- What a CXL.cache host snoop asks of a sector (R382): to read it, or to take it and write it. -/
inductive SnoopKind where
  | read
  | write (data : Vec)
  deriving DecidableEq, Repr

/-- A host access to device memory (R382): a read of n bytes, or a write of bytes. -/
inductive HostData where
  | read (n : Nat)
  | write (bytes : List Byte)
  deriving DecidableEq, Repr

/-- A Stente flit of 256 bytes, byte 0 in bits [7:0] (R387). -/
abbrev Flit := BitVec 2048

/-- A partition record of 64 bytes (R400). -/
abbrev PartRecord := BitVec 512

/-- A membership change of the pod (R385): the round from which it holds, and the DEV of each member. -/
structure Membership where
  round : Nat
  members : List Nat
  deriving DecidableEq, Repr

/-- The units that soft errors and retirements are counted against (R405). An error in data that a slot
consumes names the slot and the address (0 for a register). -/
inductive HwUnit where
  | core (logical : Nat)
  | slice (n : Nat)
  | hbmRow (stack row : Nat)
  | hbmChannel (stack channel : Nat)
  | lane (link lane : Nat)
  | consumed (core slot addr : Nat)
  deriving DecidableEq, Repr

/-- A firmware image (R406): the header of 4,096 bytes, byte 0 in bits [7:0], and the body. -/
structure FwImage where
  header : BitVec 32768
  body : List Byte
  deriving DecidableEq, Repr


/-- One step of the machine: an instruction with its operands, or an event with what names it. One
constructor for each row of the table of operations and events, the events first, each part in the table's order. Register
fields keep their five bits, since R67 makes a bad one a trap and not a bad encoding. An event
names its message, job or request by the serial number the model gave it. -/
inductive Instr where
  /-- DIVISION_COMPLETE (R199). -/
  | divisionComplete (core : Nat)
  /-- SLEEP_END (R212). -/
  | sleepEnd (core : Nat) (slot : Nat)
  /-- RECLASSIFY_COMPLETE (R86). -/
  | reclassifyComplete (job : Nat)
  /-- MIGRATION_DEPARTURE (R100). -/
  | migrationDeparture (core : Nat) (slot : Nat)
  /-- LANDING (R100). -/
  | landing (msg : Nat)
  /-- LANDING_FROM_PLACE (R100). -/
  | landingFromPlace (core : Nat)
  /-- MIGRATION_REFUSED (R100). -/
  | migrationRefused (msg : Nat)
  /-- BANK_ACCESS_ARRIVE (R97). -/
  | bankAccessArrive (msg : Nat)
  /-- ACCESS_COMPLETE (R125). -/
  | accessComplete (core : Nat) (slot : Nat)
  /-- VARIABLE_RESULT_ARRIVAL (R178). -/
  | variableResultArrival (core : Nat) (slot : Nat) (id : Nat)
  /-- STREAM_DETECTOR_TIMEOUT (R91). -/
  | streamDetectorTimeout (slice : Nat) (port : Nat)
  /-- HOME_PROBE_TIMEOUT (R105). -/
  | homeProbeTimeout (core : Nat) (slot : Nat) (probed : Nat)
  /-- LEASE_HELD (R228). -/
  | leaseHeld (core : Nat) (slot : Nat)
  /-- LEASE_EXPIRED (R232). -/
  | leaseExpired (core : Nat) (slot : Nat)
  /-- BARRIER_OP_ARRIVE (R242). -/
  | barrierOpArrive (msg : Nat)
  /-- MSG_DELIVER (R244). -/
  | msgDeliver (msg : Nat)
  /-- SUBSCRIPTION_UPDATE (R101). -/
  | subscriptionUpdate (msg : Nat)
  /-- INITIAL_COPY (R102). -/
  | initialCopy (core : Nat) (seg : Nat)
  /-- INTRANSIT_DONE (R102). -/
  | intransitDone (core : Nat) (seg : Nat)
  /-- STREAM_CHUNK_ARRIVE (R262). -/
  | streamChunkArrive (core : Nat) (slot : Nat) (k : Nat)
  /-- TOPK_CHUNK (R268). -/
  | topkChunk (core : Nat) (slot : Nat)
  /-- OS_FILL_COMPLETE (R271). -/
  | osFillComplete (core : Nat) (os : Nat)
  /-- MATRIX_START (R277). -/
  | matrixStart (core : Nat)
  /-- MATRIX_RETIRE (R275). -/
  | matrixRetire (core : Nat)
  /-- MROT_SHIPMENT_LAND (R278). -/
  | mrotShipmentLand (msg : Nat)
  /-- DRAIN_CHUNK (R280). -/
  | drainChunk (core : Nat)
  /-- COPY_ACCEPT (R282). -/
  | copyAccept (core : Nat)
  /-- COPY_COMPLETE (R284). -/
  | copyComplete (job : Nat)
  /-- PROMISE_MISSED (R283). -/
  | promiseMissed (core : Nat) (slot : Nat) (job : Nat)
  /-- KNEAD_UNIT (R119). -/
  | kneadUnit (conv : Nat)
  /-- KNEAD_FAULT (R123). -/
  | kneadFault (conv : Nat) (page : Nat)
  /-- KNEAD_HARDWARE_ERROR (R123). -/
  | kneadHardwareError (conv : Nat)
  /-- SPAWN_ARRIVE (R27). -/
  | spawnArrive (msg : Nat)
  /-- SPILL_ENGINE_DONE (R367). -/
  | spillEngineDone (core : Nat)
  /-- CORE_UNPARK (R350). -/
  | coreUnpark (d : Reg) (a : Reg)
  /-- WFE_DEADLINE (R347). -/
  | wfeDeadline (core : Nat) (slot : Nat)
  /-- WAIT_LIMIT (R32). -/
  | waitLimit (core : Nat) (slot : Nat)
  /-- TIMER (R341). -/
  | timer (core : Nat) (slot : Nat)
  /-- CORE_EVENT (R337). -/
  | coreEvent (core : Nat)
  /-- PICK_UP (R26). -/
  | pickUp (core : Nat) (slot : Nat)
  /-- LOAD_LEVEL (R29). -/
  | loadLevel (core : Nat)
  /-- SHIP_ARRIVE (R30). -/
  | shipArrive (msg : Nat)
  /-- SHIP_ANSWER (R30). -/
  | shipAnswer (msg : Nat)
  /-- WATCHED_LINE_WRITE (R357). -/
  | watchedLineWrite (part : Nat) (queue : Nat)
  /-- QUEUE_ENABLE (R357). -/
  | queueEnable (part : Nat) (queue : Nat)
  /-- PICK (R359). -/
  | pick (part : Nat)
  /-- RECON_NUMBERING (R48). -/
  | reconNumbering (tx : Nat)
  /-- ROUND_CLOSE_WINDOW (R46). -/
  | roundCloseWindow (part : Nat)
  /-- ROUND_CLOSE_IDLE (R46). -/
  | roundCloseIdle (part : Nat)
  /-- POD_CLOSE_MARKER_SEND (R64). -/
  | podCloseMarkerSend (part : Nat)
  /-- CLOSE_MARKER (R64). -/
  | closeMarker (part : Nat) (mgr : Nat) (dev : Nat) (round : Nat)
  /-- LOCK_REQUEST (R51). -/
  | lockRequest (msg : Nat)
  /-- SET_TILE_TRANSLATION_DONE (R58). -/
  | setTileTranslationDone (tx : Nat) (tile : Nat) (fault : Bool)
  /-- LOCK_RELEASE (R51). -/
  | lockRelease (msg : Nat)
  /-- PUSH_LANDED (R52). -/
  | pushLanded (msg : Nat)
  /-- DISPATCH (R55). -/
  | dispatch (tx : Nat)
  /-- TRANSACTION_RETIRE (R57). -/
  | transactionRetire (tx : Nat)
  /-- TX_HARDWARE_ERROR (R63). -/
  | txHardwareError (tx : Nat) (core : Nat)
  /-- DET_REPLACE (R63). -/
  | detReplace (tx : Nat)
  /-- DET_RESERVATION_COMPLETE (R362). -/
  | detReservationComplete (tx : Nat)
  /-- HEAD_PIN (R361). -/
  | headPin (part : Nat) (queue : Nat)
  /-- ATS_RESPONSE (R374). -/
  | atsResponse (req : Nat) (ans : AtsAnswer)
  /-- ATS_TIMEOUT (R374). -/
  | atsTimeout (req : Nat)
  /-- PRG_RESPONSE_SUCCESS (R377). -/
  | prgResponseSuccess (req : Nat)
  /-- PRG_RESPONSE_FAILURE (R378). -/
  | prgResponseFailure (req : Nat) (invalid : Bool)
  /-- PAGE_REQUEST_TIMEOUT (R378). -/
  | pageRequestTimeout (req : Nat)
  /-- REPLAY (R377). -/
  | replay (core : Nat)
  /-- ATS_INVALIDATE (R381). -/
  | atsInvalidate (pasid : Nat) (va : Nat) (len : Nat)
  /-- HOST_SNOOP (R382). -/
  | hostSnoop (addr : Nat) (kind : SnoopKind)
  /-- HOST_DEVICE_ACCESS (R382). -/
  | hostDeviceAccess (addr : Nat) (data : HostData)
  /-- STENTE_FLIT_RECEIVE (R387). -/
  | stenteFlitReceive (flit : Flit)
  /-- PLANE_DOWN (R387). -/
  | planeDown (dev : Nat) (plane : Nat)
  /-- LINK_TIMEOUT (R338). -/
  | linkTimeout (core : Nat) (slot : Nat)
  /-- TIME_SYNC_SEND (R388). -/
  | timeSyncSend
  /-- MEMBERSHIP_CHANGE (R385). -/
  | membershipChange (change : Membership)
  /-- POWER_ON_RESET (R11). -/
  | powerOnReset
  /-- FUNDAMENTAL_RESET (R11). -/
  | fundamentalReset
  /-- FUNCTION_LEVEL_RESET (R380). -/
  | functionLevelReset (part : Nat)
  /-- PART_SET (R400). -/
  | partSet (part : Nat) (rec : PartRecord)
  /-- PART_CLEAR (R400). -/
  | partClear (part : Nat)
  /-- IVF_SET (R402). -/
  | ivfSet (island : Nat) (freq : Nat)
  /-- CAP_SET (R403). -/
  | capSet (watts : Nat)
  /-- POWER_CAP_CHECK (R403). -/
  | powerCapCheck
  /-- THERMAL_TRIP (R403). -/
  | thermalTrip (island : Nat)
  /-- THERMAL_RECOVER (R403). -/
  | thermalRecover (island : Nat)
  /-- SOFT_ERROR (R405). -/
  | softError (unit : HwUnit)
  /-- UNCORRECTABLE_ERROR (R405). -/
  | uncorrectableError (unit : HwUnit)
  /-- RETIRE (R405). -/
  | retire (unit : HwUnit)
  /-- FW_STAGE (R407). -/
  | fwStage (image : FwImage)
  /-- FW_ACTIVATE (R407). -/
  | fwActivate
  /-- FW_ACTIVATE_TIMEOUT (R407). -/
  | fwActivateTimeout
  /-- FW_COMMIT (R407). -/
  | fwCommit
  /-- ATTEST (R408). -/
  | attest (nonce : Nat)
  /-- JOURNAL_CLEAR (R410). -/
  | journalClear
  /-- BRINGUP (R410). -/
  | bringup
  /-- BRINGUP_STEP_TIMEOUT (R410). -/
  | bringupStepTimeout (step : Nat)
  /-- RELAXED_ACCESS_COMPLETE (R222). -/
  | relaxedAccessComplete (core : Nat) (slot : Nat) (id : Nat)
  /-- INSTRUCTION_LINE_ARRIVAL (R208). -/
  | instructionLineArrival (core : Nat) (slot : Nat)
  /-- COPY_ENGINE_HARDWARE_ERROR (R284). -/
  | copyEngineHardwareError (core : Nat)
  /-- STENTE_PLANE_UP (R387). -/
  | stentePlaneUp (dev : Nat) (plane : Nat)
  /-- BRINGUP_STEP_DONE (R409). -/
  | bringupStepDone (step : Nat) (ok : Bool)
  /-- STARTER_READY (R407). -/
  | starterReady
  /-- YIELD (R213). -/
  | yield
  /-- ADD (R194). -/
  | add (d : Reg) (a : Reg) (b : Reg)
  /-- SUB (R194). -/
  | sub (d : Reg) (a : Reg) (b : Reg)
  /-- AND (R194). -/
  | and (d : Reg) (a : Reg) (b : Reg)
  /-- OR (R194). -/
  | or (d : Reg) (a : Reg) (b : Reg)
  /-- XOR (R194). -/
  | xor (d : Reg) (a : Reg) (b : Reg)
  /-- SLL (R194). -/
  | sll (d : Reg) (a : Reg) (b : Reg)
  /-- SRL (R194). -/
  | srl (d : Reg) (a : Reg) (b : Reg)
  /-- SRA (R194). -/
  | sra (d : Reg) (a : Reg) (b : Reg)
  /-- MIN (R194). -/
  | min (d : Reg) (a : Reg) (b : Reg)
  /-- MAX (R194). -/
  | max (d : Reg) (a : Reg) (b : Reg)
  /-- MIN_Z (R194). -/
  | minZ (d : Reg) (a : Reg) (b : Reg)
  /-- MAX_Z (R194). -/
  | maxZ (d : Reg) (a : Reg) (b : Reg)
  /-- ADD_IMM16 (R194). -/
  | addImm16 (d : Reg) (a : Reg) (imm : BitVec 16)
  /-- SUB_IMM16 (R194). -/
  | subImm16 (d : Reg) (a : Reg) (imm : BitVec 16)
  /-- AND_IMM16 (R194). -/
  | andImm16 (d : Reg) (a : Reg) (imm : BitVec 16)
  /-- OR_IMM16 (R194). -/
  | orImm16 (d : Reg) (a : Reg) (imm : BitVec 16)
  /-- XOR_IMM16 (R194). -/
  | xorImm16 (d : Reg) (a : Reg) (imm : BitVec 16)
  /-- SLL_IMM16 (R194). -/
  | sllImm16 (d : Reg) (a : Reg) (sh : BitVec 6)
  /-- SRL_IMM16 (R194). -/
  | srlImm16 (d : Reg) (a : Reg) (sh : BitVec 6)
  /-- SRA_IMM16 (R194). -/
  | sraImm16 (d : Reg) (a : Reg) (sh : BitVec 6)
  /-- MIN_IMM16 (R194). -/
  | minImm16 (d : Reg) (a : Reg) (imm : BitVec 16)
  /-- MAX_IMM16 (R194). -/
  | maxImm16 (d : Reg) (a : Reg) (imm : BitVec 16)
  /-- MIN_Z_IMM16 (R194). -/
  | minZImm16 (d : Reg) (a : Reg) (imm : BitVec 16)
  /-- MAX_Z_IMM16 (R194). -/
  | maxZImm16 (d : Reg) (a : Reg) (imm : BitVec 16)
  /-- ADD_IMM32 (R194). -/
  | addImm32 (d : Reg) (a : Reg) (imm : BitVec 32)
  /-- SUB_IMM32 (R194). -/
  | subImm32 (d : Reg) (a : Reg) (imm : BitVec 32)
  /-- AND_IMM32 (R194). -/
  | andImm32 (d : Reg) (a : Reg) (imm : BitVec 32)
  /-- OR_IMM32 (R194). -/
  | orImm32 (d : Reg) (a : Reg) (imm : BitVec 32)
  /-- XOR_IMM32 (R194). -/
  | xorImm32 (d : Reg) (a : Reg) (imm : BitVec 32)
  /-- MIN_IMM32 (R194). -/
  | minImm32 (d : Reg) (a : Reg) (imm : BitVec 32)
  /-- MAX_IMM32 (R194). -/
  | maxImm32 (d : Reg) (a : Reg) (imm : BitVec 32)
  /-- MIN_Z_IMM32 (R194). -/
  | minZImm32 (d : Reg) (a : Reg) (imm : BitVec 32)
  /-- MAX_Z_IMM32 (R194). -/
  | maxZImm32 (d : Reg) (a : Reg) (imm : BitVec 32)
  /-- LI_IMM16 (R196). -/
  | liImm16 (d : Reg) (imm : BitVec 16)
  /-- LI_IMM32 (R196). -/
  | liImm32 (d : Reg) (imm : BitVec 32)
  /-- LI_HIGH (R196). -/
  | liHigh (d : Reg) (a : Reg) (imm : BitVec 32)
  /-- MUL (R197). -/
  | mul (d : Reg) (a : Reg) (b : Reg)
  /-- MULH (R197). -/
  | mulh (d : Reg) (a : Reg) (b : Reg)
  /-- MULH_Z (R197). -/
  | mulhZ (d : Reg) (a : Reg) (b : Reg)
  /-- DIV (R198). -/
  | div (d : Reg) (a : Reg) (b : Reg)
  /-- DIV_Z (R198). -/
  | divZ (d : Reg) (a : Reg) (b : Reg)
  /-- REM (R198). -/
  | rem (d : Reg) (a : Reg) (b : Reg)
  /-- REM_Z (R198). -/
  | remZ (d : Reg) (a : Reg) (b : Reg)
  /-- SET_EQ (R200). -/
  | setEq (d : Reg) (a : Reg) (b : Reg)
  /-- SET_NE (R200). -/
  | setNe (d : Reg) (a : Reg) (b : Reg)
  /-- SET_LT (R200). -/
  | setLt (d : Reg) (a : Reg) (b : Reg)
  /-- SET_GE (R200). -/
  | setGe (d : Reg) (a : Reg) (b : Reg)
  /-- SET_LT_Z (R200). -/
  | setLtZ (d : Reg) (a : Reg) (b : Reg)
  /-- SET_GE_Z (R200). -/
  | setGeZ (d : Reg) (a : Reg) (b : Reg)
  /-- SET_EQ_IMM (R200). -/
  | setEqImm (d : Reg) (a : Reg) (imm : BitVec 16)
  /-- SET_NE_IMM (R200). -/
  | setNeImm (d : Reg) (a : Reg) (imm : BitVec 16)
  /-- SET_LT_IMM (R200). -/
  | setLtImm (d : Reg) (a : Reg) (imm : BitVec 16)
  /-- SET_GE_IMM (R200). -/
  | setGeImm (d : Reg) (a : Reg) (imm : BitVec 16)
  /-- SET_LT_Z_IMM (R200). -/
  | setLtZImm (d : Reg) (a : Reg) (imm : BitVec 16)
  /-- SET_GE_Z_IMM (R200). -/
  | setGeZImm (d : Reg) (a : Reg) (imm : BitVec 16)
  /-- SEL (R201). -/
  | sel (d : Reg) (a : Reg) (b : Reg)
  /-- CLZ (R202). -/
  | clz (d : Reg) (a : Reg)
  /-- CTZ (R202). -/
  | ctz (d : Reg) (a : Reg)
  /-- PCNT (R202). -/
  | pcnt (d : Reg) (a : Reg)
  /-- SHADD (R203). -/
  | shadd (d : Reg) (a : Reg) (b : Reg) (sh : BitVec 3)
  /-- LEA2D (R204). -/
  | lea2d (d : Reg) (a : Reg) (b : Reg) (esz : BitVec 2) (p : BitVec 3) (pitch : BitVec 16)
  /-- BEQ (R205). -/
  | beq (a : Reg) (b : Reg) (off : BitVec 16)
  /-- BNE (R205). -/
  | bne (a : Reg) (b : Reg) (off : BitVec 16)
  /-- BLT (R205). -/
  | blt (a : Reg) (b : Reg) (off : BitVec 16)
  /-- BGE (R205). -/
  | bge (a : Reg) (b : Reg) (off : BitVec 16)
  /-- BLT_Z (R205). -/
  | bltZ (a : Reg) (b : Reg) (off : BitVec 16)
  /-- BGE_Z (R205). -/
  | bgeZ (a : Reg) (b : Reg) (off : BitVec 16)
  /-- BEQ_L (R205). -/
  | beqL (a : Reg) (b : Reg) (off : BitVec 32)
  /-- BNE_L (R205). -/
  | bneL (a : Reg) (b : Reg) (off : BitVec 32)
  /-- BLT_L (R205). -/
  | bltL (a : Reg) (b : Reg) (off : BitVec 32)
  /-- BGE_L (R205). -/
  | bgeL (a : Reg) (b : Reg) (off : BitVec 32)
  /-- BLT_Z_L (R205). -/
  | bltZL (a : Reg) (b : Reg) (off : BitVec 32)
  /-- BGE_Z_L (R205). -/
  | bgeZL (a : Reg) (b : Reg) (off : BitVec 32)
  /-- J (R206). -/
  | j (off : BitVec 16)
  /-- J_L (R206). -/
  | jL (off : BitVec 32)
  /-- JAL (R206). -/
  | jal (d : Reg) (off : BitVec 16)
  /-- JAL_L (R206). -/
  | jalL (d : Reg) (off : BitVec 32)
  /-- JR (R207). -/
  | jr (d : Reg) (a : Reg)
  /-- RET (R207). -/
  | ret
  /-- CSRR (R209). -/
  | csrr (d : Reg) (csr : BitVec 12)
  /-- CSRW (R209). -/
  | csrw (a : Reg) (csr : BitVec 12)
  /-- CSRS (R209). -/
  | csrs (a : Reg) (csr : BitVec 12)
  /-- CSRC (R209). -/
  | csrc (a : Reg) (csr : BitVec 12)
  /-- FFLAGS_ACCESS (R210). -/
  | fflagsAccess (op : CsrOp) (x : Reg)
  /-- QEN_WRITE (R71). -/
  | qenWrite (a : Reg)
  /-- SEN_WRITE (R71). -/
  | senWrite (a : Reg)
  /-- VTAB_WRITE (R81). -/
  | vtabWrite (a : Reg) (k : BitVec 3)
  /-- SLQD_WRITE (R354). -/
  | slqdWrite (a : Reg)
  /-- SPASID_WRITE (R380). -/
  | spasidWrite (a : Reg)
  /-- SHWIN_WRITE (R383). -/
  | shwinWrite (a : Reg)
  /-- SPODW_WRITE (R380). -/
  | spodwWrite (a : Reg)
  /-- SMSG_WRITE (R362). -/
  | smsgWrite (a : Reg)
  /-- SDOVF_WRITE (R368). -/
  | sdovfWrite (a : Reg)
  /-- SEVST_WRITE (R351). -/
  | sevstWrite (a : Reg)
  /-- MPART_WRITE (R366). -/
  | mpartWrite (a : Reg)
  /-- RDTB (R211). -/
  | rdtb (d : Reg)
  /-- SLEEP (R212). -/
  | sleep (a : Reg)
  /-- SLEEP_IMM (R212). -/
  | sleepImm (imm : BitVec 16)
  /-- SLP_UNTIL (R212). -/
  | slpUntil (a : Reg)
  /-- LDG (R220). -/
  | ldg (d : Reg) (a : Reg) (f : LdFn) (rx : Bool) (off : BitVec 16)
  /-- LDG_L (R220). -/
  | ldgL (d : Reg) (a : Reg) (f : LdFn) (rx : Bool) (off : BitVec 32)
  /-- PF (R223). -/
  | pf (a : Reg) (off : BitVec 16)
  /-- PF_L (R223). -/
  | pfL (a : Reg) (off : BitVec 32)
  /-- STG (R220). -/
  | stg (a : Reg) (b : Reg) (wd : MemW) (rx : Bool) (off : BitVec 16)
  /-- STG_L (R220). -/
  | stgL (a : Reg) (b : Reg) (wd : MemW) (rx : Bool) (off : BitVec 32)
  /-- LDS (R220). -/
  | lds (d : Reg) (a : Reg) (f : LdFn) (rx : Bool) (off : BitVec 16)
  /-- LDS_L (R220). -/
  | ldsL (d : Reg) (a : Reg) (f : LdFn) (rx : Bool) (off : BitVec 32)
  /-- STS (R220). -/
  | sts (a : Reg) (b : Reg) (wd : MemW) (rx : Bool) (off : BitVec 16)
  /-- STS_L (R220). -/
  | stsL (a : Reg) (b : Reg) (wd : MemW) (rx : Bool) (off : BitVec 32)
  /-- VLDG (R221). -/
  | vldg (d : Reg) (a : Reg) (rx : Bool) (off : BitVec 16)
  /-- VLDG_L (R221). -/
  | vldgL (d : Reg) (a : Reg) (rx : Bool) (off : BitVec 32)
  /-- VSTG (R221). -/
  | vstg (a : Reg) (b : Reg) (wd : MemW) (rx : Bool) (off : BitVec 16)
  /-- VSTG_L (R221). -/
  | vstgL (a : Reg) (b : Reg) (wd : MemW) (rx : Bool) (off : BitVec 32)
  /-- VLDS (R221). -/
  | vlds (d : Reg) (a : Reg) (rx : Bool) (off : BitVec 16)
  /-- VLDS_L (R221). -/
  | vldsL (d : Reg) (a : Reg) (rx : Bool) (off : BitVec 32)
  /-- VSTS (R221). -/
  | vsts (a : Reg) (b : Reg) (wd : MemW) (rx : Bool) (off : BitVec 16)
  /-- VSTS_L (R221). -/
  | vstsL (a : Reg) (b : Reg) (wd : MemW) (rx : Bool) (off : BitVec 32)
  /-- TAKE (R225). -/
  | take (d : Reg) (a : Reg) (off : BitVec 16)
  /-- PUT (R225). -/
  | put (d : Reg) (a : Reg) (b : Reg) (off : BitVec 16)
  /-- PEEK (R225). -/
  | peek (d : Reg) (a : Reg) (off : BitVec 16)
  /-- FE_CLR (R225). -/
  | feClr (a : Reg) (off : BitVec 16)
  /-- FE_SET (R225). -/
  | feSet (a : Reg) (off : BitVec 16)
  /-- LEASE (R228). -/
  | lease (d : Reg) (a : Reg)
  /-- RELEASE (R233). -/
  | release (d : Reg)
  /-- AMO_ADD (R235). -/
  | amoAdd (d : Reg) (a : Reg) (b : Reg) (wd : AtomW)
  /-- AMO_AND (R235). -/
  | amoAnd (d : Reg) (a : Reg) (b : Reg) (wd : AtomW)
  /-- AMO_OR (R235). -/
  | amoOr (d : Reg) (a : Reg) (b : Reg) (wd : AtomW)
  /-- AMO_XOR (R235). -/
  | amoXor (d : Reg) (a : Reg) (b : Reg) (wd : AtomW)
  /-- AMO_SWAP (R235). -/
  | amoSwap (d : Reg) (a : Reg) (b : Reg) (wd : AtomW)
  /-- AMO_MIN (R235). -/
  | amoMin (d : Reg) (a : Reg) (b : Reg) (wd : AtomW)
  /-- AMO_MAX (R235). -/
  | amoMax (d : Reg) (a : Reg) (b : Reg) (wd : AtomW)
  /-- AMO_MIN_Z (R235). -/
  | amoMinZ (d : Reg) (a : Reg) (b : Reg) (wd : AtomW)
  /-- AMO_MAX_Z (R235). -/
  | amoMaxZ (d : Reg) (a : Reg) (b : Reg) (wd : AtomW)
  /-- AMO_CAS (R235). -/
  | amoCas (d : Reg) (a : Reg) (b : Reg) (wd : CasW)
  /-- AMO_FADD (R235). -/
  | amoFadd (d : Reg) (a : Reg) (b : Reg)
  /-- RED_ADD (R237). -/
  | redAdd (a : Reg) (b : Reg) (wd : AtomW)
  /-- RED_AND (R237). -/
  | redAnd (a : Reg) (b : Reg) (wd : AtomW)
  /-- RED_OR (R237). -/
  | redOr (a : Reg) (b : Reg) (wd : AtomW)
  /-- RED_XOR (R237). -/
  | redXor (a : Reg) (b : Reg) (wd : AtomW)
  /-- RED_MIN (R237). -/
  | redMin (a : Reg) (b : Reg) (wd : AtomW)
  /-- RED_MAX (R237). -/
  | redMax (a : Reg) (b : Reg) (wd : AtomW)
  /-- RED_MIN_Z (R237). -/
  | redMinZ (a : Reg) (b : Reg) (wd : AtomW)
  /-- RED_MAX_Z (R237). -/
  | redMaxZ (a : Reg) (b : Reg) (wd : AtomW)
  /-- RED_FADD (R237). -/
  | redFadd (a : Reg) (b : Reg)
  /-- FADD_C (R238). -/
  | faddC (d : Reg) (a : Reg) (b : Reg)
  /-- FENCE_SLOT (R131). -/
  | fenceSlot
  /-- FENCE_CORE (R131). -/
  | fenceCore
  /-- FENCE_TRAY (R131). -/
  | fenceTray
  /-- FENCE_DIE (R131). -/
  | fenceDie
  /-- FENCE_DEV (R131). -/
  | fenceDev
  /-- FENCE_POD (R131). -/
  | fencePod
  /-- FENCE_SYS (R131). -/
  | fenceSys
  /-- BAR_INIT (R242). -/
  | barInit (a : Reg) (b : Reg)
  /-- BAR_ARR (R242). -/
  | barArr (d : Reg) (a : Reg)
  /-- BAR_WAIT (R242). -/
  | barWait (d : Reg) (a : Reg) (b : Reg)
  /-- BAR_SYNC (R242). -/
  | barSync (d : Reg) (a : Reg)
  /-- BAR_INV (R242). -/
  | barInv (a : Reg)
  /-- MSG_SEND (R244). -/
  | msgSend (d : Reg) (a : Reg) (b : Reg)
  /-- SUB_ON (R245). -/
  | subOn (d : Reg) (a : Reg) (b : Reg)
  /-- SUB_OWN (R245). -/
  | subOwn (d : Reg) (a : Reg)
  /-- SUB_OFF (R245). -/
  | subOff (a : Reg)
  /-- VADD_INT (R252). -/
  | vaddInt (d : Reg) (a : Reg) (b : Reg) (sx : Bool) (c : VCtl)
  /-- VSUB_INT (R252). -/
  | vsubInt (d : Reg) (a : Reg) (b : Reg) (sx : Bool) (c : VCtl)
  /-- VMUL_INT (R252). -/
  | vmulInt (d : Reg) (a : Reg) (b : Reg) (sx : Bool) (c : VCtl)
  /-- VMULH (R252). -/
  | vmulh (d : Reg) (a : Reg) (b : Reg) (sx : Bool) (c : VCtl)
  /-- VAND (R252). -/
  | vand (d : Reg) (a : Reg) (b : Reg) (sx : Bool) (c : VCtl)
  /-- VOR (R252). -/
  | vor (d : Reg) (a : Reg) (b : Reg) (sx : Bool) (c : VCtl)
  /-- VXOR (R252). -/
  | vxor (d : Reg) (a : Reg) (b : Reg) (sx : Bool) (c : VCtl)
  /-- VSLL (R252). -/
  | vsll (d : Reg) (a : Reg) (b : Reg) (sx : Bool) (c : VCtl)
  /-- VSRL (R252). -/
  | vsrl (d : Reg) (a : Reg) (b : Reg) (sx : Bool) (c : VCtl)
  /-- VSRA (R252). -/
  | vsra (d : Reg) (a : Reg) (b : Reg) (sx : Bool) (c : VCtl)
  /-- VMIN_INT (R252). -/
  | vminInt (d : Reg) (a : Reg) (b : Reg) (sx : Bool) (c : VCtl)
  /-- VMAX_INT (R252). -/
  | vmaxInt (d : Reg) (a : Reg) (b : Reg) (sx : Bool) (c : VCtl)
  /-- VADD_SAT (R252). -/
  | vaddSat (d : Reg) (a : Reg) (b : Reg) (sx : Bool) (c : VCtl)
  /-- VSUB_SAT (R252). -/
  | vsubSat (d : Reg) (a : Reg) (b : Reg) (sx : Bool) (c : VCtl)
  /-- VABS_INT (R252). -/
  | vabsInt (d : Reg) (a : Reg) (c : VCtl)
  /-- VADD_FP (R253). -/
  | vaddFp (d : Reg) (a : Reg) (b : Reg) (sx : Bool) (c : VCtl)
  /-- VSUB_FP (R253). -/
  | vsubFp (d : Reg) (a : Reg) (b : Reg) (sx : Bool) (c : VCtl)
  /-- VMUL_FP (R253). -/
  | vmulFp (d : Reg) (a : Reg) (b : Reg) (sx : Bool) (c : VCtl)
  /-- VMIN_FP (R253). -/
  | vminFp (d : Reg) (a : Reg) (b : Reg) (sx : Bool) (c : VCtl)
  /-- VMAX_FP (R253). -/
  | vmaxFp (d : Reg) (a : Reg) (b : Reg) (sx : Bool) (c : VCtl)
  /-- VABS_FP (R253). -/
  | vabsFp (d : Reg) (a : Reg) (c : VCtl)
  /-- VNEG (R253). -/
  | vneg (d : Reg) (a : Reg) (c : VCtl)
  /-- VFMA (R254). -/
  | vfma (d : Reg) (a : Reg) (b : Reg) (sx : Bool) (c : VCtl)
  /-- VFMS (R254). -/
  | vfms (d : Reg) (a : Reg) (b : Reg) (sx : Bool) (c : VCtl)
  /-- VFNMA (R254). -/
  | vfnma (d : Reg) (a : Reg) (b : Reg) (sx : Bool) (c : VCtl)
  /-- VFNMS (R254). -/
  | vfnms (d : Reg) (a : Reg) (b : Reg) (sx : Bool) (c : VCtl)
  /-- VCMP_EQ (R255). -/
  | vcmpEq (d : Reg) (a : Reg) (b : Reg) (c : VCtl)
  /-- VCMP_NE (R255). -/
  | vcmpNe (d : Reg) (a : Reg) (b : Reg) (c : VCtl)
  /-- VCMP_LT (R255). -/
  | vcmpLt (d : Reg) (a : Reg) (b : Reg) (c : VCtl)
  /-- VCMP_GE (R255). -/
  | vcmpGe (d : Reg) (a : Reg) (b : Reg) (c : VCtl)
  /-- VCMP_LE (R255). -/
  | vcmpLe (d : Reg) (a : Reg) (b : Reg) (c : VCtl)
  /-- VCMP_GT (R255). -/
  | vcmpGt (d : Reg) (a : Reg) (b : Reg) (c : VCtl)
  /-- VSEL (R255). -/
  | vsel (d : Reg) (a : Reg) (b : Reg) (c : VCtl)
  /-- VPERM (R256). -/
  | vperm (d : Reg) (a : Reg) (b : Reg) (c : VCtl)
  /-- VPERM2 (R256). -/
  | vperm2 (d : Reg) (a : Reg) (b : Reg) (c : VCtl)
  /-- VBCAST (R256). -/
  | vbcast (d : Reg) (a : Reg) (c : VCtl)
  /-- VBCASTL (R256). -/
  | vbcastl (d : Reg) (a : Reg) (idx : BitVec 8) (c : VCtl)
  /-- VSLUP (R256). -/
  | vslup (d : Reg) (a : Reg) (b : Reg) (idx : BitVec 8) (c : VCtl)
  /-- VSLDN (R256). -/
  | vsldn (d : Reg) (a : Reg) (b : Reg) (idx : BitVec 8) (c : VCtl)
  /-- VINS (R256). -/
  | vins (d : Reg) (a : Reg) (idx : BitVec 8) (c : VCtl)
  /-- VEXT (R256). -/
  | vext (d : Reg) (a : Reg) (idx : BitVec 8) (c : VCtl)
  /-- VRED_ADD (R257). -/
  | vredAdd (d : Reg) (a : Reg) (c : VCtl)
  /-- VRED_MIN (R257). -/
  | vredMin (d : Reg) (a : Reg) (c : VCtl)
  /-- VRED_MAX (R257). -/
  | vredMax (d : Reg) (a : Reg) (c : VCtl)
  /-- VRED_AND (R257). -/
  | vredAnd (d : Reg) (a : Reg) (c : VCtl)
  /-- VRED_OR (R257). -/
  | vredOr (d : Reg) (a : Reg) (c : VCtl)
  /-- VRED_XOR (R257). -/
  | vredXor (d : Reg) (a : Reg) (c : VCtl)
  /-- VCVT (R258). -/
  | vcvt (d : Reg) (a : Reg) (g : BitVec 3) (st : LaneT) (lt : LaneT) (rm : RmSel)
  /-- VCVT_N (R259). -/
  | vcvtN (d : Reg) (a : Reg) (b : Reg) (g : BitVec 3) (st : LaneT) (k : BitVec 2) (rm : RmSel)
  /-- VCVT_W (R260). -/
  | vcvtW (d : Reg) (a : Reg) (b : Reg) (g : BitVec 3) (lt : LaneT) (k : BitVec 2) (rm : RmSel)
  /-- STR_CFG (R261). -/
  | strCfg (k : BitVec 2) (a : Reg)
  /-- STR_STOP (R263). -/
  | strStop (k : BitVec 2)
  /-- BSTR (R263). -/
  | bstr (k : BitVec 2) (off : BitVec 16)
  /-- VEXP (R264). -/
  | vexp (d : Reg) (a : Reg) (c : VCtl)
  /-- VEXP2 (R264). -/
  | vexp2 (d : Reg) (a : Reg) (c : VCtl)
  /-- VLOG2 (R264). -/
  | vlog2 (d : Reg) (a : Reg) (c : VCtl)
  /-- VRCP (R264). -/
  | vrcp (d : Reg) (a : Reg) (c : VCtl)
  /-- VRSQRT (R264). -/
  | vrsqrt (d : Reg) (a : Reg) (c : VCtl)
  /-- VSQRT (R264). -/
  | vsqrt (d : Reg) (a : Reg) (c : VCtl)
  /-- VSIN (R264). -/
  | vsin (d : Reg) (a : Reg) (c : VCtl)
  /-- VCOS (R264). -/
  | vcos (d : Reg) (a : Reg) (c : VCtl)
  /-- VTANH (R264). -/
  | vtanh (d : Reg) (a : Reg) (c : VCtl)
  /-- VSIGM (R264). -/
  | vsigm (d : Reg) (a : Reg) (c : VCtl)
  /-- TOPK_CFG (R266). -/
  | topkCfg (a : Reg) (lt : LaneT) (smallest : Bool)
  /-- TOPK_IN (R267). -/
  | topkIn (a : Reg)
  /-- TOPK_OUT (R268). -/
  | topkOut (d : Reg)
  /-- TOPK_MERGE (R267). -/
  | topkMerge (a : Reg)
  /-- OS_CLAIM (R273). -/
  | osClaim (d : Reg) (os : BitVec 6)
  /-- OS_REL (R273). -/
  | osRel (os : BitVec 6)
  /-- OS_LD_G (R274). -/
  | osLdG (a : Reg) (b : Reg) (os : BitVec 6) (n4 : Bool)
  /-- OS_LD_S (R274). -/
  | osLdS (a : Reg) (b : Reg) (os : BitVec 6) (n4 : Bool)
  /-- OS_LD_HR (R274). -/
  | osLdHr (a : Reg) (b : Reg) (os : BitVec 6)
  /-- OS_LD_HC (R274). -/
  | osLdHc (a : Reg) (b : Reg) (os : BitVec 6)
  /-- OS_ST_G (R274). -/
  | osStG (a : Reg) (os : BitVec 6)
  /-- OS_ST_S (R274). -/
  | osStS (a : Reg) (os : BitVec 6)
  /-- MX_MUL (R276). -/
  | mxMul (f : MxFields)
  /-- MX_MROT (R278). -/
  | mxMrot (f : MxFields)
  /-- MX_ZERO (R279). -/
  | mxZero (seg : BitVec 8)
  /-- MX_DRAIN (R280). -/
  | mxDrain (f : DrainFields)
  /-- CPY (R282). -/
  | cpy (d : Reg) (a : Reg)
  /-- CPY_NB (R282). -/
  | cpyNb (d : Reg) (a : Reg)
  /-- TH_LD (R285). -/
  | thLd (d : Reg) (a : Reg)
  /-- TH_SEAL (R285). -/
  | thSeal (a : Reg)
  /-- TH_RELAY (R117). -/
  | thRelay (d : Reg) (a : Reg) (b : Reg) (tag : BitVec 8)
  /-- TH_WAIT (R286). -/
  | thWait (d : Reg) (a : Reg)
  /-- TLD_E (R287). -/
  | tldE (d : Reg) (a : Reg) (b : Reg) (rx : Bool)
  /-- TLD_V (R287). -/
  | tldV (d : Reg) (a : Reg) (b : Reg) (rx : Bool)
  /-- TST_E (R287). -/
  | tstE (d : Reg) (a : Reg) (b : Reg) (rx : Bool)
  /-- TST_V (R287). -/
  | tstV (d : Reg) (a : Reg) (b : Reg) (rx : Bool)
  /-- TX_SUB (R288). -/
  | txSub (d : Reg) (a : Reg) (b : Reg)
  /-- TX_ADDR (R289). -/
  | txAddr (a : Reg)
  /-- TX_NOTE (R289). -/
  | txNote (d : Reg) (a : Reg)
  /-- TX_CHK (R61). -/
  | txChk
  /-- TX_END (R290). -/
  | txEnd
  /-- SPAWN (R291). -/
  | spawn (d : Reg) (a : Reg) (b : Reg) (off : BitVec 16)
  /-- SPAWN_L (R291). -/
  | spawnL (d : Reg) (a : Reg) (b : Reg) (off : BitVec 32)
  /-- SUSPEND (R292). -/
  | suspend
  /-- TRAP (R293). -/
  | trap (n : BitVec 4)
  /-- TRET (R334). -/
  | tret
  /-- SPILL (R343). -/
  | spill (d : Reg) (a : Reg) (b : Reg)
  /-- FILL (R345). -/
  | fill (d : Reg) (a : Reg) (b : Reg)
  /-- RQ_PUSH (R346). -/
  | rqPush (d : Reg) (a : Reg) (b : Reg)
  /-- RQ_POP (R346). -/
  | rqPop (d : Reg)
  /-- CLS_SET (R348). -/
  | clsSet (a : Reg) (b : Reg)
  /-- CLS_FLUSH (R348). -/
  | clsFlush (a : Reg)
  /-- XINV (R349). -/
  | xinv (a : Reg) (b : Reg)
  /-- CORE_PARK (R350). -/
  | corePark (d : Reg) (a : Reg)
  /-- WFE (R347). -/
  | wfe (d : Reg) (a : Reg) (b : Reg)
  /-- ILLEGAL_OPCODE (R182). -/
  | illegalOpcode (raw : Raw)
  deriving DecidableEq, Repr

end Sys2Proof
end

