-- ==== Sys2Proof/WellFormed.lean ====
section
/-! DEFINITION. Well-formed instructions: what an operand field may hold for the word to be an instruction
at all. Everything else that can be wrong with an instruction is a trap, and so a matter of its meaning. -/

namespace Sys2Proof

/-- The majors that are unassigned (R182). -/
def unassignedMajor (op : BitVec 6) : Bool :=
  let n := op.toNat
  (0x0C ≤ n && n ≤ 0x0F) || n == 0x1E || n == 0x1F || (0x2A ≤ n && n ≤ 0x2F) || (0x38 ≤ n && n ≤ 0x3B) ||
    n == 0x3E || n == 0x3F

/-- The width of a lane in bits (R247). -/
def LaneT.bits : LaneT → Nat
  | .i8 | .z8 => 8
  | .i16 | .z16 | .hf | .bf => 16
  | .i32 | .z32 | .s => 32
  | .i64 | .z64 => 64

/-- The number of lanes of a register (R247). -/
def LaneT.lanes (t : LaneT) : Nat := 512 / t.bits

/-- Is the lane type one of LT 8 to 10? -/
def LaneT.isFloat : LaneT → Bool
  | .s | .hf | .bf => true
  | _ => false

/-- Is the lane type a signed integer? -/
def LaneT.isSigned : LaneT → Bool
  | .i8 | .i16 | .i32 | .i64 => true
  | _ => false

/-- RM is zero: the function does not round (R247). -/
def RmSel.unset (r : RmSel) : Bool := r == .csr

/-- A pair form with MK = 1 and 8-bit lanes is no instruction, since `VM` has 64 bits (R249). -/
def VCtl.pairOk (c : VCtl) : Bool := !(c.x2 && c.merge && c.lt.bits == 8)

/-- The control fields of vector integer arithmetic (R252). -/
def VCtl.okInt (c : VCtl) : Bool := !c.lt.isFloat && c.rm.unset && c.pairOk

/-- The control fields of vector floating-point arithmetic that rounds (R253, R254). -/
def VCtl.okFp (c : VCtl) : Bool := c.lt.isFloat && c.pairOk

/-- The control fields of compares (R255). -/
def VCtl.okCmp (c : VCtl) : Bool := c.rm.unset && !c.x2

/-- The control fields of permutes, MK permitted (R256). -/
def VCtl.okPerm (c : VCtl) : Bool := c.rm.unset && !c.x2

/-- The control fields of reductions (R257): MK and X2 zero, and RM only where the function rounds. -/
def VCtl.okRed (c : VCtl) (rounds intOnly : Bool) : Bool :=
  !c.merge && !c.x2 && (c.rm.unset || (rounds && c.lt.isFloat)) && !(intOnly && c.lt.isFloat)

/-- The control fields of special functions (R264). -/
def VCtl.okSf (c : VCtl) : Bool := c.lt.isFloat && !c.x2

/-- The highest group of a conversion of `ws`-bit elements into `wd`-bit elements (R258); the group width
is the same whichever side is wider. -/
def cvtGroups (ws wd : Nat) : Nat := Nat.max ws wd / Nat.min ws wd

/-- A conversion between fixed types rounds unless both are integers (R258). -/
def cvtRounds (st lt : LaneT) : Bool := st.isFloat || lt.isFloat

/-- The drain's scale codes 5 to 7 are reserved; in A40 mode FA and FB are 0, in I40 mode one of 0 to 3, 6
and 7 (R280). -/
def DrainFields.legal (f : DrainFields) : Bool :=
  f.sa.toNat ≤ 4 && f.sb.toNat ≤ 4 &&
  (if f.i40 then f.fa != 4 && f.fa != 5 && f.fb != 4 && f.fb != 5 else f.fa == 0 && f.fb == 0)

/-- The CSR numbers whose accesses are rows of their own: `csrw` of these, and every access to `FFLAGS`. -/
def csrHasRow (n : BitVec 12) : Bool :=
  n == 0x021 || n == 0x030 || n == 0x031 || (0x050 ≤ n.toNat && n.toNat ≤ 0x057) || n == 0x532 || n == 0x534 ||
    n == 0x535 || n == 0x543 || n == 0x544 || n == 0x545 || n == 0x547 || n == 0x920

/-- Is the instruction well formed: is each field one its encoding admits? -/
def Instr.wf : Instr → Bool
  | .yield => true
  | .add _ _ _ => true
  | .sub _ _ _ => true
  | .and _ _ _ => true
  | .or _ _ _ => true
  | .xor _ _ _ => true
  | .sll _ _ _ => true
  | .srl _ _ _ => true
  | .sra _ _ _ => true
  | .min _ _ _ => true
  | .max _ _ _ => true
  | .minZ _ _ _ => true
  | .maxZ _ _ _ => true
  | .addImm16 _ _ _ => true
  | .subImm16 _ _ _ => true
  | .andImm16 _ _ _ => true
  | .orImm16 _ _ _ => true
  | .xorImm16 _ _ _ => true
  | .sllImm16 _ _ _ => true
  | .srlImm16 _ _ _ => true
  | .sraImm16 _ _ _ => true
  | .minImm16 _ _ _ => true
  | .maxImm16 _ _ _ => true
  | .minZImm16 _ _ _ => true
  | .maxZImm16 _ _ _ => true
  | .addImm32 _ _ _ => true
  | .subImm32 _ _ _ => true
  | .andImm32 _ _ _ => true
  | .orImm32 _ _ _ => true
  | .xorImm32 _ _ _ => true
  | .minImm32 _ _ _ => true
  | .maxImm32 _ _ _ => true
  | .minZImm32 _ _ _ => true
  | .maxZImm32 _ _ _ => true
  | .liImm16 _ _ => true
  | .liImm32 _ _ => true
  | .liHigh _ _ _ => true
  | .mul _ _ _ => true
  | .mulh _ _ _ => true
  | .mulhZ _ _ _ => true
  | .div _ _ _ => true
  | .divZ _ _ _ => true
  | .rem _ _ _ => true
  | .remZ _ _ _ => true
  | .divisionComplete _ => true
  | .setEq _ _ _ => true
  | .setNe _ _ _ => true
  | .setLt _ _ _ => true
  | .setGe _ _ _ => true
  | .setLtZ _ _ _ => true
  | .setGeZ _ _ _ => true
  | .setEqImm _ _ _ => true
  | .setNeImm _ _ _ => true
  | .setLtImm _ _ _ => true
  | .setGeImm _ _ _ => true
  | .setLtZImm _ _ _ => true
  | .setGeZImm _ _ _ => true
  | .sel _ _ _ => true
  | .clz _ _ => true
  | .ctz _ _ => true
  | .pcnt _ _ => true
  | .shadd _ _ _ _ => true
  | .lea2d _ _ _ _ _ _ => true
  | .beq _ _ _ => true
  | .bne _ _ _ => true
  | .blt _ _ _ => true
  | .bge _ _ _ => true
  | .bltZ _ _ _ => true
  | .bgeZ _ _ _ => true
  | .beqL _ _ _ => true
  | .bneL _ _ _ => true
  | .bltL _ _ _ => true
  | .bgeL _ _ _ => true
  | .bltZL _ _ _ => true
  | .bgeZL _ _ _ => true
  | .j _ => true
  | .jL _ => true
  | .jal _ _ => true
  | .jalL _ _ => true
  | .jr _ _ => true
  | .ret => true
  | .csrr _ csr => csr != 0x021
  | .csrw _ csr => !csrHasRow csr
  | .csrs _ csr => csr != 0x021
  | .csrc _ csr => csr != 0x021
  | .fflagsAccess _ _ => true
  | .qenWrite _ => true
  | .senWrite _ => true
  | .vtabWrite _ _ => true
  | .slqdWrite _ => true
  | .spasidWrite _ => true
  | .shwinWrite _ => true
  | .spodwWrite _ => true
  | .smsgWrite _ => true
  | .sdovfWrite _ => true
  | .sevstWrite _ => true
  | .mpartWrite _ => true
  | .rdtb _ => true
  | .sleep _ => true
  | .sleepImm _ => true
  | .slpUntil _ => true
  | .sleepEnd _ _ => true
  | .ldg _ _ _ _ _ => true
  | .ldgL _ _ _ _ _ => true
  | .pf _ _ => true
  | .pfL _ _ => true
  | .stg _ _ _ _ _ => true
  | .stgL _ _ _ _ _ => true
  | .lds _ _ _ _ _ => true
  | .ldsL _ _ _ _ _ => true
  | .sts _ _ _ _ _ => true
  | .stsL _ _ _ _ _ => true
  | .vldg _ _ _ _ => true
  | .vldgL _ _ _ _ => true
  | .vstg _ _ _ _ _ => true
  | .vstgL _ _ _ _ _ => true
  | .vlds _ _ _ _ => true
  | .vldsL _ _ _ _ => true
  | .vsts _ _ _ _ _ => true
  | .vstsL _ _ _ _ _ => true
  | .reclassifyComplete _ => true
  | .migrationDeparture _ _ => true
  | .landing _ => true
  | .landingFromPlace _ => true
  | .migrationRefused _ => true
  | .bankAccessArrive _ => true
  | .accessComplete _ _ => true
  | .variableResultArrival _ _ _ => true
  | .streamDetectorTimeout _ _ => true
  | .homeProbeTimeout _ _ _ => true
  | .take _ _ _ => true
  | .put _ _ _ _ => true
  | .peek _ _ _ => true
  | .feClr _ _ => true
  | .feSet _ _ => true
  | .lease _ _ => true
  | .release _ => true
  | .leaseHeld _ _ => true
  | .leaseExpired _ _ => true
  | .amoAdd _ _ _ _ => true
  | .amoAnd _ _ _ _ => true
  | .amoOr _ _ _ _ => true
  | .amoXor _ _ _ _ => true
  | .amoSwap _ _ _ _ => true
  | .amoMin _ _ _ _ => true
  | .amoMax _ _ _ _ => true
  | .amoMinZ _ _ _ _ => true
  | .amoMaxZ _ _ _ _ => true
  | .amoCas _ _ _ _ => true
  | .amoFadd _ _ _ => true
  | .redAdd _ _ _ => true
  | .redAnd _ _ _ => true
  | .redOr _ _ _ => true
  | .redXor _ _ _ => true
  | .redMin _ _ _ => true
  | .redMax _ _ _ => true
  | .redMinZ _ _ _ => true
  | .redMaxZ _ _ _ => true
  | .redFadd _ _ => true
  | .faddC _ _ _ => true
  | .fenceSlot => true
  | .fenceCore => true
  | .fenceTray => true
  | .fenceDie => true
  | .fenceDev => true
  | .fencePod => true
  | .fenceSys => true
  | .barInit _ _ => true
  | .barArr _ _ => true
  | .barWait _ _ _ => true
  | .barSync _ _ => true
  | .barInv _ => true
  | .barrierOpArrive _ => true
  | .msgSend _ _ _ => true
  | .msgDeliver _ => true
  | .subOn _ _ _ => true
  | .subOwn _ _ => true
  | .subOff _ => true
  | .subscriptionUpdate _ => true
  | .initialCopy _ _ => true
  | .intransitDone _ _ => true
  | .vaddInt _ _ _ _ c => c.okInt
  | .vsubInt _ _ _ _ c => c.okInt
  | .vmulInt _ _ _ _ c => c.okInt
  | .vmulh _ _ _ _ c => c.okInt
  | .vand _ _ _ _ c => c.okInt
  | .vor _ _ _ _ c => c.okInt
  | .vxor _ _ _ _ c => c.okInt
  | .vsll _ _ _ _ c => c.okInt
  | .vsrl _ _ _ _ c => c.okInt
  | .vsra _ _ _ _ c => c.okInt
  | .vminInt _ _ _ _ c => c.okInt
  | .vmaxInt _ _ _ _ c => c.okInt
  | .vaddSat _ _ _ _ c => c.okInt
  | .vsubSat _ _ _ _ c => c.okInt
  | .vabsInt _ _ c => c.okInt
  | .vaddFp _ _ _ _ c => c.okFp
  | .vsubFp _ _ _ _ c => c.okFp
  | .vmulFp _ _ _ _ c => c.okFp
  | .vminFp _ _ _ _ c => c.okFp
  | .vmaxFp _ _ _ _ c => c.okFp
  | .vabsFp _ _ c => c.okFp && c.rm.unset
  | .vneg _ _ c => c.okFp && c.rm.unset
  | .vfma _ _ _ _ c => c.okFp
  | .vfms _ _ _ _ c => c.okFp
  | .vfnma _ _ _ _ c => c.okFp
  | .vfnms _ _ _ _ c => c.okFp
  | .vcmpEq _ _ _ c => c.okCmp
  | .vcmpNe _ _ _ c => c.okCmp
  | .vcmpLt _ _ _ c => c.okCmp
  | .vcmpGe _ _ _ c => c.okCmp
  | .vcmpLe _ _ _ c => c.okCmp
  | .vcmpGt _ _ _ c => c.okCmp
  | .vsel _ _ _ c => c.okCmp && !c.merge
  | .vperm _ _ _ c => c.okPerm
  | .vperm2 _ _ _ c => c.okPerm
  | .vbcast _ _ c => c.okPerm
  | .vbcastl _ _ idx c => c.okPerm && idx.toNat < c.lt.lanes
  | .vslup _ _ _ idx c => c.okPerm && idx.toNat ≤ c.lt.lanes
  | .vsldn _ _ _ idx c => c.okPerm && idx.toNat ≤ c.lt.lanes
  | .vins _ _ idx c => c.okPerm && !c.merge && idx.toNat < c.lt.lanes
  | .vext _ _ idx c => c.okPerm && !c.merge && idx.toNat < c.lt.lanes
  | .vredAdd _ _ c => c.okRed true false
  | .vredMin _ _ c => c.okRed false false
  | .vredMax _ _ c => c.okRed false false
  | .vredAnd _ _ c => c.okRed false true
  | .vredOr _ _ c => c.okRed false true
  | .vredXor _ _ c => c.okRed false true
  | .vcvt _ _ g st lt rm => g.toNat < cvtGroups st.bits lt.bits && (rm.unset || cvtRounds st lt)
  | .vcvtN _ _ _ _ st _ _ => st.isFloat
  | .vcvtW _ _ _ _ lt _ _ => lt.isFloat
  | .strCfg _ _ => true
  | .strStop _ => true
  | .bstr _ _ => true
  | .streamChunkArrive _ _ _ => true
  | .vexp _ _ c => c.okSf
  | .vexp2 _ _ c => c.okSf
  | .vlog2 _ _ c => c.okSf
  | .vrcp _ _ c => c.okSf
  | .vrsqrt _ _ c => c.okSf
  | .vsqrt _ _ c => c.okSf
  | .vsin _ _ c => c.okSf
  | .vcos _ _ c => c.okSf
  | .vtanh _ _ c => c.okSf
  | .vsigm _ _ c => c.okSf
  | .topkCfg _ lt _ => lt == .i32 || lt == .z32 || lt.isFloat
  | .topkIn _ => true
  | .topkOut _ => true
  | .topkMerge _ => true
  | .topkChunk _ _ => true
  | .osClaim _ _ => true
  | .osRel _ => true
  | .osLdG _ _ _ _ => true
  | .osLdS _ _ _ _ => true
  | .osLdHr _ _ _ => true
  | .osLdHc _ _ _ => true
  | .osStG _ _ => true
  | .osStS _ _ => true
  | .osFillComplete _ _ => true
  | .mxMul _ => true
  | .mxMrot f => f.oa != f.ob
  | .mxZero _ => true
  | .mxDrain f => f.legal
  | .matrixStart _ => true
  | .matrixRetire _ => true
  | .mrotShipmentLand _ => true
  | .drainChunk _ => true
  | .cpy _ _ => true
  | .cpyNb _ _ => true
  | .copyAccept _ => true
  | .copyComplete _ => true
  | .promiseMissed _ _ _ => true
  | .thLd _ _ => true
  | .thSeal _ => true
  | .thRelay _ _ _ _ => true
  | .thWait _ _ => true
  | .tldE _ _ _ _ => true
  | .tldV _ _ _ _ => true
  | .tstE _ _ _ _ => true
  | .tstV _ _ _ _ => true
  | .kneadUnit _ => true
  | .kneadFault _ _ => true
  | .kneadHardwareError _ => true
  | .txSub _ _ _ => true
  | .txAddr _ => true
  | .txNote _ _ => true
  | .txChk => true
  | .txEnd => true
  | .spawn _ _ _ _ => true
  | .spawnL _ _ _ _ => true
  | .spawnArrive _ => true
  | .suspend => true
  | .trap _ => true
  | .tret => true
  | .spill _ _ _ => true
  | .fill _ _ _ => true
  | .spillEngineDone _ => true
  | .rqPush _ _ _ => true
  | .rqPop _ => true
  | .clsSet _ _ => true
  | .clsFlush _ => true
  | .xinv _ _ => true
  | .corePark _ _ => true
  | .coreUnpark _ _ => true
  | .wfe _ _ _ => true
  | .wfeDeadline _ _ => true
  | .waitLimit _ _ => true
  | .timer _ _ => true
  | .coreEvent _ => true
  | .pickUp _ _ => true
  | .loadLevel _ => true
  | .shipArrive _ => true
  | .shipAnswer _ => true
  | .watchedLineWrite _ _ => true
  | .queueEnable _ _ => true
  | .pick _ => true
  | .reconNumbering _ => true
  | .roundCloseWindow _ => true
  | .roundCloseIdle _ => true
  | .podCloseMarkerSend _ => true
  | .closeMarker _ _ _ _ => true
  | .lockRequest _ => true
  | .setTileTranslationDone _ _ _ => true
  | .lockRelease _ => true
  | .pushLanded _ => true
  | .dispatch _ => true
  | .transactionRetire _ => true
  | .txHardwareError _ _ => true
  | .detReplace _ => true
  | .detReservationComplete _ => true
  | .headPin _ _ => true
  | .atsResponse _ _ => true
  | .atsTimeout _ => true
  | .prgResponseSuccess _ => true
  | .prgResponseFailure _ _ => true
  | .pageRequestTimeout _ => true
  | .replay _ => true
  | .atsInvalidate _ _ _ => true
  | .hostSnoop _ _ => true
  | .hostDeviceAccess _ _ => true
  | .stenteFlitReceive _ => true
  | .planeDown _ _ => true
  | .linkTimeout _ _ => true
  | .timeSyncSend => true
  | .membershipChange _ => true
  | .powerOnReset => true
  | .fundamentalReset => true
  | .functionLevelReset _ => true
  | .partSet _ _ => true
  | .partClear _ => true
  | .ivfSet _ _ => true
  | .capSet _ => true
  | .powerCapCheck => true
  | .thermalTrip _ => true
  | .thermalRecover _ => true
  | .softError _ => true
  | .uncorrectableError _ => true
  | .retire _ => true
  | .fwStage _ => true
  | .fwActivate => true
  | .fwActivateTimeout => true
  | .fwCommit => true
  | .attest _ => true
  | .journalClear => true
  | .bringup => true
  | .bringupStepTimeout _ => true
  | .relaxedAccessComplete _ _ _ => true
  | .instructionLineArrival _ _ => true
  | .illegalOpcode raw => unassignedMajor raw.op
  | .copyEngineHardwareError _ => true
  | .stentePlaneUp _ _ => true
  | .bringupStepDone _ _ => true
  | .starterReady => true

end Sys2Proof
end

