-- ==== Sys2Proof/Decode.lean ====
section
/-! DEFINITION. The decoder, from a code line or from a head and a tail to an instruction, total and
refusing by name; after it the encoder, written from the same encoding tables of the spec. -/

namespace Sys2Proof

/- Lean's compiler numbers at most 245 constructors that carry data, and `Instr` has more: what builds one
is marked noncomputable for that reason alone. The kernel evaluates all of it. -/
noncomputable section

/-- Why a head and tail are no instruction (R182): ILLEGAL_FUNCTION (0x03). -/
inductive DecodeError where
  | illegalFunction
  deriving DecidableEq, Repr

/-! ## Code lines (R167, R168, R174) -/

/-- Halfword h[i] of a line (R167). -/
def Line.hw (l : Line) (i : Nat) : BitVec 16 := l.extractLsb' (16 * i) 16

/-- The head count N of a line (R167). -/
def Line.count (l : Line) : Nat := ((Line.hw l 0).extractLsb' 0 5).toNat

/-- The tail length T of a head (R170). -/
def tailLen (head : BitVec 16) : Nat := (head.extractLsb' 0 2).toNat

/-- The sum of the tail lengths of heads 1 to i of a line. -/
def Line.tailSum (l : Line) : Nat → Nat
  | 0 => 0
  | i + 1 => Line.tailSum l i + tailLen (Line.hw l (i + 1))

/-- Are the `n` halfwords from h[i] on all zero? -/
def Line.zeroFrom (l : Line) (i : Nat) : Nat → Bool
  | 0 => true
  | n + 1 => Line.hw l i == 0 && Line.zeroFrom l (i + 1) n

/-- The reason why a line is malformed, the lowest-numbered one that fails (R168); none for a well-formed line. -/
def Line.reason (l : Line) : Option Nat :=
  let n := Line.count l
  let t := Line.tailSum l n
  if n = 0 then some 1
  else if (Line.hw l 0).extractLsb' 5 11 ≠ 0 then some 2
  else if 32 < 1 + n + t then some 3
  else if Line.zeroFrom l (n + 1) (32 - t - (n + 1)) = false then some 4
  else none

/-- The halfwords h[b] to h[b + n − 1] as tail bits, h[b] lowest (R167). -/
def Line.tailAt (l : Line) (b : Nat) : Nat → BitVec 48
  | 0 => 0
  | n + 1 => (Line.tailAt l (b + 1) n) <<< 16 ||| (Line.hw l b).zeroExtend 48

/-- The head at position `p` of a line and its tail (R167). -/
def Line.headTail (l : Line) (p : Nat) : BitVec 16 × BitVec 48 :=
  let head := Line.hw l p
  (head, Line.tailAt l (32 - Line.tailSum l p) (tailLen head))

/-- The line that holds exactly one instruction: N = 1, its head in h[1] and its tail at the end (R167). -/
def Line.single (head : BitVec 16) (tail : BitVec 48) : Line :=
  1#512 ||| (head.zeroExtend 512 <<< 16) |||
    ((tail.zeroExtend 512) <<< (512 - 16 * tailLen head))

/-! ## Fields -/

/-- The stall count S of a head (R170). -/
def stallOf (head : BitVec 16) : BitVec 3 := head.extractLsb' 2 3

/-- A head and a tail cut into fields (R170, R171). -/
def unpack (head : BitVec 16) (tail : BitVec 48) : Raw :=
  let op := head.extractLsb' 10 6
  let d := head.extractLsb' 5 5
  match tailLen head with
  | 0 => .h op d
  | 1 => .a op d (tail.extractLsb' 11 5) (tail.extractLsb' 6 5) (tail.extractLsb' 0 6)
  | 2 => .i op d (tail.extractLsb' 27 5) (tail.extractLsb' 22 5) (tail.extractLsb' 16 6) (tail.extractLsb' 0 16)
  | _ => .l op d (tail.extractLsb' 43 5) (tail.extractLsb' 37 6) (tail.extractLsb' 32 5) (tail.extractLsb' 0 32)

/-- The head and the tail of a raw form with stall count `s` (R170, R171). -/
def pack (s : BitVec 3) : Raw → BitVec 16 × BitVec 48
  | .h op d => (op ++ (d ++ (s ++ 0#2)), 0)
  | .a op d a b fn => (op ++ (d ++ (s ++ 1#2)), 0#32 ++ (a ++ (b ++ fn)))
  | .i op d a b fn imm => (op ++ (d ++ (s ++ 2#2)), 0#16 ++ (a ++ (b ++ (fn ++ imm))))
  | .l op d a fn b imm => (op ++ (d ++ (s ++ 3#2)), a ++ (fn ++ (b ++ imm)))

/-! ## Codes of the field types -/

/-- FN[4:0] of a scalar load (R219). -/
def LdFn.code : LdFn → BitVec 5
  | .b => 0 | .h => 1 | .w => 2 | .d => 3 | .bz => 4 | .hz => 5 | .wz => 6

/-- The scalar load with FN[4:0] `c` (R219). -/
def LdFn.ofCode (c : Nat) : Option LdFn :=
  match c with
  | 0 => some .b | 1 => some .h | 2 => some .w | 3 => some .d | 4 => some .bz | 5 => some .hz | 6 => some .wz
  | _ => none

/-- The store width code (R219). -/
def MemW.code : MemW → BitVec 5
  | .b => 0 | .h => 1 | .w => 2 | .d => 3

/-- The store width with code `c` (R219). -/
def MemW.ofCode (c : Nat) : Option MemW :=
  match c with
  | 0 => some .b | 1 => some .h | 2 => some .w | 3 => some .d
  | _ => none

/-- FN of an atomic or reduction of operation `op` (R234). -/
def AtomW.fn (wd : AtomW) (op : BitVec 4) : BitVec 6 :=
  match wd with
  | .w => 0#2 ++ op
  | .d => 1#2 ++ op

/-- FN of `amo.cas` (R234). -/
def CasW.fn : CasW → BitVec 6
  | .w => 0x09 | .d => 0x19 | .q => 0x29

/-- The lane type code LT (R247). -/
def LaneT.code : LaneT → BitVec 4
  | .i8 => 0 | .i16 => 1 | .i32 => 2 | .i64 => 3 | .z8 => 4 | .z16 => 5 | .z32 => 6 | .z64 => 7
  | .s => 8 | .hf => 9 | .bf => 10

/-- The lane type with code `c` (R247); 11 to 15 are none of the fixed types. -/
def LaneT.ofCode (c : BitVec 4) : Option LaneT :=
  match c.toNat with
  | 0 => some .i8 | 1 => some .i16 | 2 => some .i32 | 3 => some .i64
  | 4 => some .z8 | 5 => some .z16 | 6 => some .z32 | 7 => some .z64
  | 8 => some .s | 9 => some .hf | 10 => some .bf
  | _ => none

/-- The rounding selector code RM (R247). -/
def RmSel.code : RmSel → BitVec 3
  | .csr => 0 | .rne => 1 | .rtz => 2 | .rdn => 3 | .rup => 4 | .rna => 5

/-- The rounding selector with code `c`; 6 and 7 are none (R247). -/
def RmSel.ofCode (c : BitVec 3) : Option RmSel :=
  match c.toNat with
  | 0 => some .csr | 1 => some .rne | 2 => some .rtz | 3 => some .rdn | 4 => some .rup | 5 => some .rna
  | _ => none

/-- The destination code DT of `mx.drain` (R280). -/
def DrainT.code : DrainT → BitVec 4
  | .i8 => 0 | .i16 => 1 | .i32 => 2 | .s => 8 | .hf => 9 | .bf => 10

/-- The destination with code `c` (R280). -/
def DrainT.ofCode (c : BitVec 4) : Option DrainT :=
  match c.toNat with
  | 0 => some .i8 | 1 => some .i16 | 2 => some .i32 | 8 => some .s | 9 => some .hf | 10 => some .bf
  | _ => none

/-- FN with the RX bit, or the scalar-operand bit, above a five-bit code (R173, R252). -/
def rxFn (rx : Bool) (c : BitVec 5) : BitVec 6 := BitVec.ofBool rx ++ c

/-- The control halfword, XF above X2 given (R247). -/
def VCtl.imm (c : VCtl) (xf : BitVec 7) : BitVec 16 :=
  xf ++ (BitVec.ofBool c.x2 ++ (BitVec.ofBool c.merge ++ (c.rm.code ++ c.lt.code)))

/-- The control halfword with IDX in XF (R256). -/
def VCtl.immIdx (c : VCtl) (idx : BitVec 8) : BitVec 16 :=
  idx ++ (BitVec.ofBool c.merge ++ (c.rm.code ++ c.lt.code))

/-- The control halfword of a conversion (R258). -/
def cvtImm (g : BitVec 3) (st : BitVec 4) (rm : RmSel) (lt : BitVec 4) : BitVec 16 :=
  0#1 ++ (g ++ (st ++ (0#1 ++ (rm.code ++ lt))))

/-- The immediate of an operand-slot load (R270): slot and N4. -/
def osImm (os : BitVec 6) (n4 : Bool) : BitVec 16 := 0#9 ++ (BitVec.ofBool n4 ++ os)

/-- IMM32 of a multiply (R276). -/
def MxFields.imm (f : MxFields) : BitVec 32 :=
  0#3 ++ (BitVec.ofBool f.i40 ++ (0#1 ++ (f.fb ++ (0#1 ++ (f.fa ++ (f.seg ++ (f.ob ++ f.oa)))))))

/-- IMM32 of a drain (R280). -/
def DrainFields.imm (f : DrainFields) : BitVec 32 :=
  0#1 ++ (BitVec.ofBool f.i40 ++ (f.sb ++ (f.sa ++ (0#1 ++ (f.fb ++ (f.seg ++ (0#1 ++ (f.fa ++
    (BitVec.ofBool f.zr ++ (f.rm.code ++ f.dt.code))))))))))

/-- The words of a CSR access that names `FFLAGS`, number 0x021 (R209, R210). -/
def CsrOp.raw (op : CsrOp) (x : Reg) : Raw :=
  match op with
  | .r => .i 10#6 x 0#5 0#5 0#6 0x021#16
  | .w => .i 10#6 0#5 x 0#5 1#6 0x021#16
  | .s => .i 10#6 0#5 x 0#5 2#6 0x021#16
  | .c => .i 10#6 0#5 x 0#5 3#6 0x021#16

/-! ## The decoder, major by major -/

/-- `x` when the condition holds. -/
def onlyIf (p : Bool) (x : Instr) : Option Instr := if p then some x else none

/-- Majors 0x01 ALU (R193, R194). -/
def decodeAlu (d a b : Reg) (fn : Nat) : Option Instr :=
  match fn with
  | 0 => some (.add d a b) | 1 => some (.sub d a b) | 2 => some (.and d a b) | 3 => some (.or d a b)
  | 4 => some (.xor d a b) | 5 => some (.sll d a b) | 6 => some (.srl d a b) | 7 => some (.sra d a b)
  | 8 => some (.min d a b) | 9 => some (.max d a b) | 10 => some (.minZ d a b) | 11 => some (.maxZ d a b)
  | _ => none

/-- Major 0x02 ALUI, form I: a shift amount has ten reserved bits (R194). -/
def decodeAluI16 (d a : Reg) (fn : Nat) (imm : BitVec 16) : Option Instr :=
  let sh := imm.extractLsb' 0 6
  let shOk := imm.extractLsb' 6 10 == 0
  match fn with
  | 0 => some (.addImm16 d a imm) | 1 => some (.subImm16 d a imm) | 2 => some (.andImm16 d a imm)
  | 3 => some (.orImm16 d a imm) | 4 => some (.xorImm16 d a imm)
  | 5 => onlyIf shOk (.sllImm16 d a sh) | 6 => onlyIf shOk (.srlImm16 d a sh) | 7 => onlyIf shOk (.sraImm16 d a sh)
  | 8 => some (.minImm16 d a imm) | 9 => some (.maxImm16 d a imm)
  | 10 => some (.minZImm16 d a imm) | 11 => some (.maxZImm16 d a imm)
  | _ => none

/-- Major 0x02 ALUI, form L, which has no shifts (R193). -/
def decodeAluI32 (d a : Reg) (fn : Nat) (imm : BitVec 32) : Option Instr :=
  match fn with
  | 0 => some (.addImm32 d a imm) | 1 => some (.subImm32 d a imm) | 2 => some (.andImm32 d a imm)
  | 3 => some (.orImm32 d a imm) | 4 => some (.xorImm32 d a imm)
  | 8 => some (.minImm32 d a imm) | 9 => some (.maxImm32 d a imm)
  | 10 => some (.minZImm32 d a imm) | 11 => some (.maxZImm32 d a imm)
  | _ => none

/-- Major 0x04 MULDIV (R197, R198). -/
def decodeMulDiv (d a b : Reg) (fn : Nat) : Option Instr :=
  match fn with
  | 0 => some (.mul d a b) | 1 => some (.mulh d a b) | 2 => some (.mulhZ d a b)
  | 3 => some (.div d a b) | 4 => some (.divZ d a b) | 5 => some (.rem d a b) | 6 => some (.remZ d a b)
  | _ => none

/-- Major 0x05 CMP/SEL, form A (R200, R201). -/
def decodeCmp (d a b : Reg) (fn : Nat) : Option Instr :=
  match fn with
  | 0 => some (.setEq d a b) | 1 => some (.setNe d a b) | 2 => some (.setLt d a b)
  | 3 => some (.setGe d a b) | 4 => some (.setLtZ d a b) | 5 => some (.setGeZ d a b)
  | 16 => some (.sel d a b)
  | _ => none

/-- Major 0x05 CMP/SEL, form I (R200). -/
def decodeCmpI (d a : Reg) (fn : Nat) (imm : BitVec 16) : Option Instr :=
  match fn with
  | 0 => some (.setEqImm d a imm) | 1 => some (.setNeImm d a imm) | 2 => some (.setLtImm d a imm)
  | 3 => some (.setGeImm d a imm) | 4 => some (.setLtZImm d a imm) | 5 => some (.setGeZImm d a imm)
  | _ => none

/-- Major 0x06 BIT (R202). -/
def decodeBit (d a : Reg) (fn : Nat) : Option Instr :=
  match fn with
  | 0 => some (.clz d a) | 1 => some (.ctz d a) | 2 => some (.pcnt d a)
  | _ => none

/-- Major 0x08 BR, form I (R205). -/
def decodeBr (a b : Reg) (fn : Nat) (off : BitVec 16) : Option Instr :=
  match fn with
  | 0 => some (.beq a b off) | 1 => some (.bne a b off) | 2 => some (.blt a b off)
  | 3 => some (.bge a b off) | 4 => some (.bltZ a b off) | 5 => some (.bgeZ a b off)
  | _ => none

/-- Major 0x08 BR, form L (R205). -/
def decodeBrL (a b : Reg) (fn : Nat) (off : BitVec 32) : Option Instr :=
  match fn with
  | 0 => some (.beqL a b off) | 1 => some (.bneL a b off) | 2 => some (.bltL a b off)
  | 3 => some (.bgeL a b off) | 4 => some (.bltZL a b off) | 5 => some (.bgeZL a b off)
  | _ => none

/-- The write of a CSR (R209): the CSRs whose writes are rows of their own, `FFLAGS`, and every other. -/
def decodeCsrw (a : Reg) (n : BitVec 12) : Instr :=
  match n.toNat with
  | 0x021 => .fflagsAccess .w a
  | 0x030 => .qenWrite a
  | 0x031 => .senWrite a
  | 0x050 => .vtabWrite a 0 | 0x051 => .vtabWrite a 1 | 0x052 => .vtabWrite a 2 | 0x053 => .vtabWrite a 3
  | 0x054 => .vtabWrite a 4 | 0x055 => .vtabWrite a 5 | 0x056 => .vtabWrite a 6 | 0x057 => .vtabWrite a 7
  | 0x532 => .smsgWrite a
  | 0x534 => .sevstWrite a
  | 0x535 => .sdovfWrite a
  | 0x543 => .slqdWrite a
  | 0x544 => .spasidWrite a
  | 0x545 => .shwinWrite a
  | 0x547 => .spodwWrite a
  | 0x920 => .mpartWrite a
  | _ => .csrw a n

/-- Major 0x0A CSR: IMM16[15:12] is reserved (R209). -/
def decodeCsr (d a : Reg) (fn : Nat) (imm : BitVec 16) : Option Instr :=
  let n := imm.extractLsb' 0 12
  let ok := imm.extractLsb' 12 4 == 0
  match fn with
  | 0 => onlyIf (ok && a == 0) (if n = 0x021 then .fflagsAccess .r d else .csrr d n)
  | 1 => onlyIf (ok && d == 0) (decodeCsrw a n)
  | 2 => onlyIf (ok && d == 0) (if n = 0x021 then .fflagsAccess .s a else .csrs a n)
  | 3 => onlyIf (ok && d == 0) (if n = 0x021 then .fflagsAccess .c a else .csrc a n)
  | _ => none

/-- Majors 0x10 to 0x14 in form I (R219). -/
def decodeMem16 (op : Nat) (d a b : Reg) (fn : BitVec 6) (off : BitVec 16) : Option Instr :=
  let rx := fn.getLsbD 5
  let c := (fn.extractLsb' 0 5).toNat
  match op with
  | 0x10 => if c = 16 then onlyIf (!rx && d == 0 && b == 0) (.pf a off)
            else (LdFn.ofCode c).bind fun f => onlyIf (b == 0) (.ldg d a f rx off)
  | 0x11 => (MemW.ofCode c).bind fun wd => onlyIf (d == 0) (.stg a b wd rx off)
  | 0x12 => (LdFn.ofCode c).bind fun f => onlyIf (b == 0) (.lds d a f rx off)
  | 0x13 => (MemW.ofCode c).bind fun wd => onlyIf (d == 0) (.sts a b wd rx off)
  | _ =>
    match c / 8 with
    | 0 => onlyIf (c == 0 && b == 0) (.vldg d a rx off)
    | 1 => (MemW.ofCode (c - 8)).bind fun wd => onlyIf (d == 0) (.vstg a b wd rx off)
    | 2 => onlyIf (c == 16 && b == 0) (.vlds d a rx off)
    | _ => (MemW.ofCode (c - 24)).bind fun wd => onlyIf (d == 0) (.vsts a b wd rx off)

/-- Majors 0x10 to 0x14 in form L (R219). -/
def decodeMem32 (op : Nat) (d a b : Reg) (fn : BitVec 6) (off : BitVec 32) : Option Instr :=
  let rx := fn.getLsbD 5
  let c := (fn.extractLsb' 0 5).toNat
  match op with
  | 0x10 => if c = 16 then onlyIf (!rx && d == 0 && b == 0) (.pfL a off)
            else (LdFn.ofCode c).bind fun f => onlyIf (b == 0) (.ldgL d a f rx off)
  | 0x11 => (MemW.ofCode c).bind fun wd => onlyIf (d == 0) (.stgL a b wd rx off)
  | 0x12 => (LdFn.ofCode c).bind fun f => onlyIf (b == 0) (.ldsL d a f rx off)
  | 0x13 => (MemW.ofCode c).bind fun wd => onlyIf (d == 0) (.stsL a b wd rx off)
  | _ =>
    match c / 8 with
    | 0 => onlyIf (c == 0 && b == 0) (.vldgL d a rx off)
    | 1 => (MemW.ofCode (c - 8)).bind fun wd => onlyIf (d == 0) (.vstgL a b wd rx off)
    | 2 => onlyIf (c == 16 && b == 0) (.vldsL d a rx off)
    | _ => (MemW.ofCode (c - 24)).bind fun wd => onlyIf (d == 0) (.vstsL a b wd rx off)

/-- Major 0x15 FE (R224). -/
def decodeFe (d a b : Reg) (fn : Nat) (off : BitVec 16) : Option Instr :=
  match fn with
  | 0 => onlyIf (b == 0) (.take d a off)
  | 1 => some (.put d a b off)
  | 2 => onlyIf (b == 0) (.peek d a off)
  | 3 => onlyIf (d == 0 && b == 0) (.feClr a off)
  | 4 => onlyIf (d == 0 && b == 0) (.feSet a off)
  | _ => none

/-- Major 0x17 AMO (R234). -/
def decodeAmo (d a b : Reg) (fn : Nat) : Option Instr :=
  match fn with
  | 0x00 => some (.amoAdd d a b .w) | 0x01 => some (.amoAnd d a b .w) | 0x02 => some (.amoOr d a b .w)
  | 0x03 => some (.amoXor d a b .w) | 0x04 => some (.amoSwap d a b .w) | 0x05 => some (.amoMin d a b .w)
  | 0x06 => some (.amoMax d a b .w) | 0x07 => some (.amoMinZ d a b .w) | 0x08 => some (.amoMaxZ d a b .w)
  | 0x09 => some (.amoCas d a b .w) | 0x0A => some (.amoFadd d a b)
  | 0x10 => some (.amoAdd d a b .d) | 0x11 => some (.amoAnd d a b .d) | 0x12 => some (.amoOr d a b .d)
  | 0x13 => some (.amoXor d a b .d) | 0x14 => some (.amoSwap d a b .d) | 0x15 => some (.amoMin d a b .d)
  | 0x16 => some (.amoMax d a b .d) | 0x17 => some (.amoMinZ d a b .d) | 0x18 => some (.amoMaxZ d a b .d)
  | 0x19 => some (.amoCas d a b .d) | 0x29 => some (.amoCas d a b .q)
  | _ => none

/-- Major 0x18 RED (R237). -/
def decodeRed (a b : Reg) (fn : Nat) : Option Instr :=
  match fn with
  | 0x00 => some (.redAdd a b .w) | 0x01 => some (.redAnd a b .w) | 0x02 => some (.redOr a b .w)
  | 0x03 => some (.redXor a b .w) | 0x05 => some (.redMin a b .w) | 0x06 => some (.redMax a b .w)
  | 0x07 => some (.redMinZ a b .w) | 0x08 => some (.redMaxZ a b .w) | 0x0A => some (.redFadd a b)
  | 0x10 => some (.redAdd a b .d) | 0x11 => some (.redAnd a b .d) | 0x12 => some (.redOr a b .d)
  | 0x13 => some (.redXor a b .d) | 0x15 => some (.redMin a b .d) | 0x16 => some (.redMax a b .d)
  | 0x17 => some (.redMinZ a b .d) | 0x18 => some (.redMaxZ a b .d)
  | _ => none

/-- Major 0x1A FENCE (R239). -/
def decodeFence (d : Nat) : Option Instr :=
  match d with
  | 0 => some .fenceSlot | 1 => some .fenceCore | 2 => some .fenceTray | 3 => some .fenceDie
  | 4 => some .fenceDev | 5 => some .fencePod | 6 => some .fenceSys
  | _ => none

/-- Major 0x1B BAR (R240). -/
def decodeBar (d a b : Reg) (fn : Nat) : Option Instr :=
  match fn with
  | 0 => onlyIf (d == 0) (.barInit a b)
  | 1 => onlyIf (b == 0) (.barArr d a)
  | 2 => some (.barWait d a b)
  | 3 => onlyIf (b == 0) (.barSync d a)
  | 4 => onlyIf (d == 0 && b == 0) (.barInv a)
  | _ => none

/-- Major 0x20 VINT (R252). -/
def decodeVint (d a b : Reg) (sx : Bool) (fn : Nat) (c : VCtl) : Option Instr :=
  match fn with
  | 0 => some (.vaddInt d a b sx c) | 1 => some (.vsubInt d a b sx c) | 2 => some (.vmulInt d a b sx c)
  | 3 => some (.vmulh d a b sx c) | 4 => some (.vand d a b sx c) | 5 => some (.vor d a b sx c)
  | 6 => some (.vxor d a b sx c) | 7 => some (.vsll d a b sx c) | 8 => some (.vsrl d a b sx c)
  | 9 => some (.vsra d a b sx c) | 10 => some (.vminInt d a b sx c) | 11 => some (.vmaxInt d a b sx c)
  | 12 => some (.vaddSat d a b sx c) | 13 => some (.vsubSat d a b sx c)
  | 14 => onlyIf (!sx && b == 0) (.vabsInt d a c)
  | _ => none

/-- Major 0x21 VFP (R253). -/
def decodeVfp (d a b : Reg) (sx : Bool) (fn : Nat) (c : VCtl) : Option Instr :=
  match fn with
  | 0 => some (.vaddFp d a b sx c) | 1 => some (.vsubFp d a b sx c) | 2 => some (.vmulFp d a b sx c)
  | 3 => some (.vminFp d a b sx c) | 4 => some (.vmaxFp d a b sx c)
  | 5 => onlyIf (!sx && b == 0) (.vabsFp d a c)
  | 6 => onlyIf (!sx && b == 0) (.vneg d a c)
  | _ => none

/-- Major 0x22 VFMA (R254). -/
def decodeVfma (d a b : Reg) (sx : Bool) (fn : Nat) (c : VCtl) : Option Instr :=
  match fn with
  | 0 => some (.vfma d a b sx c) | 1 => some (.vfms d a b sx c)
  | 2 => some (.vfnma d a b sx c) | 3 => some (.vfnms d a b sx c)
  | _ => none

/-- Major 0x23 VCMP and VSEL (R255). -/
def decodeVcmp (d a b : Reg) (fn : Nat) (c : VCtl) : Option Instr :=
  match fn with
  | 0 => some (.vcmpEq d a b c) | 1 => some (.vcmpNe d a b c) | 2 => some (.vcmpLt d a b c)
  | 3 => some (.vcmpGe d a b c) | 4 => some (.vcmpLe d a b c) | 5 => some (.vcmpGt d a b c)
  | 16 => some (.vsel d a b c)
  | _ => none

/-- Major 0x24 VPERM; IDX is 0 where no lane index is used (R256). -/
def decodeVperm (d a b : Reg) (fn : Nat) (idx : BitVec 8) (c : VCtl) : Option Instr :=
  match fn with
  | 0 => onlyIf (idx == 0) (.vperm d a b c)
  | 1 => onlyIf (idx == 0) (.vperm2 d a b c)
  | 2 => onlyIf (idx == 0 && b == 0) (.vbcast d a c)
  | 3 => onlyIf (b == 0) (.vbcastl d a idx c)
  | 4 => some (.vslup d a b idx c)
  | 5 => some (.vsldn d a b idx c)
  | 6 => onlyIf (b == 0) (.vins d a idx c)
  | 7 => onlyIf (b == 0) (.vext d a idx c)
  | _ => none

/-- Major 0x25 VRED (R257). -/
def decodeVred (d a : Reg) (fn : Nat) (c : VCtl) : Option Instr :=
  match fn with
  | 0 => some (.vredAdd d a c) | 1 => some (.vredMin d a c) | 2 => some (.vredMax d a c)
  | 3 => some (.vredAnd d a c) | 4 => some (.vredOr d a c) | 5 => some (.vredXor d a c)
  | _ => none

/-- Major 0x28 SF (R264). -/
def decodeSf (d a : Reg) (fn : Nat) (c : VCtl) : Option Instr :=
  match fn with
  | 0 => some (.vexp d a c) | 1 => some (.vexp2 d a c) | 2 => some (.vlog2 d a c) | 3 => some (.vrcp d a c)
  | 4 => some (.vrsqrt d a c) | 5 => some (.vsqrt d a c) | 6 => some (.vsin d a c) | 7 => some (.vcos d a c)
  | 8 => some (.vtanh d a c) | 9 => some (.vsigm d a c)
  | _ => none

/-- Major 0x26 VCVT (R258 to R260): the narrow types 12 to 15 name a shadow format. -/
def decodeVcvt (d a b : Reg) (fn : Nat) (imm : BitVec 16) : Option Instr :=
  let lt := imm.extractLsb' 0 4
  let g := imm.extractLsb' 12 3
  let st := imm.extractLsb' 8 4
  if imm.getLsbD 15 || imm.getLsbD 7 then none
  else (RmSel.ofCode (imm.extractLsb' 4 3)).bind fun rm =>
    match fn with
    | 0 => (LaneT.ofCode lt).bind fun lt => (LaneT.ofCode st).bind fun st =>
        onlyIf (b == 0) (.vcvt d a g st lt rm)
    | 1 => (LaneT.ofCode st).bind fun st =>
        onlyIf (lt.extractLsb' 2 2 == 3) (.vcvtN d a b g st (lt.extractLsb' 0 2) rm)
    | 2 => (LaneT.ofCode lt).bind fun lt =>
        onlyIf (st.extractLsb' 2 2 == 3) (.vcvtW d a b g lt (st.extractLsb' 0 2) rm)
    | _ => none

/-- Majors 0x20 to 0x25 and 0x28, whose immediate is a control halfword (R247). -/
def decodeVec (op : Nat) (d a b : Reg) (fn : BitVec 6) (imm : BitVec 16) : Option Instr :=
  (LaneT.ofCode (imm.extractLsb' 0 4)).bind fun lt =>
  (RmSel.ofCode (imm.extractLsb' 4 3)).bind fun rm =>
  let merge := imm.getLsbD 7
  let c : VCtl := ⟨lt, rm, merge, imm.getLsbD 8⟩
  let fn5 := (fn.extractLsb' 0 5).toNat
  let x := imm.extractLsb' 9 7 == 0
  match op with
  | 0x20 => if x then decodeVint d a b (fn.getLsbD 5) fn5 c else none
  | 0x21 => if x then decodeVfp d a b (fn.getLsbD 5) fn5 c else none
  | 0x22 => if x then decodeVfma d a b (fn.getLsbD 5) fn5 c else none
  | 0x23 => if x then decodeVcmp d a b fn.toNat c else none
  | 0x24 => decodeVperm d a b fn.toNat (imm.extractLsb' 8 8) ⟨lt, rm, merge, false⟩
  | 0x25 => if x && b == 0 then decodeVred d a fn.toNat c else none
  | _ => if x && b == 0 then decodeSf d a fn.toNat c else none

/-- Major 0x30 OS (R270): immediate bits above the slot, and above N4, are reserved. -/
def decodeOs (d a b : Reg) (fn : Nat) (imm : BitVec 16) : Option Instr :=
  let os := imm.extractLsb' 0 6
  let z10 := imm.extractLsb' 6 10 == 0
  let z9 := imm.extractLsb' 7 9 == 0
  let n4 := imm.getLsbD 6
  match fn with
  | 0 => onlyIf (z10 && a == 0 && b == 0) (.osClaim d os)
  | 1 => onlyIf (z10 && d == 0 && a == 0 && b == 0) (.osRel os)
  | 2 => onlyIf (z9 && d == 0) (.osLdG a b os n4)
  | 3 => onlyIf (z9 && d == 0) (.osLdS a b os n4)
  | 4 => onlyIf (z10 && d == 0) (.osLdHr a b os)
  | 5 => onlyIf (z10 && d == 0) (.osLdHc a b os)
  | 6 => onlyIf (z10 && d == 0 && b == 0) (.osStG a os)
  | 7 => onlyIf (z10 && d == 0 && b == 0) (.osStS a os)
  | _ => none

/-- The fields of IMM32 of a multiply (R276). -/
def mxFields (imm : BitVec 32) : MxFields :=
  ⟨imm.getLsbD 28, imm.extractLsb' 24 3, imm.extractLsb' 20 3, imm.extractLsb' 12 8,
    imm.extractLsb' 6 6, imm.extractLsb' 0 6⟩

/-- Major 0x31 MX (R276 to R279); `mx.mrot` with OA = OB is no instruction. -/
def decodeMx (fn : Nat) (imm : BitVec 32) : Option Instr :=
  let f := mxFields imm
  let ok := imm.extractLsb' 29 3 == 0 && !imm.getLsbD 27 && !imm.getLsbD 23
  match fn with
  | 0 => onlyIf ok (.mxMul f)
  | 1 => onlyIf (ok && f.oa != f.ob) (.mxMrot f)
  | 2 => onlyIf (imm.extractLsb' 20 12 == 0 && imm.extractLsb' 0 12 == 0) (.mxZero (imm.extractLsb' 12 8))
  | _ => none

/-- Major 0x32 MXD (R280). -/
def decodeMxd (imm : BitVec 32) : Option Instr :=
  (RmSel.ofCode (imm.extractLsb' 4 3)).bind fun rm =>
  (DrainT.ofCode (imm.extractLsb' 0 4)).bind fun dt =>
  let f : DrainFields := ⟨imm.getLsbD 30, imm.extractLsb' 27 3, imm.extractLsb' 24 3,
    imm.extractLsb' 20 3, imm.extractLsb' 12 8, imm.extractLsb' 8 3, imm.getLsbD 7, rm, dt⟩
  onlyIf (!imm.getLsbD 31 && !imm.getLsbD 23 && !imm.getLsbD 11 && f.legal) (.mxDrain f)

/-- Major 0x34 TH, form A (R285, R286). -/
def decodeTh (d a : Reg) (fn : Nat) : Option Instr :=
  match fn with
  | 0 => some (.thLd d a) | 1 => onlyIf (d == 0) (.thSeal a) | 3 => some (.thWait d a)
  | _ => none

/-- Major 0x35 TLS (R287). -/
def decodeTls (d a b : Reg) (fn : BitVec 6) : Option Instr :=
  let rx := fn.getLsbD 5
  match (fn.extractLsb' 0 5).toNat with
  | 0 => some (.tldE d a b rx) | 1 => some (.tldV d a b rx) | 2 => some (.tstE d a b rx) | 3 => some (.tstV d a b rx)
  | _ => none

/-- Major 0x36 TX, form A (R288, R289). -/
def decodeTx (d a b : Reg) (fn : Nat) : Option Instr :=
  match fn with
  | 0 => some (.txSub d a b)
  | 1 => onlyIf (d == 0 && b == 0) (.txAddr a)
  | 2 => onlyIf (b == 0) (.txNote d a)
  | _ => none

/-- Major 0x3D PRIV (R342). -/
def decodePriv (d a b : Reg) (fn : Nat) : Option Instr :=
  match fn with
  | 0 => some (.spill d a b) | 1 => some (.fill d a b) | 2 => some (.rqPush d a b)
  | 3 => onlyIf (a == 0 && b == 0) (.rqPop d)
  | 4 => onlyIf (d == 0) (.clsSet a b)
  | 5 => onlyIf (d == 0 && b == 0) (.clsFlush a)
  | 6 => onlyIf (d == 0) (.xinv a b)
  | 7 => onlyIf (b == 0) (.corePark d a)
  | 8 => some (.wfe d a b)
  | _ => none

/-- The raw form H (R172): the function is in D. -/
def decodeH (op : Nat) (d : Reg) : Option Instr :=
  match op with
  | 0x00 => onlyIf (d == 0) .yield
  | 0x09 => onlyIf (d == 0) .ret
  | 0x1A => decodeFence d.toNat
  | 0x36 => if d = 0 then some .txChk else onlyIf (d == 1) .txEnd
  | 0x37 => onlyIf (d == 0) .suspend
  | 0x3C => if d.toNat < 16 then some (.trap (d.extractLsb' 0 4)) else onlyIf (d == 16) .tret
  | _ => none

/-- The raw form A. -/
def decodeA (op : Nat) (d a b : Reg) (fn : BitVec 6) : Option Instr :=
  let n := fn.toNat
  match op with
  | 0x01 => decodeAlu d a b n
  | 0x04 => decodeMulDiv d a b n
  | 0x05 => decodeCmp d a b n
  | 0x06 => if b = 0 then decodeBit d a n else none
  | 0x07 => if n < 8 then some (.shadd d a b (fn.extractLsb' 0 3)) else none
  | 0x09 => onlyIf (n == 2 && b == 0) (.jr d a)
  | 0x0B => match n with
    | 0 => onlyIf (a == 0 && b == 0) (.rdtb d)
    | 1 => onlyIf (d == 0 && b == 0) (.sleep a)
    | 2 => onlyIf (d == 0 && b == 0) (.slpUntil a)
    | _ => none
  | 0x16 => match n with
    | 0 => onlyIf (b == 0) (.lease d a)
    | 1 => onlyIf (a == 0 && b == 0) (.release d)
    | _ => none
  | 0x17 => decodeAmo d a b n
  | 0x18 => if d = 0 then decodeRed a b n else none
  | 0x19 => onlyIf (n == 0) (.faddC d a b)
  | 0x1B => decodeBar d a b n
  | 0x1C => onlyIf (n == 0) (.msgSend d a b)
  | 0x1D => match n with
    | 0 => some (.subOn d a b)
    | 1 => onlyIf (b == 0) (.subOwn d a)
    | 2 => onlyIf (d == 0 && b == 0) (.subOff a)
    | _ => none
  | 0x27 => if 4 ≤ d.toNat then none else match n with
    | 0 => onlyIf (b == 0) (.strCfg (d.extractLsb' 0 2) a)
    | 1 => onlyIf (a == 0 && b == 0) (.strStop (d.extractLsb' 0 2))
    | _ => none
  | 0x29 => match n with
    | 1 => onlyIf (d == 0 && b == 0) (.topkIn a)
    | 2 => onlyIf (a == 0 && b == 0) (.topkOut d)
    | 3 => onlyIf (d == 0 && b == 0) (.topkMerge a)
    | _ => none
  | 0x33 => match n with
    | 0 => onlyIf (b == 0) (.cpy d a)
    | 1 => onlyIf (b == 0) (.cpyNb d a)
    | _ => none
  | 0x34 => if b = 0 then decodeTh d a n else none
  | 0x35 => decodeTls d a b fn
  | 0x36 => decodeTx d a b n
  | 0x3D => decodePriv d a b n
  | _ => none

/-- The raw form I. -/
def decodeI (op : Nat) (d a b : Reg) (fn : BitVec 6) (imm : BitVec 16) : Option Instr :=
  let n := fn.toNat
  match op with
  | 0x02 => if b = 0 then decodeAluI16 d a n imm else none
  | 0x03 => onlyIf (n == 0 && a == 0 && b == 0) (.liImm16 d imm)
  | 0x05 => if b = 0 then decodeCmpI d a n imm else none
  | 0x07 => onlyIf (!fn.getLsbD 5) (.lea2d d a b (fn.extractLsb' 0 2) (fn.extractLsb' 2 3) imm)
  | 0x08 => if d = 0 then decodeBr a b n imm else none
  | 0x09 => match n with
    | 0 => onlyIf (d == 0 && a == 0 && b == 0) (.j imm)
    | 1 => onlyIf (a == 0 && b == 0) (.jal d imm)
    | _ => none
  | 0x0A => if b = 0 then decodeCsr d a n imm else none
  | 0x0B => onlyIf (n == 1 && d == 0 && a == 0 && b == 0) (.sleepImm imm)
  | 0x10 | 0x11 | 0x12 | 0x13 | 0x14 => decodeMem16 op d a b fn imm
  | 0x15 => decodeFe d a b n imm
  | 0x20 | 0x21 | 0x22 | 0x23 | 0x24 | 0x25 | 0x28 => decodeVec op d a b fn imm
  | 0x26 => decodeVcvt d a b n imm
  | 0x27 => onlyIf (n == 2 && d.toNat < 4 && a == 0 && b == 0) (.bstr (d.extractLsb' 0 2) imm)
  | 0x29 => (LaneT.ofCode (imm.extractLsb' 0 4)).bind fun lt =>
      onlyIf (n == 0 && d == 0 && b == 0 && imm.extractLsb' 4 4 == 0 && imm.extractLsb' 9 7 == 0)
        (.topkCfg a lt (imm.getLsbD 8))
  | 0x30 => decodeOs d a b n imm
  | 0x34 => onlyIf (n == 2 && imm.extractLsb' 8 8 == 0) (.thRelay d a b (imm.extractLsb' 0 8))
  | 0x37 => onlyIf (n == 0) (.spawn d a b imm)
  | _ => none

/-- The raw form L. -/
def decodeL (op : Nat) (d a : Reg) (fn : BitVec 6) (b : Reg) (imm : BitVec 32) : Option Instr :=
  let n := fn.toNat
  match op with
  | 0x02 => if b = 0 then decodeAluI32 d a n imm else none
  | 0x03 => match n with
    | 0 => onlyIf (a == 0 && b == 0) (.liImm32 d imm)
    | 1 => onlyIf (b == 0) (.liHigh d a imm)
    | _ => none
  | 0x08 => if d = 0 then decodeBrL a b n imm else none
  | 0x09 => match n with
    | 0 => onlyIf (d == 0 && a == 0 && b == 0) (.jL imm)
    | 1 => onlyIf (a == 0 && b == 0) (.jalL d imm)
    | _ => none
  | 0x10 | 0x11 | 0x12 | 0x13 | 0x14 => decodeMem32 op d a b fn imm
  | 0x31 => if d = 0 ∧ a = 0 ∧ b = 0 then decodeMx n imm else none
  | 0x32 => if d = 0 ∧ a = 0 ∧ b = 0 ∧ fn = 0 then decodeMxd imm else none
  | 0x37 => onlyIf (n == 0) (.spawnL d a b imm)
  | _ => none

/-- The instruction of a raw form (R172, R181, R182): an unassigned major is the row ILLEGAL_OPCODE, and a
combination that a listed major does not assign, an unused field or a reserved bit that is not zero is refused. -/
def decodeRaw (r : Raw) : Except DecodeError Instr :=
  if unassignedMajor r.op then .ok (.illegalOpcode r)
  else
    let i := match r with
      | .h op d => decodeH op.toNat d
      | .a op d a b fn => decodeA op.toNat d a b fn
      | .i op d a b fn imm => decodeI op.toNat d a b fn imm
      | .l op d a fn b imm => decodeL op.toNat d a fn b imm
    match i with
    | some i => if i.wf then .ok i else .error .illegalFunction
    | none => .error .illegalFunction

/-- The instruction of a head and its tail; the stall count is `stallOf head`. -/
def decode (head : BitVec 16) (tail : BitVec 48) : Except DecodeError Instr := decodeRaw (unpack head tail)

/-! ## The encoder -/

/-- The fields an instruction is encoded with (R170 to R173 and the encoding tables of R193, R219, R224,
R227, R234, R237 to R240, R244, R245, R247, R252 to R261, R264, R266, R270 and R342); an event has no
encoding, and `core.unpark` shares the word of `core.park` (R350). -/
def toRaw : Instr → Option Raw
  | .yield => some (.h 0#6 (0#5))
  | .add d a b => some (.a 1#6 d a b (0#6))
  | .sub d a b => some (.a 1#6 d a b (1#6))
  | .and d a b => some (.a 1#6 d a b (2#6))
  | .or d a b => some (.a 1#6 d a b (3#6))
  | .xor d a b => some (.a 1#6 d a b (4#6))
  | .sll d a b => some (.a 1#6 d a b (5#6))
  | .srl d a b => some (.a 1#6 d a b (6#6))
  | .sra d a b => some (.a 1#6 d a b (7#6))
  | .min d a b => some (.a 1#6 d a b (8#6))
  | .max d a b => some (.a 1#6 d a b (9#6))
  | .minZ d a b => some (.a 1#6 d a b (10#6))
  | .maxZ d a b => some (.a 1#6 d a b (11#6))
  | .addImm16 d a imm => some (.i 2#6 d a 0#5 (0#6) (imm))
  | .subImm16 d a imm => some (.i 2#6 d a 0#5 (1#6) (imm))
  | .andImm16 d a imm => some (.i 2#6 d a 0#5 (2#6) (imm))
  | .orImm16 d a imm => some (.i 2#6 d a 0#5 (3#6) (imm))
  | .xorImm16 d a imm => some (.i 2#6 d a 0#5 (4#6) (imm))
  | .sllImm16 d a sh => some (.i 2#6 d a 0#5 (5#6) (sh.zeroExtend 16))
  | .srlImm16 d a sh => some (.i 2#6 d a 0#5 (6#6) (sh.zeroExtend 16))
  | .sraImm16 d a sh => some (.i 2#6 d a 0#5 (7#6) (sh.zeroExtend 16))
  | .minImm16 d a imm => some (.i 2#6 d a 0#5 (8#6) (imm))
  | .maxImm16 d a imm => some (.i 2#6 d a 0#5 (9#6) (imm))
  | .minZImm16 d a imm => some (.i 2#6 d a 0#5 (10#6) (imm))
  | .maxZImm16 d a imm => some (.i 2#6 d a 0#5 (11#6) (imm))
  | .addImm32 d a imm => some (.l 2#6 d a (0#6) 0#5 (imm))
  | .subImm32 d a imm => some (.l 2#6 d a (1#6) 0#5 (imm))
  | .andImm32 d a imm => some (.l 2#6 d a (2#6) 0#5 (imm))
  | .orImm32 d a imm => some (.l 2#6 d a (3#6) 0#5 (imm))
  | .xorImm32 d a imm => some (.l 2#6 d a (4#6) 0#5 (imm))
  | .minImm32 d a imm => some (.l 2#6 d a (8#6) 0#5 (imm))
  | .maxImm32 d a imm => some (.l 2#6 d a (9#6) 0#5 (imm))
  | .minZImm32 d a imm => some (.l 2#6 d a (10#6) 0#5 (imm))
  | .maxZImm32 d a imm => some (.l 2#6 d a (11#6) 0#5 (imm))
  | .liImm16 d imm => some (.i 3#6 d 0#5 0#5 (0#6) (imm))
  | .liImm32 d imm => some (.l 3#6 d 0#5 (0#6) 0#5 (imm))
  | .liHigh d a imm => some (.l 3#6 d a (1#6) 0#5 (imm))
  | .mul d a b => some (.a 4#6 d a b (0#6))
  | .mulh d a b => some (.a 4#6 d a b (1#6))
  | .mulhZ d a b => some (.a 4#6 d a b (2#6))
  | .div d a b => some (.a 4#6 d a b (3#6))
  | .divZ d a b => some (.a 4#6 d a b (4#6))
  | .rem d a b => some (.a 4#6 d a b (5#6))
  | .remZ d a b => some (.a 4#6 d a b (6#6))
  | .divisionComplete _ => none
  | .setEq d a b => some (.a 5#6 d a b (0#6))
  | .setNe d a b => some (.a 5#6 d a b (1#6))
  | .setLt d a b => some (.a 5#6 d a b (2#6))
  | .setGe d a b => some (.a 5#6 d a b (3#6))
  | .setLtZ d a b => some (.a 5#6 d a b (4#6))
  | .setGeZ d a b => some (.a 5#6 d a b (5#6))
  | .setEqImm d a imm => some (.i 5#6 d a 0#5 (0#6) (imm))
  | .setNeImm d a imm => some (.i 5#6 d a 0#5 (1#6) (imm))
  | .setLtImm d a imm => some (.i 5#6 d a 0#5 (2#6) (imm))
  | .setGeImm d a imm => some (.i 5#6 d a 0#5 (3#6) (imm))
  | .setLtZImm d a imm => some (.i 5#6 d a 0#5 (4#6) (imm))
  | .setGeZImm d a imm => some (.i 5#6 d a 0#5 (5#6) (imm))
  | .sel d a b => some (.a 5#6 d a b (16#6))
  | .clz d a => some (.a 6#6 d a 0#5 (0#6))
  | .ctz d a => some (.a 6#6 d a 0#5 (1#6))
  | .pcnt d a => some (.a 6#6 d a 0#5 (2#6))
  | .shadd d a b sh => some (.a 7#6 d a b (sh.zeroExtend 6))
  | .lea2d d a b esz p pitch => some (.i 7#6 d a b (0#1 ++ p ++ esz) (pitch))
  | .beq a b off => some (.i 8#6 0#5 a b (0#6) (off))
  | .bne a b off => some (.i 8#6 0#5 a b (1#6) (off))
  | .blt a b off => some (.i 8#6 0#5 a b (2#6) (off))
  | .bge a b off => some (.i 8#6 0#5 a b (3#6) (off))
  | .bltZ a b off => some (.i 8#6 0#5 a b (4#6) (off))
  | .bgeZ a b off => some (.i 8#6 0#5 a b (5#6) (off))
  | .beqL a b off => some (.l 8#6 0#5 a (0#6) b (off))
  | .bneL a b off => some (.l 8#6 0#5 a (1#6) b (off))
  | .bltL a b off => some (.l 8#6 0#5 a (2#6) b (off))
  | .bgeL a b off => some (.l 8#6 0#5 a (3#6) b (off))
  | .bltZL a b off => some (.l 8#6 0#5 a (4#6) b (off))
  | .bgeZL a b off => some (.l 8#6 0#5 a (5#6) b (off))
  | .j off => some (.i 9#6 0#5 0#5 0#5 (0#6) (off))
  | .jL off => some (.l 9#6 0#5 0#5 (0#6) 0#5 (off))
  | .jal d off => some (.i 9#6 d 0#5 0#5 (1#6) (off))
  | .jalL d off => some (.l 9#6 d 0#5 (1#6) 0#5 (off))
  | .jr d a => some (.a 9#6 d a 0#5 (2#6))
  | .ret => some (.h 9#6 (0#5))
  | .csrr d csr => some (.i 10#6 d 0#5 0#5 (0#6) (csr.zeroExtend 16))
  | .csrw a csr => some (.i 10#6 0#5 a 0#5 (1#6) (csr.zeroExtend 16))
  | .csrs a csr => some (.i 10#6 0#5 a 0#5 (2#6) (csr.zeroExtend 16))
  | .csrc a csr => some (.i 10#6 0#5 a 0#5 (3#6) (csr.zeroExtend 16))
  | .fflagsAccess op x => some (CsrOp.raw op x)
  | .qenWrite a => some (.i 10#6 0#5 a 0#5 (1#6) (0x30#16))
  | .senWrite a => some (.i 10#6 0#5 a 0#5 (1#6) (0x31#16))
  | .vtabWrite a k => some (.i 10#6 0#5 a 0#5 (1#6) (0x50#16 + k.zeroExtend 16))
  | .slqdWrite a => some (.i 10#6 0#5 a 0#5 (1#6) (0x543#16))
  | .spasidWrite a => some (.i 10#6 0#5 a 0#5 (1#6) (0x544#16))
  | .shwinWrite a => some (.i 10#6 0#5 a 0#5 (1#6) (0x545#16))
  | .spodwWrite a => some (.i 10#6 0#5 a 0#5 (1#6) (0x547#16))
  | .smsgWrite a => some (.i 10#6 0#5 a 0#5 (1#6) (0x532#16))
  | .sdovfWrite a => some (.i 10#6 0#5 a 0#5 (1#6) (0x535#16))
  | .sevstWrite a => some (.i 10#6 0#5 a 0#5 (1#6) (0x534#16))
  | .mpartWrite a => some (.i 10#6 0#5 a 0#5 (1#6) (0x920#16))
  | .rdtb d => some (.a 11#6 d 0#5 0#5 (0#6))
  | .sleep a => some (.a 11#6 0#5 a 0#5 (1#6))
  | .sleepImm imm => some (.i 11#6 0#5 0#5 0#5 (1#6) (imm))
  | .slpUntil a => some (.a 11#6 0#5 a 0#5 (2#6))
  | .sleepEnd _ _ => none
  | .ldg d a f rx off => some (.i 16#6 d a 0#5 (rxFn rx f.code) (off))
  | .ldgL d a f rx off => some (.l 16#6 d a (rxFn rx f.code) 0#5 (off))
  | .pf a off => some (.i 16#6 0#5 a 0#5 (0x10#6) (off))
  | .pfL a off => some (.l 16#6 0#5 a (0x10#6) 0#5 (off))
  | .stg a b wd rx off => some (.i 17#6 0#5 a b (rxFn rx wd.code) (off))
  | .stgL a b wd rx off => some (.l 17#6 0#5 a (rxFn rx wd.code) b (off))
  | .lds d a f rx off => some (.i 18#6 d a 0#5 (rxFn rx f.code) (off))
  | .ldsL d a f rx off => some (.l 18#6 d a (rxFn rx f.code) 0#5 (off))
  | .sts a b wd rx off => some (.i 19#6 0#5 a b (rxFn rx wd.code) (off))
  | .stsL a b wd rx off => some (.l 19#6 0#5 a (rxFn rx wd.code) b (off))
  | .vldg d a rx off => some (.i 20#6 d a 0#5 (rxFn rx 0x00#5) (off))
  | .vldgL d a rx off => some (.l 20#6 d a (rxFn rx 0x00#5) 0#5 (off))
  | .vstg a b wd rx off => some (.i 20#6 0#5 a b (rxFn rx (0x08#5 + wd.code)) (off))
  | .vstgL a b wd rx off => some (.l 20#6 0#5 a (rxFn rx (0x08#5 + wd.code)) b (off))
  | .vlds d a rx off => some (.i 20#6 d a 0#5 (rxFn rx 0x10#5) (off))
  | .vldsL d a rx off => some (.l 20#6 d a (rxFn rx 0x10#5) 0#5 (off))
  | .vsts a b wd rx off => some (.i 20#6 0#5 a b (rxFn rx (0x18#5 + wd.code)) (off))
  | .vstsL a b wd rx off => some (.l 20#6 0#5 a (rxFn rx (0x18#5 + wd.code)) b (off))
  | .reclassifyComplete _ => none
  | .migrationDeparture _ _ => none
  | .landing _ => none
  | .landingFromPlace _ => none
  | .migrationRefused _ => none
  | .bankAccessArrive _ => none
  | .accessComplete _ _ => none
  | .variableResultArrival _ _ _ => none
  | .streamDetectorTimeout _ _ => none
  | .homeProbeTimeout _ _ _ => none
  | .take d a off => some (.i 21#6 d a 0#5 (0#6) (off))
  | .put d a b off => some (.i 21#6 d a b (1#6) (off))
  | .peek d a off => some (.i 21#6 d a 0#5 (2#6) (off))
  | .feClr a off => some (.i 21#6 0#5 a 0#5 (3#6) (off))
  | .feSet a off => some (.i 21#6 0#5 a 0#5 (4#6) (off))
  | .lease d a => some (.a 22#6 d a 0#5 (0#6))
  | .release d => some (.a 22#6 d 0#5 0#5 (1#6))
  | .leaseHeld _ _ => none
  | .leaseExpired _ _ => none
  | .amoAdd d a b wd => some (.a 23#6 d a b (wd.fn 0#4))
  | .amoAnd d a b wd => some (.a 23#6 d a b (wd.fn 1#4))
  | .amoOr d a b wd => some (.a 23#6 d a b (wd.fn 2#4))
  | .amoXor d a b wd => some (.a 23#6 d a b (wd.fn 3#4))
  | .amoSwap d a b wd => some (.a 23#6 d a b (wd.fn 4#4))
  | .amoMin d a b wd => some (.a 23#6 d a b (wd.fn 5#4))
  | .amoMax d a b wd => some (.a 23#6 d a b (wd.fn 6#4))
  | .amoMinZ d a b wd => some (.a 23#6 d a b (wd.fn 7#4))
  | .amoMaxZ d a b wd => some (.a 23#6 d a b (wd.fn 8#4))
  | .amoCas d a b wd => some (.a 23#6 d a b (wd.fn))
  | .amoFadd d a b => some (.a 23#6 d a b (10#6))
  | .redAdd a b wd => some (.a 24#6 0#5 a b (wd.fn 0#4))
  | .redAnd a b wd => some (.a 24#6 0#5 a b (wd.fn 1#4))
  | .redOr a b wd => some (.a 24#6 0#5 a b (wd.fn 2#4))
  | .redXor a b wd => some (.a 24#6 0#5 a b (wd.fn 3#4))
  | .redMin a b wd => some (.a 24#6 0#5 a b (wd.fn 5#4))
  | .redMax a b wd => some (.a 24#6 0#5 a b (wd.fn 6#4))
  | .redMinZ a b wd => some (.a 24#6 0#5 a b (wd.fn 7#4))
  | .redMaxZ a b wd => some (.a 24#6 0#5 a b (wd.fn 8#4))
  | .redFadd a b => some (.a 24#6 0#5 a b (10#6))
  | .faddC d a b => some (.a 25#6 d a b (0#6))
  | .fenceSlot => some (.h 26#6 (0#5))
  | .fenceCore => some (.h 26#6 (1#5))
  | .fenceTray => some (.h 26#6 (2#5))
  | .fenceDie => some (.h 26#6 (3#5))
  | .fenceDev => some (.h 26#6 (4#5))
  | .fencePod => some (.h 26#6 (5#5))
  | .fenceSys => some (.h 26#6 (6#5))
  | .barInit a b => some (.a 27#6 0#5 a b (0#6))
  | .barArr d a => some (.a 27#6 d a 0#5 (1#6))
  | .barWait d a b => some (.a 27#6 d a b (2#6))
  | .barSync d a => some (.a 27#6 d a 0#5 (3#6))
  | .barInv a => some (.a 27#6 0#5 a 0#5 (4#6))
  | .barrierOpArrive _ => none
  | .msgSend d a b => some (.a 28#6 d a b (0#6))
  | .msgDeliver _ => none
  | .subOn d a b => some (.a 29#6 d a b (0#6))
  | .subOwn d a => some (.a 29#6 d a 0#5 (1#6))
  | .subOff a => some (.a 29#6 0#5 a 0#5 (2#6))
  | .subscriptionUpdate _ => none
  | .initialCopy _ _ => none
  | .intransitDone _ _ => none
  | .vaddInt d a b sx c => some (.i 32#6 d a b (rxFn sx 0#5) (c.imm 0#7))
  | .vsubInt d a b sx c => some (.i 32#6 d a b (rxFn sx 1#5) (c.imm 0#7))
  | .vmulInt d a b sx c => some (.i 32#6 d a b (rxFn sx 2#5) (c.imm 0#7))
  | .vmulh d a b sx c => some (.i 32#6 d a b (rxFn sx 3#5) (c.imm 0#7))
  | .vand d a b sx c => some (.i 32#6 d a b (rxFn sx 4#5) (c.imm 0#7))
  | .vor d a b sx c => some (.i 32#6 d a b (rxFn sx 5#5) (c.imm 0#7))
  | .vxor d a b sx c => some (.i 32#6 d a b (rxFn sx 6#5) (c.imm 0#7))
  | .vsll d a b sx c => some (.i 32#6 d a b (rxFn sx 7#5) (c.imm 0#7))
  | .vsrl d a b sx c => some (.i 32#6 d a b (rxFn sx 8#5) (c.imm 0#7))
  | .vsra d a b sx c => some (.i 32#6 d a b (rxFn sx 9#5) (c.imm 0#7))
  | .vminInt d a b sx c => some (.i 32#6 d a b (rxFn sx 10#5) (c.imm 0#7))
  | .vmaxInt d a b sx c => some (.i 32#6 d a b (rxFn sx 11#5) (c.imm 0#7))
  | .vaddSat d a b sx c => some (.i 32#6 d a b (rxFn sx 12#5) (c.imm 0#7))
  | .vsubSat d a b sx c => some (.i 32#6 d a b (rxFn sx 13#5) (c.imm 0#7))
  | .vabsInt d a c => some (.i 32#6 d a 0#5 (14#6) (c.imm 0#7))
  | .vaddFp d a b sx c => some (.i 33#6 d a b (rxFn sx 0#5) (c.imm 0#7))
  | .vsubFp d a b sx c => some (.i 33#6 d a b (rxFn sx 1#5) (c.imm 0#7))
  | .vmulFp d a b sx c => some (.i 33#6 d a b (rxFn sx 2#5) (c.imm 0#7))
  | .vminFp d a b sx c => some (.i 33#6 d a b (rxFn sx 3#5) (c.imm 0#7))
  | .vmaxFp d a b sx c => some (.i 33#6 d a b (rxFn sx 4#5) (c.imm 0#7))
  | .vabsFp d a c => some (.i 33#6 d a 0#5 (5#6) (c.imm 0#7))
  | .vneg d a c => some (.i 33#6 d a 0#5 (6#6) (c.imm 0#7))
  | .vfma d a b sx c => some (.i 34#6 d a b (rxFn sx 0#5) (c.imm 0#7))
  | .vfms d a b sx c => some (.i 34#6 d a b (rxFn sx 1#5) (c.imm 0#7))
  | .vfnma d a b sx c => some (.i 34#6 d a b (rxFn sx 2#5) (c.imm 0#7))
  | .vfnms d a b sx c => some (.i 34#6 d a b (rxFn sx 3#5) (c.imm 0#7))
  | .vcmpEq d a b c => some (.i 35#6 d a b (0#6) (c.imm 0#7))
  | .vcmpNe d a b c => some (.i 35#6 d a b (1#6) (c.imm 0#7))
  | .vcmpLt d a b c => some (.i 35#6 d a b (2#6) (c.imm 0#7))
  | .vcmpGe d a b c => some (.i 35#6 d a b (3#6) (c.imm 0#7))
  | .vcmpLe d a b c => some (.i 35#6 d a b (4#6) (c.imm 0#7))
  | .vcmpGt d a b c => some (.i 35#6 d a b (5#6) (c.imm 0#7))
  | .vsel d a b c => some (.i 35#6 d a b (16#6) (c.imm 0#7))
  | .vperm d a b c => some (.i 36#6 d a b (0#6) (c.imm 0#7))
  | .vperm2 d a b c => some (.i 36#6 d a b (1#6) (c.imm 0#7))
  | .vbcast d a c => some (.i 36#6 d a 0#5 (2#6) (c.imm 0#7))
  | .vbcastl d a idx c => some (.i 36#6 d a 0#5 (3#6) (c.immIdx idx))
  | .vslup d a b idx c => some (.i 36#6 d a b (4#6) (c.immIdx idx))
  | .vsldn d a b idx c => some (.i 36#6 d a b (5#6) (c.immIdx idx))
  | .vins d a idx c => some (.i 36#6 d a 0#5 (6#6) (c.immIdx idx))
  | .vext d a idx c => some (.i 36#6 d a 0#5 (7#6) (c.immIdx idx))
  | .vredAdd d a c => some (.i 37#6 d a 0#5 (0#6) (c.imm 0#7))
  | .vredMin d a c => some (.i 37#6 d a 0#5 (1#6) (c.imm 0#7))
  | .vredMax d a c => some (.i 37#6 d a 0#5 (2#6) (c.imm 0#7))
  | .vredAnd d a c => some (.i 37#6 d a 0#5 (3#6) (c.imm 0#7))
  | .vredOr d a c => some (.i 37#6 d a 0#5 (4#6) (c.imm 0#7))
  | .vredXor d a c => some (.i 37#6 d a 0#5 (5#6) (c.imm 0#7))
  | .vcvt d a g st lt rm => some (.i 38#6 d a 0#5 (0#6) (cvtImm g st.code rm lt.code))
  | .vcvtN d a b g st k rm => some (.i 38#6 d a b (1#6) (cvtImm g st.code rm (12#4 + k.zeroExtend 4)))
  | .vcvtW d a b g lt k rm => some (.i 38#6 d a b (2#6) (cvtImm g (12#4 + k.zeroExtend 4) rm lt.code))
  | .strCfg k a => some (.a 39#6 (k.zeroExtend 5) a 0#5 (0#6))
  | .strStop k => some (.a 39#6 (k.zeroExtend 5) 0#5 0#5 (1#6))
  | .bstr k off => some (.i 39#6 (k.zeroExtend 5) 0#5 0#5 (2#6) (off))
  | .streamChunkArrive _ _ _ => none
  | .vexp d a c => some (.i 40#6 d a 0#5 (0#6) (c.imm 0#7))
  | .vexp2 d a c => some (.i 40#6 d a 0#5 (1#6) (c.imm 0#7))
  | .vlog2 d a c => some (.i 40#6 d a 0#5 (2#6) (c.imm 0#7))
  | .vrcp d a c => some (.i 40#6 d a 0#5 (3#6) (c.imm 0#7))
  | .vrsqrt d a c => some (.i 40#6 d a 0#5 (4#6) (c.imm 0#7))
  | .vsqrt d a c => some (.i 40#6 d a 0#5 (5#6) (c.imm 0#7))
  | .vsin d a c => some (.i 40#6 d a 0#5 (6#6) (c.imm 0#7))
  | .vcos d a c => some (.i 40#6 d a 0#5 (7#6) (c.imm 0#7))
  | .vtanh d a c => some (.i 40#6 d a 0#5 (8#6) (c.imm 0#7))
  | .vsigm d a c => some (.i 40#6 d a 0#5 (9#6) (c.imm 0#7))
  | .topkCfg a lt smallest => some (.i 41#6 0#5 a 0#5 (0#6) ((0#7 ++ (BitVec.ofBool smallest ++ (0#4 ++ lt.code)) : BitVec 16)))
  | .topkIn a => some (.a 41#6 0#5 a 0#5 (1#6))
  | .topkOut d => some (.a 41#6 d 0#5 0#5 (2#6))
  | .topkMerge a => some (.a 41#6 0#5 a 0#5 (3#6))
  | .topkChunk _ _ => none
  | .osClaim d os => some (.i 48#6 d 0#5 0#5 (0#6) (os.zeroExtend 16))
  | .osRel os => some (.i 48#6 0#5 0#5 0#5 (1#6) (os.zeroExtend 16))
  | .osLdG a b os n4 => some (.i 48#6 0#5 a b (2#6) (osImm os n4))
  | .osLdS a b os n4 => some (.i 48#6 0#5 a b (3#6) (osImm os n4))
  | .osLdHr a b os => some (.i 48#6 0#5 a b (4#6) (os.zeroExtend 16))
  | .osLdHc a b os => some (.i 48#6 0#5 a b (5#6) (os.zeroExtend 16))
  | .osStG a os => some (.i 48#6 0#5 a 0#5 (6#6) (os.zeroExtend 16))
  | .osStS a os => some (.i 48#6 0#5 a 0#5 (7#6) (os.zeroExtend 16))
  | .osFillComplete _ _ => none
  | .mxMul f => some (.l 49#6 0#5 0#5 (0#6) 0#5 (f.imm))
  | .mxMrot f => some (.l 49#6 0#5 0#5 (1#6) 0#5 (f.imm))
  | .mxZero seg => some (.l 49#6 0#5 0#5 (2#6) 0#5 ((0#12 ++ (seg ++ 0#12) : BitVec 32)))
  | .mxDrain f => some (.l 50#6 0#5 0#5 (0#6) 0#5 (f.imm))
  | .matrixStart _ => none
  | .matrixRetire _ => none
  | .mrotShipmentLand _ => none
  | .drainChunk _ => none
  | .cpy d a => some (.a 51#6 d a 0#5 (0#6))
  | .cpyNb d a => some (.a 51#6 d a 0#5 (1#6))
  | .copyAccept _ => none
  | .copyComplete _ => none
  | .promiseMissed _ _ _ => none
  | .thLd d a => some (.a 52#6 d a 0#5 (0#6))
  | .thSeal a => some (.a 52#6 0#5 a 0#5 (1#6))
  | .thRelay d a b tag => some (.i 52#6 d a b (2#6) (tag.zeroExtend 16))
  | .thWait d a => some (.a 52#6 d a 0#5 (3#6))
  | .tldE d a b rx => some (.a 53#6 d a b (rxFn rx 0#5))
  | .tldV d a b rx => some (.a 53#6 d a b (rxFn rx 1#5))
  | .tstE d a b rx => some (.a 53#6 d a b (rxFn rx 2#5))
  | .tstV d a b rx => some (.a 53#6 d a b (rxFn rx 3#5))
  | .kneadUnit _ => none
  | .kneadFault _ _ => none
  | .kneadHardwareError _ => none
  | .txSub d a b => some (.a 54#6 d a b (0#6))
  | .txAddr a => some (.a 54#6 0#5 a 0#5 (1#6))
  | .txNote d a => some (.a 54#6 d a 0#5 (2#6))
  | .txChk => some (.h 54#6 (0#5))
  | .txEnd => some (.h 54#6 (1#5))
  | .spawn d a b off => some (.i 55#6 d a b (0#6) (off))
  | .spawnL d a b off => some (.l 55#6 d a (0#6) b (off))
  | .spawnArrive _ => none
  | .suspend => some (.h 55#6 (0#5))
  | .trap n => some (.h 60#6 (n.zeroExtend 5))
  | .tret => some (.h 60#6 (0x10#5))
  | .spill d a b => some (.a 61#6 d a b (0#6))
  | .fill d a b => some (.a 61#6 d a b (1#6))
  | .spillEngineDone _ => none
  | .rqPush d a b => some (.a 61#6 d a b (2#6))
  | .rqPop d => some (.a 61#6 d 0#5 0#5 (3#6))
  | .clsSet a b => some (.a 61#6 0#5 a b (4#6))
  | .clsFlush a => some (.a 61#6 0#5 a 0#5 (5#6))
  | .xinv a b => some (.a 61#6 0#5 a b (6#6))
  | .corePark d a => some (.a 61#6 d a 0#5 (7#6))
  | .coreUnpark d a => some (.a 61#6 d a 0#5 (7#6))
  | .wfe d a b => some (.a 61#6 d a b (8#6))
  | .wfeDeadline _ _ => none
  | .waitLimit _ _ => none
  | .timer _ _ => none
  | .coreEvent _ => none
  | .pickUp _ _ => none
  | .loadLevel _ => none
  | .shipArrive _ => none
  | .shipAnswer _ => none
  | .watchedLineWrite _ _ => none
  | .queueEnable _ _ => none
  | .pick _ => none
  | .reconNumbering _ => none
  | .roundCloseWindow _ => none
  | .roundCloseIdle _ => none
  | .podCloseMarkerSend _ => none
  | .closeMarker _ _ _ _ => none
  | .lockRequest _ => none
  | .setTileTranslationDone _ _ _ => none
  | .lockRelease _ => none
  | .pushLanded _ => none
  | .dispatch _ => none
  | .transactionRetire _ => none
  | .txHardwareError _ _ => none
  | .detReplace _ => none
  | .detReservationComplete _ => none
  | .headPin _ _ => none
  | .atsResponse _ _ => none
  | .atsTimeout _ => none
  | .prgResponseSuccess _ => none
  | .prgResponseFailure _ _ => none
  | .pageRequestTimeout _ => none
  | .replay _ => none
  | .atsInvalidate _ _ _ => none
  | .hostSnoop _ _ => none
  | .hostDeviceAccess _ _ => none
  | .stenteFlitReceive _ => none
  | .planeDown _ _ => none
  | .linkTimeout _ _ => none
  | .timeSyncSend => none
  | .membershipChange _ => none
  | .powerOnReset => none
  | .fundamentalReset => none
  | .functionLevelReset _ => none
  | .partSet _ _ => none
  | .partClear _ => none
  | .ivfSet _ _ => none
  | .capSet _ => none
  | .powerCapCheck => none
  | .thermalTrip _ => none
  | .thermalRecover _ => none
  | .softError _ => none
  | .uncorrectableError _ => none
  | .retire _ => none
  | .fwStage _ => none
  | .fwActivate => none
  | .fwActivateTimeout => none
  | .fwCommit => none
  | .attest _ => none
  | .journalClear => none
  | .bringup => none
  | .bringupStepTimeout _ => none
  | .relaxedAccessComplete _ _ _ => none
  | .instructionLineArrival _ _ => none
  | .illegalOpcode raw => some (raw)
  | .copyEngineHardwareError _ => none
  | .stentePlaneUp _ _ => none
  | .bringupStepDone _ _ => none
  | .starterReady => none

/-- The head and the tail of an instruction with stall count `s`; none for an event. -/
def encode (s : BitVec 3) (i : Instr) : Option (BitVec 16 × BitVec 48) := (toRaw i).map (pack s)

/-- The head and tail that a word of the opcode table stands for: the head in the highest halfword of the
row's bits, the tail below it, and a tail of zeros where the row gives the head alone. -/
def tableWords (nbits w : Nat) : BitVec 16 × BitVec 48 :=
  match nbits with
  | 32 => (BitVec.ofNat 16 (w >>> 16), BitVec.ofNat 48 (w % 2 ^ 16))
  | 48 => (BitVec.ofNat 16 (w >>> 32), BitVec.ofNat 48 (w % 2 ^ 32))
  | 64 => (BitVec.ofNat 16 (w >>> 48), BitVec.ofNat 48 (w % 2 ^ 48))
  | _ => (BitVec.ofNat 16 w, 0)

/-- The instruction the decoder reads from a word of the opcode table: the word's halfwords are laid into a
line as the hardware stores them, and the line's first instruction is decoded. -/
def decodeTableWord (nbits w : Nat) : Option Instr :=
  let ht := tableWords nbits w
  let l := Line.single ht.1 ht.2
  let x := Line.headTail l 1
  (decode x.1 x.2).toOption

end

end Sys2Proof
end

