-- ==== Sys2Proof/Config.lean ====
section
/-! DEFINITION. What an implementation of the HK4 fixes and the spec leaves open. Every opaque constant is a free
value: nothing in Lean can compute it, and a statement holds whatever it is (log entry 1). -/

namespace Sys2Proof.Config

/-- The choice the schedule makes at draw n (R413): which event comes about next, or which core's cycle is next. -/
opaque choose : Nat → Nat

/-- Which of several entries that an outlier list holds for one element counts, modulo their number: a function of their
values (R158, R161). -/
opaque whichOutlier : List (BitVec 32) → Nat

/-- A 64-bit value that the spec leaves open, at draw n. -/
opaque freeWord : Nat → Word

/-- A byte that the spec leaves open, at draw n (the bytes of a failed copy, R284). -/
opaque freeByte : Nat → Byte

/-- A choice between two outcomes that the spec both allows, at draw n. -/
opaque freeBool : Nat → Bool

/-- What decides the order in which the factory took the 136 physical cores of a die: its n-th pick among those left (R7,
R9, R352). -/
opaque physPick : Nat → Nat → Nat

/-- SHA3-256 of a string of bytes (R406, R408); the spec names the function by its standard only. -/
opaque sha3 : List Byte → BitVec 256

/-- Does the ML-DSA-44 signature of a firmware header verify under a key held in the hub (R406)? -/
opaque signatureOk : BitVec 32768 → Bool

/-- The ML-DSA-44 signature of an attestation report under the device's identity key (R408). -/
opaque sign : List Byte → List Byte

/-- The serial number of the part, 16 bytes (R408). -/
opaque serial : BitVec 128

/-- The module power in watts that Starter measures at draw n (R403). -/
opaque power : Nat → Nat

/-- Number i that the payload of a received flit carries: an address, a round, a tick, what an answer says. The spec
gives the payload's bytes no layout (R387). -/
opaque payload : Flit → Nat → Nat

/-- The bytes that a remote request in a flit stores, given the bytes that stand there (R386, R387). -/
opaque payloadStore : Flit → List Byte → List Byte

/-- The allocation of outstanding page requests that system software grants a partition's function (R375). -/
opaque pageAllocation : Nat → Nat

/-- Does the root complex support an AtomicOp at a host physical address (R236, R383)? -/
opaque atomicOps : Nat → Bool

/-- The correctly rounded bit of a special function where the model's enclosure does not decide it (R264):
a function of the operation, the lane type, the mode and the operand. -/
opaque sfResult : Nat → Nat → Nat → Nat → Nat

/-- The number of log entries that a reduction log area of n units of 64 KiB holds (R144): the entry's layout is open. -/
opaque logEntries : Nat → Nat

end Sys2Proof.Config
end

