-- ==== Sys2Proof/Machine/State.lean ====
section
/-! DEFINITION. The state of the whole device as plain data, the faults and refusals, and the state after reset.
Structured pieces are kept per core, per slot (key 16 × core + slot), per partition and per transaction in maps
whose unlisted entries read as their reset value. -/

namespace Sys2Proof.Machine

/-- Why the machine stops with a fault. -/
inductive Fault where
  /-- No step raises it: every trap of the HK4 is a next state (safe). -/
  | none
  deriving DecidableEq, Repr

/-- Why the model has no meaning for a step. -/
inductive Refusal where
  /-- Raised by the dispatcher for an instruction whose meaning is not written (safe). -/
  | notModelled (mnemonic : String)
  deriving DecidableEq, Repr

/-! ## Registers and slots -/

/-- The privilege levels (R329). -/
inductive Level where
  | u | s | m
  deriving DecidableEq, Repr

/-- The states of a slot (R22). -/
inductive SlotSt where
  | free | load | ready | wait | away | save
  deriving DecidableEq, Repr

/-- The five trap CSRs of a level (R331). -/
structure TrapRegs where
  tvec : Word
  cause : Word
  tval : Word
  tpc : Word
  tstat : Word
  deriving DecidableEq, Repr

/-- The trap CSRs at pick-up (R331). -/
def TrapRegs.zero : TrapRegs := ⟨0, 0, 0, 0, 0⟩

/-- A register of an instruction field: the opcode says whether the field names an integer or a vector register (R67). -/
structure RegId where
  vec : Bool
  r : Reg
  deriving DecidableEq, Repr

/-- A result of fixed latency on its way: what it writes, the cycle it lands in and the flags it raises (R176, R80). -/
structure PendWrite where
  reg : Option RegId
  value : Vec
  due : Nat
  flags : Word
  deriving DecidableEq, Repr

/-- Where the results of a variable-latency instruction come from, which decides what ends a wait for them (R31); a
special function's with the cycle it arrives in (R265). -/
inductive VSource where
  | plain | divide | copy | spawn
  | special (due : Nat)
  deriving DecidableEq, Repr

/-- Is it the result of a special function? -/
def VSource.isSpecial : VSource → Bool
  | .special _ => true
  | _ => false

/-- Has the cycle come in which the result arrives, so far as its rule states one (R265)? -/
def VSource.ripe (v : VSource) (cyc : Nat) : Bool :=
  match v with
  | .special due => decide (due ≤ cyc)
  | _ => true

/-- A pending variable-latency result (R178): its serial number, the registers it writes, and the values and flags
once they are known. -/
structure VPend where
  id : Nat
  regs : List RegId
  values : Option (List Vec)
  flags : Word
  source : VSource
  deriving DecidableEq, Repr

/-- The user CSRs of a slot (R79) other than the trap CSRs. -/
structure UserCsr where
  rmode : Word
  fflags : Word
  vm : Word
  qen : Word
  sen : Word
  promise : Word
  waitlim : Word
  leaselim : Word
  schk : Word
  mxshape : Word
  fmt : Vector (BitVec 32) 4
  scl : Vector Word 4
  tray : Word
  txn : Word
  deriving DecidableEq, Repr

/-- The user CSRs at pick-up (R79, R80). -/
def UserCsr.pickUp : UserCsr :=
  { rmode := 0, fflags := 0, vm := BitVec.allOnes 64, qen := 0, sen := 0, promise := 0, waitlim := 1000000,
    leaselim := 512, schk := 0, mxshape := 0x404040, fmt := Vector.replicate 4 0, scl := Vector.replicate 4 0,
    tray := 0, txn := 0 }

/-- A handle register (R76): valid, the record's address, the cached record and the mark for reload (R116). -/
structure Handle where
  valid : Bool
  addr : Word
  record : Vec
  reload : Bool
  deriving DecidableEq, Repr

/-- An INVALID handle (R76). -/
def Handle.invalid : Handle := ⟨false, 0, 0, false⟩

/-- A chunk read ahead (R262, R263): its bytes, the cause and value it traps with at its pop, or the page whose fault
parks the slot there. -/
inductive Chunk where
  | data (v : Vec)
  | trap (cause : Nat) (tval : Word)
  | fault (page : Nat)
  deriving DecidableEq, Repr

/-- A stream of a slot (R261, R262): configuration, the next chunk to pop or push, how many
have been asked for, and the chunks read ahead. -/
structure Stream where
  on : Bool
  write : Bool
  scratch : Bool
  ew : Nat
  base : Word
  len : Nat
  stride : Nat
  pos : Nat
  fetched : Nat
  ahead : List Chunk
  deriving DecidableEq, Repr

/-- A stream that is not configured. -/
def Stream.off : Stream := ⟨false, false, false, 1, 0, 0, 64, 0, 0, []⟩

/-- The qs function of a slot (R265): the function code, the lane type, the rounding and MK. -/
structure QsFn where
  fn : Nat
  lt : LaneT
  rm : RmSel
  merge : Bool
  deriving DecidableEq, Repr

/-- A pair of the top-k unit (R267): key and index. -/
structure KPair where
  key : BitVec 32
  idx : BitVec 32
  deriving DecidableEq, Repr

/-- A top-k session (R266): the key type, the order, k, the index counter, the held set best first, whether it is
open, and what `topk.out` has still to produce. -/
structure TopK where
  lt : LaneT
  smallest : Bool
  k : Nat
  counter : BitVec 32
  held : List KPair
  isOpen : Bool
  out : List Vec
  deriving DecidableEq, Repr

/-- The address spaces of an access (R215). -/
inductive Space where
  | global | scratch
  deriving DecidableEq, Repr

/-- Where a translated byte lies (R83, R107, R383): device memory by device physical address, or host memory by
host physical address under a coherent or a non-coherent mapping. -/
inductive Loc where
  | dev (pa : Nat)
  | host (pa : Nat) (coherent : Bool)
  deriving DecidableEq, Repr

/-- The operations of atomics and reductions (R234). -/
inductive AtomOp where
  | add | and | or | xor | swap | min | max | minZ | maxZ | cas | fadd
  deriving DecidableEq, Repr

/-- What an access does at its performing point (R125): bytes little-endian. -/
inductive AccessOp where
  /-- A load of n bytes. -/
  | load (n : Nat)
  /-- A store of the bytes listed with their offsets from the address. -/
  | store (bytes : List (Nat × Byte))
  /-- An atomic or reduction of n bytes with operands b and d, rounding mode rm for `fadd` (R235). -/
  | atomic (op : AtomOp) (n : Nat) (b d : BitVec 128) (rm : Nat)
  /-- A relaxed access to elements through a handle (R287): the record, the elements, the values stored or none for a load,
  the places of the pages they lie in, and the bytes from the access's address on that it may touch. -/
  | elems (rec : Vec) (es : List (Nat × Nat × Nat)) (vs : Option (List Nat)) (locs : List (Nat × Loc)) (span : Nat)
  deriving DecidableEq, Repr

/-- How a loaded value becomes a register value: integer with extension, a vector, or a pair (R220, R221, R235). -/
inductive LoadKind where
  | int (n : Nat) (signed : Bool)
  | vec
  | pair
  | none
  /-- The value is what the instruction goes on with (R386). -/
  | again
  deriving DecidableEq, Repr

/-- A relaxed access of a slot that has left it and is not performed yet (R222, R237): stream writes and operand-slot
accesses are kept here too. `tx` is the transaction that issued it: it goes on when its continuation ends (R290); `since`
is the tick it left its slot in. -/
structure Relaxed where
  id : Nat
  tx : Option Nat
  space : Space
  addr : Word
  loc : Option Loc
  op : AccessOp
  kind : LoadKind
  red : Bool
  counts : Bool
  since : Nat
  deriving DecidableEq, Repr

/-- A leased line (R228): its key at the homes, its virtual address, whether it is host memory (where a line is one
64-byte sector, R139), the line as taken with the held stores, and which bytes they wrote (R133). -/
structure LeaseLine where
  line : Nat
  va : Nat
  host : Bool
  data : BitVec 1024
  mask : BitVec 128
  deriving DecidableEq, Repr

/-- A held lease (R228 to R233): the lines, the cycle the first was held in, the limit in cycles, the instructions
issued since, whether the sequence is still bounded, and the copies of its code lines (R230). -/
structure Lease where
  lines : List LeaseLine
  start : Nat
  limit : Nat
  issued : Nat
  bounded : Bool
  code : List (Nat × Line)
  deriving DecidableEq, Repr

/-- A copy request (R281) as its slot hands it over: the serial number of its status, the four words, the destination
field, the handle it names, its transaction and the level of its slot. -/
structure CopyReq where
  id : Nat
  h : Handle
  tx : Option Nat
  level : Level
  w0 : Word
  w1 : Word
  w2 : Word
  w3 : Word
  d : Reg
  deriving DecidableEq, Repr

/-- A cause that is raised between instructions and not taken yet (R336); sync for one that is taken at the next
boundary without ASYNC (BARRIER_ABORTED, R243). -/
structure Cause where
  code : Nat
  tval : Word
  async : Bool
  deriving DecidableEq, Repr

/-- A trap that its instruction has raised in its issue cycle and that waits for the results that entry waits for
(R179, R333): cause, xTVAL, xTPC and ASYNC. -/
structure HeldTrap where
  cause : Nat
  tval : Word
  tpc : Word
  async : Bool
  deriving DecidableEq, Repr

/-- An invalidation of remote-data copies that a write of slot key `slot` still waits for (R90): its line, and the
serial number of the relaxed access that wrote, or none for the slot's non-relaxed access. -/
structure Purge where
  slot : Nat
  id : Option Nat
  line : Nat
  deriving DecidableEq, Repr

/-- A store that a slot has read before it completed (R132): a sequenced write, by partition, range and number, or a write
whose remote-data copies are still to be invalidated. -/
inductive Seen where
  | update (part range seq : Nat)
  | purge (x : Purge)
  deriving DecidableEq, Repr

/-- What a slot that cannot issue is waiting for (R31). -/
inductive Wait where
  /-- A non-relaxed access performed or under way; ends at its acknowledgement (R127). -/
  | access
  /-- A pending result of one of these registers; the instruction issues again (R178). -/
  | result (regs : List RegId)
  /-- A deferred `take` or `peek` at a word, by data-window scratch address (R225). -/
  | deferred (addr : Nat)
  /-- A barrier wait: name, generation, status field and whether it arrived too (R242). -/
  | barrier (name gen : Nat) (d : Reg) (sync : Bool)
  /-- A lease whose line is not held yet (R228). -/
  | leaseLine (line : Nat) (d : Reg)
  /-- An access to a line that others hold, in arrival order (R229, R135, R86); the instruction issues again. -/
  | line (part line : Nat) (ea : Word)
  /-- A granule being reclassified (R86). -/
  | granule (part gran : Nat) (ea : Word)
  /-- A unit of a relayout that the access must wait for (R121), forced ahead by a write. -/
  | unit (part conv u : Nat) (forced : Bool)
  /-- A fence with its scope code (R131). -/
  | fence (scope : Nat)
  /-- The slot's own earlier relaxed accesses to some of these bytes (R126). -/
  | own (space : Space) (addr n : Nat)
  /-- An access performed by another device of the pod (R386): the device, the address, the destination and the load's
  kind. -/
  | remote (dev : Nat) (ea : Word) (d : Reg) (kind : LoadKind)
  /-- The instruction goes on: another device has answered its access (R386), or it looks again at what keeps an engine's
  access of it. -/
  | answered
  /-- Accesses under way through the version of a record that `th.relay` replaces (R117). -/
  | oldVersion (part : Nat) (rec : Vec)
  /-- A translation on its way, or a page fault with no free park area (R374, R376). -/
  | xlat (part page : Nat)
  /-- READY but held: the same for a relaxed access or reduction, which leaves the slot only after its checks (R216). -/
  | xlatHeld (part page : Nat)
  /-- A read of an empty `qm`, `qs`, `qk` or `qi`, or a write of a full `qs` or `qk` (R72): queue 0 to 3. -/
  | queueData (q : Nat)
  | queueRoom (q : Nat)
  /-- The next chunk of stream k, read ahead and not arrived (R262). -/
  | chunk (k : Nat)
  /-- `cpy` with a full FIFO (R282). -/
  | copyFifo
  /-- `red.*` with the pending counter at 8 (R237). -/
  | pending
  /-- `th.wait` on a conversion of a partition with its state block address (R286). -/
  | conversion (part block : Nat)
  /-- A CSR access naming `FFLAGS` (R210). -/
  | flags
  /-- The spill engine (R343, R345). -/
  | spillEngine
  /-- Sleep until a tick (R212). -/
  | sleep (tick : Nat)
  /-- `wfe` with its mask, deadline and status field (R347). -/
  | wfe (mask : Nat) (deadline : Nat) (d : Reg)
  /-- A status of the sequencer, Knead engine or hub on its way (R288). -/
  | status
  /-- A function whose bring-up step has not ended (R409); the instruction issues again. -/
  | bringup
  /-- A halted slot (R335). -/
  | halted
  /-- READY but held: the next code line is on its way (R208). -/
  | fetch (line : Nat)
  /-- READY but held: the relaxed-access limit (R222). -/
  | relaxedRoom
  /-- READY but held: room in the matrix port (R275). -/
  | portRoom
  /-- READY but held: operand slots not ready (R274, R276, R278); limited for `mx.mul` and `mx.mrot`. -/
  | operands (os : List Nat) (limited : Bool)
  /-- READY but held: an earlier `mx.mrot` (R278). -/
  | mrot
  /-- The results that trap entry waits for (R333). -/
  | drain
  /-- Every access and result of the slot but accepted copies, before it leaves or orders (R100, R126, R343, R376). -/
  | drainAll
  /-- The pending results, copy statuses apart, and queued matrix instructions that `tx.end` and `suspend` wait for (R290,
  R292). -/
  | ending
  /-- SAVE: the results that parking on a page waits for, before the area of this number is written (R376). -/
  | parking (area page : Nat)
  /-- SAVE: `suspend` writes its record (R292). -/
  | saving
  /-- A departure to another core for this access, a load or a `take` or `peek` (R100). -/
  | migrate (d : Reg) (addr : Word) (op : AccessOp) (kind : LoadKind) (fe : Bool) (empties : Bool)
  /-- A subscribed segment in INVALID or INTRANSIT (R102). -/
  | segment (core seg : Nat)
  deriving DecidableEq, Repr

/-- The state a slot keeps for itself (R10, R22, R66, R79, R331, R351). -/
structure Slot where
  st : SlotSt
  wait : Option Wait
  waitSince : Nat
  resv : Option Nat
  tx : Option Nat
  halted : Bool
  x : Vector Word 16
  f : Vector Vec 16
  h : Vector Handle 8
  pc : Word
  level : Level
  ctx : Word
  home : Nat
  place : Option (Nat × Nat)
  away : Option (Nat × Nat)
  pend : List PendWrite
  cover : List (RegId × Nat)
  vpend : List VPend
  readyAt : Nat
  yieldTo : Option (List Nat × Nat)
  line : Option (Word × Line)
  xfer : Word
  brkSkip : Bool
  ir : Word
  csr : UserCsr
  tu : TrapRegs
  ts : TrapRegs
  tm : TrapRegs
  sdlg : Vector Word 4
  sftrap : Word
  sbpc : Word
  pctb : Word
  streams : Vector Stream 4
  qm : List Vec
  qsFn : Option QsFn
  qs : List (Option Vec)
  qk : List Vec
  topk : Option TopK
  relaxed : List Relaxed
  lease : Option Lease
  copies : List CopyReq
  causes : List Cause
  redIdx : Nat
  xfault : Option Nat
  replay : Option Nat
  cont : Nat
  resume : Option Word
  answer : Option (List (RegId × Vec))
  acks : Nat
  accessed : Option (Word × Loc)
  seen : List Seen
  oldCopies : List Nat
  had : List Word
  admitted : List Nat
  trapping : Option HeldTrap
  tag : Word
  deriving DecidableEq, Repr

/-- A slot after reset: FREE, at U, with every register zero (R22; log entries 4 and 5). -/
def Slot.reset : Slot :=
  { st := .free, wait := none, waitSince := 0, resv := none, tx := none, halted := false, x := Vector.replicate 16 0,
    f := Vector.replicate 16 0, h := Vector.replicate 8 Handle.invalid, pc := 0, level := .u, ctx := 0, home := 0,
    place := none, away := none, pend := [], cover := [], vpend := [], readyAt := 0, yieldTo := none, line := none,
    xfer := 0, brkSkip := false, ir := 0, csr := UserCsr.pickUp, tu := TrapRegs.zero, ts := TrapRegs.zero,
    tm := TrapRegs.zero, sdlg := Vector.replicate 4 0, sftrap := 0, sbpc := 0, pctb := 0,
    streams := Vector.replicate 4 Stream.off, qm := [], qsFn := none, qs := [], qk := [], topk := none,
    relaxed := [], lease := none, copies := [], causes := [], redIdx := 0, xfault := none, replay := none, cont := 0, resume := none, answer := none,
    acks := 0, accessed := none, seen := [], oldCopies := [], had := [], admitted := [], trapping := none, tag := 0 }

/-! ## Cores -/

/-- A barrier (R95) with its waiters: slot key, generation, status field and whether it arrived too. -/
structure Barrier where
  live : Bool
  tray : Bool
  gen : Nat
  expect : Nat
  arrived : Nat
  waiters : List (Nat × Nat)
  deriving DecidableEq, Repr

/-- A barrier that was never initialised (R95). -/
def Barrier.off : Barrier := ⟨false, false, 0, 0, 0, []⟩

/-- The states of a segment (R96, R102). -/
inductive SegSt where
  | none | invalid | shared | owned | intransit
  deriving DecidableEq, Repr

/-- A segment (R96, R101): range address, state, last sequence number applied, and the slot whose `sub.off` waits. -/
structure Seg where
  range : Nat
  st : SegSt
  seq : Nat
  leaving : Option Nat
  deriving DecidableEq, Repr

/-- A segment that is plain scratchpad (R96). -/
def Seg.plain : Seg := ⟨0, .none, 0, none⟩

/-- A deferred TAKE or PEEK (R225): the slot key, whether it empties the word, the destination, and whether its entry went to
the overflow area (R226). -/
structure Deferred where
  slot : Nat
  take : Bool
  d : Reg
  spilled : Bool
  deriving DecidableEq, Repr

/-- The states of an operand slot (R271). -/
inductive OsSt where
  | free | empty | filling | full | shipping
  deriving DecidableEq, Repr

/-- An outlier entry of an operand slot (R272). -/
structure Outlier where
  r : Nat
  k : Nat
  value : BitVec 32
  deriving DecidableEq, Repr

/-- An operand slot (R271, R272): state, claiming transaction, tile, list, and the data on its way. -/
structure OpSlot where
  st : OsSt
  tx : Option Nat
  tile : Tile
  list : List Outlier
  deriving DecidableEq, Repr

/-- An unclaimed operand slot. -/
def OpSlot.free : OpSlot := ⟨.free, none, 0, []⟩

/-- Where the tile of an operand-slot load comes from (R274): 4,096 bytes, with the address and number of their outlier
lists, or a block of a tensor with its row and column of origin and whether slot rows are columns. -/
inductive OsSrc where
  | bytes (space : Space) (addr : Word) (loc : Option Loc) (lists : Word) (n : Nat)
  | block (rec : Vec) (m a b : Nat) (cols : Bool)
  deriving DecidableEq, Repr

/-- An instruction in the matrix port (R275); loads and stores carry the serial numbers of their relaxed accesses, a
multiply its shape and `TRAY`. -/
inductive PortOp where
  | claim (os vid : Nat)
  | load (os : Nat) (src : OsSrc) (tile : Tile) (list : List Outlier) (ids : List Nat)
  | store (os : Nat) (space : Space) (addr : Word) (loc : Option Loc) (ids : List Nat)
  | release (os : Nat)
  | multiply (f : MxFields) (m n k : Nat) (rotate : Bool) (tray : Word)
  | zero (seg : Nat) (m n : Nat)
  | drain (f : DrainFields) (m n : Nat) (rm : Nat) (sa sb : BitVec 32)
  deriving DecidableEq, Repr

/-- A queued matrix instruction: its issuing slot, the serial of the continuation there, its formats and transaction,
the cycle it retires in once started, and the chunks a drain has still to push. -/
structure PortEntry where
  slot : Nat
  serial : Nat
  tx : Option Nat
  fmt : Vector (BitVec 32) 4
  op : PortOp
  started : Bool
  due : Nat
  out : List Vec
  flags : Word
  deriving DecidableEq, Repr

/-- A tile on its way to another operand slot (R278, R52). -/
structure Shipment where
  tx : Option Nat
  core : Nat
  os : Nat
  tile : Tile
  list : List Outlier
  srcSlot : Nat
  cont : Nat
  deriving DecidableEq, Repr

/-- A division in the core's divider (R199). -/
structure DivJob where
  slot : Nat
  id : Nat
  value : Word
  due : Nat
  deriving DecidableEq, Repr

/-- A place of a work list (R25): the continuation that owns it (a transaction or none), whether a record is queued
in it, its entry order, whether it is in transit (R30), and the tick it was marked so (R29). -/
structure Place where
  tx : Option Nat
  queued : Bool
  order : Nat
  transit : Bool
  marked : Nat
  deriving DecidableEq, Repr

/-- What a continuation carries between cores: a slot's state without its reservation (R75, R100). -/
structure Context where
  slot : Slot
  src : Nat
  homeSlot : Option (Nat × Nat)
  d : Reg
  addr : Word
  op : AccessOp
  kind : LoadKind
  fe : Bool
  empties : Bool
  deriving DecidableEq, Repr

/-- A line of a first-level cache (R87): its bytes, which of them are written and not yet written back, where it lies,
and whether its translation let it be written. -/
structure L1Line where
  data : BitVec 1024
  dirty : BitVec 128
  loc : Loc
  writable : Bool
  deriving DecidableEq, Repr

/-- A request of the spill engine (R367): spill or fill, the issuing slot, the target and the area. -/
structure SpillReq where
  isFill : Bool
  issuer : Option Nat
  target : Nat
  area : Nat
  d : Reg
  fault : Option (Nat × Word)
  deriving DecidableEq, Repr

/-- The state of a core (R7, R10) under its logical number. -/
structure Core where
  cyc : Nat
  last : Nat
  y : Vector Word 16
  g : Vector Vec 16
  owner : Option Nat
  scratch : SMap Byte
  tags : SMap Bool
  bars : SMap Barrier
  segs : SMap Seg
  deferred : SMap (List Deferred)
  vtab : Vector (BitVec 5) 32
  vtabHeld : Option (Vector (BitVec 5) 32)
  vtabAt : Nat
  sfClosed : Option Nat
  os : SMap OpSlot
  port : List PortEntry
  outgoing : List Shipment
  divq : List DivJob
  copyRobin : Nat
  qi : List Vec
  qiSlot : Option Nat
  places : SMap Place
  events : List (Nat × Word × Word)
  eventLost : Bool
  rq : Vector (List (BitVec 48)) 4
  landing : List Context
  spillq : List SpillReq
  parked : List (Nat × Nat × Nat)
  icache : SMap Line
  l1 : SMap L1Line
  detTurn : Nat
  isParked : Bool
  absent : Bool
  physOver : Option Nat
  saveb : Word
  slbi : Word
  smsg : Word
  smsgHeld : Option Word
  sevec : Word
  sdovf : Word
  spark : Word
  mdlg : Word
  mpart : Word
  lastBalance : Nat
  deriving DecidableEq, Repr

/-- A core after reset: `SLBI` 4,096, every pipe-table entry ANY, everything else zero or empty (R69, R80, R225,
R351; log entries 3, 5, 6 and 7). -/
def Core.reset : Core :=
  { cyc := 0, last := 15, y := Vector.replicate 16 0, g := Vector.replicate 16 0, owner := none, scratch := [],
    tags := [], bars := [], segs := [], deferred := [], vtab := Vector.replicate 32 0x10, vtabHeld := none,
    vtabAt := 0, sfClosed := none, os := [], port := [], outgoing := [], divq := [], copyRobin := 0,
    qi := [], qiSlot := none, places := [], events := [], eventLost := false, rq := Vector.replicate 4 [],
    landing := [], spillq := [], parked := [], icache := [], l1 := [], detTurn := 0, isParked := false, absent := false,
    physOver := none, saveb := 0, slbi := 4096, smsg := 0, smsgHeld := none, sevec := 0, sdovf := 0, spark := 0,
    mdlg := 0, mpart := 0, lastBalance := 0 }

/-! ## Messages on the fabrics -/

/-- The barrier operations (R242). -/
inductive BarOp where
  | init (spec : Nat)
  | arr
  | wait (gen : Nat)
  | sync
  | inv
  deriving DecidableEq, Repr

/-- The full/empty operations (R225). -/
inductive FeOp where
  | take | peek | put (v : Word) | clr | set
  deriving DecidableEq, Repr

/-- What an answer to a message does at its sender: acknowledge a non-relaxed access, complete a relaxed one by
serial number, or nothing (R220, R222). -/
inductive Reply where
  | ack
  | relaxed (id : Nat)
  | none
  deriving DecidableEq, Repr

/-- What travels between cores (R98, R244, R27, R30, R100, R278), between the homes and subscribers (R101) and
between the sequencer and the lock managers (R50). -/
inductive Payload where
  | bank (addr : Word) (op : AccessOp) (kind : LoadKind) (d : Reg) (reply : Reply)
  | fe (addr : Nat) (op : FeOp) (d : Reg)
  | bar (name : Nat) (op : BarOp) (d : Reg)
  | mail (data : Vec) (vid : Nat)
  | spawn (tx : Option Nat) (words : List Word) (vid : Nat)
  | context (c : Context)
  | refusal (c : Context)
  | records (rs : List (Nat × List Word)) (tx : Nat)
  | shipAnswer (accepted : List Nat) (refused : List Nat)
  | record (place : Nat) (words : List Word) (tx : Option Nat)
  | tile (s : Shipment)
  | update (part range seq off : Nat) (bytes : List (Nat × Byte)) (writer : Option (Nat × Reply))
  | lockReq (tx tile : Nat)
  | lockRel (tx tile : Nat)
  deriving DecidableEq, Repr

/-- A message: its serial number, the slot or core it comes from, the core it goes to, and the transaction it belongs
to (R57). -/
structure Msg where
  id : Nat
  src : Nat
  srcSlot : Nat
  dst : Nat
  body : Payload
  tx : Option Nat
  deriving DecidableEq, Repr

/-! ## Partitions -/

/-- A translation held by a slice (R372): page size as a power of two, permissions, host physical address. -/
structure XEntry where
  log2 : Nat
  read : Bool
  write : Bool
  exec : Bool
  pa : Nat
  deriving DecidableEq, Repr

/-- What an access needs of a translation (R375). -/
inductive Need where
  | read | write | exec
  deriving DecidableEq, Repr

/-- A translation request, or the page request that followed it (R374, R375): page address, what is needed, the tick
it was sent, whether it was sent twice, whether it is a page request, its slice, and whether it still waits there for
one of the sixteen places (R371). -/
structure XReq where
  id : Nat
  page : Nat
  need : Need
  sent : Nat
  again : Bool
  paging : Bool
  slice : Nat
  queued : Bool
  deriving DecidableEq, Repr

/-- A granule being reclassified (R86, R348): the entry to set, the slots it holds in arrival order, and whether the entry
is set and they are being released. -/
structure Reclass where
  id : Nat
  gran : Nat
  entry : BitVec 16
  held : List Nat
  ready : Bool
  deriving DecidableEq, Repr

/-- A subscribed range (R101): where it lies, the last sequence number given, the subscribers (core, segment), and
the numbers that subscribers have still to acknowledge, each with the writer that waits for it. -/
structure Range where
  loc : Loc
  seq : Nat
  subs : List (Nat × Nat)
  unacked : List (Nat × List Nat × Option (Nat × Reply))
  deriving DecidableEq, Repr

/-- The states of a conversion unit (R118). -/
inductive UnitSt where
  | old | busy | new
  deriving DecidableEq, Repr

/-- A conversion under way (R117 to R121): the record's address, the old and the new record, the state block, the
unit states, the forced units in order, the die of its engine, whether it FAILED, and the page it waits for. -/
structure Conv where
  id : Nat
  addr : Nat
  block : Nat
  oldRec : Vec
  newRec : Vec
  units : List UnitSt
  forced : List Nat
  die : Nat
  failed : Bool
  page : Option Nat
  deriving DecidableEq, Repr

/-- What the sequencer keeps of a launch queue (R355 to R361): STATE, REASON, EIDX, the tick it became ready or was
last picked, the tick STATE 3 began, whether it is watched, the header, the cores it is pinned to, and the page
its descriptor waits for with whether that fault was final. -/
structure QueueSt where
  state : Nat
  reason : Nat
  eidx : Nat
  since : Nat
  blockedAt : Nat
  watched : Bool
  header : Nat
  pinned : List Nat
  parkedOn : Option (Nat × Bool)
  deriving DecidableEq, Repr

/-- A request in a tile's lock queue (R51): the transaction and its key, kind, translation done, granted. -/
structure LockReq where
  tx : Nat
  key : Nat
  excl : Bool
  xdone : Bool
  granted : Bool
  deriving DecidableEq, Repr

/-- A region of a DET phase (R142): base, pages, writer. -/
structure Region where
  base : Nat
  pages : Nat
  writer : Nat
  deriving DecidableEq, Repr

/-- An entry of the reduction log (R144): destination, operation, bytes, operand, mode, transaction key, lane, index. -/
structure LogEntry where
  addr : Nat
  op : AtomOp
  n : Nat
  value : BitVec 128
  rm : Nat
  key : Nat
  lane : Nat
  idx : Nat
  deriving DecidableEq, Repr

/-- A partition (R400): its record, partition-scope CSRs (R351, R354, R380), translation, page classes, line
ownership, subscriptions, conversions, numbering, queues, locks and DET phase. -/
structure Part where
  record : PartRecord
  srgn : Word
  srlog : Word
  srlogn : Word
  slqd : Word
  slqdHeld : Option Word
  spasid : Word
  shwin : Word
  sprto : Word
  spodw : Word
  spodt : Word
  hwin : List Region
  cls : SMap (BitVec 16)
  reclass : List Reclass
  xlat : SMap XEntry
  xreqs : List XReq
  pagesOff : Bool
  lines : SMap (List Nat)
  stuck : List Nat
  copyLines : SMap Nat
  invalidating : List (Nat × Nat)
  ranges : SMap Range
  convs : List Conv
  round : Nat
  pos : Nat
  roundAt : Option Nat
  closed : SMap Nat
  queues : SMap QueueSt
  lastPick : Vector Nat 4
  locks : SMap (List LockReq)
  regions : List Region
  phase : Option Nat
  logs : List LogEntry
  members : List Nat
  newMembers : Option Membership
  nextTxh : Nat
  deriving DecidableEq, Repr

/-- The partition record at reset: partition 0 has every island and every unreserved extent, the reserved one being
the highest of each die (extents 71, 143, 215 and 287; R399, R400). -/
def resetRecord (k : Nat) : PartRecord :=
  if k = 0 then
    let exts : BitVec 288 := ~~~((1#288 <<< 71) ||| (1#288 <<< 143) ||| (1#288 <<< 215) ||| (1#288 <<< 287))
    (1#512 ||| (0xFFFFFFFF#512 <<< 32)) ||| (exts.zeroExtend 512 <<< 64)
  else 0

/-- A partition after reset (R351, R380, R400). -/
def Part.reset (k : Nat) : Part :=
  { record := resetRecord k, srgn := 0, srlog := 0, srlogn := 0, slqd := 0, slqdHeld := none, spasid := 0, shwin := 0,
    sprto := 1000000000, spodw := 0, spodt := 0, hwin := [], cls := [], reclass := [], xlat := [], xreqs := [],
    pagesOff := false, lines := [], stuck := [], copyLines := [], invalidating := [], ranges := [], convs := [], round := 0,
    pos := 0, roundAt := none, closed := [], queues := [], lastPick := Vector.replicate 4 0, locks := [], regions := [],
    phase := none, logs := [], members := [], newMembers := none, nextTxh := 0 }

/-! ## Transactions -/

/-- Where a transaction stands (R48, R54, R55, R57, R60 to R63). -/
inductive TxSt where
  /-- In or waiting for its reconnaissance pass. -/
  | recon
  /-- Its pass has ended and it waits to be numbered. -/
  | unnumbered
  /-- Numbered; waiting for grants, pushes and crew slots. -/
  | waiting
  /-- Dispatched. -/
  | running
  /-- Discarded and to be placed again (R63, R61). -/
  | replacing
  /-- Ended with a terminal status that is still to be written. -/
  | closing
  deriving DecidableEq, Repr

/-- A tile of a transaction's sets after merging (R44): page address, lock kind, whether its old contents are
pushed and where, translation, grant, landing, and its snapshot (R62). -/
structure SetTile where
  tile : Nat
  excl : Bool
  push : Option (Nat × Nat)
  xdone : Bool
  granted : Bool
  landed : Bool
  snapshot : Option Tile
  deriving DecidableEq, Repr

/-- A transaction (R41 to R63): descriptor words, tiles, sequence key, placement (root core, width, height), crews
(core and its slots), the place of its entry continuation, counts and flags. -/
structure Tx where
  part : Nat
  txh : Nat
  queue : Option Nat
  desc : List Word
  scl : Vector Word 4
  sdlg : Vector Word 4
  sftrap : Word
  tiles : List SetTile
  key : Option Nat
  st : TxSt
  root : Option (Nat × Nat × Nat)
  crews : List (Nat × List Nat)
  live : Nat
  ended : Bool
  checks : Nat
  reexec : Nat
  nEntries : Nat
  nNotes : Nat
  status : Nat
  order : Nat
  failedCores : List Nat
  batch : Nat
  deriving DecidableEq, Repr

/-! ## Engines of the device -/

/-- A copy in progress (R283, R284): the request, the slot it came from, its partition, the tensor record, the
promised tick and whether the miss was raised; whether its lines were granted and which it still holds; the page it
waits for with whether that fault was final; the values read so far by move, the lines written, the flags its
conversions have raised (R151) and the scale word once it is read (R166). -/
structure CopyJob where
  req : CopyReq
  slot : Nat
  part : Nat
  record : Vec
  promise : Nat
  missed : Bool
  granted : Bool
  lines : List Nat
  page : Option (Nat × Bool)
  data : SMap Nat
  written : List Nat
  flags : Word
  scale : Option Word
  deriving DecidableEq, Repr

/-- A compute island (R402 to R404): frequency and requested frequency in units of 10 MHz, voltage in mV, thermal drop,
whether it is power-gated, and the nanosecond its clock took this frequency with the hundredths of cycles run by then
(R4). -/
structure Island where
  freq : Nat
  asked : Nat
  mv : Nat
  tripped : Bool
  gated : Bool
  since : Nat
  base : Nat
  deriving DecidableEq, Repr

/-- An island at its nominal point, 1.10 GHz and 350 mV (R11; log entry 9). -/
def Island.nominal : Island := ⟨110, 110, 350, false, false, 0, 0⟩

/-- A Stente direction (R387): the last sequence number sent and received, and the flits not acknowledged. -/
structure LinkSt where
  sent : Nat
  received : Nat
  unacked : List Flit
  deriving DecidableEq, Repr

/-- An entry of the boot journal (R410): the step, primary or alternate path, passed or failed. -/
structure JournalEntry where
  step : Nat
  primary : Bool
  passed : Bool
  deriving DecidableEq, Repr

/-- The status the mailbox gives a command (R400, R402). -/
inductive MailStatus where
  | done | refused | busy
  deriving DecidableEq, Repr

/-- Starter and the hub (R387, R388, R402 to R410). -/
structure Hub where
  mpod : Word
  ready : Word
  islands : SMap Island
  cap : Nat
  lowered : List (List Nat)
  lastCap : Nat
  planesDown : List (Nat × Nat)
  links : SMap LinkSt
  delivered : List Flit
  outFlits : List Flit
  offset : Int
  hold : Nat
  lastSync : Nat
  errors : SMap (List Nat)
  spares : SMap Nat
  absentBanks : List Nat
  repairs : List (Nat × Nat)
  deadLanes : List (Nat × Nat)
  lostStacks : List Nat
  retiring : List Nat
  imageA : FwImage
  imageB : FwImage
  activeB : Bool
  staged : Bool
  activating : Option Nat
  svn : Nat
  waitingCmds : List Instr
  journal : List JournalEntry
  step : Option (Nat × Bool × Nat)
  answer : List Byte
  reports : List (Nat × Nat)
  status : MailStatus
  detectors : SMap (Nat × Nat × Nat)
  deriving DecidableEq, Repr

/-- The hub after reset: nothing ready, the cap at 1,400 W, empty journal and images (R403, R409, R410; log entries 8
to 10). -/
def Hub.reset : Hub :=
  { mpod := 0, ready := 0, islands := [], cap := 1400, lowered := [], lastCap := 0, planesDown := [], links := [],
    delivered := [], outFlits := [], offset := 0, hold := 0, lastSync := 0, errors := [], spares := [], absentBanks := [],
    repairs := [], deadLanes := [], lostStacks := [], retiring := [], imageA := ⟨0, []⟩, imageB := ⟨0, []⟩, activeB := false,
    staged := false, activating := none, svn := 0, waitingCmds := [], journal := [], step := some (0, true, 0), answer := [],
    reports := [], status := .done, detectors := [] }

/-! ## The machine -/

/-- The whole device. `agenda` holds the events that are under way or that the outside brings; `draws`, `nextId`,
`turn`, `ns` (nanoseconds of the device's clock), `curCore` and `curSlot` are the model's own (log entries 1 to 3). `rdc` holds the lines in the remote-data caches,
by die × 2^32 + line (R90). -/
structure State where
  tick : Nat
  ns : Nat
  draws : Nat
  nextId : Nat
  agenda : List Instr
  turn : Nat
  curCore : Nat
  curSlot : Nat
  cores : SMap Core
  slots : SMap Slot
  parts : SMap Part
  txs : SMap Tx
  copies : List CopyJob
  fabric : List Msg
  devMem : List Host.Cell
  hostMem : List Host.Cell
  rdc : SMap (BitVec 1024)
  purges : List Purge
  saved : SMap Slot
  hostWait : List Nat
  hub : Hub
  deriving DecidableEq, Repr

/-- The machine right after a power-on reset: the time base at 0, every slot FREE, memory unlisted, bring-up about
to start (R11, R22, R410; log entries 2 to 10). -/
def State.reset : State :=
  { tick := 0, ns := 0, draws := 0, nextId := 0, agenda := [.bringup], turn := 0, curCore := 0, curSlot := 0, cores := [],
    slots := [], parts := [], txs := [], copies := [], fabric := [], devMem := [], hostMem := [], rdc := [],
    purges := [], saved := [], hostWait := [], hub := Hub.reset }

end Sys2Proof.Machine
end

