-- ==== Sys2Proof/Machine/Maps.lean ====
section
/-! DEFINITION. The maps of the state: lookup with a default, writing and removing an entry, and byte memories,
whose unlisted bytes read as zero and whose listed bytes are not zero (log entry 6). -/

namespace Sys2Proof.Machine

/-- The value at key `k`, `d` when the key is not listed. -/
def look {α : Type} : SMap α → α → Nat → α
  | [], d, _ => d
  | (j, v) :: m, d, k => if j = k then v else look m d k

/-- The map without key `k`. -/
def remove {α : Type} : SMap α → Nat → SMap α
  | [], _ => []
  | (j, v) :: m, k => if j = k then remove m k else (j, v) :: remove m k

/-- `(k, v)` placed before the first key above `k`. -/
def place {α : Type} : SMap α → Nat → α → SMap α
  | [], k, v => [(k, v)]
  | (j, w) :: m, k, v => if k < j then (k, v) :: (j, w) :: m else (j, w) :: place m k v

/-- The map with value `v` at key `k`. -/
def put {α : Type} (m : SMap α) (k : Nat) (v : α) : SMap α := place (remove m k) k v

/-- Are the keys strictly rising? -/
def rising {α : Type} : SMap α → Bool
  | [] => true
  | [_] => true
  | (j, _) :: (k, w) :: m => decide (j < k) && rising ((k, w) :: m)

/-- A byte memory: cells with strictly rising addresses, none of them zero. -/
abbrev Memory := List Host.Cell

/-- The canonical form of a byte memory. -/
def Memory.wf (m : Memory) : Bool := rising m && m.all (fun c => c.2 != 0)

/-- The byte at address `a`. -/
def readByte (m : Memory) (a : Nat) : Byte := look m 0 a

/-- The memory with byte `b` at address `a`; a zero byte removes the entry. -/
def writeByte (m : Memory) (a : Nat) (b : Byte) : Memory :=
  if b = 0 then remove m a else put m a b

/-- The `n` bytes from address `a` on, lowest first. -/
def readBytes (m : Memory) (a : Nat) : Nat → List Byte
  | 0 => []
  | n + 1 => readByte m a :: readBytes m (a + 1) n

/-- The memory with the bytes written from address `a` on. -/
def writeBytes (m : Memory) (a : Nat) : List Byte → Memory
  | [] => m
  | b :: bs => writeBytes (writeByte m a b) (a + 1) bs

/-- Bytes, lowest first, as a number (R2). -/
def bytesToNat : List Byte → Nat
  | [] => 0
  | b :: bs => b.toNat + 256 * bytesToNat bs

/-- The low `n` bytes of a number, lowest first (R2). -/
def natToBytes : Nat → Nat → List Byte
  | 0, _ => []
  | n + 1, v => BitVec.ofNat 8 v :: natToBytes n (v / 256)

/-- A list with the element at index `i` replaced. -/
def setAt {α : Type} : List α → Nat → α → List α
  | [], _, _ => []
  | _ :: xs, 0, y => y :: xs
  | x :: xs, i + 1, y => x :: setAt xs i y

/-- The keys of a map whose value passes. -/
def keysOf {α : Type} (m : SMap α) (p : α → Bool) : List Nat := (m.filter (fun e => p e.2)).map (·.1)

end Sys2Proof.Machine
end

