-- ==== Sys2Proof/Machine/Ops.lean ====
section
/-! DEFINITION. The named operations over the state that the meanings share: reaching cores, slots and partitions,
the registers and their pending results, holding a slot, completing an instruction, taking an exception (R332,
R333, R335) and returning from one (R334). -/

namespace Sys2Proof.Machine

/-- The outcome of a step. -/
abbrev Out := Host.Outcome State Fault Refusal

/-! ## Cores, slots, partitions -/

/-- The key of slot `k` of core `c` in the map of slots. -/
def slotKey (c k : Nat) : Nat := 16 * c + k

/-- Core `c`. -/
def State.core (s : State) (c : Nat) : Core := look s.cores Core.reset c

/-- Core `c` replaced. -/
def State.setCore (s : State) (c : Nat) (v : Core) : State := { s with cores := put s.cores c v }

/-- The slot with key `k`. -/
def State.slot (s : State) (k : Nat) : Slot := look s.slots Slot.reset k

/-- The slot with key `k` replaced. -/
def State.setSlot (s : State) (k : Nat) (v : Slot) : State := { s with slots := put s.slots k v }

/-- Partition `p`. -/
def State.part (s : State) (p : Nat) : Part := look s.parts (Part.reset p) p

/-- Partition `p` replaced. -/
def State.setPart (s : State) (p : Nat) (v : Part) : State := { s with parts := put s.parts p v }

/-- Transaction `t`, when it lives. -/
def State.tx? (s : State) (t : Nat) : Option Tx := look (s.txs.map fun e => (e.1, some e.2)) none t

/-- Transaction `t` replaced. -/
def State.setTx (s : State) (t : Nat) (v : Tx) : State := { s with txs := put s.txs t v }

/-- The key of the issuing slot. -/
def State.cur (s : State) : Nat := slotKey s.curCore s.curSlot

/-- The issuing slot. -/
def State.me (s : State) : Slot := s.slot s.cur

/-- The issuing slot replaced. -/
def State.setMe (s : State) (v : Slot) : State := s.setSlot s.cur v

/-- The core of the issuing slot. -/
def State.myCore (s : State) : Core := s.core s.curCore

/-- The core of the issuing slot replaced. -/
def State.setMyCore (s : State) (v : Core) : State := s.setCore s.curCore v

/-- The partition of core `c`: `MPART`[2:0] (R352). -/
def State.partOf (s : State) (c : Nat) : Nat := ((s.core c).mpart.extractLsb' 0 3).toNat

/-- The partition of the issuing slot's core. -/
def State.myPart (s : State) : Nat := s.partOf s.curCore

/-- A new serial number. -/
def State.fresh (s : State) : Nat × State := (s.nextId, { s with nextId := s.nextId + 1 })

/-- The free-value counter, advanced. -/
def State.draw (s : State) : State := { s with draws := s.draws + 1 }

/-- An event put on the agenda. -/
def State.post (s : State) (e : Instr) : State := { s with agenda := s.agenda ++ [e] }

/-- A core that exists in the partition layout: a logical number below 512 that is not absent (R7, R9). -/
def State.present (s : State) (c : Nat) : Bool := decide (c < 512) && !(s.core c).absent

/-! ## Registers -/

/-- An integer register field. -/
def xreg (r : Reg) : RegId := ⟨false, r⟩

/-- A vector register field. -/
def vreg (r : Reg) : RegId := ⟨true, r⟩

/-- x0, which discards what is written to it and never waits (R68). -/
def RegId.isX0 (r : RegId) : Bool := !r.vec && r.r == 0

/-- The value of an integer register (R66, R67): x0 reads zero, the shared bank is the core's. -/
def readX (s : State) (r : Reg) : Word :=
  if r.shared then s.myCore.y[r.idx] else if r = 0 then 0 else s.me.x[r.idx]

/-- The plain value of a vector register (R66, R67). -/
def readV (s : State) (r : Reg) : Vec :=
  if r.shared then s.myCore.g[r.idx] else s.me.f[r.idx]

/-- A result written to a register of the slot with key `k`, or to the shared bank of core `c` (R66, R68). -/
def landReg (s : State) (c k : Nat) (reg : RegId) (v : Vec) : State :=
  match reg.vec, reg.r.shared with
  | false, false =>
    if reg.r = 0 then s
    else s.setSlot k { s.slot k with x := (s.slot k).x.set reg.r.idx (v.setWidth 64) }
  | true, false => s.setSlot k { s.slot k with f := (s.slot k).f.set reg.r.idx v }
  | false, true => s.setCore c { s.core c with y := (s.core c).y.set reg.r.idx (v.setWidth 64) }
  | true, true => s.setCore c { s.core c with g := (s.core c).g.set reg.r.idx v }

/-! ## FFLAGS and arithmetic causes (R80, R339) -/

/-- The number of the lowest set bit below bit `n`, none when all are clear. -/
def lowestBit (w : Word) : Nat → Option Nat
  | 0 => none
  | n + 1 => match lowestBit w n with
    | some i => some i
    | none => if w.getLsbD n then some n else none

/-- A slot after an instruction of it retires with flags `f`: the flags are ORed into `FFLAGS`, and an enabled
arithmetic cause becomes pending, with the flags as its value (R80, R339). -/
def Slot.orFlags (sl : Slot) (f : Word) : Slot :=
  let sl' := { sl with csr := { sl.csr with fflags := sl.csr.fflags ||| (f &&& 0xFF) } }
  match lowestBit (f &&& sl.sftrap) 8 with
  | none => sl'
  | some i => { sl' with causes := sl'.causes ++ [⟨0x80 + i, f, true⟩] }

/-! ## Results on their way (R176 to R180) -/

/-- The fixed-latency results of a list landed in their registers, with their flags. -/
def landList (s : State) (c k : Nat) : List PendWrite → State
  | [] => s
  | w :: ws =>
    let s1 := match w.reg with
      | some r => landReg s c k r w.value
      | none => s
    let s2 := if w.flags = 0 then s1 else s1.setSlot k ((s1.slot k).orFlags w.flags)
    landList s2 c k ws

/-- The fixed-latency results of slot `k` of core `c` that are due land (R176). -/
def landDue (s : State) (c k : Nat) : State :=
  let key := slotKey c k
  let sl := s.slot key
  let cyc := (s.core c).cyc
  match sl.pend.filter (fun w => w.due ≤ cyc) with
  | [] => s
  | ws => landList (s.setSlot key { sl with pend := sl.pend.filter (fun w => cyc < w.due) }) c key ws

/-- The results of every slot of core `c` land in decreasing slot number, so that of two writes to one shared
register in one cycle the lower-numbered slot's stands (R70). -/
def landCore (s : State) (c : Nat) : Nat → State
  | 0 => s
  | k + 1 => landCore (landDue s c k) c k

/-- Results that arrive now: they land in the next cycle of core `c`, with the results that are due in it, so that R70
settles writes of several slots to one shared register. -/
def landSoon (s : State) (c k : Nat) (regs : List RegId) (vs : List Vec) (flags : Word) : State :=
  let due := (s.core c).cyc
  let sl := s.slot k
  let ws := (regs.zip vs).filterMap fun e => if e.1.isX0 then none else some (⟨some e.1, e.2, due, 0⟩ : PendWrite)
  let fs : List PendWrite := if flags = 0 then [] else [⟨none, 0, due, flags⟩]
  s.setSlot k { sl with pend := sl.pend ++ ws ++ fs }

/-- One result that arrives now. -/
def landOne (s : State) (c k : Nat) (r : RegId) (v : Vec) : State := landSoon s c k [r] [v] 0

/-- A register as a coverage key: x0 is never pending. -/
def tracked (rs : List RegId) : List RegId := rs.filter (fun r => !r.isX0)

/-- A fixed-latency result of the issuing slot, of latency `lat`, with the flags it raises (R176, R177). -/
def writeFixed (s : State) (lat : Nat) (reg : RegId) (v : Vec) (flags : Word) : State :=
  let w : PendWrite := ⟨if reg.isX0 then none else some reg, v, s.myCore.cyc + lat, flags⟩
  let cov := if reg.isX0 then s.me.cover else s.me.cover ++ [(reg, lat)]
  s.setMe { s.me with pend := s.me.pend ++ [w], cover := cov }

/-- An F-class integer result without flags. -/
def writeInt (s : State) (lat : Nat) (d : Reg) (v : Word) : State :=
  writeFixed s lat (xreg d) (v.setWidth 512) 0

/-- A pending variable-latency result of the slot with key `k`, its values known or not (R178). A result for x0
alone is lost and nothing waits for it (R68). -/
def pendV (s : State) (k : Nat) (source : VSource) (regs : List RegId) (values : Option (List Vec)) (flags : Word) :
    Nat × State :=
  let (id, s) := s.fresh
  let sl := s.slot k
  (id, s.setSlot k { sl with vpend := sl.vpend ++ [⟨id, regs, values, flags, source⟩] })

/-- The lease's sequence stops being bounded (R230). -/
def unbound (s : State) : State :=
  s.setMe { s.me with lease := s.me.lease.map fun l => { l with bounded := false } }

/-- A variable-latency result of the issuing slot whose value is already computed; it arrives by an event (R176). -/
def writeVar (s : State) (d : RegId) (v : Vec) (flags : Word) : State :=
  let s := unbound s
  if d.isX0 && flags == 0 then s
  else
    let (id, s) := pendV s s.cur .plain [d] (some [v]) flags
    s.post (.variableResultArrival s.curCore s.curSlot id)

/-- The value of a pending result of slot `k` is now known, and its arrival is on its way. -/
def resolveV (s : State) (k id : Nat) (values : List Vec) (flags : Word) : State :=
  let sl := s.slot k
  if sl.vpend.any (fun v => v.id == id) then
    let vs := sl.vpend.map fun v => if v.id = id then { v with values := some values, flags := flags } else v
    (s.setSlot k { sl with vpend := vs }).post (.variableResultArrival (k / 16) (k % 16) id)
  else s

/-! ## The queues of lines and granules (R86, R133) -/

/-- The slot removed from a line's queue of holders and waiters. -/
def freeLine (s : State) (p line k : Nat) : State :=
  let pt := s.part p
  let q := (look pt.lines [] line).filter (· ≠ k)
  s.setPart p { pt with lines := if q.isEmpty then remove pt.lines line else put pt.lines line q }

/-- The slot with key `k` taken out of those that a granule's reclassification holds; the last of those released ends it
(R86). -/
def leaveGranule (s : State) (p gran k : Nat) : State :=
  let pt := s.part p
  let rs := pt.reclass.map fun r => if r.gran = gran then { r with held := r.held.filter (· ≠ k) } else r
  s.setPart p { pt with reclass := rs.filter fun r => !(r.ready && r.held.isEmpty) }

/-- The slot with key `k` out of the queue of the line or granule that it waits for. -/
def leaveQueue (s : State) (k : Nat) : State :=
  match (s.slot k).wait with
  | some (.line p l _) => freeLine s p l k
  | some (.granule p g _) => leaveGranule s p g k
  | _ => s

/-! ## Holding a slot and completing an instruction -/

/-- Is a slot with this reason in state WAIT, or READY and held (R31)? -/
def Wait.inWait : Wait → Bool
  | .fetch _ | .xlatHeld _ _ | .relaxedRoom | .portRoom | .operands _ _ | .mrot | .drain | .drainAll | .ending => false
  | _ => true

/-- Has the slot's instruction issued, and does it go on when the wait ends, without another issue and before any cause
is taken (R31)? -/
def Wait.mustComplete : Wait → Bool
  | .line _ _ _ | .granule _ _ _ | .unit _ _ _ _ | .xlat _ _ | .answered | .oldVersion _ _ | .fence _ | .own _ _ _ | .segment _ _ | .bringup | .drain
  | .drainAll | .parking _ _ | .saving => true
  | _ => false

/-- Has the slot's instruction not issued, so that it tries again in a later turn (R31)? -/
def Wait.unissued : Wait → Bool
  | .result _ | .queueData _ | .queueRoom _ | .chunk _ | .copyFifo | .pending | .conversion _ _ | .flags | .fetch _
  | .xlatHeld _ _ | .relaxedRoom | .portRoom | .operands _ _ | .mrot | .ending => true
  | _ => false

/-- Does `WAITLIM` bound the wait (R31, R276, R278)? -/
def Wait.limited : Wait → Bool
  | .deferred _ | .barrier _ _ _ _ | .leaseLine _ _ | .queueData _ | .queueRoom _ | .copyFifo | .pending
  | .conversion _ _ | .mrot => true
  | .operands _ l => l
  | _ => false

/-- Does an asynchronous cause end the wait (R31)? A wait for a copy status is told apart by its pending result. -/
def Wait.interruptible : Wait → Bool
  | .sleep _ | .wfe _ _ _ => true
  | .operands _ _ | .mrot => false
  | w => w.limited

/-- The issuing slot held for reason `w`; a wait that goes on keeps its first tick, a limited one has its limit to
come (R31, R32), and the stall count of an instruction that has issued runs from its issue (R33). A slot that waits for
something else now leaves the queue it stood in. -/
def hold (s : State) (w : Wait) : State :=
  let sl := s.me
  let s := if sl.wait = some w then s else leaveQueue s s.cur
  let n := (stallOf (sl.ir.extractLsb' 0 16)).toNat
  let issued := match sl.wait with
    | some v => !v.unissued
    | none => false
  let s1 := s.setMe { sl with
    st := if w.inWait then .wait else .ready
    wait := some w
    waitSince := if sl.wait = some w then sl.waitSince else s.tick
    readyAt := if w.unissued || issued then sl.readyAt else s.myCore.cyc + n + 1 }
  if w.limited && sl.wait != some w && sl.csr.waitlim != 0 then s1.post (.waitLimit s.curCore s.curSlot) else s1

/-- FallThrough(PC) (R174, R205): the next head of the slot's line, or position 1 of the next line. -/
def fallThrough (sl : Slot) : Word :=
  let n := match sl.line with
    | some (_, l) => Line.count l
    | none => 31
  if (sl.pc.extractLsb' 1 5).toNat < n then sl.pc + 2 else (sl.pc &&& ~~~63#64) + 66

/-- Coverage after an instruction with stall count `n` has issued: every count falls by n + 1 (R177). -/
def coverAfter (cover : List (RegId × Nat)) (n : Nat) : List (RegId × Nat) :=
  (cover.map fun e => (e.1, e.2 - (n + 1))).filter fun e => e.2 ≠ 0

/-- The issuing slot after its instruction has issued, with its next PC: READY, its stall count running (R33,
R177), and `xfer` the PC of an instruction that transferred control (R174). -/
def finishAt (s : State) (next xfer : Word) : State :=
  let sl := s.me
  let n := (stallOf (sl.ir.extractLsb' 0 16)).toNat
  let lease := sl.lease.map fun l => { l with issued := l.issued + 1, bounded := l.bounded && l.issued < 32 }
  s.setMe { sl with
    st := .ready
    wait := none
    pc := next
    xfer := xfer
    brkSkip := false
    resume := none
    xfault := none
    had := []
    admitted := []
    replay := none
    cover := coverAfter sl.cover n
    lease := lease
    readyAt := s.myCore.cyc + n + 1 }

/-- The instruction completes and falls through; a wait that a fill resumed goes on at the PC its area gave (R345). -/
def finish (s : State) : State :=
  finishAt s (match s.me.resume with
    | some r => r
    | none => fallThrough s.me) 0

/-! ## Leases (R133) -/

/-- Each of the lines freed. -/
def freeLines (s : State) (p k : Nat) : List LeaseLine → State
  | [] => s
  | l :: ls => freeLines (freeLine s p l.line k) p k ls

/-- A held lease of the slot with key `k` abandoned: none of its held stores is ever observed (R133). -/
def abandonLease (s : State) (k : Nat) : State :=
  match (s.slot k).lease with
  | none => s
  | some l =>
    let s := freeLines s (s.partOf (k / 16)) k l.lines
    s.setSlot k { s.slot k with lease := none }

/-! ## Taking a trap (R332, R333, R335) -/

/-- The order of the levels, U lowest. -/
def Level.rank : Level → Nat
  | .u => 0 | .s => 1 | .m => 2

/-- The level of a rank. -/
def Level.ofRank (n : Nat) : Level :=
  match n with
  | 0 => .u | 1 => .s | _ => .m

/-- The trap CSRs of a level (R331). -/
def Slot.trapRegs (sl : Slot) : Level → TrapRegs
  | .u => sl.tu | .s => sl.ts | .m => sl.tm

/-- The trap CSRs of a level replaced. -/
def Slot.setTrapRegs (sl : Slot) (l : Level) (t : TrapRegs) : Slot :=
  match l with
  | .u => { sl with tu := t }
  | .s => { sl with ts := t }
  | .m => { sl with tm := t }

/-- BUSY of a level's xTSTAT (R331). -/
def Slot.busy (sl : Slot) (l : Level) : Bool := (sl.trapRegs l).tstat.getLsbD 2

/-- The causes that may be delegated to U: the "To U" column of R338. -/
def toU (c : Nat) : Bool :=
  (1 ≤ c && c ≤ 8) || c == 0x20 || c == 0x21 || (0x25 ≤ c && c ≤ 0x29) || (0x40 ≤ c && c ≤ 0x45) ||
    (0x60 ≤ c && c ≤ 0x64) || (0x80 ≤ c && c ≤ 0x87) || (0xA1 ≤ c && c ≤ 0xA3) || (0xF0 ≤ c && c ≤ 0xFF)

/-- Bit `c` of the delegation masks `SDLG` (R351). -/
def delegated (sl : Slot) (c : Nat) : Bool :=
  if h : c / 64 < 4 then sl.sdlg[c / 64].getLsbD (c % 64) else false

/-- Route (R332): the level a trap with cause `c` is taken at; none when the slot halts. -/
def route (sl : Slot) (mdlg : Word) (c : Nat) : Option Level :=
  let t0 : Nat :=
    if 0xC0 ≤ c ∧ c ≤ 0xEF then (if mdlg.getLsbD (c - 0xC0) then 1 else 2)
    else if sl.level = .u ∧ toU c = true ∧ delegated sl c = true ∧ sl.tu.tvec ≠ 0 then 0
    else 1
  let t1 := Nat.max t0 sl.level.rank
  let t2 := if t1 = 0 ∧ sl.busy .u then 1 else t1
  let t3 := if t2 = 1 ∧ sl.busy .s then 2 else t2
  if t3 = 2 ∧ sl.busy .m then none else some (Level.ofRank t3)

/-- xTSTAT after trap entry (R331, R333). -/
def entryStatus (from_ : Level) (delegatedU async lab : Bool) : Word :=
  BitVec.ofNat 64 (from_.rank + 4 + (if lab then 8 else 0) + (if async then 16 else 0) + (if delegatedU then 32 else 0))

/-- The Tag of a transaction's descriptor, which the HK4 reports with S-level causes for it (R41); 0 for none. -/
def txTag (s : State) (t : Option Nat) : Word :=
  match t with
  | none => 0
  | some t => match s.tx? t with
    | some tx => tx.desc.getD 15 0
    | none => 0

/-- The slot after trap entry to level `t` (R333 steps 4 and 5); an entry to S reports the transaction's Tag (R41). -/
def Slot.enter (sl : Slot) (t : Level) (cause : Nat) (tval tpc : Word) (async lab : Bool) (tag : Word) (cyc : Nat) : Slot :=
  let old := sl.trapRegs t
  let regs : TrapRegs := ⟨old.tvec, BitVec.ofNat 64 cause, tval, tpc, entryStatus sl.level (t == .u) async lab⟩
  { sl.setTrapRegs t regs with
    st := .ready
    wait := none
    level := t
    pc := old.tvec
    xfer := old.tvec
    brkSkip := false
    resume := none
    xfault := none
    had := []
    admitted := []
    replay := none
    cover := []
    trapping := none
    tag := if t = .s then tag else sl.tag
    readyAt := cyc + 1 }

/-- Does trap entry still wait for the slot's fixed-latency results, its division or its queued matrix
instructions (R333 step 1, R180, R199, R275)? -/
def mustDrain (s : State) (k : Nat) : Bool :=
  let sl := s.slot k
  !sl.pend.isEmpty || sl.vpend.any (fun v => v.source == .divide) ||
    (s.core (k / 16)).port.any (fun e => e.slot == k)

/-- A slot that has given up its continuation: FREE, its reservation kept (R15, R23), and with it the lane's count of
reductions (R40). The relaxed accesses and the copy requests it has issued go on (R57, R290). -/
def freeSlot (sl : Slot) : Slot :=
  { Slot.reset with resv := sl.resv, redIdx := sl.redIdx, relaxed := sl.relaxed, copies := sl.copies }

/-- The messages of a slot's full/empty or barrier operation that has not reached its bank withdrawn (R32). -/
def withdrawMessages (s : State) (k : Nat) : State :=
  { s with fabric := s.fabric.filter fun m => !(m.src == k / 16 && m.srcSlot == k % 16 && (match m.body with
    | .fe _ _ _ => true
    | .bar _ _ _ => true
    | _ => false)) }

/-- The slot with key `k` taken out of the deferred list, the barrier or the line's queue it waits in (R32, R34, R243). -/
def leaveWait (s : State) (k : Nat) : State :=
  match (s.slot k).wait with
  | some (.deferred a) =>
    let c := a / 2 ^ 20 % 1024
    let co := s.core c
    let w := a % 2 ^ 20 / 8
    let q := (look co.deferred [] w).filter (fun e => e.slot ≠ k)
    (withdrawMessages s k).setCore c { co with deferred := if q.isEmpty then remove co.deferred w else put co.deferred w q }
  | some (.parking n _) =>
    let co := s.core (k / 16)
    s.setCore (k / 16) { co with parked := co.parked.filter fun e => e.1 != n }
  | some (.barrier name _ _ _) =>
    let c := name / 2 ^ 16
    let co := s.core c
    let b := look co.bars Barrier.off (name % 1024)
    (withdrawMessages s k).setCore c
      { co with bars := put co.bars (name % 1024) { b with waiters := b.waiters.filter (fun w => w.1 ≠ k) } }
  | some (.leaseLine l _) => { freeLine s (s.partOf (k / 16)) l k with hostWait := s.hostWait.filter (· ≠ k) }
  | _ => leaveQueue s k

/-- The place of a work list freed (R25). -/
def freePlace (s : State) (pl : Option (Nat × Nat)) : State :=
  match pl with
  | none => s
  | some (c, i) => s.setCore c { s.core c with places := remove (s.core c).places i }

/-- The `qi` binding of core `c` released when the slot with key `k` holds it (R72, R82). -/
def releaseQi (s : State) (c k : Nat) : State :=
  let co := s.core c
  if co.qiSlot = some k then s.setCore c { co with qiSlot := none } else s

/-- The continuation in the slot with key `k` discarded or ended: leases abandoned, waits left, its place freed,
the slot FREE, and the crew slot it is AWAY from FREE with it (R23, R25, R34). -/
def dropSlot (s : State) (k : Nat) : State :=
  let s := abandonLease s k
  let s := leaveWait s k
  let s := releaseQi s (k / 16) k
  let s := freePlace s (s.slot k).place
  let s := match (s.slot k).away with
    | some (c, i) =>
      let h := s.slot (slotKey c i)
      if h.st = SlotSt.away then s.setSlot (slotKey c i) (freeSlot h) else s
    | none => s
  s.setSlot k (freeSlot (s.slot k))

/-- A halted slot (R335): it leaves rotation, Starter is told, and its transaction meets a hardware error; a
continuation of no transaction is discarded. -/
def haltSlot (s : State) (cause : Nat) : State :=
  let s := { s with hub := { s.hub with reports := s.hub.reports ++ [(s.cur, cause)] } }
  match s.me.tx with
  | none => dropSlot s s.cur
  | some t =>
    (s.setMe { s.me with st := .wait, wait := some .halted, waitSince := s.tick, halted := true }).post
      (.txHardwareError t s.curCore)

/-- Trap entry once the results it waits for are in (R332, R333 steps 2 to 5, R335). -/
def enterTrap (s : State) (h : HeldTrap) : State :=
  let lab := s.me.lease.isSome
  let s := abandonLease s s.cur
  match route s.me s.myCore.mdlg h.cause with
  | none => haltSlot s h.cause
  | some t => s.setMe (s.me.enter t h.cause h.tval h.tpc h.async lab (txTag s s.me.tx) s.myCore.cyc)

/-- Taking a trap in the issuing slot: the cause, xTVAL, xTPC and whether it is asynchronous. What raised it is settled
in the issue cycle (R179), entry waits for the slot's results (R333 step 1). -/
def takeTrap (s : State) (cause : Nat) (tval tpc : Word) (async : Bool) : State :=
  let s := leaveQueue s s.cur
  if mustDrain s s.cur then hold (s.setMe { s.me with trapping := some ⟨cause, tval, tpc, async⟩ }) .drain
  else enterTrap s ⟨cause, tval, tpc, async⟩

/-- A synchronous trap of the instruction that issues: xTPC is the instruction (R338, "I"). -/
def trapI (s : State) (cause : Nat) (tval : Word) : State := takeTrap s cause tval s.me.pc false

/-! ## Returning from a trap (R334) -/

/-- The smaller of two levels. -/
def Level.lower (a b : Level) : Level := if a.rank ≤ b.rank then a else b

/-- `tret` (R334): from a core event the slot becomes FREE; otherwise BUSY is cleared, the level becomes the saved
one but never a higher one, and the next PC is xTPC; a breakpoint there does not fire for that one issue (R340), and
the instruction there is covered (R180). -/
def returnFromTrap (s : State) : State :=
  let sl := s.me
  let r := sl.trapRegs sl.level
  if r.tstat.getLsbD 6 then dropSlot s s.cur
  else
    let t := Level.lower (Level.ofRank (r.tstat.extractLsb' 0 2).toNat) sl.level
    let s := s.setMe (sl.setTrapRegs sl.level { r with tstat := r.tstat &&& ~~~4#64 })
    let s := finishAt s r.tpc sl.pc
    s.setMe { s.me with level := t, brkSkip := true, line := none, cover := [] }

/-! ## Core events (R337) -/

/-- A core event enters the core's queue of 8 with the Tag of the transaction it is raised for (R41); one that finds the
queue full is dropped and noted (R337). -/
def pushEvent (s : State) (c code : Nat) (tval : Word) (t : Option Nat) : State :=
  let co := s.core c
  if 8 ≤ co.events.length then s.setCore c { co with eventLost := true }
  else
    let s := s.setCore c { co with events := co.events ++ [(code, tval, txTag s t)] }
    if co.sevec = 0 then s else s.post (.coreEvent c)

end Sys2Proof.Machine
end

