-- ==== Sys2Proof/Machine/Operands.lean ====
section
/-! DEFINITION. The operand forms: immediates and code offsets (R171, R175), the checks every instruction meets
before its own causes (R183), and the reading of vector operands through bound queues and streams (R71 to R73). -/

namespace Sys2Proof.Machine

/-! ## Immediates and code offsets -/

/-- An immediate sign-extended to 64 bits (R171). -/
def sextImm {n : Nat} (i : BitVec n) : Word := i.signExtend 64

/-- An immediate zero-extended to 64 bits (R171). -/
def zextImm {n : Nat} (i : BitVec n) : Word := i.setWidth 64

/-- The target of a code offset (R175): (PC with bits [5:0] cleared) + 64 × Δ + 2 × p. -/
def codeTarget {n : Nat} (pc : Word) (off : BitVec n) : Word :=
  let delta : Word := (BitVec.sshiftRight (off.signExtend 64) 5) <<< 6
  let p : Word := (off.extractLsb' 0 5).setWidth 64
  (pc &&& ~~~63#64) + delta + (p <<< 1)

/-! ## The checks of R183 -/

/-- The registers an instruction uses: sources, destinations of fixed latency, destinations of variable latency,
and the first field that names no register the instruction can take (R67). -/
structure Uses where
  reads : List RegId := []
  writes : List RegId := []
  vwrites : List RegId := []
  bad : Option Reg := none
  deriving DecidableEq, Repr

/-- A handle field that names none of h0 to h7 (R67). -/
def badHandle (r : Reg) : Option Reg := if r.toNat < 8 then none else some r

/-- A run of `n` registers from field `r` that passes index 15 (R67). -/
def badRun (r : Reg) (n : Nat) : Option Reg := if r.idx.val + n ≤ 16 then none else some r

/-- A run of `n` private registers from field `r` (R67). -/
def badPrivateRun (r : Reg) (n : Nat) : Option Reg := if r.shared then some r else badRun r n

/-- The first of two bad fields. -/
def orBad (a b : Option Reg) : Option Reg := match a with
  | some r => some r
  | none => b

/-- The next register of a pair or run (R67). -/
def Reg.succ (r : Reg) (n : Nat) : Reg := r + BitVec.ofNat 5 n

/-- The n-th register of a run that starts at `r`, as integer registers. -/
def runX (r : Reg) : Nat → List RegId
  | 0 => []
  | n + 1 => runX r n ++ [xreg (Reg.succ r n)]

/-- Every register an instruction names, sources first (R73). -/
def Uses.all (u : Uses) : List RegId := u.reads ++ u.writes ++ u.vwrites

/-- May the issuing slot use the shared banks (R69)? S and M level always; U level when its transaction owns them. -/
def ownsShared (s : State) : Bool :=
  s.me.level != .u || (s.me.tx.isSome && s.me.tx == s.myCore.owner)

/-- Is the issuing slot in deterministic operation (R18, R37)? -/
def inDet (s : State) : Bool := s.me.ctx.getLsbD 27

/-- The field that makes an instruction trap BAD_REGISTER (R67, R69, R70), none when all are good. -/
def badField (s : State) (u : Uses) : Option Reg :=
  match u.bad with
  | some r => some r
  | none =>
    match u.all.find? (fun r => r.r.shared && !ownsShared s) with
    | some r => some r.r
    | none =>
      match u.vwrites.find? (fun r => r.r.shared && inDet s) with
      | some r => some r.r
      | none => none

/-- A register that the instruction reads or overwrites while a fixed-latency result of it is not covered (R177). -/
def uncovered (s : State) (u : Uses) : Option Reg :=
  (u.all.find? (fun r => !r.isX0 && s.me.cover.any (fun e => e.1 == r))).map (·.r)

/-- The registers of the instruction that have a pending variable-latency result of the slot (R178). -/
def pendingRegs (s : State) (u : Uses) : List RegId :=
  (tracked u.all).filter fun r => s.me.vpend.any fun v => v.regs.any (· == r)

/-- The checks of R183 in order, then what the instruction does: PRIVILEGED when it is privileged and the slot
runs at U, BAD_REGISTER, STALL_UNDERSIZED while `SCHK`.ON is 1, and the hold of R178 on pending results. -/
def gate (priv : Bool) (u : Uses) (s : State) (act : State → Out) : Out :=
  if priv && s.me.level == .u then .next (trapI s 0x04 s.me.ir)
  else match badField s u with
    | some r => .next (trapI s 0x07 (zextImm r))
    | none =>
      match (if s.me.csr.schk.getLsbD 0 then uncovered s u else none) with
      | some r => .next (trapI s 0x06 (zextImm r))
      | none =>
        match pendingRegs s u with
        | [] => act s
        | rs => .next (hold s (.result rs))

/-- The uses of an integer instruction with fixed latency. -/
def usesXX (d a b : Reg) : Uses := { reads := [xreg a, xreg b], writes := [xreg d] }

/-- The uses of an integer instruction with one source. -/
def usesX (d a : Reg) : Uses := { reads := [xreg a], writes := [xreg d] }

/-! ## Bound vector registers (R71 to R73, R262, R265) -/

/-- The queue that a vector field names through `QEN`: 0 `qm`, 1 `qs`, 2 `qk`, 3 `qi` (R71, R72). -/
def boundQueue (sl : Slot) (r : Reg) : Option Nat :=
  if r.shared then none
  else
    let i := r.idx.val
    if 12 ≤ i ∧ sl.csr.qen.getLsbD (i - 12) then some (i - 12) else none

/-- The stream that a vector field names through `SEN` (R71). -/
def boundStream (sl : Slot) (r : Reg) : Option (Fin 4) :=
  if r.shared then none
  else
    let i := r.idx.val
    if h : i < 4 then (if sl.csr.sen.getLsbD i then some ⟨i, h⟩ else none) else none

/-- Is the vector field bound to a queue or a stream? -/
def isBound (sl : Slot) (r : Reg) : Bool := (boundQueue sl r).isSome || (boundStream sl r).isSome

/-- The vector fields that are plain registers, and so have coverage and pending results. -/
def plainV (s : State) (rs : List Reg) : List RegId := (rs.filter fun r => !isBound s.me r).map vreg

/-- The number of chunks of a stream (R261). -/
def Stream.chunks (t : Stream) : Nat := (t.len + 63) / 64

/-- The bytes that chunk `j` of a stream covers (R261). -/
def Stream.chunkLen (t : Stream) (j : Nat) : Nat := Nat.min 64 (t.len - 64 * j)

/-- The address of chunk `j` (R261). -/
def Stream.chunkAddr (t : Stream) (j : Nat) : Word := t.base + BitVec.ofNat 64 (j * t.stride)

/-- What keeps a vector operand from being popped or pushed: a trap with its cause and value, or a wait. -/
inductive Block where
  | trap (cause : Nat) (tval : Word)
  | wait (w : Wait)
  /-- Chunk of stream k failed its checks when it was read ahead (R263); a retry reads it again. -/
  | chunk (k : Nat) (cause : Nat) (tval : Word)
  /-- Chunk of stream k met a fault when it was read ahead: the slot parks here (R218, R263). -/
  | chunkFault (k : Nat) (page : Nat)
  deriving DecidableEq, Repr

/-- The state of the operand fetch of one instruction: the machine with what has been popped, and the block met. -/
structure Fetch where
  s : State
  block : Option Block
  deriving DecidableEq, Repr

/-- The mask that popping a final partial chunk leaves in `VM` (R262). -/
def partialMask (t : Stream) (n : Nat) : Word := (BitVec.allOnes 64 >>> (64 - n / t.ew)) &&& (BitVec.allOnes 64 >>> (64 - 64 / t.ew))

/-- Is some result for queue `q` still being produced (R72)? A drain for `qm`, an operand for `qs`, chunks of
`topk.out` for `qk`. -/
def producing (s : State) (q : Nat) : Bool :=
  match q with
  | 0 => s.myCore.port.any fun e => e.slot == s.cur && e.serial == s.me.cont && (match e.op with
    | .drain _ _ _ _ _ _ => true
    | _ => false)
  | 1 => !s.me.qs.isEmpty
  | 2 => match s.me.topk with
    | some t => !t.out.isEmpty
    | none => false
  | _ => true

/-- One vector source popped or read (R73): a bound queue gives its oldest entry, a bound stream its next chunk.
QUEUE_STATE has the value 0 (log entry 63). -/
def popV (s : State) (r : Reg) : Vec × Fetch :=
  let sl := s.me
  match boundQueue sl r with
  | some 0 => match sl.qm with
    | v :: vs => (v, ⟨s.setMe { sl with qm := vs }, none⟩)
    | [] => (0, ⟨s, some (if producing s 0 then .wait (.queueData 0) else .trap 0x64 0)⟩)
  | some 1 => match sl.qs with
    | some v :: vs => (v, ⟨s.setMe { sl with qs := vs }, none⟩)
    | none :: _ => (0, ⟨s, some (.wait (.queueData 1))⟩)
    | [] => (0, ⟨s, some (.trap 0x64 0)⟩)
  | some 2 => match sl.qk with
    | v :: vs =>
      let s := s.setMe { sl with qk := vs }
      (v, ⟨if producing s 2 then s.post (.topkChunk s.curCore s.curSlot) else s, none⟩)
    | [] => (0, ⟨s, some (if producing s 2 then .wait (.queueData 2) else .trap 0x64 0)⟩)
  | some _ => match s.myCore.qi with
    | v :: vs => (v, ⟨s.setMyCore { s.myCore with qi := vs }, none⟩)
    | [] => (0, ⟨s, some (.wait (.queueData 3))⟩)
  | none =>
    match boundStream sl r with
    | none => (readV s r, ⟨s, none⟩)
    | some k =>
      let t := sl.streams[k]
      if !t.on || t.write || t.chunks ≤ t.pos then (0, ⟨s, some (.trap 0x64 0)⟩)
      else match t.ahead with
        | [] => (0, ⟨s, some (.wait (.chunk k.val))⟩)
        | .trap c a :: _ => (0, ⟨s, some (.chunk k.val c a)⟩)
        | .fault page :: _ => (0, ⟨s, some (.chunkFault k.val page)⟩)
        | .data v :: vs =>
          let n := t.chunkLen t.pos
          let sl := { sl with streams := sl.streams.set k { t with pos := t.pos + 1, ahead := vs } }
          let sl := if n = 64 then sl else { sl with csr := { sl.csr with vm := partialMask t n } }
          let s := s.setMe sl
          (v, ⟨if t.fetched < t.chunks then s.post (.streamChunkArrive s.curCore s.curSlot k.val) else s, none⟩)

/-- Vector sources popped in field order; the first block ends the fetch (R73). -/
def popAll (s : State) : List Reg → List Vec × Fetch
  | [] => ([], ⟨s, none⟩)
  | r :: rs =>
    let (v, f) := popV s r
    match f.block with
    | some _ => ([], f)
    | none =>
      let (vs, f2) := popAll f.s rs
      (v :: vs, f2)

end Sys2Proof.Machine
end

