-- ==== Sys2Proof/Machine/Flags.lean ====
section
/-! DEFINITION. The integer computations and conditions of R194 to R204, the FFLAGS bits of R80, and the CSRC-style
masks; every flag an instruction raises is computed here or in the floating-point arithmetic. -/

namespace Sys2Proof.Machine

/-- FFLAGS bits (R80). -/
def flagNX : Word := 1
def flagUF : Word := 2
def flagOF : Word := 4
def flagDZ : Word := 8
def flagNV : Word := 16
def flagSR : Word := 32
def flagMXSAT : Word := 64
def flagOLOV : Word := 128

/-- The six-bit shift amount of a register (R194). -/
def shiftAmount (b : Word) : Nat := (b.extractLsb' 0 6).toNat

/-- The smaller as signed (R194). -/
def minSigned (a b : Word) : Word := if a.slt b then a else b
/-- The larger as signed (R194). -/
def maxSigned (a b : Word) : Word := if a.slt b then b else a
/-- The smaller as unsigned (R194). -/
def minUnsigned (a b : Word) : Word := if a.ult b then a else b
/-- The larger as unsigned (R194). -/
def maxUnsigned (a b : Word) : Word := if a.ult b then b else a

/-- Bits [127:64] of the signed product (R197). -/
def mulHigh (a b : Word) : Word := BitVec.ofInt 64 ((a.toInt * b.toInt) / 2 ^ 64)
/-- Bits [127:64] of the unsigned product (R197). -/
def mulHighZ (a b : Word) : Word := BitVec.ofNat 64 (a.toNat * b.toNat / 2 ^ 64)

/-- The signed quotient with R198's fixed cases. -/
def divSigned (a b : Word) : Word :=
  if b = 0 then BitVec.allOnes 64 else BitVec.ofInt 64 (Int.tdiv a.toInt b.toInt)
/-- The unsigned quotient (R198). -/
def divUnsigned (a b : Word) : Word :=
  if b = 0 then BitVec.allOnes 64 else BitVec.ofNat 64 (a.toNat / b.toNat)
/-- The signed remainder (R198). -/
def remSigned (a b : Word) : Word :=
  if b = 0 then a else BitVec.ofInt 64 (Int.tmod a.toInt b.toInt)
/-- The unsigned remainder (R198). -/
def remUnsigned (a b : Word) : Word :=
  if b = 0 then a else BitVec.ofNat 64 (a.toNat % b.toNat)

/-- 1 when the condition holds, 0 otherwise (R200). -/
def boolWord (p : Bool) : Word := if p then 1 else 0

/-- The conditions of R200 and R205, in FN order. -/
def condEq (a b : Word) : Bool := a == b
def condNe (a b : Word) : Bool := a != b
def condLt (a b : Word) : Bool := a.slt b
def condGe (a b : Word) : Bool := !a.slt b
def condLtZ (a b : Word) : Bool := a.ult b
def condGeZ (a b : Word) : Bool := !a.ult b

/-- The number of zero bits above the highest one bit, among the low `n` bits (R202). -/
def leadingZeros (a : Word) : Nat → Nat
  | 0 => 0
  | n + 1 => if a.getLsbD n then 0 else 1 + leadingZeros a n

/-- The number of zero bits below the lowest one bit, from bit `i` on (R202). -/
def trailingZeros (a : Word) : Nat → Nat → Nat
  | _, 0 => 0
  | i, n + 1 => if a.getLsbD i then 0 else 1 + trailingZeros a (i + 1) n

/-- The number of one bits among the low `n` bits (R202). -/
def onesCount (a : Word) : Nat → Nat
  | 0 => 0
  | n + 1 => (if a.getLsbD n then 1 else 0) + onesCount a n

/-- The address of R204: a + row × (pitch << p) + column × esz, modulo 2^64. -/
def rowAddress (a b : Word) (esz : BitVec 2) (p : BitVec 3) (pitch : BitVec 16) : Word :=
  let row : Word := (b.extractLsb' 32 32).setWidth 64
  let col : Word := (b.extractLsb' 0 32).setWidth 64
  a + row * (zextImm pitch <<< p.toNat) + (col <<< esz.toNat)

end Sys2Proof.Machine
end

