-- ==== Sys2Proof/Machine/Float.lean ====
section
/-! DEFINITION. Number formats and arithmetic (R146 to R162): exact values, the one rounding procedure, the decoding
and encoding of every format, the lane operations on bit patterns with their flags, and outlier lists. -/

namespace Sys2Proof.Machine

/-! ## Exact values -/

/-- The rounding modes (R80, R149). -/
inductive Rnd where
  | rne | rtz | rdn | rup | rna
  deriving DecidableEq, Repr

/-- An exact value: a NaN, an infinity, or a signed fraction n / d, d not zero (R148). -/
inductive XVal where
  | nan
  | inf (neg : Bool)
  | fin (neg : Bool) (n d : Nat)
  deriving DecidableEq, Repr

/-- A floating or narrow format (R149, R155): sign, exponent and mantissa widths, bias, subnormals, P. -/
structure Fmt where
  s : Nat
  e : Nat
  m : Nat
  b : Int
  sub : Bool
  p : Nat
  deriving DecidableEq, Repr

/-- FP32 (R146). -/
def fp32 : Fmt := ⟨1, 8, 23, 127, true, 2⟩
/-- FP16 (R146). -/
def fp16 : Fmt := ⟨1, 5, 10, 15, true, 2⟩
/-- BF16 (R146). -/
def bf16 : Fmt := ⟨1, 8, 7, 127, true, 2⟩
/-- A40 (R153). -/
def a40 : Fmt := ⟨1, 8, 31, 127, true, 2⟩

/-- ± m × 2^x as an exact value. -/
def dyadic (neg : Bool) (m : Nat) (x : Int) : XVal := .fin neg (m * 2 ^ x.toNat) (2 ^ (-x).toNat)

/-- Floor(Log2(n / d)) of a positive fraction. -/
def floorLog2 (n d : Nat) : Int :=
  let k : Int := (Nat.log2 n : Int) - (Nat.log2 d : Int)
  if d * 2 ^ k.toNat ≤ n * 2 ^ (-k).toNat then k else k - 1

/-- The fraction n / d divided by 2^x. -/
def scaleDown (n d : Nat) (x : Int) : Nat × Nat := (n * 2 ^ (-x).toNat, d * 2 ^ x.toNat)

/-- RoundInteger (R149) of the magnitude n / d of a value with the given sign. -/
def roundMag (mode : Rnd) (neg : Bool) (n d : Nat) : Nat :=
  let q := n / d
  let r := n % d
  let up := match mode with
    | .rne => decide (d < 2 * r) || (decide (2 * r = d) && decide (q % 2 = 1))
    | .rna => decide (d ≤ 2 * r)
    | .rtz => false
    | .rdn => neg && decide (r ≠ 0)
    | .rup => !neg && decide (r ≠ 0)
  if up then q + 1 else q

/-! ## RoundToFormat (R149) -/

/-- What RoundToFormat gives for a finite non-zero value: the magnitude code it would have, whether it is beyond the
format, whether y = x, and whether x was below the normal range. -/
structure Rounded where
  code : Nat
  out : Bool
  exact : Bool
  tiny : Bool
  deriving DecidableEq, Repr

/-- The largest magnitude code that is neither NaN nor infinity (R149, R155). -/
def Fmt.maxCode (f : Fmt) : Nat :=
  match f.p with
  | 0 => 2 ^ (f.e + f.m) - 1
  | 1 => 2 ^ (f.e + f.m) - 2
  | _ => (2 ^ f.e - 1) * 2 ^ f.m - 1

/-- RoundToFormat of the finite non-zero value ± n / d (R149). -/
def roundFin (f : Fmt) (mode : Rnd) (neg : Bool) (n d : Nat) : Rounded :=
  let emin : Int := 1 - f.b
  let (mn, md) := scaleDown n d emin
  let normal := decide (md ≤ mn)
  let qe : Int :=
    if f.e = 0 then -f.b
    else if normal then floorLog2 n d - f.m
    else if f.sub then emin - f.m
    else emin
  let (qn, qd) := scaleDown n d qe
  let r := roundMag mode neg qn qd
  let code : Nat :=
    if f.e = 0 then r
    else if normal then ((qe + f.m + f.b).toNat) * 2 ^ f.m + (r - 2 ^ f.m)
    else if f.sub then r
    else r * 2 ^ f.m
  { code := code
    out := decide (f.maxCode < code) || (neg && f.s == 0 && code != 0)
    exact := decide (r * qd = qn)
    tiny := decide (f.e ≠ 0) && !normal }

/-- The sign bit of a format over a magnitude code. -/
def Fmt.withSign (f : Fmt) (neg : Bool) (code : Nat) : Nat := if neg && f.s == 1 then 2 ^ (f.e + f.m) + code else code

/-- The canonical NaN of a fixed format (R146, R153). -/
def Fmt.nan (f : Fmt) : Nat := (2 ^ f.e - 1) * 2 ^ f.m + 2 ^ (f.m - 1)

/-- The infinity of a fixed format. -/
def Fmt.inf (f : Fmt) (neg : Bool) : Nat := f.withSign neg ((2 ^ f.e - 1) * 2 ^ f.m)

/-- Does an overflow give an infinity (R149)? -/
def overflowInf (mode : Rnd) (neg : Bool) : Bool :=
  match mode with
  | .rne | .rna => true
  | .rtz => false
  | .rdn => neg
  | .rup => !neg

/-- The flags of one rounding (R150). -/
def roundFlags (fixed : Bool) (r : Rounded) : Word :=
  (if !r.exact || (fixed && r.out) then flagNX else 0) |||
    (if r.tiny && !r.exact then flagUF else 0) ||| (if fixed && r.out then flagOF else 0)

/-- An exact value rounded once into a fixed format, with its flags (R148 to R150). -/
def roundFixed (f : Fmt) (mode : Rnd) (x : XVal) : Nat × Word :=
  match x with
  | .nan => (f.nan, 0)
  | .inf neg => (f.inf neg, 0)
  | .fin neg n d =>
    if n = 0 then (f.withSign neg 0, 0)
    else
      let r := roundFin f mode neg n d
      let code := if r.out then (if overflowInf mode neg then (2 ^ f.e - 1) * 2 ^ f.m else f.maxCode) else r.code
      (f.withSign neg code, roundFlags true r)

/-! ## Decoding (R146, R153, R157) -/

/-- The value of a code of a format (R157). -/
def decodeFmt (f : Fmt) (c : Nat) : XVal :=
  let neg := f.s == 1 && decide (c / 2 ^ (f.e + f.m) % 2 = 1)
  let mag := c % 2 ^ (f.e + f.m)
  let e := mag / 2 ^ f.m
  let m := mag % 2 ^ f.m
  if f.p = 1 ∧ mag = 2 ^ (f.e + f.m) - 1 then .nan
  else if f.p = 2 ∧ e = 2 ^ f.e - 1 then (if m = 0 then .inf neg else .nan)
  else if f.e = 0 then dyadic neg m (-f.b)
  else if e = 0 then (if f.sub then dyadic neg m (1 - f.b - f.m) else .fin neg 0 1)
  else dyadic neg (2 ^ f.m + m) (e - f.b - f.m)

/-- Is the code of a fixed format a signalling NaN (R147)? -/
def signalling (f : Fmt) (c : Nat) : Bool :=
  decodeFmt f c == .nan && decide (c / 2 ^ (f.m - 1) % 2 = 0)

/-- The integer m of a code, signed (R164). -/
def codeInt (f : Fmt) (c : Nat) : Int :=
  let m : Int := (c % 2 ^ f.m : Nat)
  if f.s = 1 ∧ c / 2 ^ (f.e + f.m) % 2 = 1 then -m else m

/-! ## Exact arithmetic -/

/-- The value negated. -/
def XVal.neg : XVal → XVal
  | .nan => .nan
  | .inf s => .inf !s
  | .fin s n d => .fin (!s) n d

/-- A fraction as a signed integer over its denominator. -/
def signedNum (s : Bool) (n : Nat) : Int := if s then -(n : Int) else n

/-- The exact sum and whether the operation is invalid (R147, R148); an exact zero sum takes its sign as R254 says. -/
def xadd (mode : Rnd) (a b : XVal) : XVal × Bool :=
  match a, b with
  | .nan, _ => (.nan, false)
  | _, .nan => (.nan, false)
  | .inf s, .inf t => if s = t then (.inf s, false) else (.nan, true)
  | .inf s, _ => (.inf s, false)
  | _, .inf t => (.inf t, false)
  | .fin s n d, .fin t m e =>
    let v : Int := signedNum s n * e + signedNum t m * d
    if v = 0 then
      let neg := if n = 0 ∧ m = 0 ∧ s = t then s else mode == .rdn
      (.fin neg 0 1, false)
    else (.fin (decide (v < 0)) v.natAbs (d * e), false)

/-- The exact product and whether the operation is invalid (R147). -/
def xmul (a b : XVal) : XVal × Bool :=
  match a, b with
  | .nan, _ => (.nan, false)
  | _, .nan => (.nan, false)
  | .inf s, .inf t => (.inf (s != t), false)
  | .inf s, .fin t m _ => if m = 0 then (.nan, true) else (.inf (s != t), false)
  | .fin s n _, .inf t => if n = 0 then (.nan, true) else (.inf (s != t), false)
  | .fin s n d, .fin t m e => (.fin (s != t) (n * m) (d * e), false)

/-- The exact value of x / s for a positive finite s (R162). -/
def xdivBy (x s : XVal) : XVal :=
  match x, s with
  | .fin t n d, .fin _ m e => .fin t (n * e) (d * m)
  | x, _ => x

/-- The order of two values that are not NaN, −0 below +0 (R147, R267). -/
def xlessTotal (a b : XVal) : Bool :=
  match a, b with
  | .inf s, .inf t => s && !t
  | .inf s, _ => s
  | _, .inf t => !t
  | .fin s n d, .fin t m e =>
    let x := signedNum s n * e
    let y := signedNum t m * d
    decide (x < y) || (decide (x = y) && s && !t && decide (n = 0))
  | _, _ => false

/-- Less, with −0 equal to +0; false for a NaN (R255). -/
def xless (a b : XVal) : Bool :=
  match a, b with
  | .inf s, .inf t => s && !t
  | .inf s, .fin _ _ _ => s
  | .fin _ _ _, .inf t => !t
  | .fin s n d, .fin t m e => decide (signedNum s n * e < signedNum t m * d)
  | _, _ => false

/-- Equal, with −0 equal to +0; false for a NaN (R255). -/
def xequal (a b : XVal) : Bool :=
  match a, b with
  | .inf s, .inf t => s == t
  | .fin s n d, .fin t m e => decide (signedNum s n * e = signedNum t m * d)
  | _, _ => false

/-! ## Lanes -/

/-- The rounding mode in `RMODE`[2:0] (R80). -/
def rndOfCode (n : Nat) : Rnd :=
  match n with
  | 1 => .rtz | 2 => .rdn | 3 => .rup | 4 => .rna | _ => .rne

/-- The mode an instruction rounds by: the one it names, or `RMODE` (R148, R247). -/
def rndOf (rmode : Word) : RmSel → Rnd
  | .csr => rndOfCode (rmode.extractLsb' 0 3).toNat
  | .rne => .rne | .rtz => .rtz | .rdn => .rdn | .rup => .rup | .rna => .rna

/-- The format of a floating lane type; `i` and `z` types have none and read as FP32. -/
def LaneT.fmt : LaneT → Fmt
  | .hf => fp16 | .bf => bf16 | _ => fp32

/-- NV when one of the codes is signalling (R147). -/
def nvOf (f : Fmt) (codes : List Nat) : Word := if codes.any (signalling f) then flagNV else 0

/-- The result of an exact operation rounded into a format, with NV from its operands and the operation. -/
def finishFp (f : Fmt) (mode : Rnd) (nv : Word) (r : XVal × Bool) : Nat × Word :=
  let (bits, fl) := roundFixed f mode r.1
  (bits, fl ||| nv ||| (if r.2 then flagNV else 0))

/-- a + b (R253). -/
def fpAdd (f : Fmt) (mode : Rnd) (a b : Nat) : Nat × Word :=
  finishFp f mode (nvOf f [a, b]) (xadd mode (decodeFmt f a) (decodeFmt f b))

/-- a − b (R253). -/
def fpSub (f : Fmt) (mode : Rnd) (a b : Nat) : Nat × Word :=
  finishFp f mode (nvOf f [a, b]) (xadd mode (decodeFmt f a) (decodeFmt f b).neg)

/-- a × b (R253). -/
def fpMul (f : Fmt) (mode : Rnd) (a b : Nat) : Nat × Word :=
  finishFp f mode (nvOf f [a, b]) (xmul (decodeFmt f a) (decodeFmt f b))

/-- ±(a × b) ± d, rounded once; a product 0 × ∞ is invalid whatever the addend (R147, R254). -/
def fpFma (negProd negAdd : Bool) (f : Fmt) (mode : Rnd) (a b d : Nat) : Nat × Word :=
  let (p, bad) := xmul (decodeFmt f a) (decodeFmt f b)
  let x := decodeFmt f d
  let (r, bad2) := xadd mode (if negProd then p.neg else p) (if negAdd then x.neg else x)
  finishFp f mode (nvOf f [a, b, d]) (r, bad || bad2)

/-- Min and max (R147). -/
def fpMinMax (wantMax : Bool) (f : Fmt) (a b : Nat) : Nat × Word :=
  let x := decodeFmt f a
  let y := decodeFmt f b
  if x = .nan ∨ y = .nan then (f.nan, nvOf f [a, b])
  else
    let aLess := xlessTotal x y
    (if aLess == wantMax then b else a, 0)

/-- `vabs` and `vneg` on a lane (R253). -/
def fpSign (f : Fmt) (flip : Bool) (a : Nat) : Nat × Word :=
  if decodeFmt f a = .nan then (f.nan, nvOf f [a])
  else
    let top := 2 ^ (f.e + f.m)
    let mag := a % top
    (if flip then (if a / top % 2 = 1 then mag else top + mag) else mag, 0)

/-! ## Conversions (R152, R258) -/

/-- The integer range of a lane type: least and greatest. -/
def laneRange (t : LaneT) : Int × Int :=
  let w := t.bits
  if t.isSigned then (-(2 ^ (w - 1) : Nat), (2 ^ (w - 1) : Nat) - 1) else (0, (2 ^ w : Nat) - 1)

/-- The value of an integer lane. -/
def laneInt (t : LaneT) (v : Nat) : Int :=
  let w := t.bits
  if t.isSigned ∧ 2 ^ (w - 1) ≤ v then (v : Int) - (2 ^ w : Nat) else v

/-- An integer as a w-bit pattern. -/
def intBits (w : Nat) (v : Int) : Nat := (v % (2 ^ w : Nat)).toNat

/-- An integer as an exact value. -/
def xOfInt (v : Int) : XVal := .fin (decide (v < 0)) v.natAbs 1

/-- An exact value rounded to an integer within a range (R152). -/
def xToInt (mode : Rnd) (lo hi : Int) (x : XVal) : Int × Word :=
  match x with
  | .nan => (0, flagNV)
  | .inf s => (if s then lo else hi, flagNV)
  | .fin s n d =>
    let r := signedNum s (roundMag mode s n d)
    if r < lo then (lo, flagNV)
    else if hi < r then (hi, flagNV)
    else (r, if n % d = 0 then 0 else flagNX)

/-- One element of `vcvt` (R258). -/
def cvtLane (st lt : LaneT) (mode : Rnd) (v : Nat) : Nat × Word :=
  match st.isFloat, lt.isFloat with
  | true, true =>
    let (b, fl) := roundFixed (LaneT.fmt lt) mode (decodeFmt (LaneT.fmt st) v)
    (b, fl ||| nvOf (LaneT.fmt st) [v])
  | true, false =>
    let (r, fl) := xToInt mode (laneRange lt).1 (laneRange lt).2 (decodeFmt (LaneT.fmt st) v)
    (intBits lt.bits r, fl ||| nvOf (LaneT.fmt st) [v])
  | false, true => roundFixed (LaneT.fmt lt) mode (xOfInt (laneInt st v))
  | false, false => (intBits lt.bits (laneInt st v), 0)

/-! ## Narrow formats (R155 to R160) -/

/-- The format of a descriptor (R155). -/
def descFmt (d : BitVec 32) : Fmt :=
  let w := (d.extractLsb' 0 4).toNat
  let e := (d.extractLsb' 4 3).toNat
  let s := (d.extractLsb' 7 1).toNat
  ⟨s, e, w - s - e, (d.extractLsb' 16 8).toInt, d.getLsbD 10, (d.extractLsb' 8 2).toNat⟩

/-- Is the descriptor invalid (R156)? -/
def badDesc (d : BitVec 32) : Bool :=
  let w := (d.extractLsb' 0 4).toNat
  let e := (d.extractLsb' 4 3).toNat
  let s := (d.extractLsb' 7 1).toNat
  let p := (d.extractLsb' 8 2).toNat
  d.extractLsb' 24 8 != 0 || d.extractLsb' 11 5 != 0 || p == 3 || decide (w < 2) || decide (8 < w) ||
    decide (w < s + e) || (e == 0 && (d.getLsbD 10 || p == 2)) || (p == 2 && (decide (e < 2) || decide (w = s + e)))

/-- The storage width of a narrow format: 4 bits up to a width of 4, else 8 (R110). -/
def descStorage (d : BitVec 32) : Nat := if (d.extractLsb' 0 4).toNat ≤ 4 then 4 else 8

/-- An outlier list as read: its OVF bit and its entries (R158). -/
structure OutList where
  ovf : Bool
  entries : List Outlier
  deriving DecidableEq, Repr

/-- One entry word (R158). -/
def outWord (o : Outlier) : Nat := o.value.toNat + o.k % 64 * 2 ^ 32 + o.r % 64 * 2 ^ 40

/-- The entries of the words of a block; none when a reserved bit is set or a word past COUNT is not zero. -/
def outEntries : Nat → List Nat → Option (List Outlier)
  | _, [] => some []
  | 0, w :: ws => if w = 0 then outEntries 0 ws else none
  | n + 1, w :: ws =>
    if 2 ^ 46 ≤ w ∨ w / 2 ^ 38 % 4 ≠ 0 then none
    else (outEntries n ws).map fun es => ⟨w / 2 ^ 40 % 64, w / 2 ^ 32 % 64, BitVec.ofNat 32 w⟩ :: es

/-- The 8-byte words of a block of bytes. -/
def wordsOf : Nat → List Byte → List Nat
  | 0, _ => []
  | n + 1, bs => bytesToNat (bs.take 8) :: wordsOf n (bs.drop 8)

/-- An outlier list from its 256 bytes; none when R158 refuses it. -/
def parseOutList (bs : List Byte) : Option OutList :=
  match wordsOf 32 bs with
  | [] => none
  | w :: ws =>
    if 512 ≤ w ∨ 31 < w % 256 then none
    else (outEntries (w % 256) ws).map fun es => ⟨decide (w / 256 = 1), es⟩

/-- The 256 bytes of an outlier list (R158). -/
def outBytes (l : OutList) : List Byte :=
  natToBytes 8 (l.entries.length + (if l.ovf then 256 else 0)) ++
    ((List.range 31).map fun i => match l.entries[i]? with
      | some o => natToBytes 8 (outWord o)
      | none => natToBytes 8 0).flatten

/-- The NaN code of a narrow format, +0 when every code is finite (R157, R159). -/
def Fmt.narrowNan (f : Fmt) : Nat := if f.p = 0 then 0 else 2 ^ (f.e + f.m) - 1

/-- RoundToFormat of any value into a narrow format: its code, or none for OUT (R149, R157), with the flags. -/
def roundNarrow (f : Fmt) (mode : Rnd) (x : XVal) : Option Nat × Word :=
  match x with
  | .nan => (if f.p = 0 then none else some f.narrowNan, 0)
  | .inf neg => (if f.p = 2 then (if neg && f.s == 0 then none else some (f.inf neg)) else none, 0)
  | .fin neg n d =>
    if n = 0 then (some (f.withSign neg 0), 0)
    else
      let r := roundFin f mode neg n d
      if r.out then (none, 0) else (some (f.withSign neg r.code), roundFlags false r)

/-- Saturate (R159). -/
def saturate (f : Fmt) (x : XVal) : Nat :=
  match x with
  | .nan => f.narrowNan
  | .inf neg => if neg && f.s == 0 then 0 else f.withSign neg f.maxCode
  | .fin neg _ _ => if neg && f.s == 0 then 0 else f.withSign neg f.maxCode

/-- The VALUE that a list gives to element (r, k) (R158, R161). The spec does not say what two entries for one element
mean: which of them counts is free (log entry 1). -/
def outlierAt (l : List Outlier) (r k : Nat) : Option (BitVec 32) :=
  match (l.filter fun o => o.r == r && o.k == k).map (·.value) with
  | [] => none
  | [v] => some v
  | v :: vs => some ((v :: vs).getD (Config.whichOutlier (v :: vs) % (vs.length + 1)) v)

/-- NarrowElement (R159): the code, the flags and the list after it. -/
def narrowElement (f : Fmt) (mode : Rnd) (list : Option OutList) (a b : Nat) (x : XVal) :
    Nat × Word × Option OutList :=
  let list := list.map fun l => { l with entries := l.entries.filter fun o => !(o.r == a % 64 && o.k == b % 64) }
  match roundNarrow f mode x with
  | (some c, fl) => (c, fl, list)
  | (none, _) =>
    match list with
    | some l =>
      if l.entries.length < 31 then
        let (v, fl) := roundFixed fp32 mode x
        (0, fl, some { l with entries := l.entries ++ [⟨a % 64, b % 64, BitVec.ofNat 32 v⟩] })
      else (saturate f x, flagOLOV ||| flagNX, some { l with ovf := true })
    | none => (saturate f x, flagOLOV ||| flagNX, none)

/-! ## Scales (R162) -/

/-- The scale of a scale word: 1.0 with NV when it is not a positive finite normal FP32 or a reserved bit is set. -/
def scaleOfWord (w : Word) : XVal × Word :=
  let v := (w.extractLsb' 0 32).toNat
  if w.extractLsb' 32 32 = 0 ∧ 2 ^ 23 ≤ v ∧ v < 255 * 2 ^ 23 then (decodeFmt fp32 v, 0) else (.fin false 1 1, flagNV)

end Sys2Proof.Machine
end

