-- ==== Sys2Proof/Machine/IntOps.lean ====
section
/-! DEFINITION. The meanings of majors 0x00 to 0x07: `yield`, integer arithmetic, immediates, multiply and divide,
compare and select, bit counts and address arithmetic (R192 to R204, R213). -/

namespace Sys2Proof.Machine

/-- A register-form integer instruction of latency `lat`: Rd ← f(a, b) (R192). -/
def intRR (lat : Nat) (f : Word → Word → Word) (d a b : Reg) (s : State) : Out :=
  gate false (usesXX d a b) s fun s => .next (finish (writeInt s lat d (f (readX s a) (readX s b))))

/-- An immediate-form integer instruction: Rd ← f(a, imm) (R194). -/
def intRI (f : Word → Word → Word) (d a : Reg) (imm : Word) (s : State) : Out :=
  gate false (usesX d a) s fun s => .next (finish (writeInt s 2 d (f (readX s a) imm)))

/-- An immediate with no source: Rd ← v (R196). -/
def intImm (d : Reg) (v : Word) (s : State) : Out :=
  gate false { writes := [xreg d] } s fun s => .next (finish (writeInt s 2 d v))

/-- `add`, register form (R194). -/
def execAdd (d a b : Reg) (s : State) : Out := intRR 2 (fun a b => a + b) d a b s

/-- `sub`, register form (R194). -/
def execSub (d a b : Reg) (s : State) : Out := intRR 2 (fun a b => a - b) d a b s

/-- `and`, register form (R194). -/
def execAnd (d a b : Reg) (s : State) : Out := intRR 2 (fun a b => a &&& b) d a b s

/-- `or`, register form (R194). -/
def execOr (d a b : Reg) (s : State) : Out := intRR 2 (fun a b => a ||| b) d a b s

/-- `xor`, register form (R194). -/
def execXor (d a b : Reg) (s : State) : Out := intRR 2 (fun a b => a ^^^ b) d a b s

/-- `sll`, register form (R194). -/
def execSll (d a b : Reg) (s : State) : Out := intRR 2 (fun a b => a <<< shiftAmount b) d a b s

/-- `srl`, register form (R194). -/
def execSrl (d a b : Reg) (s : State) : Out := intRR 2 (fun a b => a >>> shiftAmount b) d a b s

/-- `sra`, register form (R194). -/
def execSra (d a b : Reg) (s : State) : Out := intRR 2 (fun a b => BitVec.sshiftRight a (shiftAmount b)) d a b s

/-- `min`, register form (R194). -/
def execMin (d a b : Reg) (s : State) : Out := intRR 2 (minSigned) d a b s

/-- `max`, register form (R194). -/
def execMax (d a b : Reg) (s : State) : Out := intRR 2 (maxSigned) d a b s

/-- `min.z`, register form (R194). -/
def execMinZ (d a b : Reg) (s : State) : Out := intRR 2 (minUnsigned) d a b s

/-- `max.z`, register form (R194). -/
def execMaxZ (d a b : Reg) (s : State) : Out := intRR 2 (maxUnsigned) d a b s

/-- `add`, form I: b is sext(IMM16) (R194). -/
def execAddImm16 (d a : Reg) (imm : BitVec 16) (s : State) : Out := intRI (fun a b => a + b) d a (sextImm imm) s

/-- `sub`, form I: b is sext(IMM16) (R194). -/
def execSubImm16 (d a : Reg) (imm : BitVec 16) (s : State) : Out := intRI (fun a b => a - b) d a (sextImm imm) s

/-- `and`, form I: b is sext(IMM16) (R194). -/
def execAndImm16 (d a : Reg) (imm : BitVec 16) (s : State) : Out := intRI (fun a b => a &&& b) d a (sextImm imm) s

/-- `or`, form I: b is sext(IMM16) (R194). -/
def execOrImm16 (d a : Reg) (imm : BitVec 16) (s : State) : Out := intRI (fun a b => a ||| b) d a (sextImm imm) s

/-- `xor`, form I: b is sext(IMM16) (R194). -/
def execXorImm16 (d a : Reg) (imm : BitVec 16) (s : State) : Out := intRI (fun a b => a ^^^ b) d a (sextImm imm) s

/-- `sll`, form I: s is IMM16[5:0] (R194). -/
def execSllImm16 (d a : Reg) (sh : BitVec 6) (s : State) : Out := intRI (fun a b => a <<< shiftAmount b) d a (zextImm sh) s

/-- `srl`, form I: s is IMM16[5:0] (R194). -/
def execSrlImm16 (d a : Reg) (sh : BitVec 6) (s : State) : Out := intRI (fun a b => a >>> shiftAmount b) d a (zextImm sh) s

/-- `sra`, form I: s is IMM16[5:0] (R194). -/
def execSraImm16 (d a : Reg) (sh : BitVec 6) (s : State) : Out := intRI (fun a b => BitVec.sshiftRight a (shiftAmount b)) d a (zextImm sh) s

/-- `min`, form I: b is sext(IMM16) (R194). -/
def execMinImm16 (d a : Reg) (imm : BitVec 16) (s : State) : Out := intRI (minSigned) d a (sextImm imm) s

/-- `max`, form I: b is sext(IMM16) (R194). -/
def execMaxImm16 (d a : Reg) (imm : BitVec 16) (s : State) : Out := intRI (maxSigned) d a (sextImm imm) s

/-- `min.z`, form I: b is sext(IMM16) (R194). -/
def execMinZImm16 (d a : Reg) (imm : BitVec 16) (s : State) : Out := intRI (minUnsigned) d a (sextImm imm) s

/-- `max.z`, form I: b is sext(IMM16) (R194). -/
def execMaxZImm16 (d a : Reg) (imm : BitVec 16) (s : State) : Out := intRI (maxUnsigned) d a (sextImm imm) s

/-- `add`, form L: b is sext(IMM32) (R194). -/
def execAddImm32 (d a : Reg) (imm : BitVec 32) (s : State) : Out := intRI (fun a b => a + b) d a (sextImm imm) s

/-- `sub`, form L: b is sext(IMM32) (R194). -/
def execSubImm32 (d a : Reg) (imm : BitVec 32) (s : State) : Out := intRI (fun a b => a - b) d a (sextImm imm) s

/-- `and`, form L: b is sext(IMM32) (R194). -/
def execAndImm32 (d a : Reg) (imm : BitVec 32) (s : State) : Out := intRI (fun a b => a &&& b) d a (sextImm imm) s

/-- `or`, form L: b is sext(IMM32) (R194). -/
def execOrImm32 (d a : Reg) (imm : BitVec 32) (s : State) : Out := intRI (fun a b => a ||| b) d a (sextImm imm) s

/-- `xor`, form L: b is sext(IMM32) (R194). -/
def execXorImm32 (d a : Reg) (imm : BitVec 32) (s : State) : Out := intRI (fun a b => a ^^^ b) d a (sextImm imm) s

/-- `min`, form L: b is sext(IMM32) (R194). -/
def execMinImm32 (d a : Reg) (imm : BitVec 32) (s : State) : Out := intRI (minSigned) d a (sextImm imm) s

/-- `max`, form L: b is sext(IMM32) (R194). -/
def execMaxImm32 (d a : Reg) (imm : BitVec 32) (s : State) : Out := intRI (maxSigned) d a (sextImm imm) s

/-- `min.z`, form L: b is sext(IMM32) (R194). -/
def execMinZImm32 (d a : Reg) (imm : BitVec 32) (s : State) : Out := intRI (minUnsigned) d a (sextImm imm) s

/-- `max.z`, form L: b is sext(IMM32) (R194). -/
def execMaxZImm32 (d a : Reg) (imm : BitVec 32) (s : State) : Out := intRI (maxUnsigned) d a (sextImm imm) s

/-- `li`, form I (R196). -/
def execLiImm16 (d : Reg) (imm : BitVec 16) (s : State) : Out := intImm d (sextImm imm) s

/-- `li`, form L (R196). -/
def execLiImm32 (d : Reg) (imm : BitVec 32) (s : State) : Out := intImm d (sextImm imm) s

/-- `mul` (R197). -/
def execMul (d a b : Reg) (s : State) : Out := intRR 4 (fun a b => a * b) d a b s

/-- `mulh` (R197). -/
def execMulh (d a b : Reg) (s : State) : Out := intRR 4 (mulHigh) d a b s

/-- `mulh.z` (R197). -/
def execMulhZ (d a b : Reg) (s : State) : Out := intRR 4 (mulHighZ) d a b s

/-- `setEq`, register form (R200). -/
def execSetEq (d a b : Reg) (s : State) : Out := intRR 2 (fun a b => boolWord (condEq a b)) d a b s

/-- `setNe`, register form (R200). -/
def execSetNe (d a b : Reg) (s : State) : Out := intRR 2 (fun a b => boolWord (condNe a b)) d a b s

/-- `setLt`, register form (R200). -/
def execSetLt (d a b : Reg) (s : State) : Out := intRR 2 (fun a b => boolWord (condLt a b)) d a b s

/-- `setGe`, register form (R200). -/
def execSetGe (d a b : Reg) (s : State) : Out := intRR 2 (fun a b => boolWord (condGe a b)) d a b s

/-- `setLtZ`, register form (R200). -/
def execSetLtZ (d a b : Reg) (s : State) : Out := intRR 2 (fun a b => boolWord (condLtZ a b)) d a b s

/-- `setGeZ`, register form (R200). -/
def execSetGeZ (d a b : Reg) (s : State) : Out := intRR 2 (fun a b => boolWord (condGeZ a b)) d a b s

/-- `setEq`, immediate form (R200). -/
def execSetEqImm (d a : Reg) (imm : BitVec 16) (s : State) : Out := intRI (fun a b => boolWord (condEq a b)) d a (sextImm imm) s

/-- `setNe`, immediate form (R200). -/
def execSetNeImm (d a : Reg) (imm : BitVec 16) (s : State) : Out := intRI (fun a b => boolWord (condNe a b)) d a (sextImm imm) s

/-- `setLt`, immediate form (R200). -/
def execSetLtImm (d a : Reg) (imm : BitVec 16) (s : State) : Out := intRI (fun a b => boolWord (condLt a b)) d a (sextImm imm) s

/-- `setGe`, immediate form (R200). -/
def execSetGeImm (d a : Reg) (imm : BitVec 16) (s : State) : Out := intRI (fun a b => boolWord (condGe a b)) d a (sextImm imm) s

/-- `setLtZ`, immediate form (R200). -/
def execSetLtZImm (d a : Reg) (imm : BitVec 16) (s : State) : Out := intRI (fun a b => boolWord (condLtZ a b)) d a (sextImm imm) s

/-- `setGeZ`, immediate form (R200). -/
def execSetGeZImm (d a : Reg) (imm : BitVec 16) (s : State) : Out := intRI (fun a b => boolWord (condGeZ a b)) d a (sextImm imm) s

/-- `clz` (R202). -/
def execClz (d a : Reg) (s : State) : Out := intRI (fun a _ => BitVec.ofNat 64 (leadingZeros a 64)) d a 0 s

/-- `ctz` (R202). -/
def execCtz (d a : Reg) (s : State) : Out := intRI (fun a _ => BitVec.ofNat 64 (trailingZeros a 0 64)) d a 0 s

/-- `pcnt` (R202). -/
def execPcnt (d a : Reg) (s : State) : Out := intRI (fun a _ => BitVec.ofNat 64 (onesCount a 64)) d a 0 s

/-- `li xd, xa, imm`: Rd ← (IMM32 << 32) OR zext(a[31:0]) (R196). -/
def execLiHigh (d a : Reg) (imm : BitVec 32) (s : State) : Out :=
  intRI (fun a _ => (imm ++ a.extractLsb' 0 32 : Word)) d a 0 s

/-- A division: Rd pends until the divider, which serves one at a time in issue order, has taken 34 cycles from the
later of the issue cycle and the cycle it becomes free (R199). -/
def divide (f : Word → Word → Word) (d a b : Reg) (s : State) : Out :=
  gate false { reads := [xreg a, xreg b], vwrites := [xreg d] } s fun s =>
    let v := f (readX s a) (readX s b)
    let free := match s.myCore.divq.getLast? with
      | some j => Nat.max j.due s.myCore.cyc
      | none => s.myCore.cyc
    let (id, s) := pendV s s.cur .divide [xreg d] none 0
    let s := s.setMyCore { s.myCore with divq := s.myCore.divq ++ [⟨s.cur, id, v, free + 34⟩] }
    .next ((unbound (finish s)).post (.divisionComplete s.curCore))

/-- DIVISION_COMPLETE: the divider's oldest division has taken its 34 cycles: the result lands, unless its continuation has
been discarded, and the divider goes on (R199). -/
def execDivisionComplete (core : Nat) (s : State) : Out :=
  let co := s.core core
  match co.divq with
  | [] => .next s
  | j :: js =>
    if co.cyc < j.due then .next (s.post (.divisionComplete core))
    else
      let s := s.setCore core { co with divq := js }
      let sl := s.slot j.slot
      match sl.vpend.find? fun v => v.id == j.id with
      | none => .next s
      | some v =>
        let s := s.setSlot j.slot { sl with vpend := sl.vpend.filter fun w => w.id != j.id }
        .next (landSoon s core j.slot v.regs (v.regs.map fun _ => j.value.setWidth 512) 0)

/-- `div` (R198). -/
def execDiv (d a b : Reg) (s : State) : Out := divide divSigned d a b s
/-- `div.z` (R198). -/
def execDivZ (d a b : Reg) (s : State) : Out := divide divUnsigned d a b s
/-- `rem` (R198). -/
def execRem (d a b : Reg) (s : State) : Out := divide remSigned d a b s
/-- `rem.z` (R198). -/
def execRemZ (d a b : Reg) (s : State) : Out := divide remUnsigned d a b s

/-- `sel`: Rd ← a when the old d is not 0, else b (R201). -/
def execSel (d a b : Reg) (s : State) : Out :=
  gate false { reads := [xreg a, xreg b, xreg d], writes := [xreg d] } s fun s =>
    .next (finish (writeInt s 2 d (if readX s d ≠ 0 then readX s a else readX s b)))

/-- `shadd`: a + (b << sh) (R203). -/
def execShadd (d a b : Reg) (sh : BitVec 3) (s : State) : Out := intRR 2 (fun a b => a + (b <<< sh.toNat)) d a b s

/-- `lea2d` (R204). -/
def execLea2d (d a b : Reg) (esz : BitVec 2) (p : BitVec 3) (pitch : BitVec 16) (s : State) : Out :=
  intRR 2 (fun a b => rowAddress a b esz p pitch) d a b s

/-- The slots of the core, other than slot `k`, that are READY with their stall count run out (R213). -/
def otherReady (s : State) (c k : Nat) : List Nat :=
  (List.range 16).filter fun i =>
    i != k && (s.slot (slotKey c i)).st == .ready && !(s.slot (slotKey c i)).halted &&
      decide ((s.slot (slotKey c i)).readyAt ≤ (s.core c).cyc)

/-- `yield`: outside deterministic operation the slot is ineligible until every other slot that was ready has issued
once, or for 16 cycles, whichever ends first (R213). -/
def execYield (s : State) : Out :=
  gate false {} s fun s =>
    let others := otherReady s s.curCore s.curSlot
    let s := if inDet s || others.isEmpty then s
      else s.setMe { s.me with yieldTo := some (others, s.myCore.cyc + 17) }
    .next (unbound (finish s))

end Sys2Proof.Machine
end

