-- ==== Sys2Proof/Machine/Control.lean ====
section
/-! DEFINITION. The meanings of majors 0x08 and 0x09, branches and jumps (R205 to R208), and of the time
instructions of major 0x0B (R211, R212). -/

namespace Sys2Proof.Machine

/-- A transfer of control to `target` completes: the target is checked when the slot enters it (R174, R168). A
transfer to a PC at or below its own ends a bounded lease sequence (R230). -/
def transfer (s : State) (target : Word) : State :=
  let pc := s.me.pc
  let s := if target.ule pc then unbound s else s
  finishAt s target pc

/-- A branch: taken to its code offset when the condition holds, else it falls through (R205). -/
def branch {n : Nat} (cond : Word → Word → Bool) (a b : Reg) (off : BitVec n) (s : State) : Out :=
  gate false { reads := [xreg a, xreg b] } s fun s =>
    .next (if cond (readX s a) (readX s b) then transfer s (codeTarget s.me.pc off) else finish s)

/-- `beq`, form I (R205). -/
def execBeq (a b : Reg) (off : BitVec 16) (s : State) : Out := branch condEq a b off s
/-- `bne`, form I (R205). -/
def execBne (a b : Reg) (off : BitVec 16) (s : State) : Out := branch condNe a b off s
/-- `blt`, form I (R205). -/
def execBlt (a b : Reg) (off : BitVec 16) (s : State) : Out := branch condLt a b off s
/-- `bge`, form I (R205). -/
def execBge (a b : Reg) (off : BitVec 16) (s : State) : Out := branch condGe a b off s
/-- `blt.z`, form I (R205). -/
def execBltZ (a b : Reg) (off : BitVec 16) (s : State) : Out := branch condLtZ a b off s
/-- `bge.z`, form I (R205). -/
def execBgeZ (a b : Reg) (off : BitVec 16) (s : State) : Out := branch condGeZ a b off s
/-- `beq`, form L (R205). -/
def execBeqL (a b : Reg) (off : BitVec 32) (s : State) : Out := branch condEq a b off s
/-- `bne`, form L (R205). -/
def execBneL (a b : Reg) (off : BitVec 32) (s : State) : Out := branch condNe a b off s
/-- `blt`, form L (R205). -/
def execBltL (a b : Reg) (off : BitVec 32) (s : State) : Out := branch condLt a b off s
/-- `bge`, form L (R205). -/
def execBgeL (a b : Reg) (off : BitVec 32) (s : State) : Out := branch condGe a b off s
/-- `blt.z`, form L (R205). -/
def execBltZL (a b : Reg) (off : BitVec 32) (s : State) : Out := branch condLtZ a b off s
/-- `bge.z`, form L (R205). -/
def execBgeZL (a b : Reg) (off : BitVec 32) (s : State) : Out := branch condGeZ a b off s

/-- `j`, form I (R206). -/
def execJ (off : BitVec 16) (s : State) : Out :=
  gate false {} s fun s => .next (transfer s (codeTarget s.me.pc off))

/-- `j`, form L (R206). -/
def execJL (off : BitVec 32) (s : State) : Out :=
  gate false {} s fun s => .next (transfer s (codeTarget s.me.pc off))

/-- A jump that writes FallThrough(PC) to Rd as a V result; the target is given by the state before (R206, R207). -/
def jumpAndLink (d : Reg) (reads : List RegId) (target : State → Word) (s : State) : Out :=
  gate false { reads := reads, vwrites := [xreg d] } s fun s =>
    let t := target s
    .next (transfer (writeVar s (xreg d) ((fallThrough s.me).setWidth 512) 0) t)

/-- `jal`, form I (R206). -/
def execJal (d : Reg) (off : BitVec 16) (s : State) : Out := jumpAndLink d [] (fun s => codeTarget s.me.pc off) s

/-- `jal`, form L (R206). -/
def execJalL (d : Reg) (off : BitVec 32) (s : State) : Out := jumpAndLink d [] (fun s => codeTarget s.me.pc off) s

/-- `jr`: the target is the value of a at issue (R207). -/
def execJr (d a : Reg) (s : State) : Out := jumpAndLink d [xreg a] (fun s => readX s a) s

/-- `ret`: a jump to x15 (R207). -/
def execRet (s : State) : Out :=
  gate false { reads := [xreg 15] } s fun s => .next (transfer s (readX s 15))

/-- `rdtb`: the time base at issue, as a V result (R211). -/
def execRdtb (d : Reg) (s : State) : Out :=
  gate false { vwrites := [xreg d] } s fun s =>
    .next (finish (writeVar s (xreg d) (BitVec.ofNat 512 (s.tick % 2 ^ 64)) 0))

/-- Sleep until tick `until`: no wait when it has passed; otherwise the slot is in WAIT, its PC past the
instruction only when it wakes (R212, R341). -/
def sleepUntil (s : State) (untilTick : Nat) : State :=
  let s := unbound s
  if untilTick ≤ s.tick then finish s
  else (hold s (.sleep untilTick)).post (.sleepEnd s.curCore s.curSlot)

/-- The end tick of a sleep of `n` ticks (R212). -/
def sleepEndTick (s : State) (n : Nat) : Nat := Nat.min (s.tick + n) (2 ^ 64 - 1)

/-- `sleep xa` (R212). -/
def execSleep (a : Reg) (s : State) : Out :=
  gate false { reads := [xreg a] } s fun s => .next (sleepUntil s (sleepEndTick s (readX s a).toNat))

/-- `sleep imm`, the immediate zero-extended (R212). -/
def execSleepImm (imm : BitVec 16) (s : State) : Out :=
  gate false {} s fun s => .next (sleepUntil s (sleepEndTick s imm.toNat))

/-- `slp.until` (R212). -/
def execSlpUntil (a : Reg) (s : State) : Out :=
  gate false { reads := [xreg a] } s fun s => .next (sleepUntil s (readX s a).toNat)

end Sys2Proof.Machine
end

