-- ==== Sys2Proof/Machine/Xlat.lean ====
section
/-! DEFINITION. Translation of global addresses, the host window table, the carve-out map and the byte accesses at a
translated place (R83, R88, R371 to R375, R380 to R383, R399 to R401). -/

namespace Sys2Proof.Machine

/-- A valid global address: bits [63:57] zero (R83). -/
def canonical (va : Word) : Bool := va.extractLsb' 57 7 == 0

/-! ## The carve-out (R399 to R401) -/

/-- Does the partition hold extent `e` (R400)? Bit e of the EXT map, words 1 to 5 of the record. -/
def holdsExtent (r : PartRecord) (e : Nat) : Bool := decide (e < 288) && r.getLsbD (64 + e)

/-- Does the partition hold island `i` (R400)? -/
def holdsIsland (r : PartRecord) (i : Nat) : Bool := decide (i < 32) && r.getLsbD (32 + i)

/-- Does the partition exist (R400)? -/
def partValid (r : PartRecord) : Bool := r.getLsbD 0

/-- The extent with index `n` among the set EXT bits from extent `e` on (R401). -/
def extentAt (r : PartRecord) (n : Nat) (e : Nat) : Nat → Option Nat
  | 0 => none
  | f + 1 =>
    if holdsExtent r e then (if n = 0 then some e else extentAt r (n - 1) (e + 1) f)
    else extentAt r n (e + 1) f

/-- The device physical address of carve-out offset `o` (R401), none outside the carve-out. -/
def carveOut (r : PartRecord) (o : Nat) : Option Nat :=
  (extentAt r (o / 2 ^ 30) 0 288).map fun e => e * 2 ^ 30 + o % 2 ^ 30

/-- The HBM stack of a device physical address: die × 2 + (e mod 72) mod 2 (R399). -/
def stackOf (pa : Nat) : Nat := let e := pa / 2 ^ 30; e / 72 * 2 + e % 72 % 2

/-- The home die of a device physical address (R88, R399). -/
def dieOfPa (pa : Nat) : Nat := pa / 2 ^ 30 / 72

/-- The bank index of a physical address (R88). -/
def bankIndex (pa : Nat) : Nat :=
  ((pa >>> 7) % 128) ^^^ ((pa >>> 14) % 128) ^^^ ((pa >>> 21) % 128) ^^^ ((pa >>> 28) % 128)

/-- The home die of a place (R88). -/
def Loc.die : Loc → Nat
  | .dev pa => dieOfPa pa
  | .host pa _ => ((pa >>> 7) % 4) ^^^ ((pa >>> 9) % 4)

/-! ## Translation entries (R371 to R375) -/

/-- The page sizes a slice stores, as powers of two (R372). -/
def pageSizes : List Nat := [12, 16, 21, 30]

/-- The L2 slices of a partition, in increasing order (R371, R400): slices 4b to 4b + 3 go with block b of a die. -/
def slicesOf (r : PartRecord) : List Nat := (List.range 128).filter fun i => holdsIsland r (i / 4)

/-- Does the partition hold a slice of the die? -/
def holdsDie (r : PartRecord) (die : Nat) : Bool := (r.extractLsb' (32 + 8 * die) 8) != 0

/-- The translation slice of the granule of an address, from 0 to 127 (R371). -/
def sliceOf (r : PartRecord) (va : Nat) : Nat :=
  let die := (va >>> 12 ^^^ va >>> 22) % 4
  let n := 32 * die + (va >>> 14 ^^^ va >>> 24 ^^^ va >>> 34 ^^^ va >>> 44) % 32
  if holdsDie r die then n
  else if r.extractLsb' 32 32 = 0 then 0
  else (slicesOf r).getD (n % (slicesOf r).length) 0

/-- The key of an entry of a slice: the slice, the page's address and its size. -/
def xkey (slice va log2 : Nat) : Nat := 2 ^ 64 * slice + va / 2 ^ log2 * 2 ^ log2 + log2

/-- The address of the page of an entry's key. -/
def xbase (key log2 : Nat) : Nat := key % 2 ^ 64 / 2 ^ log2 * 2 ^ log2

/-- The entry of a page size that covers `va` in a slice. -/
def xentryAt (m : SMap XEntry) (slice va log2 : Nat) : Option XEntry :=
  look (m.map fun e => (e.1, some e.2)) none (xkey slice va log2)

/-- The first entry of a slice that covers `va`. -/
def xlookup (m : SMap XEntry) (slice va : Nat) : List Nat → Option XEntry
  | [] => none
  | l :: ls => match xentryAt m slice va l with
    | some e => some e
    | none => xlookup m slice va ls

/-- Does a translation grant what an access needs (R375)? -/
def XEntry.grants (e : XEntry) : Need → Bool
  | .read => e.read
  | .write => e.write
  | .exec => e.exec

/-- The 4 KiB page of an address. -/
def pageOf (va : Nat) : Nat := va / 4096 * 4096

/-- The host window table applied to a translated address (R383): none for an address in no entry, or past the
carve-out. -/
def placeOf (pt : Part) (pa : Nat) : Option Loc :=
  match pt.hwin.find? (fun w => w.base ≤ pa && pa < w.base + w.pages * 4096) with
  | none => none
  | some w =>
    match w.writer with
    | 0 => some (.host pa true)
    | 1 => some (.host pa false)
    | _ => (carveOut pt.record (pa - w.base)).map .dev

/-- What a translation of `va` for `need` gives: the place, no entry in any window, a miss, an entry that lacks the
permission, or a fault that is final at once (R374, R375, R378, R380, R383). -/
inductive XRes where
  | hit (l : Loc)
  | nowhere
  | miss
  | fault
  | final
  deriving DecidableEq, Repr

/-- The translation of an address in partition `p` (R374, R375, R380). -/
def translate (pt : Part) (va : Nat) (need : Need) : XRes :=
  if pt.spasid.getLsbD 63 = false then .final
  else match xlookup pt.xlat (sliceOf pt.record va) va pageSizes with
    | none => .miss
    | some e =>
      if e.grants need then
        match placeOf pt (e.pa + va % 2 ^ e.log2) with
        | some l => .hit l
        | none => .nowhere
      else if pt.pagesOff then .final else .fault

/-! ## The memories -/

/-- The byte at a place. -/
def State.byteAt (s : State) : Loc → Byte
  | .dev pa => readByte s.devMem pa
  | .host pa _ => readByte s.hostMem pa

/-- A line gone from every remote-data cache (R90). -/
def dropCopies (m : SMap (BitVec 1024)) (line : Nat) : SMap (BitVec 1024) := m.filter fun e => e.1 % 2 ^ 32 != line

/-- The byte at a place replaced; no remote-data cache keeps its line (R90). -/
def State.setByteAt (s : State) (l : Loc) (b : Byte) : State :=
  match l with
  | .dev pa => { s with devMem := writeByte s.devMem pa b, rdc := dropCopies s.rdc (pa / 128) }
  | .host pa _ => { s with hostMem := writeByte s.hostMem pa b }

/-- The place `n` bytes further in the same page. -/
def Loc.plus : Loc → Nat → Loc
  | .dev pa, n => .dev (pa + n)
  | .host pa c, n => .host (pa + n) c

/-- The `n` bytes from a place on, lowest first; an aligned access never leaves its page. -/
def State.bytesAt (s : State) (l : Loc) (n : Nat) : List Byte :=
  match l with
  | .dev pa => readBytes s.devMem pa n
  | .host pa _ => readBytes s.hostMem pa n

/-- Bytes written at offsets from a place. -/
def State.setBytesAt (s : State) (l : Loc) : List (Nat × Byte) → State
  | [] => s
  | (o, b) :: bs => (s.setByteAt (l.plus o) b).setBytesAt l bs

/-! ## Remote-data caches (R90) -/

/-- The line of a place as the remote-data cache of a die holds it. -/
def copyAt (s : State) (die : Nat) : Loc → Option (BitVec 1024)
  | .dev pa => look (s.rdc.map fun e => (e.1, some e.2)) none (2 ^ 32 * die + pa / 128)
  | .host _ _ => none

/-- The slice of a die's remote-data cache that holds a line (R90). -/
def rdcSlice (line : Nat) : Nat := bankIndex (128 * line) % 8

/-- Room for a line in its slice of a die's remote-data cache: a slice of 4 MiB holds 32,768 lines, and which of them makes
room is free (R7, R90). -/
def makeRoom (s : State) (die line : Nat) : State :=
  let mine := s.rdc.filter fun e => e.1 / 2 ^ 32 == die && rdcSlice (e.1 % 2 ^ 32) == rdcSlice line
  if mine.length < 32768 then s
  else match mine[Config.choose s.draws % mine.length]? with
    | some e => { s.draw with rdc := remove s.rdc e.1 }
    | none => s

/-- The die of core `c` caches a line homed on another die. -/
def fillCopy (s : State) (c : Nat) (l : Loc) : State :=
  match l with
  | .dev pa =>
    if dieOfPa pa = c / 128 then s
    else
      let v : BitVec 1024 := BitVec.ofNat 1024 (bytesToNat (readBytes s.devMem (pa / 128 * 128) 128))
      let s := if (copyAt s (c / 128) l).isSome then s else makeRoom s (c / 128) (pa / 128)
      { s with rdc := put s.rdc (2 ^ 32 * (c / 128) + pa / 128) v }
  | .host _ _ => s

/-- The copies of a line on other dies than core `c`'s. -/
def otherCopies (s : State) (c : Nat) (l : Loc) : SMap (BitVec 1024) :=
  match l with
  | .dev pa => s.rdc.filter fun e => e.1 % 2 ^ 32 == pa / 128 && e.1 / 2 ^ 32 != c / 128
  | .host _ _ => []

/-- After a write of the slot with key `k` from `s0` to `s`: the copies on other dies stay until they are invalidated,
before the write completes (R90, R108). -/
def keepCopies (s0 s : State) (k : Nat) (id : Option Nat) (l : Loc) : State :=
  match l with
  | .host _ _ => s
  | .dev pa =>
    match otherCopies s0 (k / 16) l with
    | [] => s
    | es => { s with rdc := es.foldl (fun m e => put m e.1 e.2) s.rdc, purges := s.purges ++ [⟨k, id, pa / 128⟩] }

/-- The invalidations that a write waits for are acknowledged (R90). -/
def purge (s : State) (k : Nat) (id : Option Nat) : State :=
  let mine := fun (x : Purge) => x.slot == k && x.id == id
  match s.purges.filter mine with
  | [] => s
  | xs => { s with
      rdc := xs.foldl (fun m x => dropCopies m x.line) s.rdc
      purges := s.purges.filter fun x => !mine x }

/-! ## Reads by the hub and the engines through a partition's space -/

/-- The tag of a first-level line: the address space and the virtual line (R87). -/
def l1Tag (pt : Part) (va : Nat) : Nat := 2 ^ 50 * (pt.spasid.extractLsb' 0 20).toNat + va / 128

/-- The byte of the partition's space at `va`, which lies at `l`: from the owner's first-level cache where a PRIVATE page has
its line there (R87). -/
def spaceByte (s : State) (p va : Nat) (l : Loc) : Byte :=
  let e := look (s.part p).cls 0 (va / 4096)
  let held : Option L1Line := if e.extractLsb' 14 2 = 1 then
      look ((s.core (e.extractLsb' 0 10).toNat).l1.map fun (x : Nat × L1Line) => (x.1, some x.2)) none (l1Tag (s.part p) va)
    else none
  match held with
  | some x => x.data.extractLsb' (8 * (va % 128)) 8
  | none => s.byteAt l

/-- The `n` bytes of the partition's space at `va`, when every page is translated for reading; a byte at a time, as
an outside agent reads them. -/
def readSpace (s : State) (p va : Nat) : Nat → Option (List Byte)
  | 0 => some []
  | n + 1 =>
    match translate (s.part p) va .read with
    | .hit l => (readSpace s p (va + 1) n).map fun bs => spaceByte s p va l :: bs
    | _ => none

/-- An 8-byte word of the partition's space. -/
def readSpaceWord (s : State) (p va : Nat) : Option Nat := (readSpace s p va 8).map bytesToNat

/-- Is every byte of a range translated for `need`? -/
def spaceReady (s : State) (p va : Nat) (need : Need) : Nat → Bool
  | 0 => true
  | n + 1 => (match translate (s.part p) va need with
    | .hit _ => true
    | _ => false) && spaceReady s p (va + 1) need n

/-- The first page of a range that is not translated for `need`. -/
def firstMissing (s : State) (p va : Nat) (need : Need) : Nat → Option (Nat × XRes)
  | 0 => none
  | n + 1 => match translate (s.part p) va need with
    | .hit _ => firstMissing s p (va + 1) need n
    | r => some (pageOf va, r)

/-! ## Requests to the host (R374, R375) -/

/-- Does the slice run sixteen translation requests, so that a further miss queues there (R371)? -/
def sliceFull (pt : Part) (slice : Nat) : Bool :=
  decide (16 ≤ (pt.xreqs.filter fun r => r.slice == slice && !r.paging && !r.queued).length)

/-- A translation request for a page at its slice, unless one is outstanding; a fetch asks for execution, and so shares
only with fetches (R374). -/
def requestXlat (s : State) (p page : Nat) (need : Need) : State :=
  let pt := s.part p
  if pt.xreqs.any (fun r => r.page == page && !r.paging && (r.need == .exec) == (need == .exec)) then s
  else
    let slice := sliceOf pt.record page
    let full := sliceFull pt slice
    let (id, s) := s.fresh
    let s := s.setPart p { s.part p with xreqs := (s.part p).xreqs ++ [⟨id, page, need, s.tick, false, false, slice, full⟩] }
    if full then s else s.post (.atsTimeout id)

/-- The first request that queues at a slice with room is sent (R371). -/
def sendQueued (s : State) (p slice : Nat) : State :=
  if sliceFull (s.part p) slice then s
  else match (s.part p).xreqs.find? fun r => r.slice == slice && r.queued && !r.paging with
    | none => s
    | some r =>
      let s := s.setPart p { s.part p with
        xreqs := (s.part p).xreqs.map fun q => if q.id = r.id then { q with queued := false, sent := s.tick } else q }
      s.post (.atsTimeout r.id)

/-- Is the allocation of page requests that the partition's function has used up? It is at most the capacity of 4,096 that
the HK4 reports (R375). -/
def pagesFull (pt : Part) (p : Nat) : Bool :=
  decide (Nat.min 4096 (Config.pageAllocation p) ≤ (pt.xreqs.filter fun r => r.paging && !r.queued).length)

/-- A page request for a faulting page, joined by later faults on the page; with the allocation used up it waits without a
message (R375). -/
def requestPage (s : State) (p page : Nat) (need : Need) : State :=
  let pt := s.part p
  if pt.xreqs.any (fun r => r.page == page && r.paging) then s
  else
    let full := pagesFull pt p
    let (id, s) := s.fresh
    let s := s.setPart p { s.part p with xreqs := (s.part p).xreqs ++
      [⟨id, page, need, s.tick, false, true, sliceOf pt.record page, full⟩] }
    { s with agenda := if full then s.agenda else s.agenda ++ [.pageRequestTimeout id] }

/-- The first page request that waits for the allocation is sent when a response has freed one (R375). -/
def sendQueuedPage (s : State) (p : Nat) : State :=
  if pagesFull (s.part p) p then s
  else match (s.part p).xreqs.find? fun r => r.paging && r.queued with
    | none => s
    | some r =>
      let s := s.setPart p { s.part p with
        xreqs := (s.part p).xreqs.map fun q => if q.id = r.id then { q with queued := false, sent := s.tick } else q }
      s.post (.pageRequestTimeout r.id)

/-! ## The host window table (R383) -/

/-- An 8-byte word of host memory by host physical address. -/
def hostWord (s : State) (a : Nat) : Nat := bytesToNat (readBytes s.hostMem a 8)

/-- The entries of the table from entry `i` on; none when a reserved bit is set or TYPE is 3. The table is read at the
host physical address `SHWIN` holds, since no translated address has a place before it is read (log entry 13). -/
def windowEntries (s : State) (base : Nat) (i : Nat) : Nat → Option (List Region)
  | 0 => some []
  | f + 1 =>
    let w0 := hostWord s (base + 16 * i)
    let w1 := hostWord s (base + 16 * i + 8)
    if w1 % 2 ^ 32 = 0 then some []
    else if 2 ^ 57 ≤ w0 ∨ w0 / 4 % 1024 ≠ 0 ∨ w0 % 4 = 3 ∨ 2 ^ 32 ≤ w1 then none
    else (windowEntries s base (i + 1) f).map fun r => ⟨w0 / 4096 * 4096, w1, w0 % 4⟩ :: r

/-- Do two of the regions overlap? -/
def regionsOverlap : List Region → Bool
  | [] => false
  | r :: rs => rs.any (fun q => r.base < q.base + q.pages * 4096 && q.base < r.base + r.pages * 4096) || regionsOverlap rs

/-- The host window table read again; a malformed one is treated as empty (R383). -/
def readWindows (s : State) (p : Nat) : State :=
  let pt := s.part p
  let t := match windowEntries s pt.shwin.toNat 0 16 with
    | some es => if regionsOverlap es then [] else es
    | none => []
  s.setPart p { pt with hwin := t }

end Sys2Proof.Machine
end

