-- ==== Sys2Proof/Machine/Tensor.lean ====
section
/-! DEFINITION. CRC-32C, tensor records, their checks (R109 to R111), the layouts and their inverses (R112, R113),
units (R114) and the redirection of accesses during a relayout (R118, R121). -/

namespace Sys2Proof.Machine

/-! ## CRC-32C (R111, R344, R387) -/

/-- One bit of the reflected CRC-32C. -/
def crcBit (c : Nat) : Nat := if c % 2 = 1 then (c / 2) ^^^ 0x82F63B78 else c / 2

/-- Eight bits of the CRC. -/
def crcByte (c b : Nat) : Nat := crcBit (crcBit (crcBit (crcBit (crcBit (crcBit (crcBit (crcBit (c ^^^ b))))))))

/-- The CRC register after a list of bytes. -/
def crcGo : Nat → List Byte → Nat
  | c, [] => c
  | c, b :: bs => crcGo (crcByte c b.toNat) bs

/-- CRC-32C of a list of bytes. -/
def crc32c (bs : List Byte) : Nat := crcGo 0xFFFFFFFF bs ^^^ 0xFFFFFFFF

/-- The 64 bytes of a vector value, lowest first. -/
def vecBytes (v : Vec) : List Byte := natToBytes 64 v.toNat

/-- A vector value from its bytes, lowest first. -/
def vecOfBytes (bs : List Byte) : Vec := BitVec.ofNat 512 (bytesToNat bs)

/-! ## The tensor record (R109, R110) -/

/-- Word i of a record. -/
def recWord (r : Vec) (i : Nat) : Word := r.extractLsb' (64 * i) 64
/-- ETYPE. -/
def recEtype (r : Vec) : Nat := (r.extractLsb' 48 4).toNat
/-- OUTL. -/
def recOutl (r : Vec) : Bool := r.getLsbD 45
/-- CONV. -/
def recConv (r : Vec) : Bool := r.getLsbD 44
/-- RANK. -/
def recRank (r : Vec) : Nat := (r.extractLsb' 40 4).toNat
/-- LAYOUT. -/
def recLayout (r : Vec) : Nat := (r.extractLsb' 32 8).toNat
/-- VERSION. -/
def recVersion (r : Vec) : BitVec 32 := r.extractLsb' 0 32
/-- BASE. -/
def recBase (r : Vec) : Nat := (recWord r 1).toNat
/-- FMT. -/
def recFmt (r : Vec) : BitVec 32 := r.extractLsb' 256 32
/-- SEAL. -/
def recSeal (r : Vec) : Nat := (r.extractLsb' 288 32).toNat
/-- AUX, the conversion state block. -/
def recAux (r : Vec) : Nat := (recWord r 7).toNat
/-- The scale pointer. -/
def recScale (r : Vec) : Nat := (recWord r 5).toNat
/-- The outlier-list pointer. -/
def recLists (r : Vec) : Nat := (recWord r 6).toNat
/-- The dimension field dk. -/
def recDim (r : Vec) (k : Nat) : Nat := (r.extractLsb' (128 + 32 * k) 32).toNat
/-- Dk: dk, or 1 at and above RANK (R112). -/
def recD (r : Vec) (k : Nat) : Nat := if k < recRank r then recDim r k else 1

/-- The bits of a field replaced. -/
def setBits (r : Vec) (lo w v : Nat) : Vec :=
  (r &&& ~~~(BitVec.ofNat 512 ((2 ^ w - 1) * 2 ^ lo))) ||| BitVec.ofNat 512 (v % 2 ^ w * 2 ^ lo)

/-- The seal a record should carry: the CRC of its bytes with SEAL zero. -/
def sealOf (r : Vec) : Nat := crc32c (vecBytes (setBits r 288 32 0))

/-- The record with its seal computed. -/
def resealed (r : Vec) : Vec := setBits r 288 32 (sealOf r)

/-- The storage width ES of an element in bits (R110). -/
def elemBits (etype : Nat) (fmt : BitVec 32) : Nat :=
  match etype with
  | 0 => descStorage fmt
  | 1 => 32 | 2 => 16 | 3 => 16
  | 4 => 8 | 5 => 16 | 6 => 32 | 7 => 64
  | 8 => 8 | 9 => 16 | 10 => 32 | 11 => 64
  | _ => 40

/-- ES of a record. -/
def recBits (r : Vec) : Nat := elemBits (recEtype r) (recFmt r)

/-! ## Layouts (R113) -/

/-- n rounded up to a multiple of k. -/
def roundUp (n k : Nat) : Nat := (n + k - 1) / k * k

/-- P: the elements of one matrix, padding included. -/
def layoutP (tag h w : Nat) : Nat :=
  match tag with
  | 0 | 1 => h * w
  | 2 | 3 => roundUp h 64 * roundUp w 64
  | 4 => roundUp h 32 * roundUp w 32
  | 5 => h * roundUp w 4
  | 6 => h * roundUp w 64
  | _ => roundUp h 64 * w

/-- L(a, b): the element offset of row a and column b in a matrix of h rows and w columns. -/
def layoutL (tag h w a b : Nat) : Nat :=
  match tag with
  | 0 => a * w + b
  | 1 => b * h + a
  | 2 => (a / 64 * (roundUp w 64 / 64) + b / 64) * 4096 + a % 64 * 64 + b % 64
  | 3 => (b / 64 * (roundUp h 64 / 64) + a / 64) * 4096 + b % 64 * 64 + a % 64
  | 4 => (a / 32 * (roundUp w 32 / 32) + b / 32) * 1024 + a % 32 * 32 + b % 32
  | 5 => b / 4 * (h * 4) + a * 4 + b % 4
  | 6 => a * roundUp w 64 + b / 64 * 64 + ((b / 8 % 8) ^^^ (a % 8)) * 8 + b % 8
  | _ => a / 64 * (64 * w) + b * 64 + a % 64

/-- The row and column whose offset is `x`, before the padding is told apart. -/
def layoutInv (tag h w x : Nat) : Nat × Nat :=
  match tag with
  | 0 => (x / w, x % w)
  | 1 => (x % h, x / h)
  | 2 =>
    let t := x / 4096; let u := roundUp w 64 / 64
    (t / u * 64 + x % 4096 / 64, t % u * 64 + x % 64)
  | 3 =>
    let t := x / 4096; let u := roundUp h 64 / 64
    (t % u * 64 + x % 64, t / u * 64 + x % 4096 / 64)
  | 4 =>
    let t := x / 1024; let u := roundUp w 32 / 32
    (t / u * 32 + x % 1024 / 32, t % u * 32 + x % 32)
  | 5 => (x % (h * 4) / 4, x / (h * 4) * 4 + x % 4)
  | 6 =>
    let a := x / roundUp w 64; let c := x % roundUp w 64
    (a, c / 64 * 64 + ((c / 8 % 8) ^^^ (a % 8)) * 8 + c % 8)
  | _ => (x / (64 * w) * 64 + x % 64, x % (64 * w) / 64)

/-- Is the layout tag assigned (R113)? -/
def layoutOk (tag : Nat) : Bool := decide (tag < 8)

/-- The element offset of element (m, a, b) of a record (R112). -/
def elemOffset (r : Vec) (m a b : Nat) : Nat :=
  m * layoutP (recLayout r) (recD r 1) (recD r 0) + layoutL (recLayout r) (recD r 1) (recD r 0) a b

/-- The number of elements of storage, padding included. -/
def storageElems (r : Vec) : Nat := recD r 3 * recD r 2 * layoutP (recLayout r) (recD r 1) (recD r 0)

/-- The bytes of storage. -/
def storageBytes (r : Vec) : Nat := (storageElems r * recBits r + 7) / 8

/-- The number of units (R114). -/
def unitCount (r : Vec) : Nat := recD r 3 * recD r 2 * (roundUp (recD r 1) 64 / 64) * (roundUp (recD r 0) 64 / 64)

/-- The unit of element (m, a, b) (R114). -/
def unitOf (r : Vec) (m a b : Nat) : Nat :=
  (m * (roundUp (recD r 1) 64 / 64) + a / 64) * (roundUp (recD r 0) 64 / 64) + b / 64

/-- The element (m, a, b) at an element offset; none for padding. -/
def elemAt (r : Vec) (e : Nat) : Option (Nat × Nat × Nat) :=
  let p := layoutP (recLayout r) (recD r 1) (recD r 0)
  let m := e / p
  let (a, b) := layoutInv (recLayout r) (recD r 1) (recD r 0) (e % p)
  if m < recD r 3 * recD r 2 ∧ a < recD r 1 ∧ b < recD r 0 then some (m, a, b) else none

/-- The lowest-numbered check of R111 that a record fails; `blockNames` says whether the AUX block names the record. -/
def recordFault (r : Vec) (blockNames : Bool) : Option Nat :=
  if recSeal r ≠ sealOf r then some 1
  else if r.extractLsb' 52 12 ≠ 0 ∨ r.extractLsb' 46 2 ≠ 0 ∨ 14 ≤ recEtype r then some 2
  else if layoutOk (recLayout r) = false then some 3
  else if recRank r = 0 ∨ 4 < recRank r ∨
      (List.range 4).any (fun k => decide (k < recRank r) && recDim r k == 0) ∨
      (List.range 4).any (fun k => decide (recRank r ≤ k) && recDim r k != 0) ∨
      2 ^ 57 < recBase r + storageBytes r then some 4
  else if recBase r % 4096 ≠ 0 ∨ 2 ^ 57 ≤ recBase r ∨ recScale r % 8 ≠ 0 ∨ recLists r % 256 ≠ 0 ∨ recAux r % 128 ≠ 0
    then some 5
  else if (recEtype r = 0 ∧ badDesc (recFmt r)) ∨ (recEtype r ≠ 0 ∧ (recFmt r ≠ 0 ∨ recOutl r)) ∨
      (recOutl r = false ∧ recLists r ≠ 0) then some 6
  else if recConv r ≠ decide (recAux r ≠ 0) ∨ (recConv r ∧ !blockNames) then some 7
  else none

/-- The first coordinate out of range, as the value of R112. -/
def badCoord (r : Vec) (c0 c1 c2 c3 : Nat) : Option Word :=
  let cs := [c0, c1, c2, c3]
  ((List.range 4).find? fun k => decide (k < recRank r) && decide (recDim r k ≤ cs.getD k 0)).map
    fun k => BitVec.ofNat 64 (k * 2 ^ 32 + cs.getD k 0)

/-! ## Conversions (R118, R121) -/

/-- The size of a conversion state block (R118). -/
def blockBytes (c : Conv) : Nat := 128 + 8 * ((c.units.length + 31) / 32)

/-- The conversion whose state block covers an address. -/
def blockAt (pt : Part) (va : Nat) : Option Conv :=
  pt.convs.find? fun c => decide (c.block ≤ va) && decide (va < c.block + blockBytes c)

/-- Do `n` bytes at `va` touch a line of a state block that is RUNNING (R118)? -/
def onRunningBlock (pt : Part) (va n : Nat) : Bool :=
  pt.convs.any fun c => !c.failed && decide (c.block / 128 * 128 < va + n) &&
    decide (va < (c.block + blockBytes c + 127) / 128 * 128)

/-- The conversion whose storage an address lies in, and whether it is the old storage. -/
def convAt (pt : Part) (va : Nat) : Option (Conv × Bool) :=
  let inside (r : Vec) : Bool := decide (recBase r ≤ va) && decide (va < recBase r + storageBytes r)
  match pt.convs.find? (fun c => inside c.oldRec || inside c.newRec) with
  | some c => some (c, inside c.oldRec)
  | none => none

/-- Do `n` bytes at `va` touch a marked line (R117, R121)? -/
def onMarked (pt : Part) (va n : Nat) : Bool :=
  let touches (r : Vec) : Bool :=
    decide (recBase r / 128 * 128 < va + n) && decide (va < (recBase r + storageBytes r + 127) / 128 * 128)
  pt.convs.any fun c => touches c.oldRec || touches c.newRec

/-- Where a nibble of a converting tensor is (R121): at a nibble address, behind a unit that must be converted
first, or padding. -/
inductive Redir where
  | nib (n : Nat)
  | unit (u : Nat) (force : Bool)
  | pad
  deriving DecidableEq, Repr

/-- Nibble address of nibble `o` of element (m, a, b) of a record. -/
def nibbleOf (r : Vec) (m a b o : Nat) : Nat := 2 * recBase r + elemOffset r m a b * (recBits r / 4) + o

/-- The state of a unit. -/
def unitState (c : Conv) (u : Nat) : UnitSt := c.units.getD u .new

/-- Where nibble `o` of element (m, a, b) of a converting tensor is now (R121). -/
def redirElem (c : Conv) (m a b o : Nat) (write : Bool) : Redir :=
  let u := unitOf c.oldRec m a b
  match unitState c u with
  | .old => if write && !c.failed then .unit u true else .nib (nibbleOf c.oldRec m a b o)
  | .busy => .unit u false
  | .new => .nib (nibbleOf c.newRec m a b o)

/-- Where the nibble with nibble address `n` is now, when an access names it by address (R121). -/
def redirNibble (pt : Part) (n : Nat) (write : Bool) : Redir :=
  match convAt pt (n / 2) with
  | none => .nib n
  | some (c, inOld) =>
    let r := if inOld then c.oldRec else c.newRec
    let k := n - 2 * recBase r
    let w := recBits r / 4
    match elemAt r (k / w) with
    | none => .pad
    | some (m, a, b) => redirElem c m a b (k % w) write

end Sys2Proof.Machine
end

