-- ==== Sys2Proof/Machine/CopyMoves.lean ====
section
/-! DEFINITION. What a copy request moves (R281): its fields, its ends and moves in copy order, and the conversion of
the elements of a block. -/

namespace Sys2Proof.Machine

/-! ## The fields of w3 (R281) -/

/-- BAREN. -/
def CopyReq.baren (r : CopyReq) : Bool := r.w3.getLsbD 63
/-- The name of the completion barrier: BARCORE and BARID. -/
def CopyReq.bar (r : CopyReq) : Nat := (r.w3.extractLsb' 53 10).toNat * 2 ^ 16 + (r.w3.extractLsb' 43 10).toNat
/-- PRIO. -/
def CopyReq.prio (r : CopyReq) : Nat := (r.w3.extractLsb' 38 2).toNat
/-- MIDX. -/
def CopyReq.midx (r : CopyReq) : Nat := (r.w3.extractLsb' 16 22).toNat
/-- FIDX. -/
def CopyReq.fidx (r : CopyReq) : Nat := (r.w3.extractLsb' 14 2).toNat
/-- HDEN. -/
def CopyReq.hden (r : CopyReq) : Bool := r.w3.getLsbD 13
/-- HSEN. -/
def CopyReq.hsen (r : CopyReq) : Bool := r.w3.getLsbD 9
/-- SSP. -/
def CopyReq.ssp (r : CopyReq) : Bool := r.w3.getLsbD 5
/-- DSP. -/
def CopyReq.dsp (r : CopyReq) : Bool := r.w3.getLsbD 4
/-- KIND. -/
def CopyReq.kind (r : CopyReq) : Nat := (r.w3.extractLsb' 0 4).toNat

/-- Is the request malformed (R281, R282)? -/
def CopyReq.malformed (r : CopyReq) : Bool :=
  r.w3.extractLsb' 40 3 != 0 || decide (2 < r.kind) || (r.kind == 0 && r.w2.extractLsb' 32 32 != 0) ||
    (r.kind != 2 && (r.midx != 0 || r.fidx != 0 || r.hsen || r.hden)) || (r.kind == 2 && r.hsen == r.hden) ||
    (!r.baren && r.bar != 0)

/-- The handle a BLOCK request names. -/
def CopyReq.handle (r : CopyReq) : Option Nat :=
  if r.kind ≠ 2 then none
  else some (if r.hsen then (r.w3.extractLsb' 6 3).toNat else (r.w3.extractLsb' 10 3).toNat)

/-! ## Moves -/

/-- One end of a move: a byte of a space, an element of the tensor, `w` bits of packed rows from a bit address on, or
nothing (an element beyond the tensor's extents). -/
inductive CopyEnd where
  | byte (scratch : Bool) (addr : Nat)
  | elem (m a b : Nat)
  | pack (scratch : Bool) (bit w : Nat)
  | none
  deriving DecidableEq, Repr

/-- One move of a copy. -/
structure Move where
  src : CopyEnd
  dst : CopyEnd
  deriving DecidableEq, Repr

/-- The packed element width PES (R281). -/
def packedBits (record : Vec) (fidx : Nat) : Nat :=
  match fidx with
  | 0 => recBits record
  | 1 => 32
  | _ => 16

/-- The bytes of one packed row. -/
def packedRow (record : Vec) (r : CopyReq) : Nat := ((r.w2.extractLsb' 0 32).toNat * packedBits record r.fidx + 7) / 8

/-- The element of the handle's side at row `i` and column `j` of the block (R281). -/
def blockEnd (record : Vec) (r : CopyReq) (origin : Word) (i j : Nat) : CopyEnd :=
  let a := origin.toNat / 2 ^ 32 + i
  let b := origin.toNat % 2 ^ 32 + j
  if r.midx < recD record 3 * recD record 2 ∧ a < recD record 1 ∧ b < recD record 0 then .elem r.midx a b else .none

/-- The moves of a request in copy order (R281). -/
def CopyReq.moves (r : CopyReq) (record : Vec) : List Move :=
  match r.kind with
  | 0 => (List.range (r.w2.extractLsb' 0 32).toNat).map fun i =>
      ⟨.byte r.ssp (r.w0.toNat + i), .byte r.dsp (r.w1.toNat + i)⟩
  | 1 =>
    let rows := (r.w2.extractLsb' 0 16).toNat
    let n := (r.w2.extractLsb' 16 16).toNat
    let sp := 64 * (r.w2.extractLsb' 32 16).toNat
    let dp := 64 * (r.w2.extractLsb' 48 16).toNat
    (List.range rows).flatMap fun i => (List.range n).map fun j =>
      ⟨.byte r.ssp (r.w0.toNat + sp * i + j), .byte r.dsp (r.w1.toNat + dp * i + j)⟩
  | _ =>
    let pes := packedBits record r.fidx
    let cols := (r.w2.extractLsb' 0 32).toNat
    (List.range (r.w2.extractLsb' 32 32).toNat).flatMap fun i => (List.range cols).map fun j =>
      let bit (base : Word) : Nat := 8 * (base.toNat + i * packedRow record r) + j * pes
      if r.hsen then ⟨blockEnd record r r.w0 i j, .pack r.dsp (bit r.w1) pes⟩
      else ⟨.pack r.ssp (bit r.w0) pes, blockEnd record r r.w1 i j⟩

/-- The bytes of storage that an end covers: the space and the addresses, not redirected. -/
def CopyEnd.bytes (record : Vec) : CopyEnd → List (Bool × Nat)
  | .byte sc a => [(sc, a)]
  | .elem m a b =>
    let n := nibbleOf record m a b 0
    ((List.range ((recBits record + 7) / 8)).map fun i => (false, n / 2 + i))
  | .pack sc bit w => (List.range ((bit % 8 + w + 7) / 8)).map fun i => (sc, bit / 8 + i)
  | .none => []

/-- The line a move's end lies in, by its first byte. -/
def CopyEnd.group (record : Vec) (e : CopyEnd) : Nat :=
  match e.bytes record with
  | (sc, a) :: _ => 2 * (a / 128) + (if sc then 1 else 0)
  | [] => 0

/-- The number of destination bytes B (R283). -/
def CopyReq.size (r : CopyReq) (record : Vec) : Nat :=
  match r.kind with
  | 0 => (r.w2.extractLsb' 0 32).toNat
  | 1 => (r.w2.extractLsb' 0 16).toNat * (r.w2.extractLsb' 16 16).toNat
  | _ =>
    if r.hsen then (r.w2.extractLsb' 32 32).toNat * packedRow record r
    else (((r.moves record).filter fun m => m.dst != .none).length * recBits record + 7) / 8

/-- Does the destination of a granted copy touch a range of addresses (R381 step 4)? -/
def CopyJob.writesIn (j : CopyJob) (va len : Nat) : Bool :=
  j.granted && (j.req.moves j.record).any fun m =>
    (m.src.bytes j.record ++ m.dst.bytes j.record).any fun b => !b.1 && decide (va ≤ b.2) && decide (b.2 < va + len)

/-! ## Conversion of elements (R281, R148, R152, R159, R260) -/

/-- Is the element type a float: FP32, FP16, BF16 or A40? -/
def etypeFmt (e : Nat) : Option Fmt :=
  match e with
  | 1 => some fp32
  | 2 => some fp16
  | 3 => some bf16
  | 12 => some a40
  | _ => none

/-- Is the element type I40? -/
def isI40 (e : Nat) : Bool := e == 13

/-- The range of the results of an integer element type; I40 is clamped to a symmetric one (R154). -/
def etypeRange (e : Nat) : Int × Int :=
  let w := elemBits e 0
  if 8 ≤ e ∧ e ≤ 11 then (0, (2 ^ w : Nat) - 1)
  else (-(2 ^ (w - 1) : Nat) + (if isI40 e then 1 else 0), (2 ^ (w - 1) : Nat) - 1)

/-- The value of a code of a fixed element type. -/
def etypeValue (e v : Nat) : XVal :=
  match etypeFmt e with
  | some f => decodeFmt f v
  | none =>
    let w := elemBits e 0
    xOfInt (if (etypeRange e).1 < 0 ∧ 2 ^ (w - 1) ≤ v then (v : Int) - (2 ^ w : Nat) else v)

/-- The code of a value in a fixed element type, under RNE, and its flags (R148, R150, R152); a clamped I40 result sets
MXSAT too (R154). -/
def etypeCode (e : Nat) (x : XVal) : Nat × Word :=
  match etypeFmt e with
  | some f => roundFixed f .rne x
  | none =>
    let (v, fl) := xToInt .rne (etypeRange e).1 (etypeRange e).2 x
    ((BitVec.ofInt 64 v).toNat % 2 ^ elemBits e 0,
      if isI40 e && fl == flagNV && x != .nan then fl ||| flagMXSAT else fl)

/-- NV for a code of a fixed element type that is a signalling NaN (R147). -/
def etypeNV (e v : Nat) : Word := match etypeFmt e with
  | some f => nvOf f [v]
  | none => 0

/-- A code of one fixed element type converted into another, with the flags (R281). -/
def etypeConv (se de v : Nat) : Nat × Word :=
  let (c, fl) := etypeCode de (etypeValue se v)
  (c, fl ||| etypeNV se v)

/-- The element type that FIDX names. -/
def fidxType (fidx : Nat) : Nat :=
  match fidx with
  | 1 => 1
  | 2 => 3
  | _ => 2

end Sys2Proof.Machine
end

