-- ==== Sys2Proof/Machine/Cache.lean ====
section
/-! DEFINITION. The first-level data caches (R10, R87): lines of PRIVATE and READONLY pages by virtual address and
address space, filled on a miss, written back on a flush and when the cache is over its size. -/

namespace Sys2Proof.Machine

/-! ## Islands (R400, R404) -/

/-- The island of a core: die × 8 + block (R400). -/
def islandOf (c : Nat) : Nat := c / 128 * 8 + c % 16 / 4 + 4 * (c / 16 % 8 / 4)

/-- An island. -/
def islandAt (s : State) (i : Nat) : Island := look s.hub.islands Island.nominal i

/-- An island replaced. -/
def setIsland (s : State) (i : Nat) (v : Island) : State := { s with hub := { s.hub with islands := put s.hub.islands i v } }

/-- The first `n` picks of a die among the physical cores of a list. -/
def physPicks (die : Nat) : Nat → List Nat → List Nat
  | 0, _ => []
  | n + 1, l =>
    let x := l.getD (Config.physPick die n % l.length) 0
    x :: physPicks die n (l.erase x)

/-- The physical core, with its die in [9:8], that the factory bound to the i-th logical number of a die, or from 128 on
set aside as a spare: 136 different ones (R7, R9). -/
def physIndex (die i : Nat) : Nat := 256 * die + (physPicks die 136 (List.range 136)).getD i 0

/-- The cores of a partition. -/
def coresOf (s : State) (p : Nat) : List Nat := (List.range 512).filter fun c => s.present c && s.partOf c == p

/-- The cores of an island. -/
def islandCores (i : Nat) : List Nat := (List.range 512).filter fun c => islandOf c == i

/-- Power is gated off an island while its every core is parked or absent, and is on again when one is not (R404). -/
def gateIsland (s : State) (i : Nat) : State :=
  let off := (islandCores i).all fun c => (s.core c).isParked || !s.present c
  if (islandAt s i).gated = off then s else setIsland s i { islandAt s i with gated := off }

/-- A probe wakes the island of a gated agent (R105, R404). -/
def wakeIsland (s : State) (i : Nat) : State :=
  if (islandAt s i).gated then setIsland s i { islandAt s i with gated := false } else s

/-! ## First-level caches -/

/-- The line of an address in the first-level cache of core `c`. -/
def l1At (s : State) (c va : Nat) : Option L1Line :=
  look ((s.core c).l1.map fun e => (e.1, some e.2)) none (l1Tag (s.part (s.partOf c)) va)

/-- The place of an address by the first-level cache of core `c`, which needs no translation on a hit (R87). -/
def l1Place (s : State) (c va : Nat) (need : Need) : Option Loc :=
  match l1At s c va with
  | some x => if need == .read || x.writable && need == .write then some (x.loc.plus (va % 128)) else none
  | none => none

/-- A line of the first-level cache of core `c` replaced. -/
def setL1 (s : State) (c va : Nat) (x : L1Line) : State :=
  s.setCore c { s.core c with l1 := put (s.core c).l1 (l1Tag (s.part (s.partOf c)) va) x }

/-- The 128 bytes of a device line in memory. -/
def memLine (s : State) (pa : Nat) : BitVec 1024 := BitVec.ofNat 1024 (bytesToNat (readBytes s.devMem (pa / 128 * 128) 128))

/-- The bytes of a memory whose bit of a mask is set written, from bit `i` on. -/
def writeMasked (m : Memory) (a : Nat) (mask : BitVec 128) (i : Nat) : List Byte → Memory
  | [] => m
  | b :: bs => writeMasked (if mask.getLsbD i then writeByte m (a + i) b else m) a mask (i + 1) bs

/-- The written bytes of a line written back to its home (R87). -/
def writeBack (s : State) (x : L1Line) : State :=
  match x.loc with
  | .dev pa =>
    if x.dirty = 0 then s
    else { s with
      devMem := writeMasked s.devMem pa x.dirty 0 (natToBytes 128 x.data.toNat)
      rdc := dropCopies s.rdc (pa / 128) }
  | .host _ _ => s

/-- The lines of a list written back. -/
def writeBackAll (s : State) : List (Nat × L1Line) → State
  | [] => s
  | e :: es => writeBackAll (writeBack s e.2) es

/-- The lines of core `c`'s first-level cache whose tags pass are written back and dropped (R87). -/
def flushLines (s : State) (c : Nat) (sel : Nat → Bool) : State :=
  match (s.core c).l1.filter fun e => sel e.1 with
  | [] => s
  | es => writeBackAll (s.setCore c { s.core c with l1 := (s.core c).l1.filter fun e => !sel e.1 }) es

/-- A granule flushed from the first-level caches of the cores of a list (R86, R348). -/
def flushGranule (s : State) (p gran : Nat) : List Nat → State
  | [] => s
  | c :: cs => flushGranule (flushLines s c fun t => t / 32 == l1Tag (s.part p) (4096 * gran) / 32) p gran cs

/-- The lines of a core's first-level cache: 768 KiB (R10). -/
def l1Size : Nat := 6144

/-- Lines beyond the cache's size leave it, each written back; which of them leaves is free (R10, R87). -/
def trimL1 (s : State) (c : Nat) : Nat → State
  | 0 => s
  | n + 1 =>
    match (s.core c).l1[Config.choose s.draws % (s.core c).l1.length]? with
    | none => s
    | some e =>
      let s := s.draw.setCore c { s.core c with l1 := remove (s.core c).l1 e.1 }
      trimL1 (writeBack s e.2) c n

/-- The line of an address in the first-level cache of core `c`, filled from memory on a miss (R87). A line of a READONLY
page fills the die's remote-data cache too (R90). -/
def l1Fill (s : State) (c va : Nat) (l : Loc) (writable readonly : Bool) : State × L1Line :=
  match l1At s c va with
  | some x => (s, { x with writable := x.writable || writable })
  | none => match l with
    | .dev pa =>
      let x : L1Line := ⟨memLine s pa, 0, .dev (pa / 128 * 128), writable⟩
      let s := if readonly then fillCopy s c l else s
      (setL1 s c va x, x)
    | .host _ _ => (s, ⟨0, 0, l, writable⟩)

/-- The `n` bytes of a line from an offset on, as a number. -/
def lineValue (v : BitVec 1024) (o n : Nat) : Nat := v.toNat / 256 ^ o % 256 ^ n

/-- Bytes stored into a line at offsets from `o`. -/
def lineStore (v : BitVec 1024) (o : Nat) : List (Nat × Byte) → BitVec 1024
  | [] => v
  | (i, b) :: bs =>
    let sh := 8 * (o + i)
    lineStore ((v &&& ~~~((0xFF : BitVec 1024) <<< sh)) ||| ((b.setWidth 1024 : BitVec 1024) <<< sh)) o bs

/-- The bits of a mask of bytes that stores at offsets from `o` set. -/
def storeMask (m : BitVec 128) (o : Nat) : List (Nat × Byte) → BitVec 128
  | [] => m
  | (i, _) :: bs => storeMask (m ||| ((1 : BitVec 128) <<< (o + i))) o bs

/-- Stores into a line of a first-level cache. -/
def L1Line.store (x : L1Line) (o : Nat) (bs : List (Nat × Byte)) : L1Line :=
  { x with data := lineStore x.data o bs, dirty := storeMask x.dirty o bs }

end Sys2Proof.Machine
end

