-- ==== Sys2Proof/Machine/Access.lean ====
section
/-! DEFINITION. Performing an access: page classes and the reclassifier (R84 to R87), lines under lease or copy
(R133, R135), subscribed ranges (R101 to R103), scratchpads (R92 to R97), atomics' new values (R234) and what a
fence waits for (R131). -/

namespace Sys2Proof.Machine

/-! ## New values (R234) -/

/-- The bytes of an access width as a signed integer. -/
def signedOf (n v : Nat) : Int := if 2 ^ (8 * n - 1) ≤ v then (v : Int) - (2 ^ (8 * n) : Nat) else v

/-- NewValue of R234 for n bytes: old, b and d as numbers below 256^n. -/
def newValue (op : AtomOp) (n old b d rm : Nat) : Nat :=
  match op with
  | .add => (old + b) % 2 ^ (8 * n)
  | .and => old &&& b
  | .or => old ||| b
  | .xor => old ^^^ b
  | .swap => b
  | .min => if signedOf n b < signedOf n old then b else old
  | .max => if signedOf n old < signedOf n b then b else old
  | .minZ => if b < old then b else old
  | .maxZ => if old < b then b else old
  | .cas => if old = d then b else old
  | .fadd => (fpAdd fp32 (rndOfCode rm) old b).1

/-- The flags of an atomic: those of its floating addition (R235). -/
def atomFlags (op : AtomOp) (old b rm : Nat) : Word :=
  match op with
  | .fadd => (fpAdd fp32 (rndOfCode rm) old b).2
  | _ => 0

/-- Does the operation write? A `cas` that fails does not (R235). -/
def atomWrites (op : AtomOp) (old d : Nat) : Bool :=
  match op with
  | .cas => old == d
  | _ => true

/-- Bytes with their offsets, from offset `o` on. -/
def offsets : Nat → List Byte → List (Nat × Byte)
  | _, [] => []
  | o, b :: bs => (o, b) :: offsets (o + 1) bs

/-- The bytes an operation reads, and so the bytes of its old value. -/
def AccessOp.reads : AccessOp → Nat
  | .load n => n
  | .store _ => 0
  | .atomic _ n _ _ _ => n
  | .elems _ _ _ _ _ => 0

/-- What an operation writes given the old value. -/
def AccessOp.writes (op : AccessOp) (old : Nat) : List (Nat × Byte) :=
  match op with
  | .load _ => []
  | .store bs => bs
  | .atomic o n b d rm =>
    if atomWrites o old d.toNat then offsets 0 (natToBytes n (newValue o n old b.toNat d.toNat rm)) else []
  | .elems _ _ _ _ _ => []

/-- Does the operation count as a store (R85)? -/
def AccessOp.isStore : AccessOp → Bool
  | .load _ => false
  | .elems _ _ vs _ _ => vs.isSome
  | _ => true

/-- The flags of an operation given the old value. -/
def AccessOp.flags (op : AccessOp) (old : Nat) : Word :=
  match op with
  | .atomic o _ b _ rm => atomFlags o old b.toNat rm
  | _ => 0

/-- The value a load gives its register (R220, R221, R235). -/
def loadValue (kind : LoadKind) (v : Nat) : Vec :=
  match kind with
  | .int n signed =>
    if signed then ((BitVec.ofInt 64 (signedOf n v)).setWidth 512) else BitVec.ofNat 512 (v % 2 ^ (8 * n))
  | .pair => BitVec.ofNat 512 (v % 2 ^ 64)
  | _ => BitVec.ofNat 512 v

/-- The registers and values a completed load writes. -/
def loadAnswer (kind : LoadKind) (d : Reg) (v : Nat) : List (RegId × Vec) :=
  match kind with
  | .none => []
  | .again => []
  | .vec => [(vreg d, loadValue kind v)]
  | .int _ _ => [(xreg d, loadValue kind v)]
  | .pair => [(xreg d, loadValue kind v), (xreg (Reg.succ d 1), BitVec.ofNat 512 (v / 2 ^ 64))]

/-! ## Page classes (R84, R85) -/

/-- The class entry of the granule of an address. -/
def classEntry (pt : Part) (va : Nat) : BitVec 16 := look pt.cls 0 (va / 4096)

/-- CLASS of an entry: 0 UNTOUCHED, 1 PRIVATE, 2 READONLY, 3 SHARED. -/
def classOf (e : BitVec 16) : Nat := (e.extractLsb' 14 2).toNat

/-- OWNER of an entry. -/
def ownerOf (e : BitVec 16) : Nat := (e.extractLsb' 0 10).toNat

/-- PRIVATE to core c. -/
def privateTo (c : Nat) : BitVec 16 := 0x4000#16 ||| BitVec.ofNat 16 c
/-- READONLY. -/
def readonly : BitVec 16 := 0x8000
/-- SHARED. -/
def shared : BitVec 16 := 0xC000

/-- What an access does to a class entry (R85): keep it, set it, or go through the reclassifier. -/
inductive ClassStep where
  | keep
  | set (e : BitVec 16)
  | reclassify
  deriving DecidableEq, Repr

/-- The table of R85; `who` is a core, or none for an outside agent. -/
def classStep (e : BitVec 16) (who : Option Nat) (store : Bool) : ClassStep :=
  match classOf e, who with
  | 0, none => .set shared
  | 0, some c => .set (if store then privateTo c else readonly)
  | 1, none => .reclassify
  | 1, some c => if ownerOf e = c then .keep else .reclassify
  | 2, _ => if store then .reclassify else .keep
  | _, _ => .keep

/-- The class entry of a granule set. -/
def setClass (s : State) (p va : Nat) (e : BitVec 16) : State :=
  s.setPart p { s.part p with cls := put (s.part p).cls (va / 4096) e }

/-- Is the granule of an address being reclassified (R86)? -/
def reclassifying (s : State) (p va : Nat) : Bool := (s.part p).reclass.any fun r => r.gran == va / 4096 && !r.ready

/-- Does a slot go before the one with key `k` among those that a reclassification of the granule has held and releases in
arrival order (R86)? -/
def behindHeld (s : State) (p va k : Nat) : Bool :=
  (s.part p).reclass.any fun r => r.gran == va / 4096 && r.ready && (match r.held with
    | [] => false
    | j :: _ => j != k)

/-- The slot with key `k` held by the reclassification of a granule (R86). -/
def joinGranule (s : State) (p va k : Nat) : State :=
  s.setPart p { s.part p with reclass := (s.part p).reclass.map fun r =>
    if r.gran = va / 4096 ∧ !r.held.contains k then { r with held := r.held ++ [k] } else r }

/-- A reclassification of a granule to an entry begins (R86 steps 1 to 3); the slots that an earlier one is still releasing
it holds again, in their order. -/
def startReclass (s : State) (p va : Nat) (e : BitVec 16) : State :=
  if reclassifying s p va then s
  else
    let (id, s) := s.fresh
    let (mine, rest) := (s.part p).reclass.partition fun r => r.gran == va / 4096
    (s.setPart p { s.part p with reclass := rest ++ [⟨id, va / 4096, e, mine.flatMap (·.held), false⟩] }).post
      (.reclassifyComplete id)

/-- Is the place host memory? -/
def Loc.isHost : Loc → Bool
  | .host _ _ => true
  | .dev _ => false

/-- The class of an access looked up and changed (R85, R86): the state, and whether the access may go on now. Host
memory is always SHARED (R107). -/
def touch (s : State) (p va : Nat) (l : Loc) (who : Option Nat) (store : Bool) : State × Bool :=
  if l.isHost then (s, true)
  else if reclassifying s p va then (s, false)
  else match classStep (classEntry (s.part p) va) who store with
    | .keep => (s, true)
    | .set e => (setClass s p va e, true)
    | .reclassify => (startReclass s p va shared, false)

/-! ## Lines under lease or copy (R133, R135, R139) -/

/-- The key of a line at its home: a 128-byte device line, or a 64-byte host sector (R139). -/
def Loc.key : Loc → Nat
  | .dev pa => 2 * (pa / 128)
  | .host pa _ => 2 * (pa / 64) + 1

/-- The bytes of a line of a place. -/
def Loc.lineBytes : Loc → Nat
  | .dev _ => 128
  | .host _ _ => 64

/-- The place of the line's first byte. -/
def Loc.lineStart : Loc → Loc
  | .dev pa => .dev (pa / 128 * 128)
  | .host pa c => .host (pa / 64 * 64) c

/-- The slots that hold a line in partition `p` or wait for it, and the relaxed accesses that wait, the holder first. -/
def lineQueue (s : State) (p key : Nat) : List Nat := look (s.part p).lines [] key

/-- Does a copy hold the line (R135)? -/
def copyHolds (s : State) (p key : Nat) : Bool := (s.part p).copyLines.any fun e => e.1 == key

/-- Is the line stuck after a home timeout (R105)? -/
def lineStuck (s : State) (p key : Nat) : Bool := (s.part p).stuck.contains key

/-- Does a slot or engine of another partition hold the host sector (R384)? -/
def heldElsewhere (s : State) (p key : Nat) : Bool :=
  key % 2 == 1 && (List.range 8).any fun q => q != p && (!(lineQueue s q key).isEmpty || copyHolds s q key)

/-- May the slot with key `k` access the line now: nobody holds it or waits for it before the slot (R133, R229)? -/
def lineOpen (s : State) (p key k : Nat) : Bool :=
  !copyHolds s p key && !lineStuck s p key && !heldElsewhere s p key &&
    (match lineQueue s p key with
     | [] => true
     | q :: _ => q == k)

/-- The place of a relaxed access in a line's queue, by its serial number; the keys of slots lie below. -/
def ticket (id : Nat) : Nat := 8192 + id

/-- The slot or relaxed access `k` at the end of the line's queue, if it is not in it. -/
def joinLine (s : State) (p key k : Nat) : State :=
  let pt := s.part p
  let q := look pt.lines [] key
  if q.contains k then s else s.setPart p { pt with lines := put pt.lines key (q ++ [k]) }

/-- The leased line of a slot that covers `n` bytes at `va`. -/
def leasedLine (sl : Slot) (va n : Nat) : Option LeaseLine :=
  match sl.lease with
  | none => none
  | some l => l.lines.find? fun x => decide (x.va ≤ va) && decide (va + n ≤ x.va + (if x.host then 64 else 128))

/-! ## Subscribed ranges (R101 to R103) -/

/-- A segment of a core. -/
def segOf (co : Core) (g : Nat) : Seg := look co.segs Seg.plain g

/-- A segment of a core replaced. -/
def setSeg (s : State) (c g : Nat) (v : Seg) : State := s.setCore c { s.core c with segs := put (s.core c).segs g v }

/-- The bytes of a segment. -/
def segBytes (s : State) (c g : Nat) : List Byte := readBytes (s.core c).scratch (4096 * g) 4096

/-- The core's scratch bytes written at an offset. -/
def setScratch (s : State) (c off : Nat) : List (Nat × Byte) → State
  | [] => s
  | (o, b) :: bs =>
    setScratch (s.setCore c { s.core c with scratch := writeByte (s.core c).scratch (off + o) b }) c off bs

/-- The home bank of a place, as the sender of its updates (R88, R101): cores and sequencers have smaller numbers. -/
def homeBank (l : Loc) : Nat := 4096 + 128 * l.die + bankIndex (match l with
  | .dev pa => pa
  | .host pa _ => pa)

/-- An OWNED subscriber of a range writes its contents back and goes to INTRANSIT (R102). -/
def writeBackOwned (s : State) (loc : Loc) : List (Nat × Nat) → State
  | [] => s
  | (c, g) :: subs =>
    let sg := segOf (s.core c) g
    let s := if sg.st = SegSt.owned then
        (setSeg (s.setBytesAt loc (offsets 0 (segBytes s c g))) c g { sg with st := .intransit }).post (.intransitDone c g)
      else s
    writeBackOwned s loc subs

/-- One sequenced update sent to every subscriber (R101, R104). -/
def multicast (s : State) (p range home seq : Nat) (bytes : List (Nat × Byte)) : List (Nat × Nat) → State
  | [] => s
  | (c, _) :: subs =>
    let (id, s) := s.fresh
    let s := { s with fabric := s.fabric ++ [(⟨id, home, 0, c, .update p range seq 0 bytes none, none⟩ : Msg)] }
    multicast (s.post (.subscriptionUpdate id)) p range home seq bytes subs

/-- The range that holds an address, when it is subscribed. -/
def rangeAt (s : State) (p va : Nat) : Option Range :=
  look ((s.part p).ranges.map fun e => (e.1, some e.2)) none (va / 4096 * 4096)

/-- May the home give the range its next number: no unacknowledged write's number differs from it by 2^31 or more
(R101)? -/
def Range.mayNumber (r : Range) : Bool :=
  r.unacked.all fun u => decide ((r.seq + 1 + 2 ^ 32 - u.1) % 2 ^ 32 < 2 ^ 31)

/-- May a write to an address be sequenced now, if its range is subscribed (R101)? -/
def rangeOpen (s : State) (p va : Nat) : Bool := match rangeAt s p va with
  | some r => r.mayNumber
  | none => true

/-- A write of bytes at offsets from the range's start sequenced at its home (R101, R103): OWNED contents are written
back first, memory takes the write, and every subscriber gets it with the next number. The writer waits for the
acknowledgements. -/
def sequenceWrite (s : State) (p base : Nat) (r : Range) (bytes : List (Nat × Byte)) (writer : Option (Nat × Reply)) :
    State :=
  let s := writeBackOwned s r.loc r.subs
  let s := s.setBytesAt r.loc bytes
  let seq := (r.seq + 1) % 2 ^ 32
  let r := { r with seq := seq, unacked := r.unacked ++ [(seq, r.subs.map (·.1), writer)] }
  let s := s.setPart p { s.part p with ranges := put (s.part p).ranges base r }
  multicast s p base (homeBank r.loc) seq bytes r.subs

/-! ## Performing -/

/-- The outcome of performing an access at its point: the state, the old value read, and whether the access
completes only when subscribers have acknowledged it (R103). -/
structure Perf where
  s : State
  old : Nat
  deferred : Bool
  deriving DecidableEq, Repr

/-- A byte of the partition's space replaced at its place, sequenced where its page is subscribed (R101). -/
def setSpaceByte (s : State) (p va : Nat) (l : Loc) (b : Byte) : State :=
  match rangeAt s p va with
  | some r => sequenceWrite s p (va / 4096 * 4096) r [(va % 4096, b)] none
  | none => s.setByteAt l b

/-- The lines of `n` bytes at `va` in the first-level cache of a PRIVATE page's owner written back and dropped, before the
engine that `va` is handed to reads or writes there (R87). -/
def settleSpace (s : State) (p va n : Nat) : State :=
  (List.range ((va % 4096 + n + 4095) / 4096)).foldl (fun s i =>
    let g := va / 4096 + i
    let e := look (s.part p).cls 0 g
    if classOf e = 1 then flushGranule s p g [ownerOf e] else s) s

/-- Bytes placed in the partition's space at `va`; bytes whose page is not translated for writing are dropped. -/
def putSpace (s : State) (p va : Nat) : List Byte → State
  | [] => s
  | b :: bs =>
    let s := match translate (s.part p) va .write with
      | .hit l => setSpaceByte s p va l b
      | _ => s
    putSpace s p (va + 1) bs

/-- Bytes written into the partition's space at `va` by an engine. -/
def writeSpace (s : State) (p va : Nat) (bs : List Byte) : State := putSpace (settleSpace s p va bs.length) p va bs

/-- The nibble at a nibble address of the partition's space, by the translation in force. -/
def nibbleAt (s : State) (p : Nat) : Redir → Nat
  | .nib n => match translate (s.part p) (n / 2) .read with
    | .hit l => (s.byteAt l).toNat / 16 ^ (n % 2) % 16
    | _ => 0
  | _ => 0

/-- The nibble at a nibble address replaced; a write to padding is dropped (R121). -/
def setNibble (s : State) (p : Nat) (r : Redir) (v : Nat) : State :=
  match r with
  | .nib n => match translate (s.part p) (n / 2) .write with
    | .hit l =>
      let b := (s.byteAt l).toNat
      setSpaceByte s p (n / 2) l (BitVec.ofNat 8 (if n % 2 = 0 then b / 16 * 16 + v else b % 16 + 16 * v))
    | _ => s
  | _ => s

/-- The value of `n` bytes at `va` through the redirection of R121. -/
def loadMarked (s : State) (p va : Nat) : Nat → Nat
  | 0 => 0
  | n + 1 =>
    let lo := nibbleAt s p (redirNibble (s.part p) (2 * va) false)
    let hi := nibbleAt s p (redirNibble (s.part p) (2 * va + 1) false)
    lo + 16 * hi + 256 * loadMarked s p (va + 1) n

/-- Bytes stored at offsets from `va` through the redirection of R121. -/
def storeMarked (s : State) (p va : Nat) : List (Nat × Byte) → State
  | [] => s
  | (o, b) :: bs =>
    let s := setNibble s p (redirNibble (s.part p) (2 * (va + o)) true) (b.toNat % 16)
    let s := setNibble s p (redirNibble (s.part p) (2 * (va + o) + 1) true) (b.toNat / 16)
    storeMarked s p va bs

/-- A unit that an access of `n` bytes at `va` must wait for (R121), from byte `n` down. -/
def unitBlock (pt : Part) (va : Nat) (write : Bool) : Nat → Option (Nat × Bool)
  | 0 => none
  | n + 1 =>
    match redirNibble pt (2 * (va + n)) write, redirNibble pt (2 * (va + n) + 1) write with
    | .unit u f, _ => some (u, f)
    | _, .unit u f => some (u, f)
    | _, _ => unitBlock pt va write n

/-! ## Stream detectors (R91) -/

/-- The address of a place. -/
def Loc.pa : Loc → Nat
  | .dev pa => pa
  | .host pa _ => pa

/-- The home slice of a place: four banks a slice, 32 slices a die (R7, R88). -/
def Loc.slice (l : Loc) : Nat := 32 * l.die + bankIndex l.pa / 4

/-- The line after `line` among the lines of the same slice: the adjacent line that the slice can be asked for (R88,
R91; log entry 17). -/
def nextOfSlice (l : Loc) : Nat :=
  let at_ (k : Nat) : Loc := match l with
    | .dev _ => .dev (128 * k)
    | .host _ c => .host (128 * k) c
  (((List.range 256).map (l.pa / 128 + 1 + ·)).find? fun k => (at_ k).slice == l.slice).getD (l.pa / 128 + 1)

/-- The key of a port's detector. -/
def detectorKey (slice port : Nat) : Nat := 1024 * slice + port

/-- A detector after a request: the misses in a row (8 is no-allocate mode), the line the next of the run must have,
the tick (R91). -/
def detect (d : Nat × Nat × Nat) (l : Loc) (miss : Bool) (tick : Nat) : Nat × Nat × Nat :=
  let run := if d.1 == 0 || d.2.1 != l.pa / 128 || d.1 == 8 && d.2.2 + 64 ≤ tick then (if miss then 1 else 0)
    else if d.1 == 8 then 8
    else if miss then d.1 + 1 else 0
  (run, nextOfSlice l, tick)

/-- A request of a core's port at the home slice of its line. Whether a first-level or a remote-data cache serves it
before, and whether the slice's L2 holds the line, is free (R87, R89, R91); a non-relaxed access to a SHARED page always
comes to its home (R87). -/
def noteRequest (s : State) (port : Nat) (home : Bool) (l : Loc) : State :=
  if (match l with
    | .host _ false => true
    | _ => false) then s
  else
  let k := detectorKey l.slice port
  let d := look s.hub.detectors (0, 0, 0) k
  let comes := home || Config.freeBool s.draws
  let e := detect d l (Config.freeBool (s.draws + 1)) s.tick
  { s with
    draws := s.draws + 2
    hub := { s.hub with detectors := if comes then put s.hub.detectors k e else s.hub.detectors }
    agenda := if d.1 == 7 && e.1 == 8 && comes then s.agenda ++ [.streamDetectorTimeout l.slice port] else s.agenda }

/-- A global access performed at its home, at the place its address translates to (R125). What a subscriber holds OWNED
is written back before a write from elsewhere, and so before an atomic reads (R102). -/
def performGlobal (s : State) (p va : Nat) (l : Loc) (op : AccessOp) (writer : Option (Nat × Reply)) : Perf :=
  if (convAt (s.part p) va).isSome then
    let old := loadMarked s p va op.reads
    ⟨storeMarked s p va (op.writes old), old, false⟩
  else match op.isStore, rangeAt s p va with
    | true, some r =>
      let s := writeBackOwned s r.loc r.subs
      let old := bytesToNat (s.bytesAt l op.reads)
      (match op.writes old with
       | [] => ⟨s, old, false⟩
       | ws => ⟨sequenceWrite s p (va / 4096 * 4096) r (ws.map fun w => (w.1 + va % 4096, w.2)) writer, old, true⟩)
    | _, _ =>
      let old := bytesToNat (s.bytesAt l op.reads)
      ⟨s.setBytesAt l (op.writes old), old, false⟩

/-- The number of bytes, from its address on, that an operation may touch. -/
def AccessOp.extent (op : AccessOp) : Nat :=
  match op with
  | .load n => n
  | .store bs => (bs.map fun b => b.1 + 1).foldl Nat.max 0
  | .atomic _ n _ _ _ => n
  | .elems _ _ _ _ span => span

/-- The byte addresses an access touches: those its elements are redirected to (R121), from byte `n` down. -/
def touchedAt (pt : Part) (va : Nat) (write : Bool) : Nat → List Nat
  | 0 => []
  | n + 1 =>
    let one (i : Nat) : List Nat := match redirNibble pt (2 * (va + n) + i) write with
      | .nib k => [k / 2]
      | _ => []
    touchedAt pt va write n ++ one 0 ++ one 1

/-- The addresses whose pages an access needs: its own, or those that a relayout sends it to (R121). -/
def touchedVas (pt : Part) (va n : Nat) (write : Bool) : List Nat :=
  match convAt pt va with
  | none => [va]
  | some _ => touchedAt pt va write n

/-- The granules of a list of addresses flushed from the first-level cache of core `c`. -/
def flushVas (s : State) (c p : Nat) (vas : List Nat) : State :=
  vas.foldl (fun s va => flushGranule s p (va / 4096) [c]) s

/-- A global access of core `c` performed at its point (R87, R125): in the core's first-level cache for a PRIVATE or READONLY
page, else at the home. Accesses that leave a line, and those that a relayout redirects, find the cache flushed. -/
def performServed (s : State) (c p va : Nat) (l : Loc) (op : AccessOp) (writer : Option (Nat × Reply)) : Perf :=
  let cls := classOf (classEntry (s.part p) va)
  if l.isHost || cls == 0 || cls == 3 then performGlobal s p va l op writer
  else if (convAt (s.part p) va).isSome || decide (128 < va % 128 + op.extent) then
    performGlobal (flushVas s c p (va :: (va + op.extent - 1) :: touchedVas (s.part p) va op.extent op.isStore)) p va l op writer
  else
    let writable := match translate (s.part p) va .write with
      | .hit _ => true
      | _ => false
    let (s, x) := l1Fill s c va l writable (cls == 2)
    let old := lineValue x.data (va % 128) op.reads
    match op.writes old with
    | [] => ⟨s, old, false⟩
    | ws => ⟨setL1 s c va (x.store (va % 128) ws), old, false⟩

/-- The same, and the request that its core's port makes at the home slice of the line (R91). -/
def performAt (s : State) (c p va : Nat) (l : Loc) (op : AccessOp) (writer : Option (Nat × Reply)) : Perf :=
  let home := classOf (classEntry (s.part p) va) == 3
  let r := performServed s c p va l op writer
  match op with
  | .store [] => r
  | _ => { r with s := noteRequest r.s c home l }

/-- The slot with key `k` has read a place: stores to it that are not complete count as its own earlier ones for a fence
(R132). -/
def noteSeen (s : State) (k p va : Nat) (l : Loc) : State :=
  let ups := match rangeAt s p va with
    | some r => r.unacked.map fun (u : Nat × List Nat × Option (Nat × Reply)) => Seen.update p (va / 4096 * 4096) u.1
    | none => []
  let prs := match l with
    | .dev pa => (s.purges.filter fun (x : Purge) => x.line == pa / 128).map Seen.purge
    | .host _ _ => []
  match (ups ++ prs).filter fun x => !(s.slot k).seen.contains x with
  | [] => s
  | new => s.setSlot k { s.slot k with seen := (s.slot k).seen ++ new }

/-- The copy of a place's line that the die of the slot with key `k` holds is served to the slot no more (R130). -/
def noStale (s : State) (k : Nat) (l : Loc) : State :=
  match l, copyAt s (k / 16 / 128) l with
  | .dev pa, some _ =>
    if (s.slot k).oldCopies.contains (pa / 128) then s
    else s.setSlot k { s.slot k with oldCopies := (s.slot k).oldCopies ++ [pa / 128] }
  | _, _ => s

/-- No copy that the die of the slot with key `k` holds now is served to the slot any more (R130). -/
def noneStale (s : State) (k : Nat) : State :=
  match s.rdc.filter fun e => e.1 / 2 ^ 32 == k / 16 / 128 with
  | [] => s
  | es => s.setSlot k { s.slot k with oldCopies := es.map fun e => e.1 % 2 ^ 32 }

/-- A line homed on another die is read at its home, and the die of the slot with key `k` holds it as it is now (R90). -/
def refill (s : State) (k : Nat) (l : Loc) : State :=
  match l with
  | .dev pa => (fillCopy s (k / 16) l).setSlot k { s.slot k with oldCopies := (s.slot k).oldCopies.filter (· ≠ pa / 128) }
  | .host _ _ => s

/-- A relaxed load of `n` bytes by the slot with key `k` (R87, R90, R130): from its core's first-level cache, from the line
that its die's remote-data cache holds, or from the home, which leaves the line there. Whether a line is held still is
free (log entry 17); a line that was there before the slot came to the die is not served to it. -/
def relaxedLoad (s : State) (k va : Nat) (l : Loc) (n : Nat) : State × Nat :=
  let p := s.partOf (k / 16)
  if classOf (classEntry (s.part p) va) < 3 || (convAt (s.part p) va).isSome then
    let r := performAt s (k / 16) p va l (.load n) none
    (r.s, r.old)
  else
    let old := (performGlobal s p va l (.load n) none).old
    let s := noteRequest s (k / 16) false l
    match l with
    | .host _ _ => (noteSeen s k p va l, old)
    | .dev pa =>
      if 128 < pa % 128 + n then (noteSeen s k p va l, old)
      else match copyAt s (k / 16 / 128) l with
        | none => (noteSeen (refill s k l) k p va l, old)
        | some v =>
          if Config.freeBool s.draws && !(s.slot k).oldCopies.contains (pa / 128) then
            (s.draw, bytesToNat (((natToBytes 128 v.toNat).drop (pa % 128)).take n))
          else (noteSeen (refill s.draw k l) k p va l, old)

/-- An access to a leased line performed on the held copy (R229). -/
def performHeld (sl : Slot) (x : LeaseLine) (va : Nat) (op : AccessOp) : Slot × Nat :=
  let o := va - x.va
  let bytes := natToBytes 128 x.data.toNat
  let old := bytesToNat ((bytes.drop o).take op.reads)
  let ws := op.writes old
  let x' := { x with data := lineStore x.data o ws, mask := storeMask x.mask o ws }
  ({ sl with lease := sl.lease.map fun l => { l with lines := l.lines.map fun y => if y.va = x.va then x' else y } }, old)

/-! ## Scratchpads (R92 to R97) -/

/-- WIN of a scratch address. -/
def scrWin (ea : Word) : Nat := (ea.extractLsb' 30 2).toNat
/-- CORE of a scratch address. -/
def scrCore (ea : Word) : Nat := (ea.extractLsb' 20 10).toNat
/-- OFF of a scratch address. -/
def scrOff (ea : Word) : Nat := (ea.extractLsb' 0 20).toNat

/-- The barrier state word (R95). -/
def barWord (b : Barrier) : Nat :=
  (if b.live then 2 ^ 63 else 0) + (if b.tray then 2 ^ 62 else 0) + b.gen * 2 ^ 32 + b.expect * 2 ^ 16 + b.arrived

/-- The number of a segment state (R96). -/
def segCode : SegSt → Nat
  | .none => 0 | .invalid => 1 | .shared => 2 | .owned => 3 | .intransit => 4

/-- A byte of the control window (R94). -/
def controlByte (co : Core) (off : Nat) : Nat :=
  if off < 0x2000 then barWord (look co.bars Barrier.off (off / 8)) / 256 ^ (off % 8) % 256
  else if 0x10000 ≤ off ∧ off < 0x14000 then
    ((List.range 8).map fun i => if look co.tags false (8 * (off - 0x10000) + i) then 2 ^ i else 0).sum
  else if 0x20000 ≤ off ∧ off < 0x20800 then
    let g := segOf co ((off - 0x20000) / 8)
    (g.range + segCode g.st) / 256 ^ (off % 8) % 256
  else 0

/-- The value of `n` bytes of the control window. -/
def controlValue (co : Core) (off : Nat) : Nat → Nat
  | 0 => 0
  | n + 1 => controlByte co off + 256 * controlValue co (off + 1) n

/-- The first segment of the accumulator that a matrix instruction reads or writes (R275). -/
def PortOp.accumulator : PortOp → Option Nat
  | .multiply f _ _ _ _ _ => some f.seg.toNat
  | .zero seg _ _ => some seg
  | .drain f _ _ _ _ _ => some f.seg.toNat
  | _ => none

/-- Is the segment part of an accumulator of a queued or executing matrix instruction (R275)? -/
def segmentBusy (co : Core) (g : Nat) : Bool :=
  co.port.any fun e => match e.op.accumulator with
    | some seg => decide (seg ≤ g) && decide (g ≤ seg + 4)
    | none => false

/-- An access performed at a bank of core `c`, or sent on to the home of a subscribed range (R97, R102); none while
the segment is INVALID or INTRANSIT, or belongs to an accumulator in use (R275). -/
def performScratch (s : State) (c : Nat) (ea : Word) (op : AccessOp) (writer : Option (Nat × Reply)) : Option Perf :=
  let off := scrOff ea
  let co := s.core c
  if scrWin ea = 1 then some ⟨s, controlValue co off op.reads, false⟩
  else if segmentBusy co (off / 4096) then none
  else
    let sg := segOf co (off / 4096)
    match sg.st with
    | .invalid => none
    | .intransit => none
    | st =>
      let old := bytesToNat (readBytes co.scratch off op.reads)
      match op.writes old with
      | [] => some ⟨s, old, false⟩
      | ws =>
        match st, rangeAt s (s.partOf c) sg.range with
        | .shared, some r =>
          let home := (r.loc.plus (off % 4096)).key
          if copyHolds s (s.partOf c) home || !(lineQueue s (s.partOf c) home).isEmpty || !r.mayNumber then none
          else some ⟨sequenceWrite s (s.partOf c) sg.range r (ws.map fun w => (w.1 + off % 4096, w.2)) writer, old, true⟩
        | _, _ => some ⟨setScratch s c off ws, old, false⟩

/-! ## Accesses through a record (R117, R122) -/

/-- Is an access through a record under way in the partition: an accepted copy, a queued load of an operand slot, or a relaxed
access to elements? -/
def usesRecord (s : State) (p : Nat) (rec : Vec) : Bool :=
  s.copies.any (fun (j : CopyJob) => j.part == p && j.record == rec) ||
    s.cores.any (fun (e : Nat × Core) => s.partOf e.1 == p && e.2.port.any fun x => match x.op with
      | .load _ (.block r _ _ _ _) _ _ _ => r == rec
      | _ => false) ||
    s.slots.any fun (e : Nat × Slot) => s.partOf (e.1 / 16) == p && e.2.relaxed.any fun x => match x.op with
      | .elems r _ _ _ _ => r == rec
      | _ => false

/-- The accesses under way through a record go on through its new contents. -/
def renewRecord (s : State) (p : Nat) (old new : Vec) : State :=
  let of (r : Vec) : Vec := if r = old then new else r
  let port (x : PortEntry) : PortEntry := match x.op with
    | .load os (.block r m a b c) t l i => { x with op := .load os (.block (of r) m a b c) t l i }
    | _ => x
  let rel (x : Relaxed) : Relaxed := match x.op with
    | .elems r es vs ls n => { x with op := .elems (of r) es vs ls n }
    | _ => x
  { s with
    copies := s.copies.map fun (j : CopyJob) => if j.part = p then { j with record := of j.record } else j
    cores := s.cores.map fun (e : Nat × Core) => if s.partOf e.1 = p then (e.1, { e.2 with port := e.2.port.map port }) else e
    slots := s.slots.map fun (e : Nat × Slot) =>
      if s.partOf (e.1 / 16) = p then (e.1, { e.2 with relaxed := e.2.relaxed.map rel }) else e }

/-! ## What fences wait for (R131) -/

/-- The root core, width and height of a transaction's tray. -/
def inTrayOf (t : Tx) (c : Nat) : Bool := t.crews.any fun e => e.1 == c

/-- Is core `c` in the tray of the continuation in the slot with key `k`: its transaction's tray, or its own core
alone (R412)? -/
def inTray (s : State) (k c : Nat) : Bool :=
  match (s.slot k).tx with
  | some t => match s.tx? t with
    | some tx => inTrayOf tx c || c == k / 16
    | none => c == k / 16
  | none => c == k / 16

/-- Does a point at core `c` lie in the scope of a fence of the slot with key `k`? -/
def coreInScope (s : State) (k scope c : Nat) : Bool :=
  match scope with
  | 0 => false
  | 1 => c == k / 16
  | 2 => inTray s k c
  | 3 => c / 128 == k / 16 / 128
  | _ => true

/-- Does a home bank of a die lie in the scope? -/
def homeInScope (k scope die : Nat) : Bool := decide (4 ≤ scope) || (scope == 3 && die == k / 16 / 128)

/-- The subscribed range that an address of the slot with key `k` lies in, itself or through its segment (R101, R102). -/
def rangeNamed (s : State) (k : Nat) (space : Space) (ea : Word) : Option Nat :=
  match space with
  | .global => (rangeAt s (s.partOf (k / 16)) ea.toNat).map fun _ => ea.toNat / 4096 * 4096
  | .scratch =>
    let sg := segOf (s.core (scrCore ea)) (scrOff ea / 4096)
    if scrWin ea == 0 && sg.st == .shared then some sg.range else none

/-- The subscribed range that a relaxed access names. -/
def rangeOf (s : State) (k : Nat) (r : Relaxed) : Option Nat := rangeNamed s k r.space r.addr

/-- The cores whose application of a relaxed store a fence in their scope waits for (R131): the range's subscribers, or
those of them that have still to acknowledge it. -/
def appliers (s : State) (k : Nat) (r : Relaxed) : List Nat :=
  match rangeOf s k r with
  | none => []
  | some base => match look ((s.part (s.partOf (k / 16))).ranges.map fun e => (e.1, some e.2)) none base with
    | none => []
    | some g =>
      match g.unacked.find? fun u => u.2.2 == some (k, .relaxed r.id) with
      | some u => u.2.1
      | none => if r.op.isStore then g.subs.map (·.1) else []

/-- Does the performing point of a relaxed access lie in the scope, or a subscriber that has to apply it (R125, R131)? -/
def relaxedInScope (s : State) (k scope : Nat) (r : Relaxed) : Bool :=
  (appliers s k r).any (coreInScope s k scope) ||
  (match r.space with
  | .scratch => match rangeOf s k r, r.op.isStore with
    | some base, true => homeInScope k scope (match rangeAt s (s.partOf (k / 16)) base with
      | some g => g.loc.die
      | none => 4)
    | _, _ => coreInScope s k scope (scrCore r.addr)
  | .global =>
    match r.loc with
    | some (.host _ _) => decide (6 ≤ scope)
    | some (.dev pa) =>
      let e := classEntry (s.part (s.partOf (k / 16))) r.addr.toNat
      match classOf e with
      | 1 => coreInScope s k scope (ownerOf e)
      | 2 => coreInScope s k scope (k / 16)
      | _ => homeInScope k scope (dieOfPa pa)
    | none => decide (5 ≤ scope))

/-- Does a store that the slot has read still wait for something in the scope (R132)? -/
def seenInScope (s : State) (k scope : Nat) : Seen → Bool
  | .update p base seq => match look ((s.part p).ranges.map fun e => (e.1, some e.2)) none base with
    | none => false
    | some g => match g.unacked.find? fun u => u.1 == seq with
      | none => false
      | some u => homeInScope k scope g.loc.die || u.2.1.any (coreInScope s k scope)
  | .purge x => s.purges.contains x && homeInScope k scope (dieOfPa (128 * x.line))

/-- Has every earlier access of the slot in the scope completed (R131), and every store that it has read (R132)? -/
def fenced (s : State) (k scope : Nat) : Bool :=
  ((s.slot k).relaxed.all fun r => !relaxedInScope s k scope r) && (s.slot k).seen.all fun x => !seenInScope s k scope x

/-- Has the slot nothing outstanding but accepted copies (R100, R343)? -/
def drainedAll (s : State) (k : Nat) : Bool :=
  let sl := s.slot k
  sl.pend.isEmpty && sl.vpend.all (fun v => v.source == .copy) && sl.relaxed.isEmpty &&
    !((s.core (k / 16)).port.any fun e => e.slot == k)

/-- Have the slot's results, copy statuses apart, and its queued matrix instructions come (R290)? -/
def settled (s : State) (k : Nat) : Bool :=
  let sl := s.slot k
  sl.pend.isEmpty && sl.vpend.all (fun v => v.source == .copy) && !((s.core (k / 16)).port.any fun e => e.slot == k)

/-! ## Completion of a non-relaxed access (R127) -/

/-- The issuing slot waits for its non-relaxed access, whose results are `ans`, to complete (R127); `ack` when the
acknowledgement is on its way already. -/
def outstanding (s : State) (ans : List (RegId × Vec)) (ack : Bool) : State :=
  let s := hold (s.setMe { s.me with answer := some ans, acks := 1 }) .access
  if ack then s.post (.accessComplete s.curCore s.curSlot) else s

/-- A waiting instruction completes on its event: the slot is READY at the next instruction, no earlier than its
stall count allows. -/
def finishWoken (s : State) : State :=
  let ready := Nat.max s.me.readyAt s.myCore.cyc
  let s := finish s
  s.setMe { s.me with readyAt := ready }

/-! ## Messages between cores (R98) -/

/-- A message from the issuing slot to core `dst`, with the event that delivers it. -/
def sendMsg (s : State) (dst : Nat) (body : Payload) (ev : Nat → Instr) : State :=
  let (id, s) := s.fresh
  ({ s with fabric := s.fabric ++ [(⟨id, s.curCore, s.curSlot, dst, body, s.me.tx⟩ : Msg)] }).post (ev id)

/-- The message with a serial number. -/
def findMsg (s : State) (id : Nat) : Option Msg := s.fabric.find? fun m => m.id == id

/-- The scratchpad banks at which a message is performed, none for one that is not (R97). -/
def Payload.banks : Payload → List Nat
  | .bank ea op _ _ _ => (List.range ((ea.toNat % 8 + op.extent + 7) / 8)).map fun i => (ea.toNat / 8 + i) % 16
  | .fe addr _ _ => [addr / 8 % 16]
  | _ => []

/-- Do two messages that came by one way stand in one queue: all do, but accesses of different banks (R97, R129)? -/
def sameQueue (a b : Payload) : Bool :=
  a.banks.isEmpty || b.banks.isEmpty || a.banks.any fun i => b.banks.contains i

/-- Is a message a shipment that stays in its core's buffer, since its target is not ready (R278)? -/
def Msg.buffered (s : State) (m : Msg) : Bool :=
  match m.body with
  | .tile x => (look (s.core x.core).os OpSlot.free x.os).st != .empty
  | _ => false

/-- Is an earlier message of the same pair still before this one: of two cores, of a sequencer (1,025 on) and a lock manager,
or of a home (4,096 on) and a subscriber (R50, R97, R98, R104)? -/
def behind (s : State) (m : Msg) : Bool :=
  s.fabric.any fun x => decide (x.id < m.id) && x.src == m.src && x.dst == m.dst && sameQueue x.body m.body &&
    !x.buffered s

/-- The message removed. -/
def dropMsg (s : State) (id : Nat) : State := { s with fabric := s.fabric.filter fun m => m.id != id }

/-- The delivery of a message: nothing when it is gone, later when another of its pair is before it. -/
def deliver (s : State) (id : Nat) (ev : Instr) (f : Msg → State → State) : Out :=
  match findMsg s id with
  | none => .next s
  | some m => if behind s m then .next (s.post ev) else .next (f m s)

end Sys2Proof.Machine
end

