-- ==== Sys2Proof/Machine/SaveArea.lean ====
section
/-! DEFINITION. Save areas (R344), what leaving a slot and parking do (R23, R82, R376), and resuming from an area
(R345). -/

namespace Sys2Proof.Machine

/-! ## The fields of CSRs (R3) -/

/-- The bits of a mask from `v`. -/
def masked (v mask : Word) : Word := v &&& mask

/-- A value held between two bounds. -/
def clamp (v lo hi : Nat) : Nat := Nat.min (Nat.max v lo) hi

/-- xTSTAT after a write: PLV keeps its value when 3 is written (R331). -/
def statusWritten (old v : Word) : Word :=
  if v.extractLsb' 0 2 = 3 then masked v 0x7C ||| masked old 3 else masked v 0x7F

/-- `MXSHAPE` after a write: each field is held in its range (R80). -/
def shapeWritten (v : Word) : Word :=
  let m := clamp (v.extractLsb' 0 7).toNat 1 64
  let n := clamp (v.extractLsb' 8 7).toNat 1 64
  let k := clamp (v.extractLsb' 16 8).toNat 1 128
  BitVec.ofNat 64 (m + n * 2 ^ 8 + k * 2 ^ 16)

/-- `LEASELIM` after a write: held in its range (R80). -/
def leaseLimit (v : Word) : Word := BitVec.ofNat 64 (clamp (v.extractLsb' 0 13).toNat 16 4096)

/-- The delegable causes as bits of mask word i (R338, R351). -/
def delegable (i : Nat) : Word := BitVec.ofNat 64 ((List.range 64).map fun j => if toU (64 * i + j) then 2 ^ j else 0).sum

/-! ## The layout of R344 -/

/-- KIND, generation, status field and the word at +24 of a continuation that leaves its slot. -/
def resumeOf (sl : Slot) : Nat × Nat × Nat × Nat :=
  match sl.wait with
  | some (.sleep t) => (1, 0, 0, t)
  | some (.barrier name gen d _) => (2, gen, d.toNat, (name / 2 ^ 16) * 2 ^ 16 + name % 1024)
  | _ => (0, 0, 0, 0)

/-- The PC of the area: the instruction itself for KIND 0, the one after the wait otherwise. -/
def resumePc (sl : Slot) : Word :=
  match (resumeOf sl).1 with
  | 0 => sl.pc
  | _ => match sl.resume with
    | some r => r
    | none => fallThrough sl

/-- A vector register of the area: zero when it is bound (R344). -/
def areaVec (sl : Slot) (i : Fin 16) : Vec := if isBound sl (Reg.priv i.val) then 0 else sl.f[i]

/-- The 8-byte words from +152 on: CSRs of R344 in order. -/
def areaCsrs (sl : Slot) : List Word :=
  [sl.csr.rmode, sl.csr.fflags, sl.csr.vm, sl.csr.qen &&& ~~~8#64, sl.csr.sen, sl.csr.waitlim, sl.csr.leaselim,
    sl.csr.schk, sl.csr.mxshape, sl.tu.tvec, sl.tu.cause, sl.tu.tval, sl.tu.tpc, sl.tu.tstat, sl.sdlg[0], sl.sdlg[1],
    sl.sdlg[2], sl.sdlg[3], sl.sftrap, sl.sbpc, sl.pctb]

/-- The valid mask of the handles. -/
def handleMask (sl : Slot) : Nat := ((List.finRange 8).map fun i => if sl.h[i].valid then 2 ^ i.val else 0).sum

/-- Bytes +0 to +4095 of the area of a continuation (R344). -/
def areaImage (sl : Slot) : List Byte :=
  let (kind, gen, d, w) := resumeOf sl
  natToBytes 8 (resumePc sl).toNat ++ natToBytes 8 sl.ctx.toNat ++ natToBytes 8 (kind + gen * 2 ^ 16 + d * 2 ^ 32) ++
    natToBytes 8 w ++ ((List.finRange 16).drop 1).flatMap (fun i => natToBytes 8 sl.x[i].toNat) ++
    (areaCsrs sl).flatMap (fun v => natToBytes 8 v.toNat) ++
    (List.finRange 4).flatMap (fun i => natToBytes 4 sl.csr.fmt[i].toNat) ++
    (List.finRange 4).flatMap (fun i => natToBytes 8 sl.csr.scl[i].toNat) ++
    natToBytes 8 (handleMask sl) ++ natToBytes 8 sl.csr.promise.toNat ++ natToBytes 128 0 ++
    (List.finRange 16).flatMap (fun i => natToBytes 64 (areaVec sl i).toNat) ++
    (List.finRange 8).flatMap (fun i => natToBytes 8 sl.h[i].addr.toNat ++ natToBytes 64 sl.h[i].record.toNat) ++
    natToBytes 1984 0

/-- The 4,088 bytes of engine state, whose layout the spec does not give (log entry 1). -/
def engineBytes (draw : Nat) : List Byte := (List.range 4088).map fun i => Config.freeByte (4096 * draw + i)

/-- The key of an area among the saved continuations: its partition and address. -/
def areaKey (p va : Nat) : Nat := p * 2 ^ 57 + va

/-- The area of a continuation written (R343 step 2, R376 step 3). -/
def writeArea (s : State) (p va : Nat) (sl : Slot) : State :=
  let eng := engineBytes s.draws
  let s := writeSpace s.draw p va (areaImage sl ++ eng ++ natToBytes 8 (crc32c eng))
  { s with saved := put s.saved (areaKey p va) sl }

/-! ## Reading an area back (R345) -/

/-- `n` bytes at an offset of an area, as a number. -/
def areaField (bs : List Byte) (off n : Nat) : Nat := bytesToNat ((bs.drop off).take n)

/-- An 8-byte word of an area. -/
def areaWord (bs : List Byte) (off : Nat) : Word := BitVec.ofNat 64 (areaField bs off 8)

/-- Is a region of the area zero? -/
def areaZero (bs : List Byte) (off n : Nat) : Bool := ((bs.drop off).take n).all (· == 0)

/-- The user CSRs with the saved values of an area, each held to the fields it has (R3, R80, R345). -/
def restoreCsr (old : UserCsr) (bs : List Byte) : UserCsr :=
  let w := areaWord bs
  { old with
    rmode := if (areaField bs 152 1 % 8) ≤ 4 then masked (w 152) 7 else 0
    fflags := masked (w 160) 0xFF
    vm := w 168
    qen := masked (w 176) 7
    sen := masked (w 184) 0xF
    waitlim := masked (w 192) 0xFFFFFFFFFF
    leaselim := leaseLimit (w 200)
    schk := masked (w 208) 1
    mxshape := shapeWritten (w 216)
    fmt := Vector.ofFn fun i => BitVec.ofNat 32 (areaField bs (320 + 4 * i.val) 4)
    scl := Vector.ofFn fun i => w (336 + 8 * i.val)
    promise := w 376 }

/-- The slot with every value of an area (R345); `base` carries the engine state. A fill enters the line of its PC anew, as
no instruction transferred control (R168, R174). -/
def restore (base : Slot) (bs : List Byte) : Slot :=
  let w := areaWord bs
  let kind := areaField bs 16 1
  let pc := w 0
  { base with
    pc := if kind = 0 then pc else base.pc
    resume := if kind = 0 then none else some pc
    line := none
    xfer := 0
    brkSkip := false
    ctx := w 8
    x := Vector.ofFn fun i => if i.val = 0 then 0 else w (24 + 8 * i.val)
    csr := restoreCsr base.csr bs
    tu := ⟨w 224, masked (w 232) 0xFF, w 240, w 248, statusWritten 0 (w 256)⟩
    ts := TrapRegs.zero
    tm := TrapRegs.zero
    sdlg := Vector.ofFn fun i => masked (w (264 + 8 * i.val)) (delegable i.val)
    sftrap := masked (w 296) 0xFF
    sbpc := masked (w 304) 0x01FFFFFFFFFFFFFF#64
    pctb := w 312
    h := Vector.ofFn fun i => ⟨decide (areaField bs 368 1 / 2 ^ i.val % 2 = 1), w (1536 + 72 * i.val),
      BitVec.ofNat 512 (areaField bs (1544 + 72 * i.val) 64), decide (areaField bs 368 1 / 2 ^ i.val % 2 = 1)⟩
    f := Vector.ofFn fun i => BitVec.ofNat 512 (areaField bs (512 + 64 * i.val) 64)
    level := .u
    pend := [], cover := [], vpend := base.vpend, wait := none, halted := false }

/-- The reserved bits of a context word (R18). -/
def ctxReserved (w : Word) : Bool :=
  w.extractLsb' 29 7 != 0 || w.extractLsb' 18 6 != 0 || w.extractLsb' 0 16 != 0

/-- Is an area refused by R345 for its own contents? -/
def areaRefused (bs : List Byte) : Bool :=
  ctxReserved (areaWord bs 8) || areaField bs 17 1 != 0 || decide (4 < areaField bs 16 1) ||
    decide (32 ≤ areaField bs 20 4) || (areaField bs 16 1 == 0 && areaField bs 24 8 != 0) || !areaZero bs 384 128 ||
    !areaZero bs 2112 1984

/-! ## Leaving a slot -/

/-- The crew slot at home that a continuation is AWAY from becomes FREE (R23). -/
def freeAway (s : State) (away : Option (Nat × Nat)) : State :=
  match away with
  | none => s
  | some (c, i) =>
    let h := s.slot (slotKey c i)
    if h.st = .away then s.setSlot (slotKey c i) (freeSlot h) else s

/-- The continuation leaves the slot with key `k` alive: its waits and `qi` binding are given up, its slot is FREE
(R23, R34, R82). -/
def vacate (s : State) (k : Nat) : State :=
  let s := releaseQi s (k / 16) k
  let s := freeAway s (s.slot k).away
  s.setSlot k (freeSlot (s.slot k))

/-- What a saved continuation keeps: no slot of its own and no reservation. -/
def detached (sl : Slot) : Slot := { sl with away := none, resv := none, yieldTo := none, readyAt := 0, copies := [], relaxed := [] }

/-! ## Parking (R376) -/

/-- The park areas of a core: their base and number (R380). -/
def parkBase (co : Core) : Nat := (co.spark &&& 0x01FFFFFFFFFE0000#64).toNat
/-- N of `SPARK`. -/
def parkCount (co : Core) : Nat := (co.spark.extractLsb' 0 5).toNat

/-- The lowest free park area of a core, among the first `n`. -/
def freeArea (co : Core) (n : Nat) : Option Nat := (List.range n).find? fun i => !co.parked.any fun e => e.1 == i

/-- The issuing slot begins to park its continuation on a page: it takes a free area and enters SAVE; with no free area it
waits for the answer (R23, R376). -/
def parkOn (s : State) (p page : Nat) : State :=
  match freeArea s.myCore (parkCount s.myCore) with
  | none => hold s (.xlat p page)
  | some i =>
    let s := hold s (.parking i page)
    let s := s.setMyCore { s.myCore with parked := s.myCore.parked ++ [(i, page, 0)] }
    s.setMe { s.me with st := .save }

/-- The issuing slot has drained: its continuation is written into park area `i`, and the slot is FREE (R376). A parked
continuation's `readyAt` is its place in the order of parking, which a replay that faults again keeps (R377). -/
def parkNow (s : State) (i page : Nat) : State :=
  let va := parkBase s.myCore + 8192 * i
  let (id, s) := if s.me.replay = some page then (0, s) else s.fresh
  vacate (writeArea s s.myPart va { detached { s.me with wait := none } with readyAt := id }) s.cur

/-- A fault of the issuing slot on a page (R218, R375, R376): a held lease is abandoned, the host is asked, and the
continuation parks. -/
def pageFault (s : State) (p page : Nat) (need : Need) : State :=
  parkOn (requestPage (abandonLease s s.cur) p page need) p page

/-- The trap of a fault reported final, by what the access needed (R338, R378). -/
def finalCause : Need → Nat
  | .read => 0x22 | .write => 0x23 | .exec => 0x24

end Sys2Proof.Machine
end

