-- ==== Sys2Proof/Machine/Stente.lean ====
section
/-! DEFINITION. Stente flits and planes (R387), and which bring-up steps have ended (R409, R410). -/

namespace Sys2Proof.Machine

/-! ## Bring-up (R409, R410) -/

/-- The steps of bring-up in order: step n of the table for unit u of a kind is 32 n + u. -/
def bringupSteps : List Nat :=
  [32] ++ (List.range 8).map (64 + ·) ++ (List.range 4).map (96 + ·) ++ (List.range 4).map (128 + ·) ++ [160] ++
    (List.range 16).map (192 + ·) ++ [224, 256]

/-- Has the step ended at this start? -/
def stepEnded (s : State) (code : Nat) : Bool :=
  match s.hub.step with
  | none => true
  | some (now, _, _) => decide (code < now)

/-! ## Planes -/

/-- The device's DEV (R380). -/
def myDev (s : State) : Nat := (s.hub.mpod.extractLsb' 0 8).toNat

/-- Every plane to a device is down. -/
def linkDown (s : State) (dev : Nat) : Bool := (List.range 16).all fun q => s.hub.planesDown.contains (dev, q)

/-- The plane that the flits of (SRC, DST, CLASS) travel on, those of the list being down. -/
def planeOf (downs : List (Nat × Nat)) (src dst cls peer : Nat) : Nat :=
  let q := (src + dst + cls) % 16
  (((List.range 16).map fun i => (q + i) % 16).find? fun q => !downs.contains (peer, q)).getD q

/-! ## Flits -/

/-- DST. -/
def flitDst (f : Flit) : Nat := (f.extractLsb' 0 8).toNat
/-- SRC. -/
def flitSrc (f : Flit) : Nat := (f.extractLsb' 8 8).toNat
/-- CLASS. -/
def flitClass (f : Flit) : Nat := (f.extractLsb' 16 4).toNat
/-- SEQ. -/
def flitSeq (f : Flit) : Nat := (f.extractLsb' 20 16).toNat
/-- The last SEQ received that the flit reports. -/
def flitAck (f : Flit) : Nat := (f.extractLsb' 2016 16).toNat
/-- The CRC that the flit carries. -/
def flitCrc (f : Flit) : Nat := (f.extractLsb' 1984 32).toNat

/-- Does the CRC fit bytes 0 to 247? -/
def flitGood (f : Flit) : Bool := flitCrc f == crc32c (natToBytes 248 (f.extractLsb' 0 1984).toNat)

/-- A flit built from its fields, with a payload whose layout is open. -/
def buildFlit (src dst cls seq ack : Nat) (payload : List Byte) : Flit :=
  let head := natToBytes 8 (dst % 256 + src % 256 * 2 ^ 8 + cls % 16 * 2 ^ 16 + seq % 65536 * 2 ^ 20)
  let body := head ++ payload.take 240 ++ List.replicate (240 - payload.length) 0
  BitVec.ofNat 2048 (bytesToNat (body ++ natToBytes 8 (crc32c body + ack % 65536 * 2 ^ 32)))

/-- A direction of the links that was never used. -/
def LinkSt.idle : LinkSt := ⟨0, 0, []⟩

/-- What the device keeps of a class to and from another one. -/
def linkOf (s : State) (dev cls : Nat) : LinkSt := look s.hub.links LinkSt.idle (16 * dev + cls)

/-- The same, replaced. -/
def setLink (s : State) (dev cls : Nat) (l : LinkSt) : State :=
  { s with hub := { s.hub with links := put s.hub.links (16 * dev + cls) l } }

/-- A flit of a class sent to a device; it is kept until it is acknowledged. -/
def sendFlit (s : State) (dev cls : Nat) : State :=
  let l := linkOf s dev cls
  let seq := (l.sent + 1) % 65536
  let f := buildFlit (myDev s) dev cls seq l.received ((List.range 240).map fun i => Config.freeByte (4096 * s.draws + i))
  let s := setLink s.draw dev cls { l with sent := seq, unacked := l.unacked ++ [f] }
  if linkDown s dev then s else { s with hub := { s.hub with outFlits := s.hub.outFlits ++ [f] } }

end Sys2Proof.Machine
end

