-- ==== Sys2Proof/Machine/Check.lean ====
section
/-! DEFINITION. The ordered checks of a memory access (R216, R217), the pod window (R386), the sets of a transaction
(R56), the region table (R143), and the waits before an access is performed (R86, R121, R133). -/

namespace Sys2Proof.Machine

/-! ## The checks of a global access -/

/-- A global access to be checked (R216): its address, bytes, alignment and the cause of a misaligned one, what it
needs, whether it counts as a store, whether it is an atomic, reduction, lease or `fadd.c`, whether it is a lease,
a reduction, and whether R56 checks it. -/
structure GReq where
  ea : Word
  n : Nat
  align : Nat
  store : Bool
  atomic : Bool := false
  lease : Bool := false
  red : Bool := false
  sets : Bool := true
  deriving DecidableEq, Repr

/-- What the checks find: the place of the access, a trap, a translation to wait for, a fault that parks, a page in
no window, or an access that another device performs. -/
inductive Chk where
  | ok (l : Loc)
  | trap (cause : Nat) (tval : Word)
  | miss (page : Nat)
  | fault (page : Nat)
  | remote (dev : Nat)
  | bringup
  deriving DecidableEq, Repr

/-- What the access needs of its translation (R375). -/
def GReq.need (r : GReq) : Need := if r.store then .write else .read

/-- Where an address in the pod window is served (R386): here, by a device, or nowhere. -/
inductive PodRes where
  | here
  | away (dev : Nat)
  | bad
  deriving DecidableEq, Repr

/-- The pod window of a partition (R386). -/
def podOf (s : State) (p va : Nat) : PodRes :=
  let w := (s.part p).spodw
  let base := (w &&& 0x01FFFFFFC0000000#64).toNat
  let sh := (w.extractLsb' 0 6).toNat
  if w.getLsbD 63 = false ∨ va < base ∨ base + 2 ^ sh * 256 ≤ va then .here
  else if s.hub.mpod.getLsbD 15 = false ∨ (s.hub.mpod.extractLsb' 8 3).toNat ≠ p then .bad
  else match readSpaceWord s p ((s.part p).spodt.toNat + 8 * ((va - base) >>> sh)) with
    | none => .bad
    | some e =>
      if e < 2 ^ 63 ∨ e % 2 ^ 63 / 256 ≠ 0 then .bad
      else if e % 256 = (s.hub.mpod.extractLsb' 0 8).toNat then .here
      else .away (e % 256)

/-- The translation of every address of a list; the place of the first is kept (R216 check 5). A line in the first-level
cache of core `c` needs none (R87). -/
def translateAll (s : State) (c : Nat) (need : Need) (sl : Slot) (ea : Word) : List Nat → Chk
  | [] => .ok (.dev 0)
  | va :: vas =>
    match translateAll s c need sl ea vas with
    | .ok _ =>
      match l1Place s c va need with
      | some l => .ok l
      | none => match translate (s.part (s.partOf c)) va need with
        | .hit l => .ok l
        | .nowhere => .trap 0x25 ea
        | .final => .trap (finalCause need) ea
        | .miss => if sl.xfault = some (pageOf va) then .trap (finalCause need) ea else .miss (pageOf va)
        | .fault => if sl.xfault = some (pageOf va) then .trap (finalCause need) ea else .fault (pageOf va)
    | c => c

/-- Does the access pass the sets of its transaction (R56)? A page class is judged at the moment of the access: one that a
reclassification has held since then is performed without being checked again (R86). -/
def setsPass (s : State) (p : Nat) (store : Bool) (vas : List Nat) : Bool :=
  match s.me.tx with
  | none => true
  | some t => match s.tx? t with
    | none => true
    | some tx =>
      tx.st == .recon || vas.all fun va =>
        tx.tiles.any (fun e => e.tile == pageOf va && (e.excl || !store)) ||
          classOf (classEntry (s.part p) va) == 1 || classOf (classEntry (s.part p) va) == 2 ||
          s.me.admitted.contains (pageOf va)

/-- Is the slot one of the phase's threads (R141, R143)? -/
def phaseThread (sl : Slot) : Bool := sl.ctx.getLsbD 27 && sl.tx.isSome

/-- The region of the region table that holds an address, during a phase (R142). -/
def regionOf (pt : Part) (va : Nat) : Option Region :=
  match pt.phase with
  | none => none
  | some _ => pt.regions.find? fun r => decide (r.base ≤ va) && decide (va < r.base + 4096 * r.pages)

/-- May the slot write at the address (R143)? A reduction of the phase's threads into a merge-owned region may. -/
def regionPass (pt : Part) (sl : Slot) (va : Nat) (red : Bool) : Bool :=
  match regionOf pt va with
  | none => true
  | some r => match r.writer with
    | 0 => true
    | 1 => phaseThread sl
    | 4 => red && phaseThread sl
    | _ => false

/-- The page addresses of a reduction logged instead of applied (R144). -/
def logged (pt : Part) (sl : Slot) (va : Nat) : Bool :=
  match regionOf pt va with
  | none => false
  | some r => r.writer == 4 && phaseThread sl

/-- Is an atomic on a line under relayout split (R121)? -/
def splits (pt : Part) (va n : Nat) : Bool :=
  match redirNibble pt (2 * va) true with
  | .nib k => !(List.range (2 * n)).all fun i => redirNibble pt (2 * va + i) true == .nib (k + i)
  | .pad => !(List.range (2 * n)).all fun i => redirNibble pt (2 * va + i) true == .pad
  | .unit _ _ => false

/-- Check 9 (R118, R121): marks of relayouts. -/
def markCheck (pt : Part) (r : GReq) : Option Nat :=
  let va := r.ea.toNat
  if r.atomic ∧ !r.lease ∧ splits pt va r.n then some 0x21
  else if r.lease ∧ onMarked pt va r.n then some 0x25
  else if r.store ∧ onRunningBlock pt va r.n then some 0x25
  else none

/-- Is what a place needs ready (R405, R409): its stack trained, or the host link up? None when it is; otherwise a wait for
the bring-up step, ACCESS where the step ended without it, or MACHINE_CHECK in a stack that is lost. -/
def placeReady (s : State) (l : Loc) (ea : Word) : Option Chk :=
  let bit (b code : Nat) : Option Chk :=
    if s.hub.ready.getLsbD b then none else if stepEnded s code then some (.trap 0x25 ea) else some .bringup
  match l with
  | .dev pa => if s.hub.lostStacks.contains (stackOf pa) then some (.trap 0xC0 ea) else bit (14 + stackOf pa) (64 + stackOf pa)
  | .host _ _ => bit 7 160

/-- Checks 1, 2 and 5 to 9 of R216, in order; `hostOk` says which mappings permit the operation (check 6). -/
def checkGlobal (s : State) (r : GReq) (hostOk : Loc → Bool) : Chk :=
  let p := s.myPart
  let pt := s.part p
  let va := r.ea.toNat
  if !canonical r.ea then .trap 0x25 r.ea
  else if va % r.align ≠ 0 then .trap (if r.atomic then 0x21 else 0x20) r.ea
  else match podOf s p va with
    | .bad => .trap 0x25 r.ea
    | .away d =>
      if s.me.xfault = some (pageOf va) then .trap (finalCause r.need) r.ea
      else if linkDown s d then .trap 0xE0 r.ea
      else if r.sets && !setsPass s p r.store [va] then .trap 0xA3 r.ea
      else if r.store && !regionPass pt s.me va r.red then .trap 0x28 r.ea
      else .remote d
    | .here =>
      let vas := touchedVas pt va r.n r.store
      match translateAll s s.curCore r.need s.me r.ea vas with
      | .ok l =>
        match placeReady s l r.ea with
        | some c => c
        | none =>
        if !hostOk l then .trap 0x29 r.ea
        else if r.sets && !setsPass s p r.store vas then .trap 0xA3 r.ea
        else if r.store && !regionPass pt s.me va r.red then .trap 0x28 r.ea
        else match markCheck pt r with
          | some c => .trap c r.ea
          | none => .ok l
      | c => c

/-- Every mapping permits the operation. -/
def anyMapping (_ : Loc) : Bool := true

/-! ## Before an access is performed -/

/-- The transactions that an error on core `c` is handled for (R63): those whose tray holds it, and that of a slot on it. -/
def txsOn (s : State) (c : Nat) (t : Option Nat) : List Nat :=
  let trays := (s.txs.filter fun e => e.2.st == .running && e.2.crews.any fun w => w.1 == c).map fun e => e.1
  match t with
  | some t => if trays.contains t then trays else t :: trays
  | none => trays

/-- Each transaction of a list handles an error on core `c` (R63). -/
def postErrors (s : State) (c : Nat) : List Nat → State
  | [] => s
  | t :: ts => postErrors (s.post (.txHardwareError t c)) c ts

/-- A synchronous trap of a checked access; a MACHINE_CHECK is an error on the core (R63, R338). -/
def accessTrap (s : State) (cause : Nat) (tval : Word) : State :=
  trapI (if cause = 0xC0 then postErrors s s.curCore (txsOn s s.curCore s.me.tx) else s) cause tval

/-- The wait for an access that is checked but stopped (R218, R374, R376). A trap, a miss, a fault or an access over
Stente ends the instruction's try; `away` says what an access over Stente does. -/
def stopped (s : State) (c : Chk) (need : Need) (away : Nat → State → Out) (act : Loc → State → Out) : Out :=
  match c with
  | .ok l => act l s
  | .trap c v => .next (accessTrap s c v)
  | .miss page => .next (hold (requestXlat s s.myPart page need) (.xlat s.myPart page))
  | .fault page => .next (pageFault s s.myPart page need)
  | .remote d => away d s
  | .bringup => .next (hold s .bringup)

/-- A relaxed access or reduction that waits for a translation leaves its slot READY, its instruction not issued (R216). -/
def stillReady (s0 : State) (o : Out) : Out :=
  match o with
  | .next t => match t.me.wait with
    | some (.xlat p g) => .next (t.setMe { t.me with st := .ready, wait := some (.xlatHeld p g), readyAt := s0.me.readyAt })
    | _ => o
  | o => o

/-- A unit of a conversion forced ahead of the rest (R119, R121). -/
def forceUnit (s : State) (p cid u : Nat) : State :=
  let pt := s.part p
  s.setPart p { pt with convs := pt.convs.map fun c =>
    if c.id = cid ∧ !c.forced.contains u then { c with forced := c.forced ++ [u] } else c }

/-- The slot waits for a unit of the relayout that an address lies in (R121). -/
def holdUnit (s : State) (p va u : Nat) (force : Bool) : State :=
  match convAt (s.part p) va with
  | none => s
  | some (c, _) => hold (if force then forceUnit s p c.id u else s) (.unit p c.id u force)

/-- The class lookup of the issuing slot's access (R85, R86): it waits behind the slots that a reclassification of the
granule held before it, and leaves their number when it goes on. -/
def lookUp (s : State) (p va : Nat) (l : Loc) (store : Bool) : State × Bool :=
  if behindHeld s p va s.cur then (joinGranule s p va s.cur, false)
  else match touch s p va l (some s.curCore) store with
    | (s, true) => (leaveGranule s p (va / 4096) s.cur, true)
    | (s, false) => (joinGranule s p va s.cur, false)

/-- The issuing slot's access, which has passed its checks, held by the reclassification of its granule (R56, R86). -/
def holdGranule (s : State) (p va : Nat) : State :=
  let s := hold s (.granule p (va / 4096) (BitVec.ofNat 64 va))
  s.setMe { s.me with admitted := pageOf va :: s.me.admitted.filter (· ≠ pageOf va) }

/-- The waits before a checked access is performed: the reclassifier (R86), a line that others hold (R133, R135), a
subscribed range that can give no number (R101), and a unit of a relayout (R121). The access gives up its place in the
line's queue when it goes on, and a later relaxed load of the slot meets no older copy of the line (R130). -/
def whenOpen (s : State) (va n : Nat) (l : Loc) (touches store : Bool) (act : State → Out) : Out :=
  let p := s.myPart
  let ea : Word := BitVec.ofNat 64 va
  match (if touches then lookUp s p va l store else (s, true)) with
  | (s, false) => .next (holdGranule s p va)
  | (s, true) =>
    if !lineOpen s p l.key s.cur then .next (hold (joinLine s p l.key s.cur) (.line p l.key ea))
    else
      let s := freeLine s p l.key s.cur
      if store && !rangeOpen s p va then .next (hold s (.line p l.key ea))
      else match unitBlock (s.part p) va store n with
        | some (u, force) => .next (holdUnit s p va u force)
        | none => act (noStale s s.cur l)

/-- The bytes that a relaxed access may touch, from its address on. -/
def Relaxed.span (r : Relaxed) : Nat := r.op.extent

/-- Does an earlier relaxed access of the slot touch the same bytes (R126)? -/
def overlapsRelaxed (sl : Slot) (space : Space) (ea : Word) (n : Nat) : Bool :=
  sl.relaxed.any fun r => r.space == space && decide (r.addr.toNat < ea.toNat + n) &&
    decide (ea.toNat < r.addr.toNat + r.span)

/-- Does an access of `n` bytes touch bytes that a relaxed access reaches by its range's other name, its address or its segment
(R101, R126)? -/
def sameBytes (s : State) (k : Nat) (r : Relaxed) (space : Space) (ea n : Nat) : Bool :=
  let g := rangeOf s k r
  r.space != space && g.isSome && g == rangeNamed s k space (BitVec.ofNat 64 ea) &&
    decide (r.addr.toNat % 4096 < ea % 4096 + n) && decide (ea % 4096 < r.addr.toNat % 4096 + r.span)

/-- Has the slot with key `k` earlier relaxed accesses to some of the bytes (R126)? -/
def ownPending (s : State) (k : Nat) (space : Space) (ea n : Nat) : Bool :=
  overlapsRelaxed (s.slot k) space (BitVec.ofNat 64 ea) n || (s.slot k).relaxed.any fun r => sameBytes s k r space ea n

/-- The issuing slot waits for its own earlier relaxed accesses to the bytes (R126). -/
def holdOwn (s : State) (space : Space) (ea : Word) (n : Nat) : State := hold s (.own space ea.toNat n)

/-- An access sent to another device over Stente (R386, R387): the slot waits for the answer, for 50,000 ticks at most. -/
def sendAway (d : Reg) (kind : LoadKind) (ea : Word) (dev : Nat) (s : State) : State :=
  (hold (sendFlit s dev 0) (.remote dev ea d kind)).post (.linkTimeout s.curCore s.curSlot)

/-- An access performed by another device. -/
def goRemote (d : Reg) (kind : LoadKind) (ea : Word) (dev : Nat) (s : State) : Out := .next (sendAway d kind ea dev s)

/-- What an instruction does once another device has answered its access to an address (R386). -/
def withRemote (ea : Word) (dev : Nat) (act : State → Out) (s : State) : Out :=
  if s.me.had.contains ea then act s else goRemote 0 .again ea dev s

/-- Is the slot in a reconnaissance pass (R60)? -/
def inRecon (s : State) : Bool :=
  match s.me.tx with
  | none => false
  | some t => match s.tx? t with
    | none => false
    | some tx => tx.st == .recon

/-- What an operation does in a reconnaissance pass: nothing is written (R60). -/
def AccessOp.recon (op : AccessOp) : AccessOp :=
  match op with
  | .store _ => .store []
  | .atomic _ n _ _ _ => .load n
  | .elems r _ (some _) locs span => .elems r [] (some []) locs span
  | o => o

/-! ## The checks of a scratch access (R93, R216) -/

/-- What a scratch access is for its checks. -/
inductive ScrKind where
  | load | store | feRead | feWrite
  deriving DecidableEq, Repr

/-- Is the offset a word of a LIVE barrier (R93)? -/
def liveBarrierWord (co : Core) (off : Nat) : Bool :=
  decide (off < 0x2000) && (look co.bars Barrier.off (off / 8)).live

/-- Checks 1 to 4 of R216 on a scratch address, with R329's rows for S level. -/
def checkScratch (s : State) (ea : Word) (align : Nat) (kind : ScrKind) : Option (Nat × Word) :=
  let c := scrCore ea
  let off := scrOff ea
  let fe := kind == .feRead || kind == .feWrite
  if ea.extractLsb' 32 32 ≠ 0 ∨ 2 ≤ scrWin ea ∨ !s.present c then some (0x26, ea)
  else if ea.toNat % align ≠ 0 then some (0x20, ea)
  else if s.me.level ≠ .m ∧ s.partOf c ≠ s.myPart then some (0x25, ea)
  else if scrWin ea = 1 then
    match kind with
    | .load => none
    | .feRead => some (0x25, ea)
    | _ => if liveBarrierWord (s.core c) off then some (0x44, ea) else some (0x25, ea)
  else if s.me.level = .u ∧ 251 ≤ off / 4096 then some (0x25, ea)
  else if fe ∧ (segOf (s.core c) (off / 4096)).st ≠ .none then some (0x27, ea)
  else none

/-- Is the scratch address in the issuing slot's own core (R215)? -/
def isLocal (s : State) (ea : Word) : Bool := scrCore ea == s.curCore

/-- May the slot migrate (R75, R99)? -/
def mayMigrate (s : State) : Bool :=
  s.me.level == .u && !inDet s && s.me.csr.qen.extractLsb' 0 4 == 0 && s.me.csr.sen.extractLsb' 0 4 == 0 &&
    s.me.h.all (fun h => !h.valid) && s.me.lease.isNone

/-- The slot departs to the core of a scratch address (R100 step 1). -/
def depart (s : State) (d : Reg) (ea : Word) (op : AccessOp) (kind : LoadKind) (fe empties : Bool) : State :=
  let n := (stallOf (s.me.ir.extractLsb' 0 16)).toNat
  (s.setMe { s.me with
    st := .save
    wait := some (.migrate d ea op kind fe empties)
    waitSince := s.tick
    readyAt := s.myCore.cyc + n + 1 }).post (.migrationDeparture s.curCore s.curSlot)

end Sys2Proof.Machine
end

