-- ==== Sys2Proof/Machine/Special.lean ====
section
/-! DEFINITION. The special functions of R264, each the exact value rounded once. A transcendental value is enclosed
between two fractions; when both round alike that is the result, and otherwise the bit is left to `Config.sfResult`. -/

namespace Sys2Proof.Machine

/-! ## Intervals in units of 2^-768 -/

/-- The fraction bits of the enclosures. -/
def sfBits : Nat := 768

/-- A real number between lo and hi, in units of 2^-768. -/
structure Iv where
  lo : Int
  hi : Int
  deriving DecidableEq, Repr

/-- One in the units of the enclosures. -/
def ivOne : Int := (2 ^ 768 : Nat)

/-- Division rounded up by a positive number. -/
def ceilDiv (a b : Int) : Int := -((-a) / b)

/-- An integer. -/
def Iv.ofInt (i : Int) : Iv := ⟨i * ivOne, i * ivOne⟩

/-- ± n / d. -/
def Iv.ofFrac (neg : Bool) (n d : Nat) : Iv :=
  let v := signedNum neg (n * 2 ^ 768)
  ⟨v / d, ceilDiv v d⟩

/-- Sum. -/
def Iv.add (a b : Iv) : Iv := ⟨a.lo + b.lo, a.hi + b.hi⟩
/-- Difference. -/
def Iv.sub (a b : Iv) : Iv := ⟨a.lo - b.hi, a.hi - b.lo⟩
/-- Product. -/
def Iv.mul (a b : Iv) : Iv :=
  let p := [a.lo * b.lo, a.lo * b.hi, a.hi * b.lo, a.hi * b.hi]
  let lo := p.foldl min (a.lo * b.lo)
  let hi := p.foldl max (a.lo * b.lo)
  ⟨lo / ivOne, ceilDiv hi ivOne⟩
/-- Quotient by a positive integer. -/
def Iv.divNat (a : Iv) (n : Nat) : Iv := ⟨a.lo / n, ceilDiv a.hi n⟩
/-- Product with an integer. -/
def Iv.scale (a : Iv) (k : Int) : Iv := if 0 ≤ k then ⟨a.lo * k, a.hi * k⟩ else ⟨a.hi * k, a.lo * k⟩
/-- Quotient by a positive interval. -/
def Iv.div (a b : Iv) : Iv :=
  ⟨(if 0 ≤ a.lo then a.lo * ivOne / b.hi else a.lo * ivOne / b.lo),
    (if 0 ≤ a.hi then ceilDiv (a.hi * ivOne) b.lo else ceilDiv (a.hi * ivOne) b.hi)⟩
/-- Widened by two units. -/
def Iv.widen (a : Iv) : Iv := ⟨a.lo - 2, a.hi + 2⟩

/-- The sum of `n` terms of e^r from term k on: the terms follow from one another by r / k. -/
def expTerms (r : Iv) : Nat → Nat → Iv → Iv → Iv
  | 0, _, _, acc => acc
  | n + 1, k, t, acc => expTerms r n (k + 1) ((t.mul r).divNat k) (acc.add t)

/-- e^r for |r| at most 1. -/
def ivExpSmall (r : Iv) : Iv := (expTerms r 150 1 (Iv.ofInt 1) ⟨0, 0⟩).widen

/-- Squared n times. -/
def ivSquare : Nat → Iv → Iv
  | 0, a => a
  | n + 1, a => ivSquare n (a.mul a)

/-- e^(n/d) for a non-negative fraction below 256. -/
def ivExpPos (n d : Nat) : Iv := ivSquare 10 (ivExpSmall (Iv.ofFrac false n (d * 1024)))

/-- Terms of atanh or atan: t, t³/3, t⁵/5, …; `alt` alternates the signs. -/
def atanTerms (alt : Bool) (sq : Iv) : Nat → Nat → Bool → Iv → Iv → Iv
  | 0, _, _, _, acc => acc
  | n + 1, k, neg, t, acc =>
    let u := t.divNat k
    atanTerms alt sq n (k + 2) (alt && !neg) (t.mul sq) (if neg then acc.sub u else acc.add u)

/-- atanh of |t| at most 1/3. -/
def ivAtanh (t : Iv) : Iv := (atanTerms false (t.mul t) 260 1 false t ⟨0, 0⟩).widen

/-- atan of 1/q for q at least 5. -/
def ivAtanInv (q : Nat) : Iv :=
  let t := Iv.ofFrac false 1 q
  (atanTerms true (t.mul t) 180 1 false t ⟨0, 0⟩).widen

/-- ln 2. -/
def ivLn2 : Iv := (ivAtanh (Iv.ofFrac false 1 3)).scale 2

/-- π. -/
def ivPi : Iv := ((ivAtanInv 5).scale 16).sub ((ivAtanInv 239).scale 4)

/-- Terms of sine or cosine from term k on, with r² negated in. -/
def sinTerms (sq : Iv) : Nat → Nat → Bool → Iv → Iv → Iv
  | 0, _, _, _, acc => acc
  | n + 1, k, neg, t, acc =>
    sinTerms sq n (k + 2) (!neg) (((t.mul sq).divNat k).divNat (k + 1)) (if neg then acc.sub t else acc.add t)

/-- sin r for |r| at most 1. -/
def ivSin (r : Iv) : Iv := (sinTerms (r.mul r) 80 2 false r ⟨0, 0⟩).widen
/-- cos r for |r| at most 1. -/
def ivCos (r : Iv) : Iv := (sinTerms (r.mul r) 80 1 false (Iv.ofInt 1) ⟨0, 0⟩).widen

/-! ## Rounding an enclosure -/

/-- An endpoint of an enclosure as an exact value. -/
def xOfUnits (v : Int) : XVal := .fin (decide (v < 0)) v.natAbs (2 ^ 768)

/-- The result of a value known to lie strictly inside an enclosure: always inexact. -/
def roundIv (fn : Nat) (f : Fmt) (mode : Rnd) (arg : Nat) (v : Iv) : Nat × Word :=
  let (a, fa) := roundFixed f mode (xOfUnits v.lo)
  let (b, _) := roundFixed f mode (xOfUnits v.hi)
  if a = b ∧ (0 < v.lo ∨ v.hi < 0) then (a, fa ||| flagNX)
  else (Config.sfResult fn f.m (match mode with | .rne => 0 | .rtz => 1 | .rdn => 2 | .rup => 3 | .rna => 4) arg, flagNX)

/-- The largest r with r² ≤ n, by bits from bit b down. -/
def isqrt (n : Nat) : Nat → Nat → Nat
  | 0, r => r
  | b + 1, r => if (r + 2 ^ b) * (r + 2 ^ b) ≤ n then isqrt n b (r + 2 ^ b) else isqrt n b r

/-- √(n/d), rounded: exact when the root is a fraction of the enclosure's units. -/
def sqrtRound (fn : Nat) (f : Fmt) (mode : Rnd) (arg n d : Nat) : Nat × Word :=
  let m := n * 2 ^ 1536 / d
  let r := isqrt m (Nat.log2 m / 2 + 1) 0
  if r * r * d = n * 2 ^ 1536 then roundFixed f mode (xOfUnits r)
  else roundIv fn f mode arg ⟨r, r + 1⟩

/-- A huge value, and a tiny positive one, whose rounding is that of every value beyond the range. -/
def xHuge : XVal := .fin false (2 ^ 1000) 1
/-- See `xHuge`. -/
def xTiny : XVal := .fin false 1 (2 ^ 1000)

/-- e^x, as an enclosure or as a value of the same rounding; x is not zero. -/
def expRound (fn : Nat) (f : Fmt) (mode : Rnd) (arg : Nat) (neg : Bool) (n d : Nat) : Nat × Word :=
  if 200 * d ≤ n then roundFixed f mode (if neg then xTiny else xHuge)
  else
    let e := ivExpPos n d
    roundIv fn f mode arg (if neg then (Iv.ofInt 1).div e else e)

/-- ln m for a fraction m between 1/2 and 2. -/
def ivLn (n d : Nat) : Iv :=
  (ivAtanh (Iv.ofFrac (decide (n < d)) ((n : Int) - d).natAbs (n + d))).scale 2

/-- The sine or cosine of x, |x| at most 2^20, x not zero: the quadrant of x, then the series (R264). -/
def trigRound (cosine : Bool) (fn : Nat) (f : Fmt) (mode : Rnd) (arg : Nat) (neg : Bool) (n d : Nat) : Nat × Word :=
  let x := Iv.ofFrac neg n d
  let half : Iv := ivPi.divNat 2
  let k : Int := (x.lo + half.lo / 2) / half.lo
  let r := x.sub (half.scale k)
  let q := ((k + (if cosine then 1 else 0)) % 4).toNat
  let v := if q % 2 = 0 then ivSin r else ivCos r
  roundIv fn f mode arg (if 2 ≤ q then v.scale (-1) else v)

/-- A special function of one lane (R264): FN, format, mode and operand. -/
def sfLane (fn : Nat) (f : Fmt) (mode : Rnd) (a : Nat) : Nat × Word :=
  match decodeFmt f a with
  | .nan => (f.nan, nvOf f [a])
  | .inf neg =>
    match fn with
    | 0 | 1 => (if neg then 0 else f.inf false, 0)
    | 2 => if neg then (f.nan, flagNV) else (f.inf false, 0)
    | 3 => (f.withSign neg 0, 0)
    | 4 => if neg then (f.nan, flagNV) else (0, 0)
    | 5 => if neg then (f.nan, flagNV) else (f.inf false, 0)
    | 6 | 7 => (f.nan, flagNV)
    | 8 => roundFixed f mode (.fin neg 1 1)
    | _ => if neg then (0, 0) else roundFixed f mode (.fin false 1 1)
  | .fin neg n d =>
    if n = 0 then
      match fn with
      | 0 | 1 | 7 => roundFixed f mode (.fin false 1 1)
      | 2 => (f.inf true, flagDZ)
      | 3 | 4 => (f.inf neg, flagDZ)
      | 5 | 6 | 8 => (a, 0)
      | _ => roundFixed f mode (.fin false 1 2)
    else
      match fn with
      | 0 => expRound fn f mode a neg n d
      | 1 =>
        if n % d = 0 then roundFixed f mode (dyadic false 1 (signedNum neg (Nat.min (n / d) 1000)))
        else if 200 * d ≤ n then roundFixed f mode (if neg then xTiny else xHuge)
        else
          let l := ivLn2
          let e := ivSquare 10 (ivExpSmall ((Iv.ofFrac false n (d * 1024)).mul l))
          roundIv fn f mode a (if neg then (Iv.ofInt 1).div e else e)
      | 2 =>
        if neg then (f.nan, flagNV)
        else
          let e := floorLog2 n d
          let (mn, md) := scaleDown n d e
          if mn = md then roundFixed f mode (xOfInt e)
          else
            let (e, md) := if 3 * md ≤ 2 * mn then (e + 1, 2 * md) else (e, md)
            roundIv fn f mode a (((ivLn mn md).div ivLn2).add (Iv.ofInt e))
      | 3 => roundFixed f mode (.fin neg d n)
      | 4 => if neg then (f.nan, flagNV) else sqrtRound fn f mode a d n
      | 5 => if neg then (f.nan, flagNV) else sqrtRound fn f mode a n d
      | 6 => if 2 ^ 20 * d < n then (f.nan, flagSR) else trigRound false fn f mode a neg n d
      | 7 => if 2 ^ 20 * d < n then (f.nan, flagSR) else trigRound true fn f mode a neg n d
      | 8 =>
        let v : Iv := if 100 * d ≤ n then ⟨ivOne - 2 ^ 600, ivOne - 1⟩
          else
            let e := ivExpPos (2 * n) d
            (e.sub (Iv.ofInt 1)).div (e.add (Iv.ofInt 1))
        roundIv fn f mode a (if neg then v.scale (-1) else v)
      | _ =>
        if 200 * d ≤ n then (if neg then roundFixed f mode xTiny else roundIv fn f mode a ⟨ivOne - 2 ^ 600, ivOne - 1⟩)
        else
          let e := ivExpPos n d
          let one := Iv.ofInt 1
          roundIv fn f mode a (if neg then one.div (one.add e) else e.div (one.add e))

end Sys2Proof.Machine
end

