-- ==== Sys2Proof/Machine/Push.lean ====
section
/-! DEFINITION. Lanes of vector values, the top-k unit's held set (R266 to R268), and writes to bound vector registers:
special-function operands (R265), candidates (R267) and stream chunks (R262, R263). -/

namespace Sys2Proof.Machine

/-! ## Lanes (R247, R248) -/

/-- Lane i of width w of a list of registers taken as one value. -/
def laneAt (w i : Nat) (v : Nat) : Nat := v / 2 ^ (w * i) % 2 ^ w

/-- The value with lanes of width w from a function, `n` lanes. -/
def packLanes (w : Nat) (f : Nat → Nat) : Nat → Nat
  | 0 => 0
  | n + 1 => packLanes w f n + f n % 2 ^ w * 2 ^ (w * n)

/-- Is lane i enabled by `VM`? -/
def vmBit (vm : Word) (i : Nat) : Bool := vm.getLsbD i

/-- The lanes of an operation: with MK a lane whose `VM` bit is 0 keeps its old value and raises no flag (R248). -/
def mergeLanes (merge : Bool) (vm : Word) (w n old : Nat) (f : Nat → Nat × Word) : Nat × Word :=
  let live (i : Nat) : Bool := !merge || vmBit vm i
  (packLanes w (fun i => if live i then (f i).1 else laneAt w i old) n,
    ((List.range n).map fun i => if live i then (f i).2 else 0).foldl (· ||| ·) 0)

/-- A vector whose bits the spec leaves open, at a draw (log entry 1). -/
def freeVec (draw : Nat) : Vec := BitVec.ofNat 512 (packLanes 64 (fun i => (Config.freeWord (8 * draw + i)).toNat) 8)

/-- A result of no register: flags alone, landing after `lat` cycles. -/
def writeFlags (s : State) (lat : Nat) (flags : Word) : State := writeFixed s lat (xreg 0) 0 flags

/-! ## Special functions in the pipe (R250, R264, R265) -/

/-- A special function over the lanes of a register. -/
def sfApply (fn : Nat) (lt : LaneT) (mode : Rnd) (merge : Bool) (vm : Word) (old v : Vec) : Vec × Word :=
  let w := lt.bits
  let (r, fl) := mergeLanes merge vm w lt.lanes old.toNat fun i => sfLane fn (LaneT.fmt lt) mode (laneAt w i v.toNat)
  (BitVec.ofNat 512 r, fl)

/-- The latency of a special function (R265). -/
def sfLatency (lt : LaneT) : Nat := if lt.bits = 32 then 12 else 13

/-- The SF pipe is closed in the next cycle after a 16-bit special function (R250). -/
def closeSf (s : State) (lt : LaneT) : State :=
  if lt.bits = 16 then s.setMyCore { s.myCore with sfClosed := some (s.myCore.cyc + 1) } else s

/-! ## The top-k unit (R267) -/

/-- The key of a candidate as an exact value, none for a NaN. -/
def keyVal (lt : LaneT) (k : BitVec 32) : XVal :=
  if lt.isFloat then decodeFmt (LaneT.fmt lt) (k.toNat % 2 ^ lt.bits) else xOfInt (laneInt lt (k.toNat % 2 ^ lt.bits))

/-- Does candidate a rank before candidate b (R267)? -/
def ranksBefore (t : TopK) (a b : KPair) : Bool :=
  let x := keyVal t.lt a.key
  let y := keyVal t.lt b.key
  let less := xlessTotal x y
  let more := xlessTotal y x
  if less then t.smallest else if more then !t.smallest else decide (a.idx.toNat < b.idx.toNat)

/-- The candidate placed in the held set, best first. -/
def rankInsert (t : TopK) (a : KPair) : List KPair → List KPair
  | [] => [a]
  | b :: bs => if ranksBefore t a b then a :: b :: bs else b :: rankInsert t a bs

/-- A candidate entered: NaN keys and index 0xFFFF_FFFF are not (R267). -/
def enterPair (t : TopK) (a : KPair) : TopK :=
  if a.idx = 0xFFFFFFFF ∨ keyVal t.lt a.key = .nan then t
  else { t with held := (rankInsert t a t.held).take t.k }

/-- A chunk of candidates entered, lanes under `VM` (R267). -/
def enterChunk (t : TopK) (vm : Word) (v : Vec) : TopK :=
  let w := t.lt.bits
  let n := t.lt.lanes
  let t' := (List.range n).foldl (fun t' i =>
    if vmBit vm i then enterPair t' ⟨BitVec.ofNat 32 (laneAt w i v.toNat), t.counter + BitVec.ofNat 32 i⟩ else t') t
  { t' with counter := t.counter + BitVec.ofNat 32 n }

/-- A chunk of pairs merged (R267). -/
def mergePairs (t : TopK) (v : Vec) : TopK :=
  (List.range 8).foldl (fun t' j =>
    let p := laneAt 64 j v.toNat
    let key := if t.lt.bits = 16 then p % 2 ^ 16 else p % 2 ^ 32
    enterPair t' ⟨BitVec.ofNat 32 key, BitVec.ofNat 32 (p / 2 ^ 32)⟩) t

/-- The session open for input, or the block of R267. -/
def openSession (sl : Slot) : Option TopK :=
  match sl.topk with
  | some t => if t.isOpen then some t else none
  | none => none

/-! ## Blocked operands (R73) -/

/-- The chunks of stream k read ahead are given up and read again, since the next one cannot be popped (R263). -/
def rereadStream (s : State) (k : Nat) : State :=
  if h : k < 4 then
    let sl := s.me
    let t := sl.streams[k]
    (s.setMe { sl with streams := sl.streams.set k { t with ahead := [], fetched := t.pos } }).post
      (.streamChunkArrive s.curCore s.curSlot k)
  else s

/-- What the issuing slot does when an operand is blocked: it traps, parks or waits with every queue as it was (R73). -/
def blocked (s : State) : Block → Out
  | .trap c v => .next (trapI s c v)
  | .wait w => .next (hold s w)
  | .chunk k c v => .next (trapI (rereadStream s k) c v)
  | .chunkFault k page => .next (pageFault (rereadStream s k) s.myPart page .read)

/-! ## Pushes (R72, R73) -/

/-- What a push into a bound register does with the state after the pops; a stop leaves `s0` as it was (R73). -/
def pushQs (s0 s : State) (v : Vec) (act : State → Out) : Out :=
  let sl := s.me
  match sl.qsFn with
  | none => .next (trapI s0 0x64 0)
  | some q =>
    if 8 ≤ sl.qs.length then .next (hold s0 (.queueRoom 1))
    else
      let s := s.draw
      let (r, fl) := sfApply q.fn q.lt (rndOf sl.csr.rmode q.rm) q.merge sl.csr.vm (freeVec s0.draws) v
      let s := s.setMe { s.me with qs := sl.qs ++ [none] }
      let (id, s) := pendV s s.cur (.special (s.myCore.cyc + sfLatency q.lt)) [] (some [r]) fl
      act (closeSf (s.post (.variableResultArrival s.curCore s.curSlot id)) q.lt)

/-- A candidate chunk pushed into `qk` (R267). -/
def pushQk (s0 s : State) (v : Vec) (act : State → Out) : Out :=
  match openSession s.me with
  | none => .next (trapI s0 0x64 0)
  | some t => act (s.setMe { s.me with topk := some (enterChunk t s.me.csr.vm v) })

/-- A relaxed access of the issuing slot recorded, to be performed later (R222, R237, R262). -/
def addRelaxed (s : State) (space : Space) (ea : Word) (loc : Option Loc) (op : AccessOp) (kind : LoadKind)
    (red counts : Bool) : Nat × State :=
  let (id, s) := s.fresh
  let s := s.setMe { s.me with relaxed := s.me.relaxed ++ [⟨id, s.me.tx, space, ea, loc, op, kind, red, counts, s.tick⟩] }
  (id, s)

/-- A relaxed access to another core's scratchpad travels as a message; every other one is performed when it
completes (R97, R222). -/
def sendRelaxed (s : State) (space : Space) (ea : Word) (id : Nat) (op : AccessOp) (kind : LoadKind) (d : Reg) : State :=
  if space = .scratch ∧ !isLocal s ea then
    sendMsg s (scrCore ea) (.bank ea op kind d (.relaxed id)) (fun m => .bankAccessArrive m)
  else s.post (.relaxedAccessComplete s.curCore s.curSlot id)

/-- A chunk pushed into write stream k (R262, R263). -/
def pushStream (s0 s : State) (k : Fin 4) (v : Vec) (act : State → Out) : Out :=
  let sl := s.me
  let t := sl.streams[k]
  if !t.on || !t.write || t.chunks ≤ t.pos then .next (trapI s0 0x64 0)
  else
    let ea := t.chunkAddr t.pos
    let op := AccessOp.store (offsets 0 ((vecBytes v).take (t.chunkLen t.pos)))
    let go (space : Space) (loc : Option Loc) (s : State) : Out :=
      let s := s.setMe { s.me with streams := sl.streams.set k { t with pos := t.pos + 1 } }
      let op := if inRecon s && space == .global then op.recon else op
      let (id, s) := addRelaxed s space ea loc op .none false false
      act (sendRelaxed s space ea id op .none 0)
    if t.scratch then
      match checkScratch s0 ea 1 .store with
      | some (c, x) => .next (trapI s0 c x)
      | none => go .scratch none s
    else
      match checkGlobal s0 { ea := ea, n := 64, align := 1, store := true } anyMapping with
      | .ok l => go .global (some l) s
      | .remote _ => go .global none s
      | c => stopped s0 c .write (fun _ s => .next s) (fun _ s => .next s)

/-- A value written to vector field `d`: pushed when the field is bound, else given to `plain`. -/
def pushV (s0 s : State) (d : Reg) (v : Vec) (act : State → Out) (plain : State → Out) : Out :=
  match boundQueue s.me d with
  | some 1 => pushQs s0 s v act
  | some 2 => pushQk s0 s v act
  | some _ => .next (trapI s0 0x64 0)
  | none => match boundStream s.me d with
    | some k => pushStream s0 s k v act
    | none => plain s

/-- Reading a bound register or binding ends a bounded lease sequence (R230). -/
def noteBound (s : State) (rs : List Reg) : State := if rs.any (isBound s.me) then unbound s else s

end Sys2Proof.Machine
end

