-- ==== Sys2Proof/Machine/Elements.lean ====
section
/-! DEFINITION. Accesses that the instructions and events share: those of outside agents (R85), the loads that belong to an
instruction, and the elements of a tensor that a handle names (R112, R121, R287). -/

namespace Sys2Proof.Machine

/-- The place of an address that has passed its checks. -/
def placeAt (s : State) (p va : Nat) (need : Need) : Loc :=
  match translate (s.part p) va need with
  | .hit l => l
  | _ => .dev 0

/-- The first page of a list that is not translated for `need`. -/
def firstClosed (pt : Part) (need : Need) : List Nat → Option (Nat × XRes)
  | [] => none
  | page :: rest => match translate pt page need with
    | .hit _ => firstClosed pt need rest
    | r => some (page, r)

/-! ## Accesses by outside agents (R85) -/

/-- A unit of the relayout that an address lies in forced ahead of the rest (R119, R121). -/
def forceAt (s : State) (p va u : Nat) : State :=
  match convAt (s.part p) va with
  | some (c, _) => forceUnit s p c.id u
  | none => s

/-- What an agent's access meets: nothing, a wait, or a page whose translation does not grant it. -/
inductive Agent where
  | ready
  | wait
  | closed (page : Nat) (need : Need) (r : XRes)
  deriving DecidableEq, Repr

/-- Does somebody hold the line against an outside agent (R133, R135, R105, R384)? -/
def agentHeld (s : State) (p key : Nat) : Bool :=
  !(lineQueue s p key).isEmpty || copyHolds s p key || lineStuck s p key || heldElsewhere s p key

/-- The need of an access. -/
def needOf (store : Bool) : Need := if store then .write else .read

/-- One address in each 64 bytes of a range. -/
def chunkAddrs (va n : Nat) : List Nat :=
  (List.range ((va % 64 + n + 63) / 64)).map fun i => if i = 0 then va else va / 64 * 64 + 64 * i

/-- May an agent access the bytes of a line now: translation, class and line (R85, R86, R101, R133)? -/
def agentLine (s : State) (p : Nat) (store : Bool) (va : Nat) : State × Agent :=
  match translate (s.part p) va (needOf store) with
  | .hit l =>
    match touch s p va l none store with
    | (s, false) => (s, .wait)
    | (s, true) => (s, if agentHeld s p l.key || store && !rangeOpen s p va then .wait else .ready)
  | r => (s, .closed (pageOf va) (needOf store) r)

/-- The same for each address, whatever units of a relayout they lie in. -/
def agentLines (p : Nat) (store : Bool) : List Nat → State → State × Agent
  | [], s => (s, .ready)
  | va :: vas, s => match agentLine s p store va with
    | (s, .ready) => agentLines p store vas s
    | r => r

/-- May an agent access each address now: lines, and units, which a write forces (R121)? -/
def agentOpen (s : State) (p : Nat) (store : Bool) : List Nat → State × Agent
  | [] => (s, .ready)
  | va :: vas => match agentLine s p store va with
    | (s, .ready) => match unitBlock (s.part p) va store 64 with
      | some (u, true) => (forceAt s p va u, .wait)
      | some _ => (s, .wait)
      | none => agentOpen s p store vas
    | r => r

/-- What asking for a closed page does: a request to the host where one can help (R374, R375). -/
def agentAsk (s : State) (p page : Nat) (need : Need) (r : XRes) : State :=
  match r with
  | .miss => requestXlat s p page need
  | .fault => requestPage s p page need
  | _ => s

/-- The value of `n` bytes read by an agent, through the redirection of R121. -/
def agentBytes (s : State) (p va : Nat) : Nat → Nat
  | 0 => 0
  | n + 1 => (performGlobal s p va (placeAt s p va .read) (.load 1) none).old + 256 * agentBytes s p (va + 1) n

/-! ## Loads that belong to an instruction -/

/-- The waits before an access to pieces of `w` bytes from `va` on (R86, R121, R133), then `act`. -/
def openRange (store : Bool) (va w : Nat) : Nat → (State → Out) → State → Out
  | 0, act, s => act s
  | k + 1, act, s =>
    let a := va + w * k
    if (leasedLine s.me a w).isSome then openRange store va w k act s
    else match translate (s.part s.myPart) a (needOf store) with
      | .hit l => whenOpen s a w l true store (openRange store va w k act)
      | _ => openRange store va w k act s

/-- `n` aligned bytes, 128 at most, read by the issuing slot at a place that is open: from the held copy of a leased line, or
where the access is performed. -/
def loadNow (relaxed : Bool) (s : State) (va : Nat) (l : Loc) (n : Nat) : State × Nat :=
  match leasedLine s.me va n with
  | some x => (s, (performHeld s.me x va (.load n)).2)
  | none =>
    if relaxed then relaxedLoad s s.cur va l n
    else
      let r := performAt (noteSeen s s.cur s.myPart va l) s.curCore s.myPart va l (.load n) none
      (r.s, r.old)

/-- `n` aligned bytes, 128 at most, read as an access of the issuing slot, for what the instruction then does; `sets` says
whether R56 checks it. -/
def loadBy (relaxed : Bool) (ea : Word) (n : Nat) (sets : Bool) (act : Nat → State → Out) (s : State) : Out :=
  stopped s (checkGlobal s { ea := ea, n := n, align := n, store := false, sets := sets } anyMapping) .read
    (fun dev s => withRemote ea dev (fun s => act ((freeVec s.draws).toNat % 256 ^ n) s.draw) (unbound s))
    (fun l s =>
      let s := if (leasedLine s.me ea.toNat n).isSome then s else unbound s
      if ownPending s s.cur .global ea.toNat n then .next (holdOwn s .global ea n)
      else openRange false ea.toNat n 1 (fun s =>
        let (s, v) := loadNow relaxed s ea.toNat l n
        act v s) s)

/-- The same for a load that is not relaxed. -/
def loadThen (ea : Word) (n : Nat) (sets : Bool) (act : Nat → State → Out) (s : State) : Out := loadBy false ea n sets act s

/-- Checks of single bytes in order: the first that fails (R216). -/
def checkBytes (s : State) (store : Bool) : List Nat → Chk
  | [] => .ok (.dev 0)
  | va :: vas =>
    match checkGlobal s { ea := BitVec.ofNat 64 va, n := 1, align := 1, store := store } anyMapping with
    | .ok _ => checkBytes s store vas
    | c => c

/-- The waits before an access to each of the addresses (R86, R121, R133), then `act`. -/
def openBytes (store : Bool) : List Nat → (State → Out) → State → Out
  | [], act, s => act s
  | va :: vas, act, s =>
    if (leasedLine s.me va 1).isSome then openBytes store vas act s
    else whenOpen s va 1 (placeAt s s.myPart va (needOf store)) true store (openBytes store vas act)

/-! ## Elements (R112, R121, R287) -/

/-- The bytes an element occupies: its first byte and their number. -/
def elemSpan (r : Vec) (m a b : Nat) : Nat × Nat := (nibbleOf r m a b 0 / 2, (recBits r + 7) / 8)

/-- The addresses of the bytes of elements. -/
def elemBytes (r : Vec) : List (Nat × Nat × Nat) → List Nat
  | [] => []
  | (m, a, b) :: es =>
    let (va, n) := elemSpan r m a b
    (List.range n).map (fun i => va + i) ++ elemBytes r es

/-- `w` nibbles of partition `p`'s space from a nibble address on, each at its place under R121. -/
def readNibbles (s : State) (p n : Nat) : Nat → Nat
  | 0 => 0
  | w + 1 => nibbleAt s p (redirNibble (s.part p) n false) + 16 * readNibbles s p (n + 1) w

/-- `w` nibbles stored from a nibble address on, each at its place under R121. -/
def writeRedirected (s : State) (p n v : Nat) : Nat → State
  | 0 => s
  | w + 1 => writeRedirected (setNibble s p (redirNibble (s.part p) n true) (v % 16)) p (n + 1) (v / 16) w

/-- The value of an element as an engine reads it (R121). -/
def elemLoad (s : State) (p : Nat) (r : Vec) (m a b : Nat) : Nat := readNibbles s p (nibbleOf r m a b 0) (recBits r / 4)

/-- An element replaced by an engine; a 4-bit element changes only its nibble (R121, R284). -/
def elemStore (s : State) (p : Nat) (r : Vec) (m a b v : Nat) : State :=
  writeRedirected s p (nibbleOf r m a b 0) v (recBits r / 4)

/-- The places of the pages that bytes lie in, as an access found them. -/
def pagePlaces (s : State) (p : Nat) (need : Need) : List Nat → List (Nat × Loc)
  | [] => []
  | va :: vas =>
    let ls := pagePlaces s p need vas
    if ls.any fun e => e.1 == pageOf va then ls else (pageOf va, placeAt s p (pageOf va) need) :: ls

/-- The place of an address by the places of pages. -/
def placeIn (locs : List (Nat × Loc)) (va : Nat) : Loc :=
  match locs.find? fun e => e.1 == pageOf va with
  | some (_, l) => l.plus (va % 4096)
  | none => .dev 0

/-- How the accesses to elements are made: by the slot with key `k`, relaxed or not, at the places of their pages. -/
structure ElemBy where
  k : Nat
  relaxed : Bool
  locs : List (Nat × Loc)
  deriving DecidableEq, Repr

/-- `n` bytes at an address read for a slot. -/
def readPiece (s : State) (e : ElemBy) (va n : Nat) : State × Nat :=
  let p := s.partOf (e.k / 16)
  let l := placeIn e.locs va
  if e.relaxed then relaxedLoad s e.k va l n
  else
    let r := performAt (noteSeen s e.k p va l) (e.k / 16) p va l (.load n) none
    (r.s, r.old)

/-- `n` bytes at an address, which may go over the end of a page. -/
def readSpan (s : State) (e : ElemBy) (va n : Nat) : State × Nat :=
  let h := 4096 - va % 4096
  if n ≤ h then readPiece s e va n
  else
    let (s, a) := readPiece s e va h
    let (s, b) := readPiece s e (va + h) (n - h)
    (s, a + 256 ^ h * b)

/-- Bytes stored at an address for a slot; the copies on other dies are gone with the write (R90). -/
def storePiece (s : State) (e : ElemBy) (va : Nat) (bs : List Byte) (w : Option (Nat × Reply)) : Perf :=
  performAt s (e.k / 16) (s.partOf (e.k / 16)) va (placeIn e.locs va) (.store (offsets 0 bs)) w

/-- Bytes stored from an address on, split where a page ends. -/
def storeSpan (s : State) (e : ElemBy) (va : Nat) (bs : List Byte) (w : Option (Nat × Reply)) : Perf :=
  let h := 4096 - va % 4096
  if bs.length ≤ h then storePiece s e va bs w
  else storePiece (storePiece s e va (bs.take h) none).s e (va + h) (bs.drop h) w

/-- The nibble of a 4-bit element in its byte, or the element as it is. -/
def elemPart (r : Vec) (m a b v : Nat) : Nat := if recBits r = 4 then v / 16 ^ (nibbleOf r m a b 0 % 2) % 16 else v

/-- The bytes of an element with a new value, given the old ones: a 4-bit element changes only its nibble (R287). -/
def elemMerged (r : Vec) (m a b old v : Nat) : Nat :=
  if recBits r = 4 then (if nibbleOf r m a b 0 % 2 = 0 then old / 16 * 16 + v % 16 else old % 16 + 16 * (v % 16)) else v

/-- An element read for a slot: from the held copy of a leased line, through the unit map, or at its storage. -/
def elemRead (s : State) (e : ElemBy) (r : Vec) (m a b : Nat) : State × Nat :=
  let p := s.partOf (e.k / 16)
  let (va, n) := elemSpan r m a b
  match leasedLine (s.slot e.k) va n with
  | some x => (s, elemPart r m a b (performHeld (s.slot e.k) x va (.load n)).2)
  | none =>
    if (convAt (s.part p) va).isSome then (s, elemLoad s p r m a b)
    else
      let (s, v) := readSpan s e va n
      (s, elemPart r m a b v)

/-- An element stored for a slot, in the same way. -/
def elemWrite (s : State) (e : ElemBy) (r : Vec) (m a b v : Nat) (w : Option (Nat × Reply)) : Perf :=
  let p := s.partOf (e.k / 16)
  let (va, n) := elemSpan r m a b
  match leasedLine (s.slot e.k) va n with
  | some x =>
    let old := (performHeld (s.slot e.k) x va (.load n)).2
    ⟨s.setSlot e.k (performHeld (s.slot e.k) x va (.store (offsets 0 (natToBytes n (elemMerged r m a b old v))))).1, 0, false⟩
  | none =>
    if (convAt (s.part p) va).isSome then ⟨elemStore s p r m a b v, 0, false⟩
    else
      let (s, old) := if recBits r = 4 then readSpan s { e with relaxed := false } va n else (s, 0)
      storeSpan s e va (natToBytes n (elemMerged r m a b old v)) w

/-- Elements read in order. -/
def elemReads (s : State) (e : ElemBy) (r : Vec) : List (Nat × Nat × Nat) → State × List Nat
  | [] => (s, [])
  | (m, a, b) :: es =>
    let (s, v) := elemRead s e r m a b
    let (s, vs) := elemReads s e r es
    (s, v :: vs)

/-- Elements stored in order; the number whose accesses complete only with their subscribers. -/
def elemWrites (s : State) (e : ElemBy) (r : Vec) (w : Option (Nat × Reply)) : List ((Nat × Nat × Nat) × Nat) → State × Nat
  | [] => (s, 0)
  | ((m, a, b), v) :: es =>
    let x := elemWrite s e r m a b v w
    let (s, n) := elemWrites x.s e r w es
    (s, n + if x.deferred then 1 else 0)

/-- Values packed at `w` bits from bit 0. -/
def packAt (w : Nat) : List Nat → Nat
  | [] => 0
  | v :: vs => v % 2 ^ w + 2 ^ w * packAt w vs

/-- A loaded element as a register value (R287): sign-extended for the i types and I40. -/
def elemValue (r : Vec) (v : Nat) : Word :=
  let w := recBits r
  let e := recEtype r
  if ((4 ≤ e ∧ e ≤ 7) ∨ e = 13) ∧ 2 ^ (w - 1) ≤ v then BitVec.ofInt 64 ((v : Int) - (2 ^ w : Nat)) else BitVec.ofNat 64 v

/-- The value that a load of elements gives its register: one element for an integer register, or several packed (R287). -/
def elemsValue (r : Vec) (vec : Bool) (vs : List Nat) : Nat :=
  if vec then packAt (recBits r) vs else (elemValue r (vs.headD 0)).toNat

end Sys2Proof.Machine
end

