-- ==== Sys2Proof/Machine/MemAccess.lean ====
section
/-! DEFINITION. The meanings of majors 0x10 to 0x14, loads, stores and prefetches (R215 to R223), and of the events
that complete them: acknowledgements, relaxed accesses, bank messages, reclassification, migration (R100). -/

namespace Sys2Proof.Machine

/-! ## Operands -/

/-- EA of majors 0x10 to 0x15 (R215). -/
def effAddr {n : Nat} (s : State) (a : Reg) (off : BitVec n) : Word := readX s a + sextImm off

/-- Bytes of an integer load function (R219). -/
def ldBytes : LdFn → Nat
  | .b | .bz => 1 | .h | .hz => 2 | .w | .wz => 4 | .d => 8

/-- Does the load sign-extend (R219)? A 64-bit load has nothing to extend. -/
def ldSigned : LdFn → Bool
  | .b | .h | .w => true
  | _ => false

/-- Bytes of a store width (R219). -/
def widthBytes : MemW → Nat
  | .b => 1 | .h => 2 | .w => 4 | .d => 8

/-- The lanes of a vector store that `VM` enables, as bytes with offsets (R221). -/
def laneBytes (vm : Word) (w : Nat) (v : Vec) : List (Nat × Byte) :=
  (offsets 0 (vecBytes v)).filter fun e => vmBit vm (e.1 / w)

/-! ## Global accesses -/

/-- Is a store a posted write: one to host memory under a non-coherent mapping (R107)? -/
def postedWrite (l : Loc) (op : AccessOp) : Bool := match l, op with
  | .host _ false, .store (_ :: _) => true
  | _, _ => false

/-- The bridge has issued a posted write: the store is performed later (R139, R220). -/
def postWrite (s : State) (ea : Word) (l : Loc) (op : AccessOp) : State :=
  let (id, s) := addRelaxed s .global ea (some l) op .none false false
  outstanding (s.post (.relaxedAccessComplete s.curCore s.curSlot id)) [] true

/-- A non-relaxed access performed at its point: its results wait for the acknowledgement (R127). `ans` gives the
registers written from the old value. A store at its home leaves the copies on other dies until it completes (R90). -/
def performNow (s : State) (ea : Word) (l : Loc) (op : AccessOp) (ans : Nat → List (RegId × Vec)) : State :=
  if postedWrite l op then postWrite s ea l op
  else
    let cls := classOf (classEntry (s.part s.myPart) ea.toNat)
    let s := if op.reads = 0 then s else noteSeen s s.cur s.myPart ea.toNat l
    let r := performAt s s.curCore s.myPart ea.toNat l op (some (s.cur, .ack))
    let t := if op.isStore && !r.deferred && cls != 1 then keepCopies s r.s s.cur none l else r.s
    let s := if op.flags r.old = 0 then t else writeFlags t 1 (op.flags r.old)
    outstanding (s.setMe { s.me with accessed := some (ea, l) }) (ans r.old) (!r.deferred)

/-- An access to a line that the slot holds under a lease, performed on the held copy (R229). -/
def heldAccess (s : State) (x : LeaseLine) (ea : Word) (op : AccessOp) (ans : Nat → List (RegId × Vec)) : State :=
  let (sl, old) := performHeld s.me x ea.toNat op
  let s := s.setMe sl
  let s := if op.flags old = 0 then s else writeFlags s 1 (op.flags old)
  outstanding s (ans old) true

/-- A non-relaxed global access after its checks (R220, R221, R235). -/
def globalNow (ea : Word) (n : Nat) (touches : Bool) (op : AccessOp) (ans : Nat → List (RegId × Vec)) (l : Loc)
    (s : State) : Out :=
  let op := if inRecon s then op.recon else op
  let touches := touches && !(inRecon s && op.isStore)
  match leasedLine s.me ea.toNat n with
  | some x => .next (heldAccess s x ea op ans)
  | none =>
    let s := unbound s
    if ownPending s s.cur .global ea.toNat n then .next (holdOwn s .global ea n)
    else whenOpen s ea.toNat n l touches op.isStore fun s => .next (performNow s ea l op ans)

/-- A relaxed global access after its checks (R222): it leaves the slot, which goes on. -/
def globalRelaxed (ea : Word) (n : Nat) (op : AccessOp) (kind : LoadKind) (regs : List RegId)
    (ans : Nat → List (RegId × Vec)) (loc : Option Loc) (s : State) : Out :=
  let op := if inRecon s then op.recon else op
  match leasedLine s.me ea.toNat n with
  | some x => .next (heldAccess s x ea op ans)
  | none =>
    let s := unbound s
    if 16 ≤ (s.me.relaxed.filter (·.counts)).length then .next (hold s .relaxedRoom)
    else
      let (id, s) := addRelaxed s .global ea loc op kind false true
      let s := if regs.isEmpty then s
        else s.setMe { s.me with vpend := s.me.vpend ++ [⟨id, regs, none, 0, .plain⟩] }
      .next (finish (s.post (.relaxedAccessComplete s.curCore s.curSlot id)))

/-- A non-relaxed access that another device performs; in a reconnaissance pass nothing is stored there (R60, R386). -/
def globalAway (ea : Word) (op : AccessOp) (kind : LoadKind) (d : Reg) (dev : Nat) (s : State) : Out :=
  if inRecon s && op.isStore then .next (outstanding s [] true) else goRemote d kind ea dev s

/-- A load, store or their vector forms in the global space (R216, R220, R221). -/
def globalAccess (ea : Word) (n align : Nat) (rx touches : Bool) (op : AccessOp) (kind : LoadKind) (d : Reg)
    (regs : List RegId) (s : State) : Out :=
  let ans := loadAnswer kind d
  let chk := checkGlobal s { ea := ea, n := n, align := align, store := op.isStore } anyMapping
  let need : Need := if op.isStore then .write else .read
  if rx then stillReady s (stopped s chk need (fun _ s => globalRelaxed ea n op kind regs ans none s)
    (fun l s => globalRelaxed ea n op kind regs ans (some l) s))
  else stopped s chk need (globalAway ea op kind d) (fun l s => globalNow ea n touches op ans l s)

/-! ## Scratch accesses -/

/-- What the slot with key `k` reads in a subscribed segment of core `c` it has read of the range (R102, R132). -/
def noteSegment (s : State) (k c : Nat) (ea : Word) : State :=
  let sg := segOf (s.core c) (scrOff ea / 4096)
  if scrWin ea == 0 && sg.st == .shared then
    match rangeAt s (s.partOf c) sg.range with
    | some r => noteSeen s k (s.partOf c) sg.range r.loc
    | none => s
  else s

/-- A scratch access of the issuing slot after its checks (R97, R99, R102, R220). -/
def scratchNow (ea : Word) (n : Nat) (rx : Bool) (op : AccessOp) (kind : LoadKind) (d : Reg) (regs : List RegId)
    (s : State) : Out :=
  let s := unbound s
  if rx then
    if 16 ≤ (s.me.relaxed.filter (·.counts)).length then .next (hold s .relaxedRoom)
    else
      let (id, s) := addRelaxed s .scratch ea none op kind false true
      let s := if regs.isEmpty then s
        else s.setMe { s.me with vpend := s.me.vpend ++ [⟨id, regs, none, 0, .plain⟩] }
      .next (finish (sendRelaxed s .scratch ea id op kind d))
  else if ownPending s s.cur .scratch ea.toNat n then .next (holdOwn s .scratch ea n)
  else if isLocal s ea then
    match performScratch (if op.isStore then s else noteSegment s s.cur s.curCore ea) s.curCore ea op (some (s.cur, .ack)) with
    | none => .next (hold s (.segment s.curCore (scrOff ea / 4096)))
    | some r => .next (outstanding r.s (loadAnswer kind d r.old) (!r.deferred))
  else if !op.isStore && scrWin ea == 0 && mayMigrate s then .next (depart s d ea op kind false false)
  else
    let s := outstanding s [] false
    .next (sendMsg s (scrCore ea) (.bank ea op kind d .ack) (fun m => .bankAccessArrive m))

/-- A load or store in the scratch space. -/
def scratchAccess (ea : Word) (n align : Nat) (rx : Bool) (op : AccessOp) (kind : LoadKind) (d : Reg)
    (regs : List RegId) (s : State) : Out :=
  match checkScratch s ea align (if op.isStore then .store else .load) with
  | some (c, v) => .next (trapI s c v)
  | none => scratchNow ea n rx op kind d regs s

/-! ## The shared forms -/

/-- `ldg` (R220). -/
def loadGlobal {n : Nat} (d a : Reg) (f : LdFn) (rx : Bool) (off : BitVec n) (s : State) : Out :=
  gate false { reads := [xreg a], vwrites := [xreg d] } s fun s =>
    globalAccess (effAddr s a off) (ldBytes f) (ldBytes f) rx true (.load (ldBytes f)) (.int (ldBytes f) (ldSigned f)) d [xreg d] s

/-- `stg` (R220). -/
def storeGlobal {n : Nat} (a b : Reg) (wd : MemW) (rx : Bool) (off : BitVec n) (s : State) : Out :=
  gate false { reads := [xreg a, xreg b] } s fun s =>
    globalAccess (effAddr s a off) (widthBytes wd) (widthBytes wd) rx true
      (.store (offsets 0 (natToBytes (widthBytes wd) (readX s b).toNat))) .none 0 [] s

/-- `lds` (R220). -/
def loadScratch {n : Nat} (d a : Reg) (f : LdFn) (rx : Bool) (off : BitVec n) (s : State) : Out :=
  gate false { reads := [xreg a], vwrites := [xreg d] } s fun s =>
    scratchAccess (effAddr s a off) (ldBytes f) (ldBytes f) rx (.load (ldBytes f)) (.int (ldBytes f) (ldSigned f)) d [xreg d] s

/-- `sts` (R220). -/
def storeScratch {n : Nat} (a b : Reg) (wd : MemW) (rx : Bool) (off : BitVec n) (s : State) : Out :=
  gate false { reads := [xreg a, xreg b] } s fun s =>
    scratchAccess (effAddr s a off) (widthBytes wd) (widthBytes wd) rx (.store (offsets 0 (natToBytes (widthBytes wd) (readX s b).toNat)))
      .none 0 [] s

/-- A vector load into a bound register takes its value at once and pushes it (R73, R221). -/
def loadBound (s : State) (d : Reg) (v : Vec) : Out :=
  pushV s (noteBound s [d]) d v (fun s => .next (outstanding s [] true)) (fun s => .next (outstanding s [(vreg d, v)] true))

/-- The vector register a load writes, when it is a plain one. -/
def vecDest (s : State) (d : Reg) : List RegId := plainV s [d]

/-- `vldg` (R221). -/
def loadVecGlobal {n : Nat} (d a : Reg) (rx : Bool) (off : BitVec n) (s : State) : Out :=
  gate false { reads := [xreg a], vwrites := vecDest s d } s fun s =>
    let ea := effAddr s a off
    if isBound s.me d then
      stopped s (checkGlobal s { ea := ea, n := 64, align := 64, store := false } anyMapping) .read
        (fun dev s => goRemote d .vec ea dev s)
        (fun l s => match leasedLine s.me ea.toNat 64 with
          | some x => loadBound s d (BitVec.ofNat 512 (performHeld s.me x ea.toNat (.load 64)).2)
          | none => if ownPending s s.cur .global ea.toNat 64 then .next (holdOwn s .global ea 64)
            else whenOpen s ea.toNat 64 l true false fun s =>
              let s := noteSeen s s.cur s.myPart ea.toNat l
              let r := performAt s s.curCore s.myPart ea.toNat l (.load 64) none
              loadBound r.s d (BitVec.ofNat 512 r.old))
    else globalAccess ea 64 64 rx true (.load 64) .vec d [vreg d] s

/-- `vlds` (R221). -/
def loadVecScratch {n : Nat} (d a : Reg) (rx : Bool) (off : BitVec n) (s : State) : Out :=
  gate false { reads := [xreg a], vwrites := vecDest s d } s fun s =>
    let ea := effAddr s a off
    if isBound s.me d && isLocal s ea then
      match checkScratch s ea 64 .load with
      | some (c, v) => .next (trapI s c v)
      | none =>
        if ownPending s s.cur .scratch ea.toNat 64 then .next (holdOwn s .scratch ea 64)
        else match performScratch (noteSegment s s.cur s.curCore ea) s.curCore ea (.load 64) none with
          | none => .next (hold s (.segment s.curCore (scrOff ea / 4096)))
          | some r => loadBound s d (BitVec.ofNat 512 r.old)
    else scratchAccess ea 64 64 (rx && !isBound s.me d) (.load 64) .vec d [vreg d] s

/-- Does the slot wait for an access of this instruction to complete? -/
def underWay (sl : Slot) : Bool :=
  match sl.wait with
  | some .access => true
  | some (.remote _ _ _ _) => true
  | _ => false

/-- A vector store. A bound source is popped when the access goes through, non-relaxed, and `VM` is read after the
pop; every queue stays as it was when it does not (R73, R221, R262). -/
def storeVec {n : Nat} (a b : Reg) (rx : Bool) (off : BitVec n) (s : State)
    (go : Bool → Word → Vec → Word → State → Out) : Out :=
  gate false { reads := xreg a :: plainV s [b] } s fun s =>
    let ea := effAddr s a off
    if isBound s.me b then
      let (v, f) := popV s b
      match f.block with
      | some x => blocked s x
      | none =>
        match go false ea v f.s.me.csr.vm (unbound s) with
        | .next t => .next (if underWay t.me then (popV t b).2.s else t)
        | r => r
    else go rx ea (readV s b) s.me.csr.vm s

/-- `vstg` (R221). -/
def storeVecGlobal {n : Nat} (a b : Reg) (wd : MemW) (rx : Bool) (off : BitVec n) (s : State) : Out :=
  storeVec a b rx off s fun rx ea v vm s =>
    let bs := laneBytes vm (widthBytes wd) v
    globalAccess ea 64 64 rx (!bs.isEmpty) (.store bs) .none 0 [] s

/-- `vsts` (R221). -/
def storeVecScratch {n : Nat} (a b : Reg) (wd : MemW) (rx : Bool) (off : BitVec n) (s : State) : Out :=
  storeVec a b rx off s fun rx ea v vm s =>
    scratchAccess ea 64 64 rx (.store (laneBytes vm (widthBytes wd) v)) .none 0 [] s

/-- The line that a `pf` asks for comes to the core's first-level cache, for a page that is PRIVATE to it or READONLY, or to
its home for a SHARED one; any other, and one that fails a check or whose translation is not there, is dropped (R223). -/
def prefetchLine (s : State) (ea : Word) : State :=
  match checkGlobal s { ea := ea, n := 1, align := 1, store := false } anyMapping with
  | .ok l =>
    let e := classEntry (s.part s.myPart) ea.toNat
    if reclassifying s s.myPart ea.toNat then s
    else if l.isHost || classOf e = 3 then noteRequest s s.curCore true l
    else if classOf e = 2 || classOf e = 1 && ownerOf e = s.curCore then
      (l1Fill s s.curCore ea.toNat l false (classOf e == 2)).1
    else s
  | _ => s

/-- `pf`: never traps after R183, writes no register and is never observed (R124, R223). -/
def prefetch {n : Nat} (a : Reg) (off : BitVec n) (s : State) : Out :=
  gate false { reads := [xreg a] } s fun s => .next (finish (prefetchLine (unbound s) (effAddr s a off)))

/-! ## Meanings -/

/-- `ldg`, form I (R220). -/
def execLdg (d : Reg) (a : Reg) (f : LdFn) (rx : Bool) (off : BitVec 16) (s : State) : Out := loadGlobal d a f rx off s
/-- `ldg`, form L (R220). -/
def execLdgL (d : Reg) (a : Reg) (f : LdFn) (rx : Bool) (off : BitVec 32) (s : State) : Out := loadGlobal d a f rx off s
/-- `pf`, form I (R223). -/
def execPf (a : Reg) (off : BitVec 16) (s : State) : Out := prefetch a off s
/-- `pf`, form L (R223). -/
def execPfL (a : Reg) (off : BitVec 32) (s : State) : Out := prefetch a off s
/-- `stg`, form I (R220). -/
def execStg (a : Reg) (b : Reg) (wd : MemW) (rx : Bool) (off : BitVec 16) (s : State) : Out := storeGlobal a b wd rx off s
/-- `stg`, form L (R220). -/
def execStgL (a : Reg) (b : Reg) (wd : MemW) (rx : Bool) (off : BitVec 32) (s : State) : Out := storeGlobal a b wd rx off s
/-- `lds`, form I (R220). -/
def execLds (d : Reg) (a : Reg) (f : LdFn) (rx : Bool) (off : BitVec 16) (s : State) : Out := loadScratch d a f rx off s
/-- `lds`, form L (R220). -/
def execLdsL (d : Reg) (a : Reg) (f : LdFn) (rx : Bool) (off : BitVec 32) (s : State) : Out := loadScratch d a f rx off s
/-- `sts`, form I (R220). -/
def execSts (a : Reg) (b : Reg) (wd : MemW) (rx : Bool) (off : BitVec 16) (s : State) : Out := storeScratch a b wd rx off s
/-- `sts`, form L (R220). -/
def execStsL (a : Reg) (b : Reg) (wd : MemW) (rx : Bool) (off : BitVec 32) (s : State) : Out := storeScratch a b wd rx off s
/-- `vldg`, form I (R221). -/
def execVldg (d : Reg) (a : Reg) (rx : Bool) (off : BitVec 16) (s : State) : Out := loadVecGlobal d a rx off s
/-- `vldg`, form L (R221). -/
def execVldgL (d : Reg) (a : Reg) (rx : Bool) (off : BitVec 32) (s : State) : Out := loadVecGlobal d a rx off s
/-- `vstg`, form I (R221). -/
def execVstg (a : Reg) (b : Reg) (wd : MemW) (rx : Bool) (off : BitVec 16) (s : State) : Out := storeVecGlobal a b wd rx off s
/-- `vstg`, form L (R221). -/
def execVstgL (a : Reg) (b : Reg) (wd : MemW) (rx : Bool) (off : BitVec 32) (s : State) : Out := storeVecGlobal a b wd rx off s
/-- `vlds`, form I (R221). -/
def execVlds (d : Reg) (a : Reg) (rx : Bool) (off : BitVec 16) (s : State) : Out := loadVecScratch d a rx off s
/-- `vlds`, form L (R221). -/
def execVldsL (d : Reg) (a : Reg) (rx : Bool) (off : BitVec 32) (s : State) : Out := loadVecScratch d a rx off s
/-- `vsts`, form I (R221). -/
def execVsts (a : Reg) (b : Reg) (wd : MemW) (rx : Bool) (off : BitVec 16) (s : State) : Out := storeVecScratch a b wd rx off s
/-- `vsts`, form L (R221). -/
def execVstsL (a : Reg) (b : Reg) (wd : MemW) (rx : Bool) (off : BitVec 32) (s : State) : Out := storeVecScratch a b wd rx off s

/-! ## Events of accesses -/

/-- The results of a completed access written, and the slot goes on; a value for a bound register is pushed, and where it
cannot be, the instruction stops there with nothing done (R73, R220). -/
def accessEnds (s : State) (ans : List (RegId × Vec)) : State :=
  let core := s.curCore
  match ans with
  | [(r, v)] =>
    if r.vec && isBound s.me r.r then
      match pushV s s r.r v (fun s => .next (finishWoken s)) (fun s => .next (finishWoken s)) with
      | .next t => t
      | _ => s
    else landOne (finishWoken s) core s.cur r v
  | _ => ans.foldl (fun s e => landOne s core s.cur e.1 e.2) (finishWoken s)

/-- ACCESS_COMPLETE: an acknowledgement returns to the slot; with the last, it writes its results and goes on (R125, R127).
By then the remote-data copies of a line it wrote are invalidated (R90), and its die holds no older copy of the line it
accessed (R130). -/
def execAccessComplete (core slot : Nat) (s : State) : Out :=
  let s := { s with curCore := core, curSlot := slot }
  match s.me.wait, s.me.answer with
  | some .access, some ans =>
    if 1 < s.me.acks then .next (s.setMe { s.me with acks := s.me.acks - 1 })
    else
      let s := purge s s.cur none
      let s := match s.me.accessed with
        | some (_, l) => noStale s s.cur l
        | none => s
      .next (accessEnds (s.setMe { s.me with answer := none, accessed := none }) ans)
  | _, _ => .next s

/-- Do two relaxed accesses to scratchpads meet at one bank of one core (R97)? -/
def sameBank (a b : Relaxed) : Bool :=
  scrCore a.addr == scrCore b.addr &&
    sameQueue (.bank a.addr a.op a.kind 0 .none) (.bank b.addr b.op b.kind 0 .none)

/-- Must a relaxed access of a slot wait for an earlier one of the slot (R126, R129, R139): to one line, to one bank, both
stores to one subscribed range, or both posted writes? -/
def relaxedOrder (s : State) (k : Nat) (a b : Relaxed) : Bool :=
  (match a.space, b.space with
   | .global, .global => (decide (a.addr.toNat / 128 * 128 < b.addr.toNat + Nat.max 1 b.span) &&
      decide (b.addr.toNat / 128 * 128 < a.addr.toNat + Nat.max 1 a.span)) || (match a.loc, b.loc with
      | some x, some y => postedWrite x a.op && postedWrite y b.op
      | _, _ => false)
   | .scratch, .scratch => sameBank a b
   | _, _ => false) ||
  sameBytes s k a b.space b.addr.toNat b.span ||
    a.op.isStore && b.op.isStore && (rangeOf s k a).isSome && rangeOf s k a == rangeOf s k b

/-- The relaxed access with a serial number taken out of its slot. -/
def dropRelaxed (s : State) (k id : Nat) : State :=
  s.setSlot k { s.slot k with relaxed := (s.slot k).relaxed.filter fun r => r.id != id }

/-- The value of a completed relaxed load sent to its register (R178). -/
def answerRelaxed (s : State) (k : Nat) (r : Relaxed) (old : Nat) : State :=
  match r.kind with
  | .none => s
  | _ => resolveV s k r.id [loadValue r.kind old] 0

/-- A relaxed access performed: its record stays while subscribers have to acknowledge it (R103, R131). -/
def settleRelaxed (k : Nat) (r : Relaxed) (p : Perf) : State :=
  let s := answerRelaxed p.s k r p.old
  if p.deferred then s else purge (dropRelaxed s k r.id) k (some r.id)

/-- A relaxed access performed with its line open (R87, R90): a load where R87 serves it; a write that other dies hold
copies of stays in the list, with nothing more to store, until they are invalidated. -/
def performOpen (s : State) (k : Nat) (r : Relaxed) (l : Loc) : State × Bool :=
  match r.op with
  | .load n =>
    let (t, v) := relaxedLoad s k r.addr.toNat l n
    (settleRelaxed k r ⟨t, v, false⟩, true)
  | _ =>
    let cls := classOf (classEntry (s.part (s.partOf (k / 16))) r.addr.toNat)
    let p := performAt s (k / 16) (s.partOf (k / 16)) r.addr.toNat l r.op (some (k, .relaxed r.id))
    if p.deferred || cls = 1 || (otherCopies s (k / 16) l).isEmpty then (settleRelaxed k r p, true)
    else
      let s := keepCopies s (answerRelaxed p.s k r p.old) k (some r.id) l
      (s.setSlot k { s.slot k with
        relaxed := (s.slot k).relaxed.map fun q => if q.id = r.id then { q with op := .store [] } else q }, false)

/-- Before a relaxed access to bytes of one line is performed, what it meets (R86, R121, R133, R135): false while the
reclassifier, a lease, a copy, a subscribed range's numbers, a unit of a relayout, or the translation of a page that a
relayout sends it to keeps it. -/
def relaxedOpen (s : State) (k tid va n : Nat) (l : Loc) (store : Bool) : State × Bool :=
  let p := s.partOf (k / 16)
  if behindHeld s p va tid then (s, false)
  else match touch s p va l (some (k / 16)) store with
  | (s, false) => (s, false)
  | (s, true) =>
    if !lineOpen s p l.key tid then (joinLine s p l.key tid, false)
    else
      let s := freeLine s p l.key tid
      if store && !rangeOpen s p va then (s, false)
      else match unitBlock (s.part p) va store n with
      | some (u, force) => (if force then forceAt s p va u else s, false)
      | none =>
        let away := if (convAt (s.part p) va).isSome then touchedVas (s.part p) va n store else []
        match firstClosed (s.part p) (needOf store) away with
        | some (page, r) => (agentAsk s p page (needOf store) r, false)
        | none => (s, true)

/-- The same for each byte of the elements of a relaxed access. -/
def elemsOpen (k tid : Nat) (locs : List (Nat × Loc)) (store : Bool) : List Nat → State → State × Bool
  | [], s => (s, true)
  | va :: vas, s => match relaxedOpen s k tid va 1 (placeIn locs va) store with
    | (s, true) => elemsOpen k tid locs store vas s
    | (s, false) => (s, false)

/-- A relaxed access to elements tried by the slot with key `k` (R222, R287). -/
def performElems (s : State) (k : Nat) (r : Relaxed) (rec : Vec) (es : List (Nat × Nat × Nat)) (vs : Option (List Nat))
    (locs : List (Nat × Loc)) : State × Bool :=
  match elemsOpen k (ticket r.id) locs vs.isSome (elemBytes rec es) s with
  | (s, false) => (s, false)
  | (s, true) =>
    let e : ElemBy := ⟨k, true, locs⟩
    match vs with
    | none =>
      let (s, xs) := elemReads s e rec es
      (settleRelaxed k r ⟨s, elemsValue rec (r.kind == .vec) xs, false⟩, true)
    | some vs =>
      let (s, n) := elemWrites s e rec (some (k, .relaxed r.id)) (es.zip vs)
      (settleRelaxed k r ⟨s, 0, n != 0⟩, true)

/-- A relaxed access to global memory tried by the slot with key `k`: none while the reclassifier, a lease, a copy or
a relayout holds it (R86, R121, R133, R135). -/
def performRelaxed (s : State) (k : Nat) (r : Relaxed) (l : Loc) : State × Bool :=
  match r.op with
  | .elems rec es vs locs _ => performElems s k r rec es vs locs
  | .store [] => performOpen s k r l
  | op => match relaxedOpen s k (ticket r.id) r.addr.toNat op.extent l op.isStore with
    | (s, true) => performOpen s k r l
    | (s, false) => (s, false)

/-- RELAXED_ACCESS_COMPLETE: a relaxed access is performed and acknowledged (R129, R222, R237). One behind an earlier
access of its slot, or held at its home, comes back later. -/
def execRelaxedAccessComplete (core slot id : Nat) (s : State) : Out :=
  let k := slotKey core slot
  let later := s.post (.relaxedAccessComplete core slot id)
  match (s.slot k).relaxed.find? fun r => r.id == id with
  | none => .next s
  | some r =>
    if (s.slot k).relaxed.any fun q => decide (q.id < id) && relaxedOrder s k q r then .next later
    else match r.space with
      | .scratch => match performScratch s core r.addr r.op (some (k, .relaxed id)) with
        | none => .next later
        | some p => .next (settleRelaxed k r p)
      | .global => match r.loc with
        | none => .next (dropRelaxed (answerRelaxed s.draw k r (freeVec s.draws).toNat) k id)
        | some l =>
          match performRelaxed s k r l with
          | (s, true) => .next s
          | (s, false) => .next (s.post (.relaxedAccessComplete core slot id))

/-- Is an earlier operand of `qs` of this slot still to become poppable (R265)? -/
def qsBehind (sl : Slot) (id : Nat) : Bool :=
  sl.vpend.any fun w => decide (w.id < id) && w.source.isSpecial && w.regs.isEmpty

/-- May this pending result arrive now: its cycle has come, and an operand of `qs` comes in push order (R265)? -/
def resultRipe (sl : Slot) (cyc : Nat) (v : VPend) : Bool :=
  v.source.ripe cyc && !(v.source.isSpecial && v.regs.isEmpty && qsBehind sl v.id)

/-- VARIABLE_RESULT_ARRIVAL: the value of a pending result is written and its registers are pending no more (R178);
an operand of `qs` becomes poppable in push order (R265). A result for a register with a later pending result is
written in the order the results arrive. -/
def execVariableResultArrival (core slot id : Nat) (s : State) : Out :=
  let k := slotKey core slot
  let sl := s.slot k
  match sl.vpend.find? fun v => v.id == id with
  | none => .next s
  | some v =>
    match v.values with
    | none => .next s
    | some vals =>
      if !resultRipe sl (s.core core).cyc v then .next (s.post (.variableResultArrival core slot id))
      else
        let s := s.setSlot k ({ sl with vpend := sl.vpend.filter fun w => w.id != id })
        let s := landSoon s core k v.regs vals v.flags
        if v.source.isSpecial && v.regs.isEmpty then
          let sl := s.slot k
          let i := (sl.qs.takeWhile (·.isSome)).length
          .next (s.setSlot k { sl with qs := setAt sl.qs i vals.head? })
        else .next s

/-- The answer of a bank sent back to the slot that asked (R99, R100, R222). -/
def bankAnswer (m : Msg) (reply : Reply) (ans : List (RegId × Vec)) (p : Perf) : State :=
  let k := slotKey m.src m.srcSlot
  match reply with
  | .ack =>
    let s := p.s.setSlot k { p.s.slot k with answer := some ans }
    if p.deferred then s else s.post (.accessComplete m.src m.srcSlot)
  | .relaxed id =>
    match (p.s.slot k).relaxed.find? fun r => r.id == id with
    | none => p.s
    | some r => settleRelaxed k r p
  | .none => p.s

/-- R225's operations at a bank, on data word `w` of core `c` (word index in the data window). The requester is a
slot key. Woken slots get their values by their own acknowledgement. -/
def wakeDeferred (s : State) (v : Word) (e : Deferred) : State :=
  (s.setSlot e.slot { s.slot e.slot with wait := some .access, answer := some [(xreg e.d, v.setWidth 512)] }).post
    (.accessComplete (e.slot / 16) (e.slot % 16))

/-- The full/empty tag of a word set; EMPTY is the unlisted value (R225). -/
def setTag (s : State) (c w : Nat) (full : Bool) : State :=
  let co := s.core c
  s.setCore c { co with tags := if full then put co.tags w true else remove co.tags w }

/-- The deferred list of a word set. -/
def setDeferred (s : State) (c w : Nat) (q : List Deferred) : State :=
  let co := s.core c
  s.setCore c { co with deferred := if q.isEmpty then remove co.deferred w else put co.deferred w q }

/-- Serve (R225): every PEEK at the head and then the first TAKE is woken with the word's value; the word is FULL
when no TAKE was there. -/
def serve (s : State) (c w : Nat) (v : Word) : List Deferred → State
  | [] => setTag (setDeferred s c w []) c w true
  | e :: es =>
    if e.take then setTag (setDeferred (wakeDeferred s v e) c w es) c w false
    else serve (wakeDeferred s v e) c w v es

/-- The value of a data word. -/
def dataWord (s : State) (c w : Nat) : Word := BitVec.ofNat 64 (bytesToNat (readBytes (s.core c).scratch (8 * w) 8))

/-- The entries of the bank's lists that stand in the bank: 32 at most, the rest in the overflow area (R226, R368). -/
def bankEntries (co : Core) (bank : Nat) : Nat :=
  ((co.deferred.filter fun e => e.1 % 16 == bank).map fun e => e.2.length).sum

/-- The entries of a core's overflow area in use. -/
def overflowUsed (co : Core) : Nat := ((List.range 16).map fun b => bankEntries co b - 32).sum

/-- The entries the overflow area holds: PAGES × 256 (R368). -/
def overflowRoom (co : Core) : Nat := 256 * (co.sdovf.extractLsb' 0 8).toNat

/-- May a waiter be listed (R368)? -/
def mayList (co : Core) (w : Nat) : Bool :=
  decide (bankEntries co (w % 16) < 32) || decide (overflowUsed co < overflowRoom co)

/-- A write of an engine into a partition's space as an outside agent's: its page's class changes as R85 says. -/
def engineWrite (s : State) (p va : Nat) (bs : List Byte) : State :=
  match translate (s.part p) va .write with
  | .hit l => writeSpace (touch s p va l none true).1 p va bs
  | _ => s

/-- A waiter at the end of a word's list; one beyond the bank's 32 entries goes to the overflow area, 16 bytes of a layout
that the spec leaves open (R226, R368; log entry 1). -/
def listWaiter (s : State) (c w : Nat) (e : Deferred) : State :=
  let co := s.core c
  let spills := decide (32 ≤ bankEntries co (w % 16))
  let va := (co.sdovf &&& 0x01FFFFFFFFFFF000#64).toNat + 16 * overflowUsed co
  let s := setDeferred s c w (look co.deferred [] w ++ [{ e with spilled := spills }])
  if spills then engineWrite s.draw (s.partOf c) va ((List.range 16).map fun i => Config.freeByte (16 * s.draws + i)) else s

/-- The events of full/empty operations at a bank (R225): the new state, the result for the requester, and whether
the requester waits or is refused. -/
inductive FeRes where
  | done (s : State) (result : Option Word)
  | waits (s : State)
  | full
  deriving DecidableEq, Repr

/-- One full/empty operation (R225). -/
def feOp (s : State) (c w : Nat) (op : FeOp) (requester : Nat) (d : Reg) : FeRes :=
  let tag := look (s.core c).tags false w
  let q := look (s.core c).deferred [] w
  match op with
  | .take => if tag then .done (setTag s c w false) (some (dataWord s c w))
    else if mayList (s.core c) w then .waits (listWaiter s c w ⟨requester, true, d, false⟩) else .full
  | .peek => if tag then .done s (some (dataWord s c w))
    else if mayList (s.core c) w then .waits (listWaiter s c w ⟨requester, false, d, false⟩) else .full
  | .put v =>
    if tag then .done s (some 1)
    else .done (serve (setScratch s c (8 * w) (offsets 0 (natToBytes 8 v.toNat))) c w v q) (some 0)
  | .clr => .done (setTag s c w false) none
  | .set => if tag then .done s none else .done (serve s c w (dataWord s c w) q) none

/-- The slot after a refused waiter (R368): it takes WAIT_LIMIT with bit 63 of the address set. -/
def refuseWaiter (s : State) (k : Nat) (ea : Word) : State :=
  let sl := s.slot k
  s.setSlot k { sl with
    st := .ready, wait := none, causes := sl.causes ++ [⟨0x40, ea ||| 0x8000000000000000#64, false⟩] }

/-- BANK_ACCESS_ARRIVE: an access or full/empty operation of another core reaches a bank, in arrival order (R97,
R225). One that names a segment in INVALID or INTRANSIT waits there (R102). -/
def execBankAccessArrive (msg : Nat) (s : State) : Out :=
  deliver s msg (.bankAccessArrive msg) fun m s =>
    match m.body with
    | .bank ea op kind d reply =>
      let writer := match reply with
        | .none => none
        | r => some (slotKey m.src m.srcSlot, r)
      match performScratch s m.dst ea op writer with
      | none => s.post (.bankAccessArrive msg)
      | some p => bankAnswer m reply (loadAnswer kind d p.old) ⟨dropMsg p.s msg, p.old, p.deferred⟩
    | .fe addr op d =>
      if segmentBusy (s.core m.dst) (addr / 4096) then s.post (.bankAccessArrive msg)
      else
      let s := dropMsg s msg
      let k := slotKey m.src m.srcSlot
      match feOp s m.dst (addr / 8) op k d with
      | .done s r =>
        let ans := match r with
          | some v => [(xreg d, v.setWidth 512)]
          | none => []
        (s.setSlot k { s.slot k with wait := some .access, answer := some ans }).post (.accessComplete m.src m.srcSlot)
      | .waits s => s
      | .full => refuseWaiter s k (BitVec.ofNat 64 (m.dst * 2 ^ 20 + addr))
    | _ => dropMsg s msg

/-- Is a line of the granule leased or copied to (R108)? -/
def granuleHeld (s : State) (p gran : Nat) : Bool :=
  (s.slots.any fun e => s.partOf (e.1 / 16) == p && (match e.2.lease with
    | some l => l.lines.any fun x => x.va / 4096 == gran
    | none => false))

/-- The cores whose first-level caches a reclassification flushes (R86, R348): the owner's for a PRIVATE granule whose entry
changes, all of the partition for a READONLY one; none for an entry that stays. -/
def flushCores (s : State) (p : Nat) (r : Reclass) : List Nat :=
  let e := look (s.part p).cls 0 r.gran
  if e = r.entry then []
  else match classOf e with
    | 1 => [ownerOf e]
    | 2 => coresOf s p
    | _ => []

/-- RECLASSIFY_COMPLETE: every cache has written back and dropped the granule's lines, the class entry is written and the
held slots go on in arrival order (R86, R348). A leased line of the granule delays it, and so does a gated cache until the
probe has woken it (R105, R108). -/
def execReclassifyComplete (job : Nat) (s : State) : Out :=
  match (s.parts.find? fun e => e.2.reclass.any fun r => r.id == job) with
  | none => .next s
  | some (p, pt) =>
    match pt.reclass.find? fun r => r.id == job with
    | none => .next s
    | some r =>
      if granuleHeld s p r.gran then .next (s.post (.reclassifyComplete job))
      else match (flushCores s p r).find? fun c => (islandAt s (islandOf c)).gated with
        | some c => .next ((wakeIsland s (islandOf c)).post (.reclassifyComplete job))
        | none =>
          let s := flushGranule s p r.gran (flushCores s p r)
          .next (s.setPart p { s.part p with
            cls := put (s.part p).cls r.gran r.entry
            reclass := if r.held.isEmpty then (s.part p).reclass.filter fun q => q.id != job
              else (s.part p).reclass.map fun q => if q.id = job then { q with ready := true } else q })

/-! ## Migration (R99, R100) -/

/-- The private state that travels (R75), with what R75 does not name: the entries of unbound queues and the top-k session,
but no stream (log entry 64). -/
def travelling (sl : Slot) : Slot :=
  { sl with
    f := Vector.ofFn fun i => if 4 ≤ i.val ∧ i.val < 12 then sl.f[i] else 0
    h := Vector.replicate 8 Handle.invalid
    resv := none, wait := none, yieldTo := none, streams := Vector.replicate 4 Stream.off, copies := [], relaxed := [] }

/-- MIGRATION_DEPARTURE: when nothing of the slot is outstanding, its context leaves for the owner core; a context
that comes home finds its AWAY crew slot (R100). -/
def execMigrationDeparture (core slot : Nat) (s : State) : Out :=
  let s := { s with curCore := core, curSlot := slot }
  match s.me.wait with
  | some (.migrate d ea op kind fe empties) =>
    if s.me.st ≠ .save then .next s
    else if !drainedAll s s.cur then
      .next (s.post (.migrationDeparture core slot))
    else
      let home := match s.me.away with
        | some h => some h
        | none => if s.me.resv.isSome then some (core, slot) else none
      let ctx : Context := ⟨travelling s.me, slotKey core slot, home, d, ea, op, kind, fe, empties⟩
      .next (sendMsg s (scrCore ea) (.context ctx) (fun m => .landing m))
  | _ => .next s

/-- Does the core take no landings: it holds a DET crew or a waiting DET reservation, or it is parked (R38, R350,
R362)? -/
def takesNoLandings (s : State) (c : Nat) : Bool :=
  (s.core c).isParked || s.txs.any fun e => ((e.2.desc.getD 1 0).getLsbD 18) && e.2.st != .recon &&
    e.2.crews.any (fun w => w.1 == c)

/-- The lowest-numbered slot of a core that is FREE and unreserved; slot 15 is kept for the message handler while it is
enabled (R21, R337). -/
def freeUnreserved (s : State) (c : Nat) : Option Nat :=
  (List.range 16).find? fun i =>
    (s.slot (slotKey c i)).st == .free && (s.slot (slotKey c i)).resv.isNone &&
      !(i == 15 && (s.core c).smsg.getLsbD 0)

/-- The access of a landed context performed at its own bank (R100 step 2). The slot is set to issue from there. -/
def landedAccess (s : State) (x : Context) : State :=
  let c := s.curCore
  if segmentBusy s.myCore (scrOff x.addr / 4096) then hold s (.segment c (scrOff x.addr / 4096))
  else if x.fe then
    match feOp s c (scrOff x.addr / 8) (if x.empties then .take else .peek) s.cur x.d with
    | .done s r =>
      (s.setMe { s.me with wait := some .access, st := .wait, answer := some [(xreg x.d, (r.getD 0).setWidth 512)] }).post
        (.accessComplete c s.curSlot)
    | .waits s => hold s (.deferred x.addr.toNat)
    | .full => refuseWaiter s s.cur x.addr
  else
    match performScratch s c x.addr x.op (some (s.cur, .ack)) with
    | some p => outstanding p.s (loadAnswer x.kind x.d p.old) (!p.deferred)
    | none => hold s (.segment c (scrOff x.addr / 4096))

/-- The streams of the slot with key `k` from number `n` down that have chunks to read ahead go on (R262). -/
def postStreams (s : State) (k : Nat) : Nat → State
  | 0 => s
  | n + 1 =>
    let go := if h : n < 4 then
        let t := (s.slot k).streams[n]
        t.on && !t.write && decide (t.fetched < t.chunks)
      else false
    postStreams (if go then s.post (.streamChunkArrive (k / 16) (k % 16) n) else s) k n

/-- What a continuation brings into the slot with key `k` that an event has to follow: results whose values are known
already, a running `PCTB` (R341), chunks to read ahead and those of `topk.out` (R82, R262, R268). -/
def postKnown (s : State) (k : Nat) : State :=
  let s := if (s.slot k).pctb = 0 then s else s.post (.timer (k / 16) (k % 16))
  let s := match (s.slot k).topk with
    | some t => if t.out.isEmpty then s else s.post (.topkChunk (k / 16) (k % 16))
    | none => s
  let s := postStreams s k 4
  ((s.slot k).vpend.filter fun v => v.values.isSome).foldl
    (fun s v => s.post (.variableResultArrival (k / 16) (k % 16) v.id)) s

/-- A context placed in slot `i` of core `c`: it enters no line yet, and resumes at the instruction after its access (R19,
R75, R79, R100, R168). -/
def landIn (s : State) (c i : Nat) (x : Context) : State :=
  let k := slotKey c i
  let old := s.slot k
  let homeHere := x.homeSlot = some (c, i)
  let sl := { x.slot with
    st := .ready, resv := old.resv, wait := none, readyAt := (s.core c).cyc, line := none, xfer := 0, cover := []
    resume := some (match x.slot.resume with
      | some pc => pc
      | none => fallThrough x.slot)
    oldCopies := if x.src / 16 / 128 = c / 128 then x.slot.oldCopies
      else (s.rdc.filter fun e => e.1 / 2 ^ 32 == c / 128).map fun e => e.1 % 2 ^ 32
    away := if homeHere then none else x.homeSlot, relaxed := old.relaxed, copies := old.copies }
  landedAccess { (postKnown (s.setSlot k sl) k) with curCore := c, curSlot := i } x

/-- The context as its source slot holds it now: results may have come since it left (R100). -/
def refresh (s : State) (x : Context) : Context :=
  if (s.slot x.src).st = .save then { x with slot := travelling (s.slot x.src) } else x

/-- The source slot after its context has landed elsewhere: a crew slot at home is AWAY, any other slot is FREE (R23,
R100). -/
def leaveSource (s : State) (x : Context) : State :=
  let sl := s.slot x.src
  if x.homeSlot = some (x.src / 16, x.src % 16) then s.setSlot x.src { (freeSlot sl) with st := .away }
  else s.setSlot x.src (freeSlot sl)

/-- LANDING: a context reaches the owner core. It comes home to its AWAY slot, takes a free unreserved slot, waits in
one of the four landing places, or is refused (R100, R108). -/
def execLanding (msg : Nat) (s : State) : Out :=
  deliver s msg (.landing msg) fun m s =>
    match m.body with
    | .context x0 =>
      let s := dropMsg s msg
      let x := refresh s x0
      let c := m.dst
      match x.homeSlot with
      | some (h, i) =>
        if h = c ∧ (s.slot (slotKey h i)).st = .away then landIn (leaveSource s x) h i x
        else place s x c
      | none => place s x c
    | _ => dropMsg s msg
where
  /-- A foreign core's slot, landing place or refusal. The contexts in landing places are kept apart from the bytes of their
  segment (log entry 66). -/
  place (s : State) (x : Context) (c : Nat) : State :=
    if takesNoLandings s c then refuse s x c
    else match (if (s.core c).landing.isEmpty then freeUnreserved s c else none) with
      | some i => landIn (leaveSource s x) c i x
      | none =>
        if (s.core c).landing.length < 4 then
          let s := leaveSource s x
          (s.setCore c { s.core c with landing := (s.core c).landing ++ [x] }).post (.landingFromPlace c)
        else refuse s x c
  /-- The refusal travels back (R100 step 4). -/
  refuse (s : State) (x : Context) (c : Nat) : State :=
    let (id, s) := s.fresh
    ({ s with fabric := s.fabric ++ [(⟨id, c, 0, x.src / 16, .refusal x, none⟩ : Msg)] }).post (.migrationRefused id)

/-- LANDING_FROM_PLACE: the oldest context of the landing places takes an unreserved slot that became FREE (R100). -/
def execLandingFromPlace (core : Nat) (s : State) : Out :=
  match (s.core core).landing, freeUnreserved s core with
  | x :: xs, some i =>
    .next (landIn (s.setCore core { s.core core with landing := xs }) core i x)
  | [], _ => .next s
  | _ :: _, none => .next (s.post (.landingFromPlace core))

/-- MIGRATION_REFUSED: the slot is READY at its source again and its access is performed as a remote read (R100). -/
def execMigrationRefused (msg : Nat) (s : State) : Out :=
  deliver s msg (.migrationRefused msg) fun m s =>
    match m.body with
    | .refusal x =>
      let s := { dropMsg s msg with curCore := x.src / 16, curSlot := x.src % 16 }
      if s.me.st ≠ .save then s
      else if x.fe then
        let s := hold s (.deferred x.addr.toNat)
        sendMsg s (scrCore x.addr) (.fe (scrOff x.addr) (if x.empties then .take else .peek) x.d)
          (fun m => .bankAccessArrive m)
      else
        let s := outstanding s [] false
        sendMsg s (scrCore x.addr) (.bank x.addr x.op x.kind x.d .ack) (fun m => .bankAccessArrive m)
    | _ => dropMsg s msg

/-- STREAM_DETECTOR_TIMEOUT: a port in no-allocate mode without an access for 64 ticks leaves it; nothing else changes.
A port that has left the mode otherwise is left as it is, and one that was accessed in the 64 ticks stays in it (R91). -/
def execStreamDetectorTimeout (slice port : Nat) (s : State) : Out :=
  let d := look s.hub.detectors (0, 0, 0) (detectorKey slice port)
  if d.1 ≠ 8 then .next s
  else if s.tick < d.2.2 + 64 then .next (s.post (.streamDetectorTimeout slice port))
  else .next { s with hub := { s.hub with detectors := remove s.hub.detectors (detectorKey slice port) } }

/-- A hardware cause raised in the slot with key `k`; the transactions of its core follow R63 (R338). -/
def hardwareCause (s : State) (k code : Nat) (tval : Word) : State :=
  let s := s.setSlot k { s.slot k with causes := (s.slot k).causes ++ [⟨code, tval, false⟩] }
  postErrors s (k / 16) (txsOn s (k / 16) (s.slot k).tx)

/-! ## Agents that do not answer (R105) -/

/-- The ticks that a home waits for an agent: for longer when its island sleeps. Agents below 512 are the caches of the
cores. -/
def probeLimit (s : State) (agent : Nat) : Nat :=
  if agent < 512 ∧ (islandAt s (islandOf agent)).gated then 50000 else 10000

/-- Do subscribers or remote-data caches keep the access of the slot from completing? -/
def awaitsAgents (s : State) (k : Nat) : Bool :=
  s.purges.any (fun x => x.slot == k && x.id == none) ||
    (s.part (s.partOf (k / 16))).ranges.any fun e => e.2.unacked.any fun u => u.2.2 == some (k, .ack)

/-- The address of an access of the slot that waits for an agent, the line it waits at with its partition, the tick it began
to wait in, and its serial number if it is relaxed. -/
def probedAccess (s : State) (k : Nat) : Option (Word × Option (Nat × Nat) × Nat × Option Nat) :=
  let sl := s.slot k
  let p := s.partOf (k / 16)
  let late := sl.relaxed.find? fun (r : Relaxed) => match r.loc with
    | some l => (lineQueue s p l.key).contains (ticket r.id) || s.purges.any fun x => x.slot == k && x.id == some r.id
    | none => false
  match sl.wait with
  | some (.line p l ea) => some (ea, some (p, l), sl.waitSince, none)
  | some (.granule p _ ea) => some (ea, (match translate (s.part p) ea.toNat .read with
    | .hit l => some (p, l.key)
    | _ => none), sl.waitSince, none)
  | some .access => match sl.accessed with
    | some (ea, l) => if awaitsAgents s k then some (ea, some (p, l.key), sl.waitSince, none) else none
    | none => none
  | _ => late.map fun r => (r.addr, r.loc.map fun l => (p, l.key), r.since, some r.id)

/-- What an access of the slot waited for is given up. -/
def giveUp (s : State) (k : Nat) (id : Option Nat) : State :=
  let reply : Reply := match id with
    | some i => .relaxed i
    | none => .ack
  let p := s.partOf (k / 16)
  let s := { s with purges := s.purges.filter fun x => !(x.slot == k && x.id == id) }
  let s := s.setPart p { s.part p with ranges := (s.part p).ranges.map fun (e : Nat × Range) =>
    (e.1, { e.2 with unacked := e.2.unacked.map fun u => if u.2.2 = some (k, reply) then (u.1, u.2.1, none) else u }) }
  match id with
  | none =>
    let s := leaveWait s k
    s.setSlot k { s.slot k with wait := none, st := .ready, answer := none, accessed := none }
  | some i =>
    let s := match (s.slot k).relaxed.find? fun r => r.id == i with
      | some r => match r.loc with
        | some l => freeLine s p l.key (ticket i)
        | none => s
      | none => s
    let s := dropRelaxed s k i
    s.setSlot k { s.slot k with vpend := (s.slot k).vpend.filter fun v => v.id != i }

/-- HOME_PROBE_TIMEOUT: the agent that a home probed has not answered in time: the waiting access ends in MACHINE_CHECK,
Starter is told, and other accesses to the line wait until S-level software recovers it (R105). -/
def execHomeProbeTimeout (core slot probed : Nat) (s : State) : Out :=
  let k := slotKey core slot
  match probedAccess s k with
  | none => .next s
  | some (ea, line, since, id) =>
    if s.tick < since + probeLimit s probed then .next (s.post (.homeProbeTimeout core slot probed))
    else
      let s := giveUp { s with hub := { s.hub with reports := s.hub.reports ++ [(probed, 0xC0)] } } k id
      let s := hardwareCause s k 0xC0 ea
      .next (match line with
        | some (p, key) => s.setPart p { s.part p with stuck := (s.part p).stuck ++ [key] }
        | none => s)

end Sys2Proof.Machine
end

