-- ==== Sys2Proof/Machine/Sync.lean ====
section
/-! DEFINITION. The meanings of majors 0x15, 0x16 and 0x1A to 0x1D: full/empty words (R224 to R226), leases (R227 to
R233), fences (R239), barriers (R240 to R243), messages (R244) and subscriptions (R245), with their events. -/

namespace Sys2Proof.Machine

/-! ## Full/empty words -/

/-- The status of a completed operation in Rd. -/
def statusIn (d : Reg) (v : Word) : List (RegId × Vec) := [(xreg d, v.setWidth 512)]

/-- `take` and `peek` (R225, R226): at the own bank, by migration, or as a remote operation. -/
def feRead (empties : Bool) (d a : Reg) (off : BitVec 16) (s : State) : Out :=
  gate false { reads := [xreg a], vwrites := [xreg d] } s fun s =>
    let ea := effAddr s a off
    let op := if empties then FeOp.take else FeOp.peek
    match checkScratch s ea 8 .feRead with
    | some (c, v) => .next (trapI s c v)
    | none =>
      let s := unbound s
      if ownPending s s.cur .scratch ea.toNat 8 then .next (holdOwn s .scratch ea 8)
      else if isLocal s ea && segmentBusy s.myCore (scrOff ea / 4096) then .next (hold s (.segment s.curCore (scrOff ea / 4096)))
      else if isLocal s ea then
        match feOp s s.curCore (scrOff ea / 8) op s.cur d with
        | .done s r => .next (outstanding s (statusIn d (r.getD 0)) true)
        | .waits s => .next (hold s (.deferred ea.toNat))
        | .full => .next (trapI s 0x40 (ea ||| 0x8000000000000000#64))
      else if mayMigrate s then .next (depart s d ea (.load 8) (.int 8 false) true empties)
      else .next (sendMsg (hold s (.deferred ea.toNat)) (scrCore ea) (.fe (scrOff ea) op d) (fun m => .bankAccessArrive m))

/-- `put`, `fe.clr` and `fe.set` (R225); `waits` for the accesses before it at dev scope (R137). -/
def feWrite (waits : Bool) (u : Uses) (d a : Reg) (off : BitVec 16) (op : State → FeOp) (s : State) : Out :=
  gate false u s fun s =>
    let ea := effAddr s a off
    match checkScratch s ea 8 .feWrite with
    | some (c, v) => .next (trapI s c v)
    | none =>
      let s := unbound s
      if waits && !fenced s s.cur 4 then .next (hold s (.fence 4))
      else if ownPending s s.cur .scratch ea.toNat 8 then .next (holdOwn s .scratch ea 8)
      else if isLocal s ea && segmentBusy s.myCore (scrOff ea / 4096) then .next (hold s (.segment s.curCore (scrOff ea / 4096)))
      else if isLocal s ea then
        match feOp s s.curCore (scrOff ea / 8) (op s) s.cur d with
        | .done s r => .next (outstanding s (match r with
            | some v => statusIn d v
            | none => []) true)
        | .waits s => .next s
        | .full => .next s
      else .next (sendMsg (outstanding s [] false) (scrCore ea) (.fe (scrOff ea) (op s) d) (fun m => .bankAccessArrive m))

/-- `take` (R225). -/
def execTake (d a : Reg) (off : BitVec 16) (s : State) : Out := feRead true d a off s
/-- `peek` (R225). -/
def execPeek (d a : Reg) (off : BitVec 16) (s : State) : Out := feRead false d a off s
/-- `put` (R225, R137). -/
def execPut (d a b : Reg) (off : BitVec 16) (s : State) : Out :=
  feWrite true { reads := [xreg a, xreg b], vwrites := [xreg d] } d a off (fun s => .put (readX s b)) s
/-- `fe.clr` (R225). -/
def execFeClr (a : Reg) (off : BitVec 16) (s : State) : Out :=
  feWrite false { reads := [xreg a] } 0 a off (fun _ => .clr) s
/-- `fe.set` (R225). -/
def execFeSet (a : Reg) (off : BitVec 16) (s : State) : Out :=
  feWrite false { reads := [xreg a] } 0 a off (fun _ => .set) s

/-! ## Leases -/

/-- The three code lines of a first lease: the line that holds it and the two after it (R230). -/
def codeLines (sl : Slot) : List Nat :=
  let l := (sl.pc &&& ~~~63#64).toNat
  [l, l + 64, l + 128]

/-- A code line that the issuing slot has entered or its core's instruction cache holds. -/
def codeLine (s : State) (l : Nat) : Option Line :=
  match s.me.line with
  | some (a, x) => if a.toNat = l then some x else look (s.myCore.icache.map fun e => (e.1, some e.2)) none l
  | none => look (s.myCore.icache.map fun e => (e.1, some e.2)) none l

/-- A code line of a first lease that still has to come into the instruction cache; one whose fetch ends in a fault is not
held (R230). -/
def missingCode (s : State) (lines : List Nat) : Option Nat :=
  lines.find? fun l => (codeLine s l).isNone &&
    (match translate (s.part s.myPart) l .exec with
     | .hit p => (placeReady s p 0).isNone
     | .miss => s.me.xfault != some (pageOf l)
     | _ => false)

/-- The slot's copies of the lines of the list that pass R168 (R230). -/
def heldCode (s : State) (lines : List Nat) : List (Nat × Line) :=
  lines.filterMap fun l => match codeLine s l with
    | some x => if (Line.reason x).isNone then some (l, x) else none
    | none => none

/-- Does another slot of the core hold a host-line lease (R231)? -/
def hostLeaseElsewhere (s : State) (c k : Nat) : Bool :=
  (List.range 16).any fun i => slotKey c i != k && (match (s.slot (slotKey c i)).lease with
    | some l => l.lines.any (·.host)
    | none => false)

/-- The virtual address of the line a lease names: 128 bytes, or one 64-byte sector of host memory (R139, R228). -/
def leaseVa (a : Word) (l : Loc) : Nat := if l.isHost then a.toNat / 64 * 64 else a.toNat / 128 * 128

/-- Does a slot of the core that waits for a host line come before the one with key `k` (R231)? -/
def hostWaitAhead (s : State) (k : Nat) : Bool :=
  match s.hostWait.filter fun j => j / 16 == k / 16 with
  | [] => false
  | j :: _ => j != k

/-- Must a slot that asks for a host line wait: another slot of its core holds a host-line lease, or waits for one before it
(R231)? -/
def hostBusy (s : State) (k : Nat) (l : Loc) : Bool :=
  l.isHost && (hostLeaseElsewhere s (k / 16) k || hostWaitAhead s k)

/-- The slot with key `k` among those that wait for a host line, in arrival order (R231). -/
def joinHost (s : State) (k : Nat) : State :=
  if s.hostWait.contains k then s else { s with hostWait := s.hostWait ++ [k] }

/-- The line as the slot's lease takes it: from the core's first-level cache where it is held there, else from its home
(R87, R133). -/
def lineTaken (s : State) (c va : Nat) (l : Loc) : BitVec 1024 :=
  match l, l1At s c va with
  | .dev _, some x => x.data
  | _, _ => BitVec.ofNat 1024 (bytesToNat (s.bytesAt l.lineStart l.lineBytes))

/-- The slot with key `k` holds the line (R228 to R231): its contents are taken, and a first lease starts its limit
and its sequence. -/
def holdLine (s : State) (k : Nat) (va : Nat) (l : Loc) : State :=
  let sl := s.slot k
  let line : LeaseLine := ⟨l.key, va, l.isHost, lineTaken s (k / 16) va l, 0⟩
  let cap (n : Nat) : Nat := if l.isHost then Nat.min n 256 else n
  let lease := match sl.lease with
    | none => Lease.mk [line] (s.core (k / 16)).cyc (cap (sl.csr.leaselim.extractLsb' 0 13).toNat) 0 true
        (heldCode { s with curCore := k / 16, curSlot := k % 16 } (codeLines sl))
    | some e => { e with lines := e.lines ++ [line], limit := cap e.limit, bounded := false }
  s.setSlot k { sl with lease := some lease }

/-- The place of a line key. -/
def locOfKey (key : Nat) : Loc := if key % 2 = 0 then .dev (key / 2 * 128) else .host (key / 2 * 64) true

/-- The lease of the slot with key `k` begins or grows: the instruction has completed, and expiry is watched (R228,
R232). The code lines are those of the instruction, so the slot as it was supplies them. Remote-data copies of the line
are invalidated (R90). -/
def beginLease (s0 s : State) (k va : Nat) (l : Loc) : State :=
  let sl := (holdLine s0 k va l).slot k
  ({ s with rdc := match l with
      | .dev pa => dropCopies s.rdc (pa / 128)
      | .host _ _ => s.rdc }.setSlot k { s.slot k with lease := sl.lease }).post (.leaseExpired (k / 16) (k % 16))

/-- Does the slot with key `q` hold a line under an explicit lease, or wait for one of it (R228)? -/
def explicitLease (s : State) (key q : Nat) : Bool :=
  (match (s.slot q).lease with
   | some e => e.lines.any fun x => x.line == key
   | none => false) ||
  (match (s.slot q).wait with
   | some (.leaseLine line _) => line == key
   | _ => false)

/-- `lease` (R228, R230, R231); which address its traps report is in part the model's choice (log entry 67). -/
def execLease (d a : Reg) (s : State) : Out :=
  gate false { reads := [xreg a], vwrites := [xreg d] } s fun s =>
    let ea := readX s a
    let lineEa := ea &&& ~~~127#64
    let req : GReq := { ea := lineEa, n := 128, align := 1, store := true, atomic := true, lease := true }
    stopped s (checkGlobal s req (fun l => match l with
        | .host _ c => c
        | .dev _ => true)) .write
      (fun _ s => .next (trapI s 0x25 ea))
      (fun l s =>
        let l := if l.isHost then l.plus (ea.toNat % 128) else l
        let va := leaseVa ea l
        let done (v : Word) : Out := .next (finish (writeVar s (xreg d) (v.setWidth 512) 0))
        match s.me.lease with
        | none =>
          match missingCode s (codeLines s.me) with
          | some line => .next ((hold s (.fetch line)).post (.instructionLineArrival s.curCore s.curSlot))
          | none => acquire d va l s
        | some e =>
          if e.lines.any (fun x => x.va == va) then done 0
          else if 2 ≤ e.lines.length then .next (trapI s 0x42 ea)
          else if (l.isHost && hostLeaseElsewhere s s.curCore s.cur) ||
              (lineQueue s s.myPart l.key).any (explicitLease s l.key) then done 1
          else acquire d va l (unbound s))
where
  /-- The request for the line, after the slot's own earlier accesses to it (R126): its class changes as for a store, then
  it is held or waited for. -/
  acquire (d : Reg) (va : Nat) (l : Loc) (s : State) : Out :=
    let p := s.myPart
    if ownPending s s.cur .global va l.lineBytes then .next (holdOwn s .global (BitVec.ofNat 64 va) l.lineBytes)
    else match lookUp s p va l true with
    | (s, false) => .next (holdGranule s p va)
    | (s, true) =>
      if lineOpen s p l.key s.cur && !hostBusy s s.cur l then
        let s := joinLine s p l.key s.cur
        .next (beginLease s (finish (writeVar s (xreg d) 0 0)) s.cur va l)
      else
        let s := if hostBusy s s.cur l then joinHost s s.cur else joinLine s p l.key s.cur
        .next ((hold (s.setMe { s.me with answer := some [(xreg d, BitVec.ofNat 512 va)] }) (.leaseLine l.key d)).post
          (.leaseHeld s.curCore s.curSlot))

/-- LEASE_HELD: the requested line is forwarded to the waiting slot, in arrival order (R228, R231). -/
def execLeaseHeld (core slot : Nat) (s : State) : Out :=
  let s := { s with curCore := core, curSlot := slot }
  match s.me.wait, s.me.answer with
  | some (.leaseLine key d), some [(_, va)] =>
    let p := s.myPart
    let l := locOfKey key
    if hostBusy s s.cur l then .next (s.post (.leaseHeld core slot))
    else
      let s := joinLine { s with hostWait := s.hostWait.filter (· ≠ s.cur) } p key s.cur
      if lineOpen s p key s.cur then
        let t := finishWoken (landOne (s.setMe { s.me with answer := none }) core s.cur (xreg d) 0)
        .next (beginLease s t s.cur va.toNat l)
      else .next (s.post (.leaseHeld core slot))
  | _, _ => .next s

/-- The bytes that stores under a lease have written in a line, with their offsets (R133). -/
def LeaseLine.stores (x : LeaseLine) : List (Nat × Byte) :=
  (offsets 0 (natToBytes (locOfKey x.line).lineBytes x.data.toNat)).filter fun b => x.mask.getLsbD b.1

/-- A held line's stores take their places together (R133, R233); whether they complete only with the range's
subscribers. -/
def commitLine (s : State) (p k : Nat) (x : LeaseLine) : State × Bool :=
  match x.stores with
  | [] => (s, false)
  | bs =>
    let r := performAt s (k / 16) p x.va (locOfKey x.line) (.store bs) (some (k, .ack))
    (r.s, r.deferred)

/-- Every held line committed; the number that complete only with their subscribers. -/
def commitLines (s : State) (p k : Nat) : List LeaseLine → State × Nat
  | [] => (s, 0)
  | x :: xs =>
    let (s, a) := commitLine s p k x
    let (s, n) := commitLines s p k xs
    (s, n + if a then 1 else 0)

/-- `release` (R233): commits, and frees the lines; it completes with the last acknowledgement; NONE without a lease. -/
def execRelease (d : Reg) (s : State) : Out :=
  gate false { vwrites := [xreg d] } s fun s =>
    match s.me.lease with
    | none => .next (finish (writeVar s (xreg d) 1 0))
    | some l =>
      let p := s.myPart
      let (s, n) := if inRecon s then (s, 0) else commitLines s p s.cur l.lines
      let s := freeLines s p s.cur l.lines
      let s := outstanding (s.setMe { s.me with lease := none }) (statusIn d 0) (n == 0)
      .next (s.setMe { s.me with acks := Nat.max 1 n })

/-- LEASE_EXPIRED: the limit is reached and the sequence is not bounded: every line is abandoned, and the slot takes
the cause before it issues again (R230, R232). -/
def execLeaseExpired (core slot : Nat) (s : State) : Out :=
  let k := slotKey core slot
  match (s.slot k).lease with
  | none => .next s
  | some l =>
    if l.bounded || decide ((s.core core).cyc < l.start + l.limit) then .next (s.post (.leaseExpired core slot))
    else
      let first := match l.lines with
        | x :: _ => x.va
        | [] => 0
      let s := abandonLease s k
      .next (s.setSlot k { s.slot k with causes := (s.slot k).causes ++ [⟨0x41, BitVec.ofNat 64 first, true⟩] })

/-! ## Fences (R131, R239) -/

/-- A fence: the slot waits until every earlier access in the scope has completed. After one of `dev` scope or wider no
relaxed load of the slot meets an older copy of a line (R130). -/
def fence (scope : Nat) (s : State) : Out :=
  gate false {} s fun s => .next (if fenced s s.cur scope then finish (if 4 ≤ scope then noneStale s s.cur else s)
    else hold s (.fence scope))

/-- `fence.slot`. -/
def execFenceSlot (s : State) : Out := fence 0 s
/-- `fence.core`. -/
def execFenceCore (s : State) : Out := fence 1 s
/-- `fence.tray`. -/
def execFenceTray (s : State) : Out := fence 2 s
/-- `fence.die`. -/
def execFenceDie (s : State) : Out := fence 3 s
/-- `fence.dev`. -/
def execFenceDev (s : State) : Out := fence 4 s
/-- `fence.pod`; outside a pod no access lies beyond the device. -/
def execFencePod (s : State) : Out := fence 5 s
/-- `fence.sys`. -/
def execFenceSys (s : State) : Out := fence 6 s

/-! ## Barriers -/

/-- The barrier of a name's number on a core. -/
def barOf (s : State) (name : Nat) : Barrier := look (s.core (name / 2 ^ 16)).bars Barrier.off (name % 1024)

/-- The barrier replaced. -/
def setBar (s : State) (name : Nat) (b : Barrier) : State :=
  let c := name / 2 ^ 16
  s.setCore c { s.core c with bars := put (s.core c).bars (name % 1024) b }

/-- The root core of the tray of the continuation in the slot with key `k`; its own core outside every transaction
(R14, R412). -/
def rootCore (s : State) (k : Nat) : Nat :=
  match (s.slot k).tx with
  | none => k / 16
  | some t => match s.tx? t with
    | none => k / 16
    | some tx => match tx.root with
      | some (c, _, _) => c
      | none => k / 16

/-- Is a barrier name well formed, on a core of the partition (R240, R241)? -/
def goodName (s : State) (p : Nat) (n : Word) : Bool :=
  n.extractLsb' 26 38 == 0 && n.extractLsb' 10 6 == 0 && s.present (n.extractLsb' 16 10).toNat &&
    s.partOf (n.extractLsb' 16 10).toNat == p

/-- May the slot use a barrier of the given scope on core c (R241)? -/
def mayUse (s : State) (k c : Nat) (tray : Bool) : Bool := if tray then rootCore s k == c else k / 16 == c

/-- The slot in WAIT on the barrier is released with a status; an ABORTED status for x0 raises BARRIER_ABORTED at
the next boundary (R243). The issuing slot stays the issuing slot. -/
def wakeWaiter (s : State) (k : Nat) (status : Word) : State :=
  let c0 := s.curCore
  let k0 := s.curSlot
  let s := { s with curCore := k / 16, curSlot := k % 16 }
  match s.me.wait with
  | some (.barrier name _ d _) =>
    let s := finishWoken (landOne s (k / 16) k (xreg d) (status.setWidth 512))
    let s := if status ≠ 0 ∧ d = 0 then
        s.setMe { s.me with causes := s.me.causes ++ [⟨0x43, BitVec.ofNat 64 name, false⟩] }
      else s
    { s with curCore := c0, curSlot := k0 }
  | _ => { s with curCore := c0, curSlot := k0 }

/-- Waiters of a list released. -/
def wakeWaiters (s : State) (status : Word) : List (Nat × Nat) → State
  | [] => s
  | w :: ws => wakeWaiters (wakeWaiter s w.1 status) status ws

/-- Saved continuations that wait on the barrier have their outcome recorded in their areas: KIND 3 or 4 (R34, R344). -/
def recordSaved (s : State) (name gen : Nat) (all : Bool) (kind : Nat) : List (Nat × Slot) → State
  | [] => s
  | (key, sl) :: rest =>
    let s := match sl.wait with
      | some (.barrier n g _ _) =>
        if n = name ∧ (all ∨ g = gen) then writeSpace s (key / 2 ^ 57) (key % 2 ^ 57 + 16) [BitVec.ofNat 8 kind] else s
      | _ => s
    recordSaved s name gen all kind rest

/-- ReleaseAll(ABORTED) (R242). -/
def abortAll (s : State) (name : Nat) : State :=
  let b := barOf s name
  let s := setBar s name { b with waiters := [] }
  recordSaved (wakeWaiters s 1 b.waiters) name 0 true 4 s.saved

/-- The pipe table held aside comes into force at a core-scope completion on its core (R81, R250). -/
def switchVtab (s : State) (c : Nat) : State :=
  let co := s.core c
  match co.vtabHeld with
  | none => s
  | some t => s.setCore c { co with vtab := t, vtabHeld := none, vtabAt := co.cyc + 1 }

/-- Arrive (R242): the generation arrived in. -/
def barArrive (s : State) (name : Nat) : Nat × State :=
  let b := barOf s name
  let g := b.gen
  if b.arrived + 1 = b.expect then
    let mine := b.waiters.filter fun w => w.2 = g
    let s := setBar s name { b with gen := (g + 1) % 2 ^ 16, arrived := 0, waiters := b.waiters.filter fun w => w.2 ≠ g }
    let s := recordSaved (wakeWaiters s 0 mine) name g false 3 s.saved
    (g, if b.tray then s else switchVtab s (name / 2 ^ 16))
  else (g, setBar s name { b with arrived := (b.arrived + 1) % 2 ^ 16 })

/-- The results of a barrier operation at the barrier's core: done with a value, or the requester waits for a
generation. -/
inductive BarRes where
  | done (s : State) (v : Word)
  | waits (s : State) (gen : Nat)
  deriving DecidableEq, Repr

/-- One operation on the state word (R242). -/
def barOp (s : State) (name : Nat) (op : BarOp) (k : Nat) : BarRes :=
  let b := barOf s name
  match op with
  | .init spec =>
    let s := if b.live then abortAll s name else s
    .done (setBar s name ⟨true, spec / 2 ^ 16 % 2 = 1, 0, spec % 2 ^ 16, 0, []⟩) 0
  | .inv => .done (if b.live then setBar (abortAll s name) name Barrier.off else s) 0
  | .arr => if b.live then (let (g, s) := barArrive s name; .done s (BitVec.ofNat 64 g)) else .done s 0x10000
  | .wait g =>
    if !b.live then .done s 1
    else if b.gen ≠ g then .done s 0
    else .waits (setBar s name { b with waiters := b.waiters ++ [(k, g)] }) g
  | .sync =>
    if !b.live then .done s 1
    else
      let (g, s) := barArrive s name
      let b := barOf s name
      if b.gen ≠ g then .done s 0
      else .waits (setBar s name { b with waiters := b.waiters ++ [(k, g)] }) g

/-- The checks of R241 for `bar.arr`, `bar.wait`, `bar.sync` and `bar.inv`. -/
def barRefused (s : State) (n : Word) (live : Bool) : Bool :=
  !goodName s s.myPart n || (live && !(barOf s n.toNat).live) ||
    !mayUse s s.cur (n.toNat / 2 ^ 16) (barOf s n.toNat).tray

/-- A barrier operation without a wait, whose answer is Rd's value when it has one. -/
def barPlain (s : State) (n : Word) (op : BarOp) (hasD : Bool) (d : Reg) : Out :=
  let s := unbound s
  if n.toNat / 2 ^ 16 = s.curCore then
    match barOp s n.toNat op s.cur with
    | .done s v => .next (outstanding s (if hasD then statusIn d v else []) true)
    | .waits s _ => .next s
  else .next (sendMsg (outstanding s [] false) (n.toNat / 2 ^ 16) (.bar n.toNat op d) (fun m => .barrierOpArrive m))

/-- A barrier operation that may wait. -/
def barWaiting (s : State) (n : Word) (op : BarOp) (gen : Nat) (sync : Bool) (d : Reg) : Out :=
  let s := unbound s
  if n.toNat / 2 ^ 16 = s.curCore then
    match barOp s n.toNat op s.cur with
    | .done s v =>
      if v ≠ 0 ∧ d = 0 then .next (wakeWaiter (hold s (.barrier n.toNat gen d sync)) s.cur v)
      else .next (outstanding s (statusIn d v) true)
    | .waits s g => .next (hold s (.barrier n.toNat g d sync))
  else .next (sendMsg (hold s (.barrier n.toNat gen d sync)) (n.toNat / 2 ^ 16) (.bar n.toNat op d)
    (fun m => .barrierOpArrive m))

/-- `bar.init` (R240 to R242). -/
def execBarInit (a b : Reg) (s : State) : Out :=
  gate false { reads := [xreg a, xreg b] } s fun s =>
    let n := readX s a
    let spec := readX s b
    if !goodName s s.myPart n || spec.extractLsb' 17 47 != 0 || spec.extractLsb' 0 16 == 0 ||
        !mayUse s s.cur (n.toNat / 2 ^ 16) (spec.getLsbD 16) then .next (trapI s 0x45 n)
    else barPlain s n (.init spec.toNat) false 0

/-- `bar.arr` (R242), after the accesses before it (R137). -/
def execBarArr (d a : Reg) (s : State) : Out :=
  gate false { reads := [xreg a], vwrites := [xreg d] } s fun s =>
    let n := readX s a
    if barRefused s n true then .next (trapI s 0x45 n)
    else if !fenced s s.cur 4 then .next (hold s (.fence 4))
    else barPlain s n .arr true d

/-- `bar.wait` (R242). -/
def execBarWait (d a b : Reg) (s : State) : Out :=
  gate false { reads := [xreg a, xreg b], vwrites := [xreg d] } s fun s =>
    let n := readX s a
    let g := readX s b
    if barRefused s n true || g.extractLsb' 16 48 != 0 then .next (trapI s 0x45 n)
    else barWaiting s n (.wait g.toNat) g.toNat false d

/-- `bar.sync` (R242), after the accesses before it (R137). -/
def execBarSync (d a : Reg) (s : State) : Out :=
  gate false { reads := [xreg a], vwrites := [xreg d] } s fun s =>
    let n := readX s a
    if barRefused s n true then .next (trapI s 0x45 n)
    else if !fenced s s.cur 4 then .next (hold s (.fence 4))
    else barWaiting s n .sync 0 true d

/-- `bar.inv` (R242). -/
def execBarInv (a : Reg) (s : State) : Out :=
  gate false { reads := [xreg a] } s fun s =>
    let n := readX s a
    if barRefused s n false then .next (trapI s 0x45 n) else barPlain s n .inv false 0

/-- BARRIER_OP_ARRIVE: the operation acts on the instance in force at the barrier's core (R242). -/
def execBarrierOpArrive (msg : Nat) (s : State) : Out :=
  deliver s msg (.barrierOpArrive msg) fun m s =>
    match m.body with
    | .bar name op d =>
      let k := slotKey m.src m.srcSlot
      match barOp (dropMsg s msg) name op k with
      | .done s v =>
        match (s.slot k).wait with
        | some (.barrier _ _ _ _) => wakeWaiter s k v
        | _ =>
          let hasD := match op with
            | .arr => true
            | _ => false
          (s.setSlot k { s.slot k with answer := some (if hasD then statusIn d v else []) }).post
            (.accessComplete m.src m.srcSlot)
      | .waits s g =>
        match (s.slot k).wait with
        | some (.barrier n _ d sync) => s.setSlot k { s.slot k with wait := some (.barrier n g d sync) }
        | _ => s
    | _ => dropMsg s msg

/-- The arrival of a `bar.sync` whose wait ends without effect is withdrawn (R243). -/
def withdrawArrival (s : State) (k : Nat) : State :=
  match (s.slot k).wait with
  | some (.barrier name _ _ true) =>
    let b := barOf s name
    if b.waiters.any (fun w => w.1 = k) then setBar s name { b with arrived := b.arrived - 1 } else s
  | _ => s

/-! ## Waiting for events (R347) -/

/-- The conditions of `wfe` that hold on a core, under a mask. -/
def wfeConditions (s : State) (c mask deadline : Nat) : Nat :=
  let co := s.core c
  (if mask % 2 = 1 ∧ co.qi ≠ [] then 1 else 0) +
    (if mask / 2 % 2 = 1 ∧ co.rq.any (fun q => !q.isEmpty) then 2 else 0) +
    (if mask / 4 % 2 = 1 ∧ deadline ≤ s.tick then 4 else 0)

/-- Slots of a core waiting in `wfe` wake on the conditions that begin to hold (R347, R366). -/
def wakeWfe (s : State) (c : Nat) : Nat → State
  | 0 => s
  | i + 1 =>
    let k := slotKey c i
    let s := match (s.slot k).wait with
      | some (.wfe mask deadline d) =>
        let e := wfeConditions s c mask deadline
        if e = 0 then s
        else
          let c0 := s.curCore
          let k0 := s.curSlot
          let t := finishWoken (landOne { s with curCore := c, curSlot := i } c k (xreg d) (BitVec.ofNat 512 e))
          { t with curCore := c0, curSlot := k0 }
      | _ => s
    wakeWfe s c i

/-! ## Messages -/

/-- `msg.send` (R244): the slot waits for the status; the sender's accesses come first (R137). -/
def execMsgSend (d a b : Reg) (s : State) : Out :=
  gate false { reads := xreg a :: plainV s [b], vwrites := [xreg d] } s fun s =>
    let n := readX s a
    let c := (n.extractLsb' 0 10).toNat
    if n.extractLsb' 10 54 ≠ 0 ∨ !s.present c ∨ (s.me.level ≠ .m ∧ s.partOf c ≠ s.myPart) ∨
        (s.me.level = .u ∧ !inTray s s.cur c) then .next (trapI s 0x25 n)
    else if !fenced s s.cur 4 then .next (hold s (.fence 4))
    else
      let (v, f) := popV s b
      match f.block with
      | some x => blocked s x
      | none =>
        .next (sendMsg (outstanding (unbound f.s) (statusIn d 0) false) c (.mail v 0) (fun m => .msgDeliver m))

/-- MSG_DELIVER: the message is stored in the core's queue of 32, or refused, and the status returns (R72, R244). -/
def execMsgDeliver (msg : Nat) (s : State) : Out :=
  deliver s msg (.msgDeliver msg) fun m s =>
    match m.body with
    | .mail v _ =>
      let s := dropMsg s msg
      let co := s.core m.dst
      let k := slotKey m.src m.srcSlot
      let full := decide (32 ≤ co.qi.length)
      let s := if full then s else wakeWfe (s.setCore m.dst { co with qi := co.qi ++ [v] }) m.dst 16
      let ans := (s.slot k).answer.map fun l => l.map fun e => (e.1, if full then (1 : Vec) else 0)
      (s.setSlot k { s.slot k with answer := ans }).post (.accessComplete m.src m.srcSlot)
    | _ => dropMsg s msg

/-! ## Subscriptions -/

/-- Does the core subscribe the range already? -/
def subscribes (co : Core) (range : Nat) : Bool := co.segs.any fun e => e.2.range == range && e.2.st != .none

/-- The subscribed ranges at the home bank of a place. -/
def rangesAtBank (pt : Part) (l : Loc) : Nat :=
  let bank (x : Loc) : Nat := match x with
    | .dev pa => 128 * dieOfPa pa + bankIndex pa
    | .host _ _ => 0
  (pt.ranges.filter fun e => bank e.2.loc == bank l).length

/-- `sub.on` (R101, R245); the numbers of a range without subscribers start at 0 again (log entry 68). -/
def execSubOn (d a b : Reg) (s : State) : Out :=
  gate false { reads := [xreg a, xreg b], vwrites := [xreg d] } s fun s =>
    let g := readX s a
    let r := readX s b
    let p := s.myPart
    if 250 < g.toNat then .next (trapI s 0x25 g)
    else if !canonical r then .next (trapI s 0x25 r)
    else if r.extractLsb' 0 12 ≠ 0 then .next (trapI s 0x20 r)
    else if (segOf s.myCore g.toNat).st ≠ .none ∨ subscribes s.myCore r.toNat then .next (trapI s 0x27 g)
    else
      let dev (l : Loc) : Bool := match l with
        | .dev _ => true
        | .host _ _ => false
      stopped s (checkGlobal s { ea := r, n := 4096, align := 4096, store := false } dev) .read
        (fun _ s => .next (trapI s 0x25 r))
        (fun l s =>
          let s := unbound s
          let e := classEntry (s.part p) r.toNat
          if reclassifying s p r.toNat || behindHeld s p r.toNat s.cur then
            .next (hold (joinGranule s p r.toNat s.cur) (.granule p (r.toNat / 4096) r))
          else if classOf e = 1 ∨ classOf e = 2 then
            .next (hold (joinGranule (startReclass s p r.toNat shared) p r.toNat s.cur) (.granule p (r.toNat / 4096) r))
          else
            let old := rangeAt s p r.toNat
            let refused := match old with
              | some x => decide (64 ≤ x.subs.length)
              | none => decide (256 ≤ rangesAtBank (s.part p) l)
            if refused then .next (outstanding s (statusIn d 1) true)
            else
              let s := setClass s p r.toNat shared
              let x := old.getD ⟨l, 0, [], []⟩
              let s := writeBackOwned s x.loc x.subs
              let s := s.setPart p { s.part p with
                ranges := put (s.part p).ranges r.toNat { x with subs := x.subs ++ [(s.curCore, g.toNat)] } }
              let s := setSeg s s.curCore g.toNat ⟨r.toNat, .invalid, 0, none⟩
              .next (outstanding (s.post (.initialCopy s.curCore g.toNat)) (statusIn d 0) true))

/-- Is a write to the range that comes from outside core `c` still pending (R245)? -/
def pendingElsewhere (r : Range) (c : Nat) : Bool :=
  r.unacked.any fun u => match u.2.2 with
    | some (k, _) => k / 16 != c
    | none => true

/-- `sub.own` (R102, R245). Writes of the core itself that are still pending are applied before the answer. -/
def execSubOwn (d a : Reg) (s : State) : Out :=
  gate false { reads := [xreg a], vwrites := [xreg d] } s fun s =>
    let g := readX s a
    let sg := segOf s.myCore g.toNat
    if 250 < g.toNat ∨ sg.st ≠ .shared then .next (trapI s 0x27 g)
    else
      let s := unbound s
      match rangeAt s s.myPart sg.range with
      | some r =>
        if r.subs.length = 1 ∧ !pendingElsewhere r s.curCore then
          if !r.unacked.isEmpty then .next (hold s .answered)
          else .next (outstanding (setSeg s s.curCore g.toNat { sg with st := .owned }) (statusIn d 0) true)
        else .next (outstanding s (statusIn d 1) true)
      | none => .next (outstanding s (statusIn d 1) true)

/-- The subscription of a core's segment taken out of its range at the home. -/
def unsubscribe (s : State) (p range c : Nat) : State :=
  match rangeAt s p range with
  | none => s
  | some r =>
    let r := { r with subs := r.subs.filter fun x => x.1 != c }
    s.setPart p { s.part p with ranges :=
      if r.subs.isEmpty && r.unacked.isEmpty then remove (s.part p).ranges range else put (s.part p).ranges range r }

/-- `sub.off` (R102, R245): completes at NONE. -/
def execSubOff (a : Reg) (s : State) : Out :=
  gate false { reads := [xreg a] } s fun s =>
    let g := readX s a
    let sg := segOf s.myCore g.toNat
    if 250 < g.toNat ∨ sg.st = .none ∨ sg.st = .invalid then .next (trapI s 0x27 g)
    else if sg.st = .intransit then .next (hold s (.segment s.curCore g.toNat))
    else
      let s := unbound s
      let s := match sg.st, rangeAt s s.myPart sg.range with
        | .owned, some r => s.setBytesAt r.loc (offsets 0 (segBytes s s.curCore g.toNat))
        | _, _ => s
      let s := unsubscribe s s.myPart sg.range s.curCore
      let s := setSeg s s.curCore g.toNat { sg with st := .intransit, leaving := some s.cur }
      .next ((outstanding s [] false).post (.intransitDone s.curCore g.toNat))

/-- Are updates for core `c` still to be applied on a range? -/
def updatesDue (s : State) (range c : Nat) : Bool :=
  s.fabric.any fun m => m.dst == c && (match m.body with
    | .update _ r _ _ _ _ => r == range
    | _ => false)

/-- INITIAL_COPY: the range's contents reach a new subscriber: its segment is SHARED, at the number of the last write
they hold (R101, R102). -/
def execInitialCopy (core seg : Nat) (s : State) : Out :=
  let sg := segOf (s.core core) seg
  match sg.st, rangeAt s (s.partOf core) sg.range with
  | .invalid, some r =>
    let s := setScratch s core (4096 * seg) (offsets 0 (s.bytesAt r.loc 4096))
    .next (setSeg s core seg { sg with st := .shared, seq := r.seq })
  | _, _ => .next s

/-- INTRANSIT_DONE: the write-back or the last acknowledgements are done: NONE after `sub.off`, SHARED otherwise
(R102, R108). -/
def execIntransitDone (core seg : Nat) (s : State) : Out :=
  let sg := segOf (s.core core) seg
  if sg.st ≠ .intransit then .next s
  else match sg.leaving with
    | some k =>
      if updatesDue s sg.range core then .next (s.post (.intransitDone core seg))
      else .next ((setSeg s core seg Seg.plain).post (.accessComplete (k / 16) (k % 16)))
    | none => .next (setSeg s core seg { sg with st := .shared })

/-- The segment of a core that holds a range. -/
def segmentOf (co : Core) (range : Nat) : Option (Nat × Seg) :=
  co.segs.find? fun e => e.2.range == range && e.2.st != .none

/-- A subscriber's acknowledgement; the last one completes the write (R103). -/
def acknowledge (s : State) (p range seq c : Nat) : State :=
  match rangeAt s p range with
  | none => s
  | some r =>
    let un := r.unacked.map fun e => if e.1 = seq then (e.1, e.2.1.filter (· ≠ c), e.2.2) else e
    let doneW := un.filter fun e => e.2.1.isEmpty
    let r := { r with unacked := un.filter fun e => !e.2.1.isEmpty }
    let s := s.setPart p { s.part p with ranges :=
      if r.subs.isEmpty && r.unacked.isEmpty then remove (s.part p).ranges range else put (s.part p).ranges range r }
    doneW.foldl (fun s e => match e.2.2 with
      | some (k, .ack) => s.post (.accessComplete (k / 16) (k % 16))
      | some (k, .relaxed id) =>
        if (s.part p).ranges.any fun g => g.2.unacked.any fun u => u.2.2 == some (k, .relaxed id) then s
        else purge (dropRelaxed s k id) k (some id)
      | _ => s) s

/-- Does a slot hold a lease on a line of a range that an update writes (R145)? -/
def leasedUpdate (s : State) (p range : Nat) (bytes : List (Nat × Byte)) : Bool :=
  s.slots.any fun e => s.partOf (e.1 / 16) == p && (match e.2.lease with
    | some l => l.lines.any fun x => bytes.any fun b => x.va ≤ range + b.1 && range + b.1 < x.va + 128
    | none => false)

/-- SUBSCRIPTION_UPDATE: a sequenced update reaches a subscriber after those of its home before it, which applies it in
strictly increasing order and acknowledges; an early one is held back, and one for a leased line waits for the lease's end
(R101, R103, R104, R145). -/
def execSubscriptionUpdate (msg : Nat) (s : State) : Out :=
  match findMsg s msg with
  | none => .next s
  | some m =>
    if behind s m then .next (s.post (.subscriptionUpdate msg))
    else match m.body with
    | .update p range seq _ bytes _ =>
      match segmentOf (s.core m.dst) range with
      | none => .next (acknowledge (dropMsg s msg) p range seq m.dst)
      | some (g, sg) =>
        let ahead := (seq + 2 ^ 32 - sg.seq) % 2 ^ 32
        if sg.st = .invalid || leasedUpdate s p range bytes then .next (s.post (.subscriptionUpdate msg))
        else if ahead = 1 then
          let s := setScratch (dropMsg s msg) m.dst (4096 * g) bytes
          .next (acknowledge (setSeg s m.dst g { sg with seq := seq }) p range seq m.dst)
        else if 0 < ahead ∧ ahead < 2 ^ 31 then .next (s.post (.subscriptionUpdate msg))
        else .next (acknowledge (dropMsg s msg) p range seq m.dst)
    | _ => .next (dropMsg s msg)

end Sys2Proof.Machine
end

