-- ==== Sys2Proof/Machine/Atomics.lean ====
section
/-! DEFINITION. The meanings of majors 0x17 to 0x19: atomics (R234 to R236), reductions (R237, R144) and the combining
fetch-and-add (R238). -/

namespace Sys2Proof.Machine

/-- The bytes of an atomic width (R234). -/
def atomBytes : AtomW → Nat
  | .w => 4
  | .d => 8

/-- The operations that a non-coherent mapping carries as PCIe AtomicOps (R107, R236). -/
def atomicOpSent (op : AtomOp) : Bool :=
  match op with
  | .add | .swap | .cas => true
  | _ => false

/-- Does the mapping of a place permit the operation (R236, R237)? A request that the root complex turns away traps as
well (R236, R383). -/
def mappingPermits (sent : Bool) (l : Loc) : Bool :=
  match l with
  | .dev _ => true
  | .host _ true => true
  | .host pa false => sent && Config.atomicOps pa

/-- A value-returning atomic on the word at EA, after the register checks (R235): checked, then performed under an
internal lease, and the old value goes to Rd. -/
def atomicAt (hostOk : Loc → Bool) (op : AtomOp) (n : Nat) (bv dv : BitVec 128) (kind : LoadKind) (d : Reg) (ea : Word)
    (s : State) : Out :=
  let acc : AccessOp := .atomic op n bv dv (s.me.csr.rmode.extractLsb' 0 3).toNat
  stopped s (checkGlobal s { ea := ea, n := n, align := n, store := true, atomic := true } hostOk) .write
    (fun dev s => goRemote d kind ea dev s)
    (fun l s => globalNow ea n true acc (loadAnswer kind d) l s)

/-- The low n bytes of a register as an operand. -/
def lowOperand (n : Nat) (v : Word) : BitVec 128 := BitVec.ofNat 128 (v.toNat % 2 ^ (8 * n))

/-- A register pair as a 16-byte operand, the lower register first (R235). -/
def pairOperand (s : State) (r : Reg) : BitVec 128 := BitVec.ofNat 128 ((readX s r).toNat + (readX s (Reg.succ r 1)).toNat * 2 ^ 64)

/-- `amo.op` of the widths `.w` and `.d` (R235). -/
def amo (op : AtomOp) (d a b : Reg) (wd : AtomW) (s : State) : Out :=
  gate false { reads := [xreg a, xreg b], vwrites := [xreg d] } s fun s =>
    let n := atomBytes wd
    atomicAt (mappingPermits (atomicOpSent op)) op n (lowOperand n (readX s b)) 0 (.int n (n == 4)) d (readX s a) s

/-- `amo.cas` (R234, R235). -/
def execAmoCas (d a b : Reg) (wd : CasW) (s : State) : Out :=
  match wd with
  | .q =>
    gate false { reads := [xreg a] ++ runX b 2 ++ runX d 2, vwrites := runX d 2, bad := orBad (badRun b 2) (badRun d 2) } s fun s =>
      atomicAt (mappingPermits true) .cas 16 (pairOperand s b) (pairOperand s d) .pair d (readX s a) s
  | wd =>
    let n := if wd == .w then 4 else 8
    gate false { reads := [xreg a, xreg b, xreg d], vwrites := [xreg d] } s fun s =>
      atomicAt (mappingPermits true) .cas n (lowOperand n (readX s b)) (lowOperand n (readX s d)) (.int n (n == 4)) d (readX s a) s

/-- `amo.fadd.s`: it zero-extends the old value (R235). -/
def execAmoFadd (d a b : Reg) (s : State) : Out :=
  gate false { reads := [xreg a, xreg b], vwrites := [xreg d] } s fun s =>
    atomicAt (mappingPermits false) .fadd 4 (lowOperand 4 (readX s b)) 0 (.int 4 false) d (readX s a) s

/-- `fadd.c` (R238): on the home of a shared page or as `amo.add.d`; combining changes no outcome, since combined
requests take adjacent places. -/
def execFaddC (d a b : Reg) (s : State) : Out :=
  gate false { reads := [xreg a, xreg b], vwrites := [xreg d] } s fun s =>
    atomicAt (fun l => !l.isHost) .add 8 (lowOperand 8 (readX s b)) 0 (.int 8 false) d (readX s a) s

/-! ## Reductions -/

/-- Has the partition's reduction log no room (R144)? -/
def logFull (pt : Part) : Bool := decide (Config.logEntries (pt.srlogn.extractLsb' 0 16).toNat ≤ pt.logs.length)

/-- The slot's LANE (R18). -/
def laneOf (sl : Slot) : Nat := (sl.ctx.extractLsb' 36 12).toNat

/-- The number of the slot's transaction. -/
def txNumber (s : State) (sl : Slot) : Nat :=
  match sl.tx with
  | none => 0
  | some t => match s.tx? t with
    | none => 0
    | some tx => tx.key.getD 0

/-- A reduction of a phase's thread appended to the log of its destination (R144). -/
def appendLog (s : State) (ea : Word) (op : AtomOp) (n : Nat) (v : BitVec 128) (rm : Nat) : State :=
  let p := s.myPart
  let e : LogEntry := ⟨ea.toNat, op, n, v, rm, txNumber s s.me, laneOf s.me, s.me.redIdx⟩
  s.setPart p { s.part p with logs := (s.part p).logs ++ [e] }

/-- The issue index of the lane counts a reduction (R40). -/
def countRed (s : State) : State := s.setMe { s.me with redIdx := s.me.redIdx + 1 }

/-- A reduction after its checks (R144, R229, R237): logged, applied to a held line, or sent on its way with the
pending counter raised. -/
def reduceAt (ea : Word) (n : Nat) (op : AtomOp) (v : BitVec 128) (loc : Option Loc) (s : State) : Out :=
  let rm := (s.me.csr.rmode.extractLsb' 0 3).toNat
  if inRecon s then .next (finish s)
  else if logged (s.part s.myPart) s.me ea.toNat then
    if logFull (s.part s.myPart) then .next (trapI s 0x28 (ea ||| 0x8000000000000000#64))
    else .next (finish (countRed (appendLog (unbound s) ea op n v rm)))
  else
    let acc : AccessOp := .atomic op n v 0 rm
    match leasedLine s.me ea.toNat n with
    | some x => .next (outstanding (countRed (s.setMe (performHeld s.me x ea.toNat acc).1)) [] true)
    | none =>
      let s := unbound s
      if 8 ≤ (s.me.relaxed.filter (·.red)).length then .next (hold s .pending)
      else
        let (id, s) := addRelaxed s .global ea loc acc .none true false
        .next (finish (countRed (s.post (.relaxedAccessComplete s.curCore s.curSlot id))))

/-- `red.op` (R237). -/
def reduction (op : AtomOp) (n : Nat) (a b : Reg) (s : State) : Out :=
  gate false { reads := [xreg a, xreg b] } s fun s =>
    let ea := readX s a
    let v := lowOperand n (readX s b)
    stillReady s (stopped s
      (checkGlobal s { ea := ea, n := n, align := n, store := true, red := true } (mappingPermits (op == .add))) .write
      (fun _ s => reduceAt ea n op v none s)
      (fun l s => reduceAt ea n op v (some l) s))

/-- `red.fadd.s` (R237). -/
def execRedFadd (a b : Reg) (s : State) : Out := reduction .fadd 4 a b s

/-- `amo.add` (R234, R235). -/
def execAmoAdd (d a b : Reg) (wd : AtomW) (s : State) : Out := amo .add d a b wd s

/-- `amo.and` (R234, R235). -/
def execAmoAnd (d a b : Reg) (wd : AtomW) (s : State) : Out := amo .and d a b wd s

/-- `amo.or` (R234, R235). -/
def execAmoOr (d a b : Reg) (wd : AtomW) (s : State) : Out := amo .or d a b wd s

/-- `amo.xor` (R234, R235). -/
def execAmoXor (d a b : Reg) (wd : AtomW) (s : State) : Out := amo .xor d a b wd s

/-- `amo.swap` (R234, R235). -/
def execAmoSwap (d a b : Reg) (wd : AtomW) (s : State) : Out := amo .swap d a b wd s

/-- `amo.min` (R234, R235). -/
def execAmoMin (d a b : Reg) (wd : AtomW) (s : State) : Out := amo .min d a b wd s

/-- `amo.max` (R234, R235). -/
def execAmoMax (d a b : Reg) (wd : AtomW) (s : State) : Out := amo .max d a b wd s

/-- `amo.min.z` (R234, R235). -/
def execAmoMinZ (d a b : Reg) (wd : AtomW) (s : State) : Out := amo .minZ d a b wd s

/-- `amo.max.z` (R234, R235). -/
def execAmoMaxZ (d a b : Reg) (wd : AtomW) (s : State) : Out := amo .maxZ d a b wd s

/-- `red.add` (R234, R237). -/
def execRedAdd (a b : Reg) (wd : AtomW) (s : State) : Out := reduction .add (atomBytes wd) a b s

/-- `red.and` (R234, R237). -/
def execRedAnd (a b : Reg) (wd : AtomW) (s : State) : Out := reduction .and (atomBytes wd) a b s

/-- `red.or` (R234, R237). -/
def execRedOr (a b : Reg) (wd : AtomW) (s : State) : Out := reduction .or (atomBytes wd) a b s

/-- `red.xor` (R234, R237). -/
def execRedXor (a b : Reg) (wd : AtomW) (s : State) : Out := reduction .xor (atomBytes wd) a b s

/-- `red.min` (R234, R237). -/
def execRedMin (a b : Reg) (wd : AtomW) (s : State) : Out := reduction .min (atomBytes wd) a b s

/-- `red.max` (R234, R237). -/
def execRedMax (a b : Reg) (wd : AtomW) (s : State) : Out := reduction .max (atomBytes wd) a b s

/-- `red.min.z` (R234, R237). -/
def execRedMinZ (a b : Reg) (wd : AtomW) (s : State) : Out := reduction .minZ (atomBytes wd) a b s

/-- `red.max.z` (R234, R237). -/
def execRedMaxZ (a b : Reg) (wd : AtomW) (s : State) : Out := reduction .maxZ (atomBytes wd) a b s

end Sys2Proof.Machine
end

