-- ==== Sys2Proof/Machine/Issue.lean ====
section
/-! DEFINITION. From ready slots to the issue port: which slot of a core issues in a cycle (R33, R38, R365), when a
held slot may try again (R31), and the checks of a slot's code line and target (R168, R174). -/

namespace Sys2Proof.Machine

/-! ## When a held slot may try again -/

/-- Does any operand slot of the list keep a multiply from issuing (R276)? -/
def operandsReady (s : State) (c : Nat) (os : List Nat) : Bool :=
  os.all fun o => let st := (look (s.core c).os OpSlot.free o).st; st == .filling || st == .full

/-- Has what the slot with key `k` waits for come about, so that its instruction may issue again (R31)? Waits that
an event ends answer no. -/
def mayRetry (s : State) (k : Nat) (w : Wait) : Bool :=
  let sl := s.slot k
  let c := k / 16
  let co := s.core c
  match w with
  | .access | .deferred _ | .barrier _ _ _ _ | .leaseLine _ _ | .spillEngine | .sleep _ | .wfe _ _ _ | .status
  | .halted | .remote _ _ _ _ | .migrate _ _ _ _ _ _ => false
  | .unit p v u forced => match (s.part p).convs.find? (fun x => x.id == v) with
    | none => true
    | some x => x.failed || (match x.units.getD u .new with
      | .new => true
      | .busy => false
      | .old => !forced)
  | .result regs => regs.all fun r => !(sl.vpend.any fun v => v.regs.any (· == r))
  | .line p l _ => lineOpen s p l k
  | .granule p g _ => !reclassifying s p (4096 * g) && !behindHeld s p (4096 * g) k
  | .own space a n => !ownPending s k space a n
  | .xlat p page | .xlatHeld p page => !((s.part p).xreqs.any fun r => r.page == page)
  | .queueData q => match q with
    | 0 => !sl.qm.isEmpty
    | 1 => match sl.qs with
      | some _ :: _ => true
      | _ => false
    | 2 => !sl.qk.isEmpty
    | _ => !co.qi.isEmpty
  | .chunk i => if h : i < 4 then !sl.streams[i].ahead.isEmpty else true
  | .queueRoom q => if q = 1 then decide (sl.qs.length < 8) else true
  | .copyFifo => decide (sl.copies.length < 4)
  | .pending => decide ((sl.relaxed.filter (·.red)).length < 8)
  | .conversion p b => !((s.part p).convs.any fun v => v.block == b && !v.failed)
  | .flags => sl.pend.all (fun w => w.flags == 0) && !(sl.vpend.any fun v => v.source.isSpecial || v.flags != 0) &&
      !(co.port.any fun e => e.slot == k)
  | .fetch line => (look (co.icache.map fun e => (e.1, some e.2)) none line).isSome
  | .relaxedRoom => decide ((sl.relaxed.filter (·.counts)).length < 16)
  | .portRoom => decide (co.port.length < 8)
  | .operands os _ => operandsReady s c os
  | .mrot => co.outgoing.isEmpty && !(co.port.any fun e => match e.op with
      | .multiply _ _ _ _ r _ => r
      | _ => false)
  | .drain => !mustDrain s k
  | .drainAll | .parking _ _ => drainedAll s k
  | .saving => true
  | .ending => settled s k
  | .fence scope => fenced s k scope
  | .segment c g =>
    let st := (look (s.core c).segs Seg.plain g).st
    st != .invalid && st != .intransit && !segmentBusy (s.core c) g
  | .bringup | .answered => true
  | .oldVersion p rec => !usesRecord s p rec

/-- The pending causes that may be taken now: TIMER is held while the slot runs at S or M or holds a lease (R341). -/
def takeable (sl : Slot) : List Cause :=
  sl.causes.filter fun c => !(c.code == 0x46 && (sl.level != .u || sl.lease.isSome))

/-- Does a pending cause end what the slot waits for (R31, R283)? -/
def interrupted (sl : Slot) (w : Wait) : Bool :=
  !(takeable sl).isEmpty && (w.interruptible || (match w with
    | .result regs => sl.vpend.any fun v => v.source == .copy && v.regs.any fun r => regs.contains r
    | _ => false))

/-- The line address of a PC. -/
def lineOf (pc : Word) : Word := pc &&& ~~~63#64

/-- Why a target is refused before its line is known (R174): bit [0], bits [63:57] or position 0. -/
def badTargetEarly (pc : Word) : Bool := pc.getLsbD 0 || pc.extractLsb' 57 7 != 0 || pc.extractLsb' 1 5 == 0

/-- The line of an address that a slot would run: the copy it has entered, its lease's copy of a code line (R230), or the
one in its core's instruction cache (R168, R208). -/
def lineFor (co : Core) (sl : Slot) (addr : Word) : Option Line :=
  let cached : Option Line := look (co.icache.map fun (e : Nat × Line) => (e.1, some e.2)) none addr.toNat
  let kept : Option Line := match sl.lease with
    | some l => look (l.code.map fun (e : Nat × Line) => (e.1, some e.2)) none addr.toNat
    | none => none
  match sl.line with
  | some (a, l) => if a = addr then some l else kept.or cached
  | none => kept.or cached

/-- The cause that stops a fetch for good: PAGE_FETCH for a fault that is final, ACCESS for a page in no window or in
storage that is not ready (R378, R383, R409). -/
def fetchStop (s : State) (c : Nat) (sl : Slot) : Option Nat :=
  let line := (lineOf sl.pc).toNat
  match translate (s.part (s.partOf c)) line .exec with
  | .final => some 0x24
  | .nowhere => some 0x25
  | .hit l => match placeReady s l 0 with
    | some (.trap c _) => some c
    | _ => none
  | _ => if sl.xfault = some (pageOf line) then some 0x24 else none

/-- Is there something for the slot to do in an issue cycle: its line is present, its target is refused without one, or
the fetch has ended in a trap (R174, R208)? -/
def lineReady (s : State) (c : Nat) (sl : Slot) : Bool :=
  badTargetEarly sl.pc || (lineFor (s.core c) sl (lineOf sl.pc)).isSome || (fetchStop s c sl).isSome

/-- May the slot issue in this cycle: it holds a running continuation, its stall count has run out, what its next
instruction waits for, if anything, has come about, and its line is present (R22, R31, R33, R35)? -/
def eligible (s : State) (c k : Nat) : Bool :=
  let key := slotKey c k
  let sl := s.slot key
  (sl.st == .ready || sl.st == .wait) && !sl.halted && decide (sl.readyAt ≤ (s.core c).cyc) &&
    (match sl.wait with
     | none => sl.st == .ready
     | some w => w.unissued && mayRetry s key w || interrupted sl w) &&
    (match sl.yieldTo with
     | none => true
     | some (others, till) => others.isEmpty || decide (till ≤ (s.core c).cyc)) &&
    lineReady s c sl

/-- Does the slot's instruction, which has issued, go on now: what it waited for has come about (R31)? -/
def resumable (s : State) (c k : Nat) : Bool :=
  let key := slotKey c k
  match (s.slot key).wait with
  | some w => w.mustComplete && !(s.slot key).halted && mayRetry s key w
  | none => false

/-! ## The order of the slots -/

/-- The sixteen slots after the last issuer, wrapping (R33). -/
def rotation (last : Nat) : List Nat := (List.range 16).map fun i => (last + 1 + i) % 16

/-- Does the slot hold a lease on host memory? -/
def holdsHost (sl : Slot) : Bool := match sl.lease with
  | some l => l.lines.any (·.host)
  | none => false

/-- The lanes of a DET crew on the core: its bound slots in increasing number (R36). -/
def detLanes (s : State) (c : Nat) : List Nat :=
  (List.range 16).filter fun i =>
    match (s.slot (slotKey c i)).resv with
    | some t => match s.tx? t with
      | some tx => tx.st == .running && ((tx.desc.getD 1 0).getLsbD 18)
      | none => false
    | none => false

/-- The slots in the order they are tried in this cycle (R33, R38, R231, R365). In deterministic operation the
turn goes to one lane, or to slot 15 of an enabled message handler after a full rotation. -/
def issueOrder (s : State) (c : Nat) : List Nat :=
  let co := s.core c
  let hosts := (List.range 16).filter fun i => holdsHost (s.slot (slotKey c i))
  match detLanes s c with
  | [] =>
    let holders := (List.range 16).filter fun i => (s.slot (slotKey c i)).lease.isSome && eligible s c i
    match hosts.filter (fun i => eligible s c i) with
    | h :: _ => [h]
    | [] => holders ++ (rotation co.last).filter fun i => !holders.contains i
  | lanes =>
    match hosts.filter (fun i => lanes.contains i) with
    | h :: _ => [h]
    | [] =>
      let n := lanes.length + (if co.smsg.getLsbD 0 then 1 else 0)
      let t := co.detTurn % n
      [lanes.getD t 15]

/-! ## Pipes (R250, R251) -/

/-- Is a pipe-table entry open to slot `k`? -/
def pipeOpen (co : Core) (k : Nat) (i : Nat) : Bool :=
  let n := (i + (co.cyc - co.vtabAt)) % 32
  let fixed := co.smsg.getLsbD 0 && n % 8 == 7
  let e := if h : n < 32 then co.vtab[n].toNat else 0x10
  if fixed then k == 15 else e == 0x10 || e == k

/-- The number of vector pipes open to slot `k`. -/
def openPipes (co : Core) (k : Nat) : Nat :=
  (if pipeOpen co k 0 then 1 else 0) + (if pipeOpen co k 16 then 1 else 0)

/-- Is the SF pipe open to slot `k` and not closed by a 16-bit special function of the cycle before (R250)? -/
def sfOpen (co : Core) (k : Nat) : Bool := pipeOpen co k 8 && co.sfClosed != some co.cyc

/-- Does the slot's head find the pipes it needs (R250, R265)? Majors 0x20 to 0x26 need one vector pipe, a pair form both;
major 0x28 and a vector result pushed into `qs` need the SF pipe. -/
def pipeReady (s : State) (c k : Nat) (head : BitVec 16) (tail : BitVec 48) : Bool :=
  let co := s.core c
  let op := (head.extractLsb' 10 6).toNat
  let pushes := (op == 0x14 || (0x20 ≤ op && op ≤ 0x22) || op == 0x24 || op == 0x26) &&
    boundQueue (s.slot (slotKey c k)) (head.extractLsb' 5 5) == some 1
  let sf := op == 0x28 || pushes
  (if 0x20 ≤ op ∧ op ≤ 0x26 then
    let pair := op ≤ 0x22 && tail.getLsbD 8
    decide ((if pair then 2 else 1) ≤ openPipes co k)
  else true) && (!sf || sfOpen co k)

/-- The head and tail the slot would issue, from the line of its PC. -/
def headOf (co : Core) (sl : Slot) : BitVec 16 × BitVec 48 :=
  match lineFor co sl (lineOf sl.pc) with
  | some l => Line.headTail l (sl.pc.extractLsb' 1 5).toNat
  | none => (0, 0)

/-- Is slot `k` of the core eligible, with its pipes open (R33, R250)? -/
def mayIssue (s : State) (c k : Nat) : Bool :=
  let h := headOf (s.core c) (s.slot (slotKey c k))
  eligible s c k && pipeReady s c k h.1 h.2

/-! ## Entering a line -/

/-- What the slot finds at its PC in a line that it has entered: the trap of a malformed line or of a refused
position, or the head and tail it issues (R168, R174). -/
inductive Found where
  | trap (cause : Nat) (tval : Word)
  | head (h : BitVec 16) (t : BitVec 48)
  deriving DecidableEq, Repr

/-- The check of a line and of the position in it (R168, R174). -/
def checkLine (sl : Slot) (addr : Word) (l : Line) : Found :=
  match Line.reason l with
  | some r => .trap 0x01 (addr + BitVec.ofNat 64 r)
  | none =>
    let p := (sl.pc.extractLsb' 1 5).toNat
    if Line.count l < p then .trap 0x05 sl.xfer
    else .head (Line.headTail l p).1 (Line.headTail l p).2

end Sys2Proof.Machine
end

