-- ==== Sys2Proof/Machine/Translate.lean ====
section
/-! DEFINITION. The answers to translation and page requests (R372 to R378), invalidations (R381), and the events that
carry them. -/

namespace Sys2Proof.Machine

/-! ## Requests -/

/-- The partition and the request with a serial number. -/
def requestOf (s : State) (id : Nat) : Option (Nat × XReq) :=
  match s.parts.find? fun e => e.2.xreqs.any fun r => r.id == id with
  | none => none
  | some (p, pt) => (pt.xreqs.find? fun r => r.id == id).map fun r => (p, r)

/-- The request taken out of its partition; one that waits for its place, at its slice or in the allocation of page
requests, is sent (R371, R375). -/
def dropRequest (s : State) (p : Nat) (r : XReq) : State :=
  let s := s.setPart p { s.part p with xreqs := (s.part p).xreqs.filter fun q => q.id != r.id }
  if r.paging then sendQueuedPage s p else sendQueued s p r.slice

/-- Every slot changed by a function of its key and contents. -/
def mapSlots (s : State) (f : Nat → Slot → Slot) : State := { s with slots := s.slots.map fun e => (e.1, f e.1 e.2) }

/-! ## Who waits for a page -/

/-- The parked continuations of the cores of a list that wait for a page take a status, and their replay is on its way
(R377, R378). -/
def markParked (s : State) (page status : Nat) : List Nat → State
  | [] => s
  | c :: cs =>
    let co := s.core c
    let s := if co.parked.any fun e => e.2.1 == page && e.2.2 == 0 then
        (s.setCore c { co with parked := co.parked.map fun e => if e.2.1 = page ∧ e.2.2 = 0 then (e.1, page, status) else e }).post
          (.replay c)
      else s
    markParked s page status cs

/-- A slot that waits for a page whose fault is final: its instruction or fetch traps when it tries again (R378). -/
def finalSlot (p page : Nat) (sl : Slot) : Slot :=
  match sl.wait with
  | some (.xlat q g) => if q = p ∧ g = page then { sl with xfault := some page } else sl
  | some (.xlatHeld q g) => if q = p ∧ g = page then { sl with xfault := some page } else sl
  | some (.fetch line) => if pageOf line = page then { sl with xfault := some page, wait := none } else sl
  | _ => sl

/-- The lock requests of a partition's managers whose translation is not done, as (transaction, tile). -/
def waitingTiles (s : State) (p : Nat) : List (Nat × Nat) :=
  (s.part p).locks.flatMap fun (e : Nat × List LockReq) => (e.2.filter fun r => !r.xdone).map fun r => (r.tx, e.1)

/-- The lock managers look again at the translations they wait for (R58). -/
def pokeTiles (s : State) (fault : Bool) : List (Nat × Nat) → State
  | [] => s
  | (t, tile) :: rest => pokeTiles (s.post (.setTileTranslationDone t tile fault)) fault rest

/-- The requests of the spill engines whose area holds the page end in a page cause at their issuer (R343, R345, R378). -/
def markSpills (s : State) (p page : Nat) : State :=
  { s with cores := s.cores.map fun (e : Nat × Core) =>
    if s.partOf e.1 = p then (e.1, { e.2 with spillq := e.2.spillq.map fun (r : SpillReq) =>
      if r.area / 8192 = page / 8192 then { r with fault := some (if r.isFill then 0x22 else 0x23, BitVec.ofNat 64 page) } else r })
    else e }

/-- A fault on a page is reported final to everyone who waits for it (R378, R379, R58, R123, R284, R358). -/
def reportFinal (s : State) (p page : Nat) : State :=
  let s := mapSlots s fun k sl => if s.partOf (k / 16) = p then finalSlot p page sl else sl
  let s := markSpills (markParked s page 2 (coresOf s p)) p page
  let s := { s with copies := s.copies.map fun (j : CopyJob) =>
    if j.part = p ∧ j.page = some (page, false) then { j with page := some (page, true) } else j }
  let s := s.setPart p { s.part p with queues := (s.part p).queues.map fun (e : Nat × QueueSt) =>
    (e.1, if e.2.parkedOn = some (page, false) then { e.2 with parkedOn := some (page, true) } else e.2) }
  let s := pokeTiles s true ((waitingTiles s p).filter fun e => e.2 == page)
  ((s.part p).convs.filter fun c => c.page == some page).foldl (fun s c => s.post (.kneadFault c.id page)) s

/-- Every page of a list reported final. -/
def reportAll (s : State) (p : Nat) : List Nat → State
  | [] => s
  | g :: gs => reportAll (reportFinal s p g) p gs

/-! ## Answers -/

/-- The largest page size a slice stores of a returned range (R372). -/
def storedSize (log2 : Nat) : Nat := if 30 ≤ log2 then 30 else if 21 ≤ log2 then 21 else if 16 ≤ log2 then 16 else 12

/-- The entries of a slice that cover a page removed, of every size. -/
def dropCovering (m : SMap XEntry) (slice page : Nat) : SMap XEntry :=
  m.filter fun e => !(e.1 / 2 ^ 64 == slice && decide (xbase e.1 e.2.log2 ≤ page) &&
    decide (page < xbase e.1 e.2.log2 + 2 ^ e.2.log2))

/-- Room for an entry at a slice that holds 4,096: which of them makes room is free (R371). -/
def evictXlat (s : State) (p slice : Nat) : State :=
  let mine := (s.part p).xlat.filter fun e => e.1 / 2 ^ 64 == slice
  if mine.length < 4096 then s
  else match mine[Config.choose s.draws % mine.length]? with
    | some e => s.draw.setPart p { s.part p with xlat := remove (s.part p).xlat e.1 }
    | none => s

/-- A translation answer stored at its slice (R372): of a returned range the aligned part that holds the page. -/
def storeAnswer (s : State) (p slice page : Nat) (a : AtsAnswer) : State :=
  let l := storedSize a.log2
  let base := page / 2 ^ l * 2 ^ l
  let range := page / 2 ^ Nat.max a.log2 12 * 2 ^ Nat.max a.log2 12
  let e : XEntry := ⟨l, a.read, a.write, a.exec, a.pa + (base - range)⟩
  let s := evictXlat (s.setPart p { s.part p with xlat := dropCovering (s.part p).xlat slice page }) p slice
  s.setPart p { s.part p with xlat := put (s.part p).xlat (xkey slice base l) e }

/-- Does a page lie in a range whose invalidation is under way (R381)? -/
def heldByInvalidate (pt : Part) (page : Nat) : Bool :=
  pt.invalidating.any fun r => decide (r.1 < page + 4096) && decide (page < r.1 + r.2)

/-- ATS_RESPONSE (R374, R375): the answer is stored and the waiters try again; parked continuations replay unless a
page request for the page is still out. An answer to a request that is gone is ignored. -/
def execAtsResponse (req : Nat) (ans : AtsAnswer) (s : State) : Out :=
  match requestOf s req with
  | none => .next s
  | some (p, r) =>
    if r.paging || r.queued then .next s
    else if heldByInvalidate (s.part p) r.page then .next (s.post (.atsResponse req ans))
    else
      let s := storeAnswer (dropRequest s p r) p r.slice r.page ans
      let s := if (s.part p).xreqs.any (fun q => q.page == r.page && q.paging) then s
        else markParked s r.page 1 (coresOf s p)
      .next (pokeTiles s false (waitingTiles s p))

/-- ATS_TIMEOUT: after 50,000 ticks a request is sent once more; a second timeout is a fault reported final (R374). -/
def execAtsTimeout (req : Nat) (s : State) : Out :=
  match requestOf s req with
  | none => .next s
  | some (p, r) =>
    if r.paging || r.queued then .next s
    else if s.tick < r.sent + 50000 then .next (s.post (.atsTimeout req))
    else if r.again then .next (reportFinal (dropRequest s p r) p r.page)
    else .next ((s.setPart p { s.part p with xreqs := (s.part p).xreqs.map fun q =>
      if q.id = req then { q with again := true, sent := s.tick } else q }).post (.atsTimeout req))

/-- PRG_RESPONSE_SUCCESS: the page is translated again (R377). -/
def execPrgResponseSuccess (req : Nat) (s : State) : Out :=
  match requestOf s req with
  | none => .next s
  | some (p, r) =>
    if !r.paging || r.queued then .next s
    else
      let s := dropRequest s p r
      let s := s.setPart p { s.part p with xlat := dropCovering (s.part p).xlat r.slice r.page }
      .next (requestXlat s p r.page r.need)

/-- The pages with a page request outstanding. -/
def pagingPages (pt : Part) : List Nat := (pt.xreqs.filter fun r => r.paging).map fun r => r.page

/-- PRG_RESPONSE_FAILURE: Invalid Request ends the one fault; Response Failure ends them all and stops page requests
until `SPASID` is written (R378). -/
def execPrgResponseFailure (req : Nat) (invalid : Bool) (s : State) : Out :=
  match requestOf s req with
  | none => .next s
  | some (p, r) =>
    if !r.paging || r.queued then .next s
    else if invalid then .next (reportFinal (dropRequest s p r) p r.page)
    else
      let pages := pagingPages (s.part p)
      let s := s.setPart p { s.part p with pagesOff := true, xreqs := (s.part p).xreqs.filter fun q => !q.paging }
      .next (reportAll s p pages)

/-- PAGE_REQUEST_TIMEOUT: no response within `SPRTO` ticks is a fault reported final; 0 means no limit (R378, R380). -/
def execPageRequestTimeout (req : Nat) (s : State) : Out :=
  match requestOf s req with
  | none => .next s
  | some (p, r) =>
    let limit := ((s.part p).sprto.extractLsb' 0 40).toNat
    if !r.paging || r.queued then .next s
    else if limit = 0 ∨ s.tick < r.sent + limit then .next (s.post (.pageRequestTimeout req))
    else .next (reportFinal (dropRequest s p r) p r.page)

/-- Is an address in a range? -/
def inRange (va len a n : Nat) : Bool := decide (va < a + n) && decide (a < va + len)

/-- Code lines of a range dropped from the instruction caches of the cores of a list. -/
def dropCode (s : State) (va len : Nat) : List Nat → State
  | [] => s
  | c :: cs =>
    dropCode (s.setCore c { s.core c with icache := (s.core c).icache.filter fun e => !inRange va len e.1 64 }) va len cs

/-- The granules of a range flushed from the first-level caches of the cores of a list, dirty lines to the homes they came
from (R381). -/
def flushRange (s : State) (p va len : Nat) : List Nat → State
  | [] => s
  | c :: cs =>
    let space := l1Tag (s.part p) 0
    flushRange (flushLines s c fun t => decide (space ≤ t) && decide (t < space + 2 ^ 50) &&
      inRange va len ((t - space) / 32 * 4096) 4096) p va len cs

/-- Every translation of a partition dropped, as an invalidation of its whole space drops them (R380, R381). -/
def dropXlat (s : State) (p : Nat) : State :=
  let s := s.setPart p { s.part p with xlat := [] }
  flushRange (dropCode s 0 (2 ^ 64) (coresOf s p)) p 0 (2 ^ 64) (coresOf s p)

/-- `SPASID` written with a value (R378, R380, R389): every translation is dropped, faults outstanding are reported final,
requests are forgotten, and page requests are enabled. -/
def spasidWritten (s : State) (p : Nat) (v : Word) : State :=
  let pages := pagingPages (s.part p)
  let s := dropXlat s p
  let s := s.setPart p { s.part p with spasid := v, pagesOff := false, xreqs := [] }
  reportAll s p pages

/-! ## Invalidation (R381) -/

/-- Has some access translated for the range still to be performed: a relaxed access, a leased line, a copy in
progress? -/
def rangeBusy (s : State) (p va len : Nat) : Bool :=
  s.copies.any (fun (j : CopyJob) => j.part == p && j.writesIn va len) || s.slots.any (fun e => s.partOf (e.1 / 16) == p &&
    (e.2.relaxed.any (fun r => r.space == .global && inRange va len r.addr.toNat r.span) ||
      (match e.2.lease with
       | some l => l.lines.any fun x => inRange va len x.va 128
       | none => false)))

/-- The partitions that a PASID names. -/
def pasidParts (s : State) (pasid : Nat) : List Nat :=
  (List.range 8).filter fun p => (s.part p).spasid.getLsbD 63 && ((s.part p).spasid.extractLsb' 0 20).toNat == pasid

/-- The steps of an invalidation in each partition of a list; whether one has still to wait. -/
def invalidateIn (s : State) (va len : Nat) : List Nat → State × Bool
  | [] => (s, false)
  | p :: ps =>
    let pt := s.part p
    let s := s.setPart p { pt with
      xlat := pt.xlat.filter fun e => !inRange va len (xbase e.1 e.2.log2) (2 ^ e.2.log2)
      invalidating := if pt.invalidating.contains (va, len) then pt.invalidating else pt.invalidating ++ [(va, len)] }
    let s := flushRange (dropCode s va len (coresOf s p)) p va len (coresOf s p)
    if rangeBusy s p va len then ((invalidateIn s va len ps).1, true)
    else
      let s := s.setPart p { s.part p with invalidating := (s.part p).invalidating.erase (va, len) }
      invalidateIn s va len ps

/-- ATS_INVALIDATE: new translations are held, the overlapping ones dropped, code lines flushed, and the completion
waits for the accesses already translated (R381). -/
def execAtsInvalidate (pasid va len : Nat) (s : State) : Out :=
  match invalidateIn s va len (pasidParts s pasid) with
  | (s, true) => .next (s.post (.atsInvalidate pasid va len))
  | (s, false) => .next s

end Sys2Proof.Machine
end

