-- ==== Sys2Proof/Machine/Csr.lean ====
section
/-! DEFINITION. The CSRs: who may reach which (R78, R329), what reading one gives and what writing one does (R79 to
R81, R331, R351, R352, R354, R362, R368, R380, R409), and the meanings of major 0x0A (R209, R210). -/

namespace Sys2Proof.Machine

/-! ## Reading -/

/-- An entry of the pipe table as it is read: 15 for the entries kept for the message handler (R81, R251). -/
def vtabEntry (co : Core) (n : Nat) : Nat :=
  if co.smsg.getLsbD 0 && n % 8 == 7 then 15 else if h : n < 32 then co.vtab[n].toNat else 0

/-- Word k of `VTAB` in force (R80). -/
def vtabWord (co : Core) (k : Nat) : Word :=
  BitVec.ofNat 64 (vtabEntry co (4 * k) + vtabEntry co (4 * k + 1) * 2 ^ 8 + vtabEntry co (4 * k + 2) * 2 ^ 16 +
    vtabEntry co (4 * k + 3) * 2 ^ 24)

/-- `SLOT`, `CORE`, `TRAY`, `TXN` and `DET` (R79, R412). -/
def placeCsr (s : State) (n : Nat) : Word :=
  let sl := s.me
  match n with
  | 0 => BitVec.ofNat 64 s.curSlot
  | 1 => BitVec.ofNat 64 (sl.home * 2 ^ 16 + s.curCore)
  | 2 => if sl.tx.isSome then sl.csr.tray else BitVec.ofNat 64 (s.curCore * 2 ^ 16)
  | 3 => if sl.tx.isSome then sl.csr.txn else 0
  | _ => BitVec.ofNat 64 ((if sl.ctx.getLsbD 27 then 2 ^ 16 else 0) + (sl.ctx.extractLsb' 36 12).toNat)

/-- Word `i` of a level's trap CSRs (R331). -/
def TrapRegs.word (t : TrapRegs) (i : Nat) : Word :=
  match i with
  | 0 => t.tvec | 1 => t.cause | 2 => t.tval | 3 => t.tpc | _ => t.tstat

/-- The CSRs of numbers below 0x400 (R79). -/
def readUser (s : State) (n : Nat) : Option Word :=
  let sl := s.me
  let u := sl.csr
  if n < 5 then some (placeCsr s n)
  else if h : 0x10 ≤ n ∧ n < 0x14 then some (zextImm (u.fmt[n - 0x10]'(by omega)))
  else if h : 0x14 ≤ n ∧ n < 0x18 then some (u.scl[n - 0x14]'(by omega))
  else if n = 0x20 then some u.rmode
  else if n = 0x21 then some u.fflags
  else if n = 0x22 then some u.vm
  else if n = 0x30 then some u.qen
  else if n = 0x31 then some u.sen
  else if n = 0x40 then some u.promise
  else if n = 0x41 then some (BitVec.ofNat 64 (s.tick % 2 ^ 64))
  else if n = 0x42 then some u.waitlim
  else if n = 0x43 then some u.leaselim
  else if n = 0x44 then some u.schk
  else if 0x50 ≤ n ∧ n < 0x58 then some (vtabWord s.myCore (n - 0x50))
  else if n = 0x60 then some u.mxshape
  else if 0x100 ≤ n ∧ n < 0x105 then some (sl.tu.word (n - 0x100))
  else none

/-- The CSRs of numbers 0x400 to 0x7FF (R351, R354, R368, R380, R409). -/
def readSuper (s : State) (n : Nat) : Option Word :=
  let sl := s.me
  let co := s.myCore
  let pt := s.part s.myPart
  if 0x500 ≤ n ∧ n < 0x505 then some (sl.ts.word (n - 0x500))
  else if h : 0x510 ≤ n ∧ n < 0x514 then some (sl.sdlg[n - 0x510]'(by omega))
  else if n = 0x520 then some sl.sftrap
  else if n = 0x521 then some sl.sbpc
  else if n = 0x522 then some sl.pctb
  else if n = 0x530 then some co.saveb
  else if n = 0x531 then some co.slbi
  else if n = 0x532 then some co.smsg
  else if n = 0x533 then some co.sevec
  else if n = 0x534 then some (BitVec.ofNat 64 ((if co.eventLost then 1 else 0) + 16 * co.events.length))
  else if n = 0x535 then some co.sdovf
  else if n = 0x536 then some co.spark
  else if n = 0x540 then some pt.srgn
  else if n = 0x541 then some pt.srlog
  else if n = 0x542 then some pt.srlogn
  else if n = 0x543 then some pt.slqd
  else if n = 0x544 then some pt.spasid
  else if n = 0x545 then some pt.shwin
  else if n = 0x546 then some pt.sprto
  else if n = 0x547 then some pt.spodw
  else if n = 0x548 then some pt.spodt
  else if n = 0x549 then some s.hub.ready
  else none

/-- The physical core of a logical number: die in [9:8], index on the die in [7:0] (R9, R352). -/
def physicalCore (s : State) (c : Nat) : Nat := (s.core c).physOver.getD (physIndex (c / 128) (c % 128))

/-- The CSRs of numbers 0x800 to 0xBFF (R352, R380). -/
def readMachine (s : State) (n : Nat) : Option Word :=
  if 0x900 ≤ n ∧ n < 0x905 then some (s.me.tm.word (n - 0x900))
  else if n = 0x910 then some s.myCore.mdlg
  else if n = 0x920 then some s.myCore.mpart
  else if n = 0x921 then some (BitVec.ofNat 64 (physicalCore s s.curCore))
  else if n = 0x930 then some s.hub.mpod
  else none

/-- What reading a CSR gives; none for an unassigned number. -/
def readCsr (s : State) (n : Nat) : Option Word :=
  if n < 0x400 then readUser s n else if n < 0x800 then readSuper s n else readMachine s n

/-- The read-only CSRs (R79, R352, R409). -/
def csrReadOnly (n : Nat) : Bool :=
  decide (n < 5) || (decide (0x10 ≤ n) && decide (n < 0x18)) || n == 0x40 || n == 0x41 || n == 0x549 || n == 0x921

/-- Does the level refuse the number with PRIVILEGED (R78, R329)? -/
def csrPrivileged (l : Level) (n : Nat) : Bool :=
  match l with
  | .u => decide (0x400 ≤ n) && decide (n < 0xC00)
  | .s => decide (0x800 ≤ n) && decide (n < 0xC00)
  | .m => false

/-! ## Writing -/

/-- A level's trap CSRs after a write of word `i` (R331). -/
def TrapRegs.write (t : TrapRegs) (i : Nat) (v : Word) : TrapRegs :=
  match i with
  | 0 => { t with tvec := v }
  | 1 => { t with cause := masked v 0xFF }
  | 2 => { t with tval := v }
  | 3 => { t with tpc := v }
  | _ => { t with tstat := statusWritten t.tstat v }

/-- The vector registers from index `base` on whose bit changes read zero (R71). -/
def rebind (f : Vector Vec 16) (base : Nat) (old new : Word) : Vector Vec 16 :=
  Vector.ofFn fun i => if base ≤ i.val ∧ i.val < base + 4 ∧ old.getLsbD (i.val - base) ≠ new.getLsbD (i.val - base) then 0 else f[i]

/-- A write of `QEN` (R71, R72): `qi` is bound only when no other slot holds it, and a new `qs` binding has no
function. -/
def writeQen (s : State) (v : Word) : State :=
  let sl := s.me
  let co := s.myCore
  let free := match co.qiSlot with
    | none => true
    | some k => k == s.cur
  let new := masked v (if free then 0xF else 7)
  let old := sl.csr.qen
  let s := s.setMe { sl with
    csr := { sl.csr with qen := new }
    f := rebind sl.f 12 old new
    qsFn := if new.getLsbD 1 && !old.getLsbD 1 then none else sl.qsFn }
  s.setMyCore { s.myCore with qiSlot := if new.getLsbD 3 then some s.cur else if free then none else co.qiSlot }

/-- A write of `SEN` (R71). -/
def writeSen (s : State) (v : Word) : State :=
  let sl := s.me
  let new := masked v 0xF
  s.setMe { sl with csr := { sl.csr with sen := new }, f := rebind sl.f 0 sl.csr.sen new }

/-- May the slot write `VTAB` (R81)? -/
def ownsVtab (s : State) : Bool :=
  match s.me.tx with
  | none => s.me.level != .u
  | some t => s.myCore.owner == some t

/-- A write of word k of `VTAB`, held aside; a reserved entry value and the handler's entries leave theirs (R80, R81). -/
def writeVtab (s : State) (k : Nat) (v : Word) : State :=
  if !ownsVtab s then s
  else
    let co := s.myCore
    let t := co.vtabHeld.getD co.vtab
    let t := Vector.ofFn fun (i : Fin 32) =>
      let e := v.extractLsb' (8 * (i.val % 4)) 5
      if i.val / 4 = k ∧ e.toNat ≤ 0x10 ∧ !(co.smsg.getLsbD 0 && i.val % 8 == 7) then e else t[i]
    s.setMyCore { co with vtabHeld := some t }

/-- The other writable CSRs below 0x400 (R80, R331). -/
def writeUser (s : State) (n : Nat) (v : Word) : State :=
  let sl := s.me
  let set (u : UserCsr) : State := s.setMe { sl with csr := u }
  if n = 0x20 then set { sl.csr with rmode := if (v.extractLsb' 0 3).toNat ≤ 4 then masked v 7 else sl.csr.rmode }
  else if n = 0x21 then set { sl.csr with fflags := masked v 0xFF }
  else if n = 0x22 then set { sl.csr with vm := v }
  else if n = 0x30 then writeQen s v
  else if n = 0x31 then writeSen s v
  else if n = 0x42 then set { sl.csr with waitlim := masked v 0xFFFFFFFFFF }
  else if n = 0x43 then set { sl.csr with leaselim := leaseLimit v }
  else if n = 0x44 then set { sl.csr with schk := masked v 1 }
  else if 0x50 ≤ n ∧ n < 0x58 then writeVtab s (n - 0x50) v
  else if n = 0x60 then set { sl.csr with mxshape := shapeWritten v }
  else if 0x100 ≤ n ∧ n < 0x105 then s.setMe { sl with tu := sl.tu.write (n - 0x100) v }
  else s

/-- A write of `SLQD` (R354): at once while the open round holds no transaction, else held for the round's close. -/
def writeSlqd (s : State) (v : Word) : State :=
  let p := s.myPart
  let new := masked v 0x01FFFFFFFFFFF000#64 ||| BitVec.ofNat 64 (Nat.min (v.extractLsb' 0 9).toNat 256)
  match (s.part p).roundAt with
  | none => (s.setPart p { s.part p with slqd := new, slqdHeld := none }).post (.pick p)
  | some _ => s.setPart p { s.part p with slqdHeld := some new }

/-- A write of `SMSG` (R362): a 1 is held while a deterministic crew has slot 15. -/
def writeSmsg (s : State) (v : Word) : State :=
  let co := s.myCore
  if v.getLsbD 0 && (detLanes s s.curCore).contains 15 then s.setMyCore { co with smsgHeld := some 1 }
  else s.setMyCore { co with smsg := masked v 1, smsgHeld := none }

/-- A write of `SPODW`: SHIFT keeps its value outside 30 to 40 (R380). -/
def podWindowWritten (old v : Word) : Word :=
  let sh := (v.extractLsb' 0 6).toNat
  masked v 0x81FFFFFFC0000000#64 ||| (if 30 ≤ sh ∧ sh ≤ 40 then masked v 0x3F else masked old 0x3F)

/-- The writable per-slot CSRs from 0x500 on (R331, R339, R340, R341, R351). -/
def writeSlotSuper (s : State) (n : Nat) (v : Word) : State :=
  let sl := s.me
  if 0x500 ≤ n ∧ n < 0x505 then s.setMe { sl with ts := sl.ts.write (n - 0x500) v }
  else if h : 0x510 ≤ n ∧ n < 0x514 then
    s.setMe { sl with sdlg := sl.sdlg.set (n - 0x510) (masked v (delegable (n - 0x510))) (by omega) }
  else if n = 0x520 then s.setMe { sl with sftrap := masked v 0xFF }
  else if n = 0x521 then s.setMe { sl with sbpc := masked v 0x01FFFFFFFFFFFFFF#64 }
  else if n = 0x522 then
    let s := s.setMe { sl with pctb := v }
    if v = 0 then s else s.post (.timer s.curCore s.curSlot)
  else s

/-- The writable per-core CSRs from 0x530 on (R337, R351, R362, R368, R380). -/
def writeCoreSuper (s : State) (n : Nat) (v : Word) : State :=
  let co := s.myCore
  if n = 0x530 then s.setMyCore { co with saveb := masked v 0x01FFFFFFFFFE0000#64 }
  else if n = 0x531 then s.setMyCore { co with slbi := masked v 0xFFFFFFFF }
  else if n = 0x532 then writeSmsg s v
  else if n = 0x533 then
    let s := s.setMyCore { co with sevec := v }
    if v ≠ 0 ∧ co.events ≠ [] then s.post (.coreEvent s.curCore) else s
  else if n = 0x535 then
    if overflowUsed co = 0 then s.setMyCore { co with sdovf := masked v 0x01FFFFFFFFFFF0FF#64 } else s
  else if n = 0x536 then
    s.setMyCore { co with spark := masked v 0x01FFFFFFFFFE0000#64 ||| BitVec.ofNat 64 (Nat.min (v.extractLsb' 0 5).toNat 16) }
  else s

/-- The writable CSRs of partition scope (R351, R354, R380). -/
def writePartSuper (s : State) (n : Nat) (v : Word) : State :=
  let p := s.myPart
  let pt := s.part p
  if n = 0x540 then s.setPart p { pt with srgn := masked v 0xFFFFFFFFFFFFFFF0#64 }
  else if n = 0x541 then s.setPart p { pt with srlog := masked v 0x01FFFFFFFFFF0000#64 }
  else if n = 0x542 then s.setPart p { pt with srlogn := masked v 0xFFFF }
  else if n = 0x543 then writeSlqd s v
  else if n = 0x544 then
    spasidWritten s p (masked v 0x80000000000FFFFF#64)
  else if n = 0x545 then
    readWindows (dropXlat (s.setPart p { pt with shwin := masked v 0x01FFFFFFFFFFFF00#64 }) p) p
  else if n = 0x546 then s.setPart p { pt with sprto := masked v 0xFFFFFFFFFF }
  else if n = 0x547 then dropXlat (s.setPart p { pt with spodw := podWindowWritten pt.spodw v }) p
  else if n = 0x548 then s.setPart p { pt with spodt := masked v 0x01FFFFFFFFFFF800#64 }
  else s

/-- A write of `MPART` clears the core's ready queue (R352, R366); nothing of the partition it leaves stays in its first-level
cache (log entry 58). -/
def writeMpart (s : State) (v : Word) : State :=
  let s := flushLines s s.curCore fun _ => true
  s.setMyCore { s.myCore with mpart := masked v 7, rq := Vector.replicate 4 [] }

/-- A write of `MPOD`; what DEV holds after a value above 191 the spec does not state (R380; log entry 1). A device that
becomes a member counts its rounds by the time base and sends close markers from then on (R46, R64, R388). -/
def writeMpod (s : State) (v : Word) : State :=
  let dev := if 191 < (v.extractLsb' 0 8).toNat then masked (Config.freeWord s.draws) 0xFF else masked v 0xFF
  let joins := v.getLsbD 15 && !s.hub.mpod.getLsbD 15
  let s := { s.draw with hub := { s.hub with mpod := masked v 0x8700 ||| dev } }
  if joins then
    let p := (v.extractLsb' 8 3).toNat
    let s := s.setPart p { s.part p with round := s.tick / 2048, pos := 0, roundAt := none }
    (s.post (.podCloseMarkerSend p)).post .timeSyncSend
  else s

/-- The writable CSRs of numbers 0x800 to 0xBFF (R352, R380). -/
def writeMachine (s : State) (n : Nat) (v : Word) : State :=
  if 0x900 ≤ n ∧ n < 0x905 then s.setMe { s.me with tm := s.me.tm.write (n - 0x900) v }
  else if n = 0x910 then s.setMyCore { s.myCore with mdlg := masked v 0x0000FFFFFFFFFFFF#64 }
  else if n = 0x920 then writeMpart s v
  else if n = 0x930 then writeMpod s v
  else s

/-- A write of `SEVST`: OV is cleared where the operand has a 1 (R209, R351). -/
def writeSevst (s : State) (mask : Word) : State :=
  s.setMyCore { s.myCore with eventLost := s.myCore.eventLost && !mask.getLsbD 0 }

/-- A write of a CSR; it takes effect for the slot's next instruction (R209, R210). -/
def writeCsr (s : State) (n : Nat) (v : Word) : State :=
  if n < 0x400 then writeUser s n v
  else if n < 0x530 then writeSlotSuper s n v
  else if n < 0x540 then writeCoreSuper s n v
  else if n < 0x800 then writePartSuper s n v
  else writeMachine s n v

/-! ## The four instructions -/

/-- The value `csrw`, `csrs` or `csrc` writes (R209). -/
def csrNew (op : CsrOp) (old a : Word) : Word :=
  match op with
  | .s => old ||| a
  | .c => old &&& ~~~a
  | _ => a

/-- A CSR instruction that writes: the number's checks (R78), then the write by the rules of its fields. -/
def csrWriting (op : CsrOp) (a : Reg) (n : Nat) (s : State) : Out :=
  if csrPrivileged s.me.level n then .next (trapI s 0x04 (BitVec.ofNat 64 n))
  else gate false { reads := [xreg a] } s fun s =>
    match readCsr s n with
    | none => .next (trapI s 0x07 (BitVec.ofNat 64 n))
    | some old =>
      let none_ := op != .w && a == 0
      if none_ then .next (finish s)
      else if csrReadOnly n then .next (trapI s 0x07 (BitVec.ofNat 64 n))
      else if n = 0x534 then .next (finish (writeSevst s (readX s a)))
      else .next (finish (writeCsr s n (csrNew op old (readX s a))))

/-- `csrr` (R209): a value of fixed latency. -/
def csrReading (d : Reg) (n : Nat) (s : State) : Out :=
  if csrPrivileged s.me.level n then .next (trapI s 0x04 (BitVec.ofNat 64 n))
  else gate false { writes := [xreg d] } s fun s =>
    match readCsr s n with
    | none => .next (trapI s 0x07 (BitVec.ofNat 64 n))
    | some v => .next (finish (writeInt s 2 d v))

/-- `csrr`. -/
def execCsrr (d : Reg) (csr : BitVec 12) (s : State) : Out := csrReading d csr.toNat s
/-- `csrw`. -/
def execCsrw (a : Reg) (csr : BitVec 12) (s : State) : Out := csrWriting .w a csr.toNat s
/-- `csrs`. -/
def execCsrs (a : Reg) (csr : BitVec 12) (s : State) : Out := csrWriting .s a csr.toNat s
/-- `csrc`. -/
def execCsrc (a : Reg) (csr : BitVec 12) (s : State) : Out := csrWriting .c a csr.toNat s

/-- Have all earlier instructions of the slot that can set a flag retired (R210)? -/
def flagsSettled (s : State) : Bool :=
  s.me.pend.all (fun w => w.flags == 0) && !(s.me.vpend.any fun v => v.source.isSpecial || v.flags != 0) &&
    !(s.myCore.port.any fun e => e.slot == s.cur)

/-- Any CSR instruction that names `FFLAGS` (R210): it waits until every earlier flag is there. -/
def execFflagsAccess (op : CsrOp) (x : Reg) (s : State) : Out :=
  let u : Uses := match op with
    | .r => { writes := [xreg x] }
    | _ => { reads := [xreg x] }
  gate false u s fun s =>
    if !flagsSettled s then .next (hold s .flags)
    else match op with
      | .r => csrReading x 0x21 s
      | op => csrWriting op x 0x21 s

/-- `csrw QEN` (R71). -/
def execQenWrite (a : Reg) (s : State) : Out := csrWriting .w a 0x30 s
/-- `csrw SEN` (R71). -/
def execSenWrite (a : Reg) (s : State) : Out := csrWriting .w a 0x31 s
/-- `csrw` of a word of `VTAB` (R81). -/
def execVtabWrite (a : Reg) (k : BitVec 3) (s : State) : Out := csrWriting .w a (0x50 + k.toNat) s
/-- `csrw SLQD` (R354). -/
def execSlqdWrite (a : Reg) (s : State) : Out := csrWriting .w a 0x543 s
/-- `csrw SPASID` (R380). -/
def execSpasidWrite (a : Reg) (s : State) : Out := csrWriting .w a 0x544 s
/-- `csrw SHWIN` (R383). -/
def execShwinWrite (a : Reg) (s : State) : Out := csrWriting .w a 0x545 s
/-- `csrw SPODW` (R380). -/
def execSpodwWrite (a : Reg) (s : State) : Out := csrWriting .w a 0x547 s
/-- `csrw SMSG` (R362). -/
def execSmsgWrite (a : Reg) (s : State) : Out := csrWriting .w a 0x532 s
/-- `csrw SDOVF` (R368). -/
def execSdovfWrite (a : Reg) (s : State) : Out := csrWriting .w a 0x535 s
/-- `csrw SEVST` (R351). -/
def execSevstWrite (a : Reg) (s : State) : Out := csrWriting .w a 0x534 s
/-- `csrw MPART` (R352). -/
def execMpartWrite (a : Reg) (s : State) : Out := csrWriting .w a 0x920 s

end Sys2Proof.Machine
end

