-- ==== Sys2Proof/Machine/Streams.lean ====
section
/-! DEFINITION. The meanings of major 0x27 (R261, R263), and reading chunks ahead (R262, R263). -/

namespace Sys2Proof.Machine

/-- What trying to read a chunk gives: its value, a chunk that stops its pop, or that it is not possible yet. -/
inductive ChunkRead where
  | got (c : Chunk) (s : State)
  | later (s : State)
  deriving DecidableEq, Repr

/-- A chunk's bytes zero-filled past its length (R262). -/
def chunkData (old : Nat) : Chunk := .data (BitVec.ofNat 512 old)

/-- Chunk j of a read stream of the issuing slot tried (R262, R263): checks 1 and 3 to 8 of R216, then a relaxed
access performed now. -/
def readChunk (s : State) (t : Stream) (j : Nat) : ChunkRead :=
  let ea := t.chunkAddr j
  let n := t.chunkLen j
  if t.scratch then
    match checkScratch s ea 1 .load with
    | some (c, v) => .got (.trap c v) s
    | none =>
      if ownPending s s.cur .scratch ea.toNat n then .later s
      else match performScratch s (scrCore ea) ea (.load n) none with
        | none => .later s
        | some r => .got (chunkData r.old) r.s
  else
    match checkGlobal s { ea := ea, n := n, align := 1, store := false } anyMapping with
    | .trap c v => .got (.trap c v) s
    | .miss page => .later (requestXlat s s.myPart page .read)
    | .fault page => .got (.fault page) s
    | .bringup => .later s
    | .remote _ => .got (.data (freeVec s.draws)) s.draw
    | .ok l =>
      if ownPending s s.cur .global ea.toNat n then .later s
      else match leasedLine s.me ea.toNat n with
        | some x => .got (chunkData (performHeld s.me x ea.toNat (.load n)).2) s
        | none =>
          let p := s.myPart
          match touch s p ea.toNat l (some s.curCore) false with
          | (s, false) => .later s
          | (s, true) =>
            if !lineOpen s p l.key s.cur then .later s
            else match unitBlock (s.part p) ea.toNat false n with
              | some _ => .later s
              | none =>
                let (s, v) := relaxedLoad s s.cur ea.toNat l n
                .got (chunkData v) s

/-- STREAM_CHUNK_ARRIVE: the next chunk of a read stream is read ahead, up to 4 of them (R262). -/
def execStreamChunkArrive (core slot k : Nat) (s : State) : Out :=
  let s := { s with curCore := core, curSlot := slot }
  let again (s : State) : State := s.post (.streamChunkArrive core slot k)
  if h : k < 4 then
    let t := s.me.streams[k]
    let stopped := match t.ahead.getLast? with
      | some (.trap _ _) => true
      | some (.fault _) => true
      | _ => false
    if !t.on || t.write || t.chunks ≤ t.fetched || 4 ≤ t.ahead.length || stopped then .next s
    else match readChunk s t t.fetched with
      | .later s => .next (again s)
      | .got c s =>
        let s := s.setMe { s.me with streams := s.me.streams.set k { t with ahead := t.ahead ++ [c], fetched := t.fetched + 1 } }
        .next (if t.fetched + 1 < t.chunks ∧ t.ahead.length + 1 < 4 then again s else s)
  else .next s

/-- The element width of a stream's control word (R261). -/
def streamWidth (ctl : Word) : Nat := 2 ^ (ctl.extractLsb' 4 2).toNat

/-- `str.cfg` (R261): an earlier configuration is discarded first. -/
def execStrCfg (k : BitVec 2) (a : Reg) (s : State) : Out :=
  gate false { reads := runX a 4, bad := badPrivateRun a 4 } s fun s =>
    let base := readX s a
    let len := readX s (Reg.succ a 1)
    let stride := readX s (Reg.succ a 2)
    let ctl := readX s (Reg.succ a 3)
    let i : Fin 4 := k.toFin
    let s := s.setMe { s.me with streams := s.me.streams.set i Stream.off }
    if base.extractLsb' 0 6 ≠ 0 then .next (trapI s 0x20 base)
    else if stride.extractLsb' 0 6 ≠ 0 then .next (trapI s 0x20 stride)
    else if ctl.extractLsb' 2 2 ≠ 0 ∨ ctl.extractLsb' 6 58 ≠ 0 ∨ len.toNat % streamWidth ctl ≠ 0 then .next (trapI s 0x64 ctl)
    else
      let t : Stream := ⟨true, ctl.getLsbD 0, ctl.getLsbD 1, streamWidth ctl, base, len.toNat,
        if stride = 0 then 64 else stride.toNat, 0, 0, []⟩
      let s := finish (s.setMe { s.me with streams := s.me.streams.set i t })
      .next (if t.write then s else s.post (.streamChunkArrive s.curCore s.curSlot k.toNat))

/-- `str.stop` (R263): the chunks read ahead are discarded, the stream ends. -/
def execStrStop (k : BitVec 2) (s : State) : Out :=
  gate false {} s fun s => .next (finish (s.setMe { s.me with streams := s.me.streams.set k.toFin Stream.off }))

/-- `bstr` (R263): taken when the stream is configured and has chunks left. -/
def execBstr (k : BitVec 2) (off : BitVec 16) (s : State) : Out :=
  gate false {} s fun s =>
    let t := s.me.streams[k.toFin]
    .next (if t.on && decide (t.pos < t.chunks) then transfer s (codeTarget s.me.pc off) else finish s)

end Sys2Proof.Machine
end

