-- ==== Sys2Proof/Machine/Vector.lean ====
section
/-! DEFINITION. The meanings of majors 0x20 to 0x26: vector arithmetic, compares, permutes, reductions and conversions
(R247 to R260), over one shared scheme of operands. -/

namespace Sys2Proof.Machine

/-! ## The shared scheme (R73, R247 to R249) -/

/-- The registers of a vector field: itself, or the pair it begins (R249). -/
def fieldRegs (x2 : Bool) (r : Reg) : List Reg := if x2 then [r, Reg.succ r 1] else [r]

/-- The field that a pair form cannot take: index 15, or a bound register of a pair (R249). -/
def badPair (sl : Slot) (x2 : Bool) : List Reg → Option Reg
  | [] => none
  | r :: rs =>
    if x2 && (r.idx.val == 15 || isBound sl r || isBound sl (Reg.succ r 1)) then some r else badPair sl x2 rs

/-- The values of fields as numbers, from the values of their registers. -/
def joinPairs (x2 : Bool) : List Vec → List Nat
  | [] => []
  | [v] => [v.toNat]
  | v :: w :: vs => if x2 then (v.toNat + w.toNat * 2 ^ 512) :: joinPairs x2 vs else v.toNat :: joinPairs x2 (w :: vs)

/-- A result of fixed latency for a vector field, or its push into a bound register (R73). -/
def putVector (s0 s : State) (lat : Nat) (x2 : Bool) (d : Reg) (v : Nat) (fl : Word) : Out :=
  if x2 then
    let s := writeFixed s lat (vreg d) (BitVec.ofNat 512 v) fl
    .next (finish (writeFixed s lat (vreg (Reg.succ d 1)) (BitVec.ofNat 512 (v / 2 ^ 512)) 0))
  else
    pushV s0 s d (BitVec.ofNat 512 v) (fun s => .next (finish (if fl = 0 then s else writeFlags s lat fl)))
      (fun s => .next (finish (writeFixed s lat (vreg d) (BitVec.ofNat 512 v) fl)))

/-- A vector instruction with a vector result: vector sources A, B in field order, an integer source, D when it is a
source too, popped before `VM` is read; `f` gives the result from the sources, the integer and the old D. -/
def vectorOp (lat : Nat) (x2 merge : Bool) (d : Reg) (srcs : List Reg) (xs : List Reg) (readD : Bool)
    (f : List Nat → Word → Nat → Word → Nat × Word) (s : State) : Out :=
  let dSrc := readD || merge
  let fields := srcs ++ (if dSrc then [d] else [])
  let plain (rs : List Reg) : List RegId := plainV s (rs.flatMap (fieldRegs x2))
  let u : Uses := { reads := plain srcs ++ xs.map xreg ++ (if dSrc then plain [d] else []), writes := plain [d], bad := badPair s.me x2 (srcs ++ [d]) }
  gate false u s fun s =>
    let (vs, ft) := popAll s (fields.flatMap (fieldRegs x2))
    match ft.block with
    | some b => blocked s b
    | none =>
      let vals := joinPairs x2 vs
      let s1 := noteBound ft.s (d :: srcs)
      let x := readX s (xs.headD 0)
      let old := if dSrc then vals.getLastD 0 else 0
      let (v, fl) := f vals x old s1.me.csr.vm
      putVector s s1 lat x2 d v fl

/-- A vector instruction with an integer result of fixed latency. -/
def vectorToInt (lat : Nat) (d : Reg) (srcs : List Reg) (f : List Nat → Word → Word × Word) (s : State) : Out :=
  gate false { reads := plainV s srcs, writes := [xreg d] } s fun s =>
    let (vs, ft) := popAll s srcs
    match ft.block with
    | some b => blocked s b
    | none =>
      let s1 := noteBound ft.s srcs
      let (v, fl) := f (vs.map (·.toNat)) s1.me.csr.vm
      .next (finish (writeFixed s1 lat (xreg d) (v.setWidth 512) fl))

/-- The number of lanes of an operation. -/
def lanesOf (c : VCtl) : Nat := if c.x2 then 2 * c.lt.lanes else c.lt.lanes

/-- Lane i of the second source: of vb, or the low bits of xb in every lane (R252). -/
def laneB (sx : Bool) (w : Nat) (vals : List Nat) (x : Word) (i : Nat) : Nat :=
  if sx then x.toNat % 2 ^ w else laneAt w i (vals.getD 1 0)

/-- A lane-wise operation of two sources (R252, R253): `f` on lane values of width w and the old lane. -/
def lanewise2 (lat : Nat) (d a b : Reg) (sx : Bool) (c : VCtl) (readD : Bool) (f : Nat → Nat → Nat → Nat × Word)
    (s : State) : Out :=
  let w := c.lt.bits
  vectorOp lat c.x2 c.merge d (if sx then [a] else [a, b]) (if sx then [b] else []) readD
    (fun vals x old vm => mergeLanes c.merge vm w (lanesOf c) old fun i =>
      f (laneAt w i (vals.getD 0 0)) (laneB sx w vals x i) (laneAt w i old)) s

/-- A lane-wise operation of one source. -/
def lanewise1 (lat : Nat) (d a : Reg) (c : VCtl) (f : Nat → Nat × Word) (s : State) : Out :=
  let w := c.lt.bits
  vectorOp lat c.x2 c.merge d [a] [] false
    (fun vals _ old vm => mergeLanes c.merge vm w (lanesOf c) old fun i => f (laneAt w i (vals.getD 0 0))) s

/-! ## Vector integer arithmetic (R252) -/

/-- A lane function of integers: no flag. -/
def intLane (lt : LaneT) (f : Int → Int → Int) (a b : Nat) : Nat × Word := (intBits lt.bits (f (laneInt lt a) (laneInt lt b)), 0)

/-- A value clamped to the lane type's range. -/
def clampLane (lt : LaneT) (v : Int) : Int := max (laneRange lt).1 (min (laneRange lt).2 v)

/-- An integer vector instruction. -/
def vint (d a b : Reg) (sx : Bool) (c : VCtl) (f : Int → Int → Int) (s : State) : Out :=
  lanewise2 2 d a b sx c false (fun x y _ => intLane c.lt f x y) s

/-- A bitwise or shifting vector instruction. -/
def vbits (d a b : Reg) (sx : Bool) (c : VCtl) (f : Nat → Nat → Nat) (s : State) : Out :=
  lanewise2 2 d a b sx c false (fun x y _ => (f x y % 2 ^ c.lt.bits, 0)) s

/-- `vadd`. -/
def execVaddInt (d a b : Reg) (sx : Bool) (c : VCtl) (s : State) : Out := vint d a b sx c (fun x y => x + y) s
/-- `vsub`. -/
def execVsubInt (d a b : Reg) (sx : Bool) (c : VCtl) (s : State) : Out := vint d a b sx c (fun x y => x - y) s
/-- `vmul`. -/
def execVmulInt (d a b : Reg) (sx : Bool) (c : VCtl) (s : State) : Out := vint d a b sx c (fun x y => x * y) s
/-- `vmulh`. -/
def execVmulh (d a b : Reg) (sx : Bool) (c : VCtl) (s : State) : Out :=
  vint d a b sx c (fun x y => (x * y) / (2 ^ c.lt.bits : Nat)) s
/-- `vand`. -/
def execVand (d a b : Reg) (sx : Bool) (c : VCtl) (s : State) : Out := vbits d a b sx c (fun x y => x &&& y) s
/-- `vor`. -/
def execVor (d a b : Reg) (sx : Bool) (c : VCtl) (s : State) : Out := vbits d a b sx c (fun x y => x ||| y) s
/-- `vxor`. -/
def execVxor (d a b : Reg) (sx : Bool) (c : VCtl) (s : State) : Out := vbits d a b sx c (fun x y => x ^^^ y) s
/-- `vsll`. -/
def execVsll (d a b : Reg) (sx : Bool) (c : VCtl) (s : State) : Out :=
  vbits d a b sx c (fun x y => x * 2 ^ (y % c.lt.bits)) s
/-- `vsrl`. -/
def execVsrl (d a b : Reg) (sx : Bool) (c : VCtl) (s : State) : Out :=
  vbits d a b sx c (fun x y => x / 2 ^ (y % c.lt.bits)) s
/-- The value of a lane as a signed integer, whatever its type. -/
def signedLane (w v : Nat) : Int := if 2 ^ (w - 1) ≤ v then (v : Int) - (2 ^ w : Nat) else v
/-- `vsra`. -/
def execVsra (d a b : Reg) (sx : Bool) (c : VCtl) (s : State) : Out :=
  vbits d a b sx c (fun x y => intBits c.lt.bits (signedLane c.lt.bits x / (2 ^ (y % c.lt.bits) : Nat))) s
/-- `vmin` on integers. -/
def execVminInt (d a b : Reg) (sx : Bool) (c : VCtl) (s : State) : Out := vint d a b sx c (fun x y => min x y) s
/-- `vmax` on integers. -/
def execVmaxInt (d a b : Reg) (sx : Bool) (c : VCtl) (s : State) : Out := vint d a b sx c (fun x y => max x y) s
/-- `vadd.sat`. -/
def execVaddSat (d a b : Reg) (sx : Bool) (c : VCtl) (s : State) : Out :=
  vint d a b sx c (fun x y => clampLane c.lt (x + y)) s
/-- `vsub.sat`. -/
def execVsubSat (d a b : Reg) (sx : Bool) (c : VCtl) (s : State) : Out :=
  vint d a b sx c (fun x y => clampLane c.lt (x - y)) s
/-- `vabs` on integers. -/
def execVabsInt (d a : Reg) (c : VCtl) (s : State) : Out :=
  lanewise1 2 d a c (fun x => (intBits c.lt.bits ((laneInt c.lt x).natAbs : Int), 0)) s

/-! ## Vector floating-point arithmetic and FMA (R253, R254) -/

/-- The rounding mode of an instruction of the issuing slot. -/
def modeOf (s : State) (c : VCtl) : Rnd := rndOf s.me.csr.rmode c.rm

/-- A floating vector instruction of two sources. -/
def vfp (d a b : Reg) (sx : Bool) (c : VCtl) (f : Fmt → Rnd → Nat → Nat → Nat × Word) (s : State) : Out :=
  lanewise2 6 d a b sx c false (fun x y _ => f (LaneT.fmt c.lt) (modeOf s c) x y) s

/-- `vadd`. -/
def execVaddFp (d a b : Reg) (sx : Bool) (c : VCtl) (s : State) : Out := vfp d a b sx c fpAdd s
/-- `vsub`. -/
def execVsubFp (d a b : Reg) (sx : Bool) (c : VCtl) (s : State) : Out := vfp d a b sx c fpSub s
/-- `vmul`. -/
def execVmulFp (d a b : Reg) (sx : Bool) (c : VCtl) (s : State) : Out := vfp d a b sx c fpMul s
/-- `vmin`. -/
def execVminFp (d a b : Reg) (sx : Bool) (c : VCtl) (s : State) : Out :=
  vfp d a b sx c (fun f _ x y => fpMinMax false f x y) s
/-- `vmax`. -/
def execVmaxFp (d a b : Reg) (sx : Bool) (c : VCtl) (s : State) : Out :=
  vfp d a b sx c (fun f _ x y => fpMinMax true f x y) s
/-- `vabs`. -/
def execVabsFp (d a : Reg) (c : VCtl) (s : State) : Out := lanewise1 6 d a c (fpSign (LaneT.fmt c.lt) false) s
/-- `vneg`. -/
def execVneg (d a : Reg) (c : VCtl) (s : State) : Out := lanewise1 6 d a c (fpSign (LaneT.fmt c.lt) true) s

/-- A fused multiply-add with its two signs (R254). -/
def vfused (negProd negAdd : Bool) (d a b : Reg) (sx : Bool) (c : VCtl) (s : State) : Out :=
  lanewise2 6 d a b sx c true (fun x y z => fpFma negProd negAdd (LaneT.fmt c.lt) (modeOf s c) x y z) s

/-- `vfma`. -/
def execVfma (d a b : Reg) (sx : Bool) (c : VCtl) (s : State) : Out := vfused false false d a b sx c s
/-- `vfms`. -/
def execVfms (d a b : Reg) (sx : Bool) (c : VCtl) (s : State) : Out := vfused false true d a b sx c s
/-- `vfnma`. -/
def execVfnma (d a b : Reg) (sx : Bool) (c : VCtl) (s : State) : Out := vfused true false d a b sx c s
/-- `vfnms`. -/
def execVfnms (d a b : Reg) (sx : Bool) (c : VCtl) (s : State) : Out := vfused true true d a b sx c s

/-! ## Compare and select (R255) -/

/-- A compare of lanes: an order on integers, or on exact values where a NaN makes every condition but `ne` false. -/
def cmpLane (lt : LaneT) (fi : Int → Int → Bool) (ff : XVal → XVal → Bool) (ne : Bool) (x y : Nat) : Bool × Word :=
  if lt.isFloat then
    let f := LaneT.fmt lt
    let u := decodeFmt f x
    let v := decodeFmt f y
    (if u = .nan ∨ v = .nan then ne else ff u v, nvOf f [x, y])
  else (fi (laneInt lt x) (laneInt lt y), 0)

/-- A `vcmp` (R255). -/
def vcmp (d a b : Reg) (c : VCtl) (fi : Int → Int → Bool) (ff : XVal → XVal → Bool) (ne : Bool) (s : State) : Out :=
  let w := c.lt.bits
  vectorToInt 2 d [a, b] (fun vals vm =>
    let rs := (List.range c.lt.lanes).map fun i =>
      if c.merge && !vmBit vm i then (0, (0 : Word))
      else
        let (r, fl) := cmpLane c.lt fi ff ne (laneAt w i (vals.getD 0 0)) (laneAt w i (vals.getD 1 0))
        (if r then 2 ^ i else 0, fl)
    (BitVec.ofNat 64 (rs.map (·.1)).sum, (rs.map (·.2)).foldl (· ||| ·) 0)) s

/-- `vcmp.eq`. -/
def execVcmpEq (d a b : Reg) (c : VCtl) (s : State) : Out := vcmp d a b c (fun x y => x == y) xequal false s
/-- `vcmp.ne`. -/
def execVcmpNe (d a b : Reg) (c : VCtl) (s : State) : Out := vcmp d a b c (fun x y => x != y) (fun x y => !xequal x y) true s
/-- `vcmp.lt`. -/
def execVcmpLt (d a b : Reg) (c : VCtl) (s : State) : Out := vcmp d a b c (fun x y => decide (x < y)) xless false s
/-- `vcmp.ge`. -/
def execVcmpGe (d a b : Reg) (c : VCtl) (s : State) : Out :=
  vcmp d a b c (fun x y => decide (y ≤ x)) (fun x y => !xless x y) false s
/-- `vcmp.le`. -/
def execVcmpLe (d a b : Reg) (c : VCtl) (s : State) : Out :=
  vcmp d a b c (fun x y => decide (x ≤ y)) (fun x y => !xless y x) false s
/-- `vcmp.gt`. -/
def execVcmpGt (d a b : Reg) (c : VCtl) (s : State) : Out := vcmp d a b c (fun x y => decide (y < x)) (fun x y => xless y x) false s

/-- `vsel` (R255). -/
def execVsel (d a b : Reg) (c : VCtl) (s : State) : Out :=
  let w := c.lt.bits
  vectorOp 2 false false d [a, b] [] false (fun vals _ _ vm =>
    (packLanes w (fun i => if vmBit vm i then laneAt w i (vals.getD 0 0) else laneAt w i (vals.getD 1 0)) c.lt.lanes, 0)) s

/-! ## Permute and broadcast (R256) -/

/-- A permute: lane i of the result from the sources, the integer and the old D. -/
def permute (d : Reg) (srcs xs : List Reg) (readD : Bool) (c : VCtl) (f : List Nat → Word → Nat → Nat → Nat) (s : State) :
    Out :=
  let w := c.lt.bits
  vectorOp 2 false c.merge d srcs xs readD
    (fun vals x old vm => mergeLanes c.merge vm w c.lt.lanes old fun i => (f vals x old i, 0)) s

/-- `vperm`. -/
def execVperm (d a b : Reg) (c : VCtl) (s : State) : Out :=
  let w := c.lt.bits
  permute d [a, b] [] false c (fun vals _ _ i => laneAt w (laneAt w i (vals.getD 1 0) % c.lt.lanes) (vals.getD 0 0)) s
/-- `vperm2`. -/
def execVperm2 (d a b : Reg) (c : VCtl) (s : State) : Out :=
  let w := c.lt.bits
  let n := c.lt.lanes
  permute d [a, b] [] true c (fun vals _ old i =>
    let j := laneAt w i (vals.getD 1 0) % (2 * n)
    if j < n then laneAt w j (vals.getD 0 0) else laneAt w (j - n) old) s
/-- `vbcast`. -/
def execVbcast (d a : Reg) (c : VCtl) (s : State) : Out :=
  permute d [] [a] false c (fun _ x _ _ => x.toNat % 2 ^ c.lt.bits) s
/-- `vbcastl`. -/
def execVbcastl (d a : Reg) (idx : BitVec 8) (c : VCtl) (s : State) : Out :=
  permute d [a] [] false c (fun vals _ _ _ => laneAt c.lt.bits idx.toNat (vals.getD 0 0)) s
/-- `vslup`. -/
def execVslup (d a b : Reg) (idx : BitVec 8) (c : VCtl) (s : State) : Out :=
  let w := c.lt.bits
  let k := idx.toNat
  permute d [a, b] [] false c (fun vals _ _ i =>
    if k ≤ i then laneAt w (i - k) (vals.getD 0 0) else laneAt w (c.lt.lanes - k + i) (vals.getD 1 0)) s
/-- `vsldn`. -/
def execVsldn (d a b : Reg) (idx : BitVec 8) (c : VCtl) (s : State) : Out :=
  let w := c.lt.bits
  let k := idx.toNat
  let n := c.lt.lanes
  permute d [a, b] [] false c (fun vals _ _ i =>
    if i + k < n then laneAt w (i + k) (vals.getD 0 0) else laneAt w (i + k - n) (vals.getD 1 0)) s
/-- `vins`. -/
def execVins (d a : Reg) (idx : BitVec 8) (c : VCtl) (s : State) : Out :=
  let w := c.lt.bits
  permute d [] [a] true c (fun _ x old i => if i = idx.toNat then x.toNat % 2 ^ w else laneAt w i old) s
/-- `vext`. -/
def execVext (d a : Reg) (idx : BitVec 8) (c : VCtl) (s : State) : Out :=
  let w := c.lt.bits
  vectorToInt 2 d [a] (fun vals _ =>
    let v := laneAt w idx.toNat (vals.getD 0 0)
    (if c.lt.isSigned then BitVec.ofInt 64 (laneInt c.lt v) else BitVec.ofNat 64 v, 0)) s

/-! ## Reductions (R165, R257) -/

/-- The operation of a reduction: of two lane values. -/
abbrev RedOp := Nat → Nat → Nat × Word

/-- One level of the tree: adjacent lanes combined. -/
def redLevel (f : RedOp) : List (Nat × Word) → List (Nat × Word)
  | x :: y :: rest => ((f x.1 y.1).1, x.2 ||| y.2 ||| (f x.1 y.1).2) :: redLevel f rest
  | l => l

/-- The tree of R165, `fuel` levels. -/
def redTree (f : RedOp) : Nat → List (Nat × Word) → List (Nat × Word)
  | 0, l => l
  | n + 1, l => redTree f n (redLevel f l)

/-- The reduction of one register's lanes under a mask. -/
def reduceReg (f : RedOp) (lt : LaneT) (ident : Nat) (vm : Word) (v : Nat) : Nat × Word :=
  let lanes := (List.range lt.lanes).map fun i => if vmBit vm i then (laneAt lt.bits i v, (0 : Word)) else (ident, 0)
  (redTree f 6 lanes).headD (ident, 0)

/-- What the chunks of a stream that are left give: their values with the masks they apply, or what stops the first
that cannot be read, with the state after those before it (R257). -/
inductive RestRead where
  | all (vs : List (Nat × Word)) (s : State)
  | stop (b : Block) (s : State)
  | later (s : State)
  deriving DecidableEq, Repr

/-- The chunks of stream k that are left, `fuel` of them at most. -/
def readRest (s : State) (k : Fin 4) : Nat → RestRead
  | 0 => .all [] s
  | n + 1 =>
    let t := s.me.streams[k]
    if t.chunks ≤ t.pos then .all [] s
    else
      let got : ChunkRead := match t.ahead with
        | c :: _ => .got c s
        | [] => readChunk s t t.pos
      match got with
      | .later s => .later s
      | .got (.trap c v) s => .stop (.chunk k.val c v) s
      | .got (.fault page) s => .stop (.chunkFault k.val page) s
      | .got (.data v) s =>
        let len := t.chunkLen t.pos
        let full := decide (len = 64)
        let vm := if full then BitVec.allOnes 64 else partialMask t len
        let t := { t with pos := t.pos + 1, fetched := Nat.max t.fetched (t.pos + 1), ahead := t.ahead.drop 1 }
        let s := s.setMe { s.me with
          streams := s.me.streams.set k t
          csr := if full then s.me.csr else { s.me.csr with vm := vm } }
        match readRest s k n with
        | .all vs s => .all ((v.toNat, vm) :: vs) s
        | r => r

/-- The width of Rd for a reduction's lane (R257). -/
def redResult (lt : LaneT) (v : Nat) : Vec :=
  if lt.isSigned then ((BitVec.ofInt 64 (laneInt lt v)).setWidth 512) else BitVec.ofNat 512 v

/-- `vred.op` (R257). -/
def vred (f : RedOp) (ident : Nat) (d a : Reg) (c : VCtl) (s : State) : Out :=
  gate false { reads := plainV s [a], vwrites := [xreg d] } s fun s =>
    let done (v : Nat × Word) (s : State) : Out := .next (finish (writeVar (noteBound s [a]) (xreg d) (redResult c.lt v.1) v.2))
    match boundStream s.me a with
    | some k =>
      let t := s.me.streams[k]
      if !t.on || t.write || t.chunks ≤ t.pos then .next (trapI s 0x64 0)
      else match readRest s k (t.chunks - t.pos) with
        | .later s1 => .next ((hold { s1 with slots := s.slots } (.chunk k.val)).post (.streamChunkArrive s.curCore s.curSlot k.val))
        | .stop b s1 => blocked s1 b
        | .all vs s1 =>
          match vs.map fun e => reduceReg f c.lt ident e.2 e.1 with
          | [] => .next s
          | r :: rs => done (rs.foldl (fun acc x => ((f acc.1 x.1).1, acc.2 ||| x.2 ||| (f acc.1 x.1).2)) r) s1
    | none =>
      let (v, ft) := popV s a
      match ft.block with
      | some b => blocked s b
      | none => done (reduceReg f c.lt ident ft.s.me.csr.vm v.toNat) ft.s

/-- An integer reduction's operation. -/
def redInt (lt : LaneT) (f : Int → Int → Int) : RedOp := fun x y => intLane lt f x y

/-- `vred.add`. -/
def execVredAdd (d a : Reg) (c : VCtl) (s : State) : Out :=
  let f := LaneT.fmt c.lt
  if c.lt.isFloat then vred (fpAdd f (modeOf s c)) (f.withSign true 0) d a c s
  else vred (redInt c.lt (fun x y => x + y)) 0 d a c s
/-- `vred.min`. -/
def execVredMin (d a : Reg) (c : VCtl) (s : State) : Out :=
  let f := LaneT.fmt c.lt
  if c.lt.isFloat then vred (fpMinMax false f) (f.inf false) d a c s
  else vred (redInt c.lt min) (intBits c.lt.bits (laneRange c.lt).2) d a c s
/-- `vred.max`. -/
def execVredMax (d a : Reg) (c : VCtl) (s : State) : Out :=
  let f := LaneT.fmt c.lt
  if c.lt.isFloat then vred (fpMinMax true f) (f.inf true) d a c s
  else vred (redInt c.lt max) (intBits c.lt.bits (laneRange c.lt).1) d a c s
/-- `vred.and`. -/
def execVredAnd (d a : Reg) (c : VCtl) (s : State) : Out :=
  vred (fun x y => (x &&& y, 0)) (2 ^ c.lt.bits - 1) d a c s
/-- `vred.or`. -/
def execVredOr (d a : Reg) (c : VCtl) (s : State) : Out := vred (fun x y => (x ||| y, 0)) 0 d a c s
/-- `vred.xor`. -/
def execVredXor (d a : Reg) (c : VCtl) (s : State) : Out := vred (fun x y => (x ^^^ y, 0)) 0 d a c s

/-! ## Conversions (R258 to R260) -/

/-- The bits of group G of width `w`, `n` lanes, replaced in an old value. -/
def putGroup (w n g old : Nat) (v : Nat) : Nat :=
  let lo := w * n * g
  let size := 2 ^ (w * n)
  old % 2 ^ lo + v % size * 2 ^ lo + old / 2 ^ lo / size * size * 2 ^ lo

/-- `vcvt` between fixed types (R258). -/
def execVcvt (d a : Reg) (g : BitVec 3) (st lt : LaneT) (rm : RmSel) (s : State) : Out :=
  let ws := st.bits
  let wd := lt.bits
  let n := 512 / Nat.max ws wd
  let gs := if ws < wd then g.toNat else 0
  let gd := if wd < ws then g.toNat else 0
  let mode := rndOf s.me.csr.rmode rm
  vectorOp 4 false false d [a] [] (decide (wd < ws)) (fun vals _ old _ =>
    let rs := (List.range n).map fun i => cvtLane st lt mode (laneAt ws (gs * n + i) (vals.getD 0 0))
    let v := packLanes wd (fun i => (rs.getD i (0, 0)).1) n
    (if wd < ws then putGroup wd n gd old v else v, (rs.map (·.2)).foldl (· ||| ·) 0)) s

/-- The scale word at a pointer, a relaxed load without the check of R56 (R162): its value and flags, or what stops it. A
pointer of 0 is 1.0. -/
def scaleAt (s : State) (ptr : Word) (act : XVal → Word → State → Out) : Out :=
  if ptr = 0 then act (.fin false 1 1) 0 s
  else loadBy true ptr 8 false (fun v s =>
    let (x, fl) := scaleOfWord (BitVec.ofNat 64 v)
    act x fl s) s

/-- The list and position operands of a narrow conversion (R259). -/
structure ListArg where
  addr : Word
  row : Nat
  col : Nat
  deriving DecidableEq, Repr

/-- A bad position word (R259): a reserved bit, or columns past the unit. -/
def badPosition (w : Word) (n : Nat) : Bool :=
  w.extractLsb' 6 2 != 0 || w.extractLsb' 14 50 != 0 || decide (64 < (w.extractLsb' 0 6).toNat + n)

/-- The result of a narrow conversion: the value for D, its flags and the list after it. -/
abbrev NarrowResult := Nat × Word × Option OutList

/-- The 256 bytes of an outlier list read as one access of the issuing slot, for what the instruction then does (R259,
R260, R274). -/
def listThen (relaxed store : Bool) (ea : Word) (act : Nat → Option Loc → State → Out) (s : State) : Out :=
  stopped s (checkGlobal s { ea := ea, n := 256, align := 256, store := store } anyMapping) (needOf store)
    (fun dev s => withRemote ea dev (fun s =>
      let free (i : Nat) : Nat := (freeVec (s.draws + i)).toNat
      act (packLanes 512 free 4) none { s with draws := s.draws + 4 }) (unbound s))
    (fun l s =>
      let held (va : Nat) : Bool := (leasedLine s.me va 128).isSome
      let s := if held ea.toNat && held (ea.toNat + 128) then s else unbound s
      if ownPending s s.cur .global ea.toNat 256 then .next (holdOwn s .global ea 256)
      else openRange store ea.toNat 128 2 (fun s =>
        let (s, lo) := loadNow relaxed s ea.toNat l 128
        let (s, hi) := loadNow relaxed s (ea.toNat + 128) (l.plus 128) 128
        act (lo + 256 ^ 128 * hi) (some l) s) s)

/-- One line of a list stored by the issuing slot, and the number of accesses that complete only with their subscribers. -/
def listStore (s : State) (va : Nat) (l : Loc) (bs : List Byte) : State × Nat :=
  match leasedLine s.me va 128 with
  | some x => (s.setMe (performHeld s.me x va (.store (offsets 0 bs))).1, 0)
  | none =>
    let r := performAt s s.curCore s.myPart va l (.store (offsets 0 bs)) (some (s.cur, .ack))
    (r.s, if r.deferred then 1 else 0)

/-- A list stored back where the access was performed, and the slot's wait for it (R127, R259). -/
def listBack (s : State) (ea : Word) (l : Option Loc) (bs : List Byte) : State :=
  match l with
  | none => outstanding s [] true
  | some l =>
    let (s, i) := listStore s ea.toNat l (bs.take 128)
    let (s, j) := listStore s (ea.toNat + 128) (l.plus 128) (bs.drop 128)
    let s := outstanding s [] (i + j == 0)
    s.setMe { s.me with acks := Nat.max 1 (i + j) }

/-- The result of a conversion with a list written: the register lands when the access completes, in a plain register
as a result of latency 4. -/
def withList (s0 : State) (d : Reg) (v : Nat) (fl : Word) (s : State) (access : State → State) : Out :=
  pushV s0 s d (BitVec.ofNat 512 v) (fun s => .next (access (if fl = 0 then s else writeFlags s 4 fl)))
    (fun s => .next (access (writeFixed s 4 (vreg d) (BitVec.ofNat 512 v) fl)))

/-- A narrow conversion: `f` gives the result from the source, the old D, the scale and the list; the list is read, and
for narrowing written, as one access of 256 bytes (R259, R260). Bound sources are popped when nothing stops it (R73). -/
def narrowConv (store : Bool) (d a b : Reg) (k : BitVec 2) (n : Nat)
    (f : State → Fmt → Nat → Nat → XVal → Option OutList → Nat → Nat → NarrowResult) (s : State) : Out :=
  let u : Uses := { reads := plainV s [a] ++ (if b = 0 then [] else runX b 2) ++ (if store then plainV s [d] else []), writes := plainV s [d], bad := if b = 0 then none else badRun b 2 }
  gate false u s fun s0 =>
    let desc := s0.me.csr.fmt[k.toFin]
    if badDesc desc then .next (trapI s0 0x07 (zextImm k))
    else
      let fields := if store then [a, d] else [a]
      let (vs, ft) := popAll s0 fields
      match ft.block with
      | some x => blocked s0 x
      | none =>
        let v := (vs.getD 0 0).toNat
        let old := (vs.getD 1 0).toNat
        let fm := descFmt desc
        let popped (s : State) : State := noteBound (popAll s fields).2.s [a, d]
        let scale := s0.me.csr.scl[k.toFin]
        if b = 0 then
          scaleAt s0 scale fun sc fs s =>
            let (r, fl, _) := f s fm v old sc none 0 0
            putVector s (popped s) 4 false d r (fl ||| fs)
        else
          let addr := readX s0 b
          let pos := readX s0 (Reg.succ b 1)
          let row := (pos.extractLsb' 8 6).toNat
          let col := (pos.extractLsb' 0 6).toNat
          if badPosition pos n then .next (trapI s0 0x25 pos)
          else listThen false store addr (fun w l s =>
            match parseOutList (natToBytes 256 w) with
            | none => .next (trapI s 0x25 addr)
            | some lst => scaleAt s scale fun sc fs s =>
              let (r, fl, lst') := f s fm v old sc (some lst) row col
              withList s d r (fl ||| fs) (popped s) fun s =>
                if store && !inRecon s then listBack s addr l (outBytes (lst'.getD lst)) else outstanding s [] true) s0

/-- Elements narrowed in order, the list threaded through (R259). -/
def narrowAll (fm : Fmt) (mode : Rnd) (sc : XVal) (st : LaneT) (v row col : Nat) :
    Nat → Nat → Option OutList → List Nat × Word × Option OutList
  | 0, _, l => ([], 0, l)
  | n + 1, i, l =>
    let c := laneAt st.bits i v
    let (code, fl, l) := narrowElement fm mode l row (col + i) (xdivBy (decodeFmt (LaneT.fmt st) c) sc)
    let (cs, fls, l) := narrowAll fm mode sc st v row col n (i + 1) l
    (code :: cs, fl ||| nvOf (LaneT.fmt st) [c] ||| fls, l)

/-- `vcvt.n` (R259). A group past the last, whose number the descriptor sets, is no function. -/
def execVcvtN (d a b : Reg) (g : BitVec 3) (st : LaneT) (k : BitVec 2) (rm : RmSel) (s : State) : Out :=
  let n := st.lanes
  let es := descStorage s.me.csr.fmt[k.toFin]
  if 512 ≤ es * n * g.toNat then .next (trapI s 0x03 s.me.ir)
  else narrowConv true d a b k n (fun s fm v old sc list row col =>
    let (cs, fl, l) := narrowAll fm (rndOf s.me.csr.rmode rm) sc st v row col n 0 list
    (putGroup es n g.toNat old (packLanes es (fun i => cs.getD i 0) n), fl, l)) s

/-- `vcvt.w` (R260). -/
def execVcvtW (d a b : Reg) (g : BitVec 3) (lt : LaneT) (k : BitVec 2) (rm : RmSel) (s : State) : Out :=
  let n := lt.lanes
  let es := descStorage s.me.csr.fmt[k.toFin]
  if 512 ≤ es * n * g.toNat then .next (trapI s 0x03 s.me.ir)
  else narrowConv false d a b k n (fun s fm v _ sc list row col =>
    let mode := rndOf s.me.csr.rmode rm
    let rs := (List.range n).map fun i =>
      let listed := match list with
        | none => none
        | some l => outlierAt l.entries row (col + i)
      let x := match listed with
        | some o => decodeFmt fp32 o.toNat
        | none => decodeFmt fm (laneAt es (g.toNat * n + i) v)
      let nv := match listed with
        | some o => nvOf fp32 [o.toNat]
        | none => nvOf fm [laneAt es (g.toNat * n + i) v]
      let (p, bad) := xmul x sc
      finishFp (LaneT.fmt lt) mode nv (p, bad)
    (packLanes lt.bits (fun i => (rs.getD i (0, 0)).1) n, (rs.map (·.2)).foldl (· ||| ·) 0, none)) s

end Sys2Proof.Machine
end

