-- ==== Sys2Proof/Machine/SpecialFn.lean ====
section
/-! DEFINITION. The meanings of majors 0x28 and 0x29: special functions (R264, R265) and the top-k unit (R266 to R268),
with the event by which `topk.out` produces chunks. -/

namespace Sys2Proof.Machine

/-! ## Special functions -/

/-- A special function (R264, R265). With D bound as `qs` it sets the qs function and pushes its operand; another
bound D takes the result at once, and a plain register gets it as a V result. -/
def specialFn (fn : Nat) (d a : Reg) (c : VCtl) (s : State) : Out :=
  let toQs := boundQueue s.me d = some 1
  let dSrc := c.merge && !toQs
  let u : Uses := { reads := plainV s [a] ++ (if dSrc then plainV s [d] else []), vwrites := plainV s [d] }
  gate false u s fun s =>
    let (vs, ft) := popAll s (if dSrc then [a, d] else [a])
    match ft.block with
    | some b => blocked s b
    | none =>
      let s1 := noteBound ft.s [d, a]
      let v := vs.getD 0 0
      if toQs then
        let s2 := s1.setMe { s1.me with qsFn := some ⟨fn, c.lt, c.rm, c.merge⟩ }
        pushQs s s2 v (fun s => .next (finish (unbound s)))
      else
        let (r, fl) := sfApply fn c.lt (rndOf s1.me.csr.rmode c.rm) c.merge s1.me.csr.vm (vs.getD 1 0) v
        pushV s s1 d r
          (fun s => .next (finish (closeSf (unbound (if fl = 0 then s else writeFlags s (sfLatency c.lt) fl)) c.lt)))
          (fun s =>
            let (id, s) := pendV s s.cur (.special (s.myCore.cyc + sfLatency c.lt)) [vreg d] (some [r]) fl
            .next (finish (closeSf (unbound (s.post (.variableResultArrival s.curCore s.curSlot id))) c.lt)))

/-- `vexp` (R264). -/
def execVexp (d a : Reg) (c : VCtl) (s : State) : Out := specialFn 0 d a c s
/-- `vexp2` (R264). -/
def execVexp2 (d a : Reg) (c : VCtl) (s : State) : Out := specialFn 1 d a c s
/-- `vlog2` (R264). -/
def execVlog2 (d a : Reg) (c : VCtl) (s : State) : Out := specialFn 2 d a c s
/-- `vrcp` (R264). -/
def execVrcp (d a : Reg) (c : VCtl) (s : State) : Out := specialFn 3 d a c s
/-- `vrsqrt` (R264). -/
def execVrsqrt (d a : Reg) (c : VCtl) (s : State) : Out := specialFn 4 d a c s
/-- `vsqrt` (R264). -/
def execVsqrt (d a : Reg) (c : VCtl) (s : State) : Out := specialFn 5 d a c s
/-- `vsin` (R264). -/
def execVsin (d a : Reg) (c : VCtl) (s : State) : Out := specialFn 6 d a c s
/-- `vcos` (R264). -/
def execVcos (d a : Reg) (c : VCtl) (s : State) : Out := specialFn 7 d a c s
/-- `vtanh` (R264). -/
def execVtanh (d a : Reg) (c : VCtl) (s : State) : Out := specialFn 8 d a c s
/-- `vsigm` (R264). -/
def execVsigm (d a : Reg) (c : VCtl) (s : State) : Out := specialFn 9 d a c s

/-! ## The top-k unit -/

/-- A configuration word that `topk.cfg` refuses (R266). -/
def badTopK (v : Word) : Bool :=
  v.extractLsb' 9 23 != 0 || v.extractLsb' 0 9 == 0 || decide (256 < (v.extractLsb' 0 9).toNat)

/-- `topk.cfg` (R266): a new session; chunks of the earlier one are discarded (R269). -/
def execTopkCfg (a : Reg) (lt : LaneT) (smallest : Bool) (s : State) : Out :=
  gate false { reads := [xreg a] } s fun s =>
    let v := readX s a
    if badTopK v then .next (trapI s 0x64 v)
    else
      let t : TopK := ⟨lt, smallest, (v.extractLsb' 0 9).toNat, v.extractLsb' 32 32, [], true, []⟩
      .next (finish (s.setMe { s.me with topk := some t, qk := [] }))

/-- Input to the session of the slot: a chunk of candidates or of pairs, popped when its register is bound (R267). -/
def topkInput (enter : TopK → Word → Vec → TopK) (a : Reg) (s : State) : Out :=
  gate false { reads := plainV s [a] } s fun s =>
    let (v, f) := popV s a
    match f.block with
    | some b => blocked s b
    | none =>
      match openSession f.s.me with
      | none => .next (trapI s 0x64 0)
      | some t =>
        let s1 := noteBound f.s [a]
        .next (finish (s1.setMe { s1.me with topk := some (enter t s1.me.csr.vm v) }))

/-- `topk.in` (R267). -/
def execTopkIn (a : Reg) (s : State) : Out := topkInput enterChunk a s
/-- `topk.merge` (R267). -/
def execTopkMerge (a : Reg) (s : State) : Out := topkInput (fun t _ v => mergePairs t v) a s

/-- The 64 bits of a pair in a chunk: the key low, the index high (R267). -/
def pairBits (p : KPair) : Nat := p.key.toNat + p.idx.toNat * 2 ^ 32

/-- A padding pair: key 0 and index 0xFFFF_FFFF (R268). -/
def padPair : KPair := ⟨0, 0xFFFFFFFF⟩

/-- Chunk j of the pairs held, best first, padded (R268). -/
def topkVec (held : List KPair) (j : Nat) : Vec :=
  BitVec.ofNat 512 (packLanes 64 (fun i => pairBits (held.getD (8 * j + i) padPair)) 8)

/-- The chunks that `topk.out` produces (R268): one padding chunk for a count of 0. -/
def topkChunks (held : List KPair) : List Vec :=
  (List.range (Nat.max 1 ((held.length + 7) / 8))).map (topkVec held)

/-- The slot's session, or one that holds nothing when none was configured. -/
def sessionOf (sl : Slot) : TopK :=
  match sl.topk with
  | some t => t
  | none => ⟨.i32, false, 1, 0, [], false, []⟩

/-- `topk.out` (R268): the session closes, Rd gets the count, and the chunks are produced one by one. -/
def execTopkOut (d : Reg) (s : State) : Out :=
  gate false { vwrites := [xreg d] } s fun s =>
    let t := sessionOf s.me
    let s := writeVar s (xreg d) (BitVec.ofNat 512 t.held.length) 0
    let s := s.setMe { s.me with topk := some { t with isOpen := false, out := t.out ++ topkChunks t.held } }
    .next (finish (s.post (.topkChunk s.curCore s.curSlot)))

/-- TOPK_CHUNK: the unit produces the next chunk while the queue has room for it (R268); a pop of a full queue asks
again. -/
def execTopkChunk (core slot : Nat) (s : State) : Out :=
  let k := slotKey core slot
  let sl := s.slot k
  match sl.topk with
  | none => .next s
  | some t =>
    match t.out with
    | [] => .next s
    | v :: vs =>
      if 4 ≤ sl.qk.length then .next s
      else
        let s := s.setSlot k { sl with qk := sl.qk ++ [v], topk := some { t with out := vs } }
        .next (if vs.isEmpty then s else s.post (.topkChunk core slot))

end Sys2Proof.Machine
end

