-- ==== Sys2Proof/Machine/Handles.lean ====
section
/-! DEFINITION. The meanings of majors 0x34 and 0x35, handles (R285 to R287, R115 to R117), the elements they name, and
the Knead engine (R118 to R123). -/

namespace Sys2Proof.Machine

/-! ## Records and handles -/

/-- Does the state block of a record name the record at `addr` (R111 check 7)? -/
def blockNames (block addr : Nat) : Bool := block == addr

/-- The record read at an address with the reason it is refused for, if any (R111); for a converting one that passes the
other checks the address in its state block is read too. -/
def readRecord (addr : Word) (sets : Bool) (act : Vec → Option Nat → State → Out) (s : State) : Out :=
  loadThen addr 64 sets (fun v s =>
    let r : Vec := BitVec.ofNat 512 v
    match recordFault r true with
    | some n => act r (some n) s
    | none =>
      if recConv r then
        loadThen (BitVec.ofNat 64 (recAux r + 64)) 8 false (fun a s => act r (recordFault r (blockNames a addr.toNat)) s) s
      else act r none s) s

/-- A handle register of the issuing slot. -/
def handleAt (sl : Slot) (r : Reg) : Handle := if h : r.toNat < 8 then sl.h[r.toNat] else Handle.invalid

/-- A handle register of the issuing slot replaced. -/
def setHandle (s : State) (r : Reg) (v : Handle) : State :=
  if h : r.toNat < 8 then s.setMe { s.me with h := s.me.h.set r.toNat v } else s

/-- An access through a handle (R76, R115, R116): BAD_REGISTER when it is INVALID; a marked one reads its record first,
and a record that fails traps as `th.ld` would. -/
def withHandle (ha : Reg) (act : Handle → State → Out) (s : State) : Out :=
  let h := handleAt s.me ha
  if !h.valid then .next (trapI s 0x07 (zextImm ha))
  else if !h.reload then act h s
  else readRecord h.addr true (fun r bad s =>
    match bad with
    | some n => .next (trapI (setHandle s ha Handle.invalid) 0x62 (h.addr + BitVec.ofNat 64 n))
    | none =>
      let h' : Handle := ⟨true, h.addr, r, false⟩
      act h' (setHandle s ha h')) s

/-- `th.ld` (R285). -/
def execThLd (d a : Reg) (s : State) : Out :=
  gate false { reads := [xreg a], bad := badHandle d } s fun s =>
    let ea := readX s a
    readRecord ea true (fun r bad s =>
      match bad with
      | some n => .next (trapI (setHandle s d Handle.invalid) 0x62 (ea + BitVec.ofNat 64 n))
      | none => .next (outstanding (unbound (setHandle s d ⟨true, ea, r, false⟩)) [] true)) s

/-- `th.seal` (R285): the seal is computed and written as one access under an internal lease. -/
def execThSeal (a : Reg) (s : State) : Out :=
  gate false { reads := [xreg a] } s fun s =>
    let ea := readX s a
    stopped s (checkGlobal s { ea := ea, n := 64, align := 64, store := true } anyMapping) .write
      (fun dev s => goRemote 0 .none ea dev s)
      (fun l s =>
        let new (v : Nat) : AccessOp := .store (offsets 36 (natToBytes 4 (sealOf (BitVec.ofNat 512 v))))
        if inRecon s then .next (outstanding s [] true)
        else match leasedLine s.me ea.toNat 64 with
          | some x =>
            let v := (performHeld s.me x ea.toNat (.load 64)).2
            .next (outstanding (s.setMe (performHeld s.me x ea.toNat (new v)).1) [] true)
          | none =>
            let s := unbound s
            if ownPending s s.cur .global ea.toNat 64 then .next (holdOwn s .global ea 64)
            else whenOpen s ea.toNat 64 l true true fun s =>
              let r := performAt s s.curCore s.myPart ea.toNat l (.load 64) none
              .next (performNow r.s ea l (new r.old) fun _ => []))

/-! ## Elements (R112, R121, R287) -/

/-- The coordinates in x(b) and x(b + 1) (R270): c0 to c3. -/
def coordsOf (s : State) (b : Reg) : Nat × Nat × Nat × Nat :=
  let lo := (readX s b).toNat
  let hi := (readX s (Reg.succ b 1)).toNat
  (lo % 2 ^ 32, lo / 2 ^ 32, hi % 2 ^ 32, hi / 2 ^ 32)

/-- The matrix, row and column of coordinates (R112); those at or above RANK are taken as 0. -/
def coordElem (r : Vec) (c0 c1 c2 c3 : Nat) : Nat × Nat × Nat :=
  let c (k v : Nat) : Nat := if k < recRank r then v else 0
  (c 3 c3 * recD r 2 + c 2 c2, c 1 c1, c 0 c0)

/-- The elements of a vector form from column b on (R287). -/
def rowElems (r : Vec) (m a b : Nat) : List (Nat × Nat × Nat) :=
  ((List.range (512 / recBits r)).filter fun i => decide (b + i < recD r 0)).map fun i => (m, a, b + i)

/-- Where an access to elements is made: by another device, as an access that leaves its slot, or by the slot now, at the
places of its pages. -/
inductive ElemAt where
  | away
  | leaves (locs : List (Nat × Loc))
  | now (locs : List (Nat × Loc))
  deriving DecidableEq, Repr

/-- An access to elements through a handle: range, checks, waits, then `act` on the elements (R112, R121, R216). -/
def elemAccess (vector store rx : Bool) (ha b : Reg) (s : State)
    (act : Vec → List (Nat × Nat × Nat) → ElemAt → State → Out) : Out :=
  withHandle ha (fun h s =>
    let r := h.record
    let (c0, c1, c2, c3) := coordsOf s b
    match badCoord r c0 c1 c2 c3 with
    | some v => .next (trapI s 0x25 v)
    | none =>
      let (m, a, col) := coordElem r c0 c1 c2 c3
      let es := if vector then rowElems r m a col else [(m, a, col)]
      let vas := elemBytes r es
      let held (va : Nat) : Bool := (leasedLine s.me va 1).isSome
      let first := vas.headD 0
      let o := stopped s (checkBytes s store vas) (needOf store)
        (fun dev s => if rx then act r es .away s else withRemote (BitVec.ofNat 64 first) dev (act r es .away) s)
        (fun _ s =>
          let s := if vas.all held then s else unbound s
          let locs := pagePlaces s s.myPart (needOf store) vas
          if rx && !vas.any held then act r es (.leaves locs) s
          else match vas.find? fun va => ownPending s s.cur .global va 1 with
            | some va => .next (holdOwn s .global (BitVec.ofNat 64 va) 1)
            | none =>
              if store && inRecon s then act r es .away s
              else openBytes store vas (act r es (.now locs)) s)
      if rx then stillReady s o else o) s

/-- A relaxed access to elements leaves the slot, which goes on (R222, R287). -/
def elemsLeave (r : Vec) (es : List (Nat × Nat × Nat)) (vs : Option (List Nat)) (where_ : ElemAt) (kind : LoadKind)
    (regs : List RegId) (s : State) : Out :=
  if 16 ≤ (s.me.relaxed.filter (·.counts)).length then .next (hold s .relaxedRoom)
  else
    let vas := elemBytes r es
    let first := vas.foldl Nat.min (vas.headD 0)
    let (locs, loc) := match where_ with
      | .leaves locs => (locs, some (placeIn locs first))
      | .now locs => (locs, some (placeIn locs first))
      | .away => ([], none)
    let op : AccessOp := .elems r es vs locs (vas.foldl Nat.max 0 + 1 - first)
    let (id, s) := addRelaxed s .global (BitVec.ofNat 64 first) loc (if inRecon s then op.recon else op) kind false true
    let s := if regs.isEmpty then s else s.setMe { s.me with vpend := s.me.vpend ++ [⟨id, regs, none, 0, .plain⟩] }
    .next (finish (s.post (.relaxedAccessComplete s.curCore s.curSlot id)))

/-- A load of elements into a register: a bound one takes the value at once and pushes it (R73, R221, R287). -/
def elemsLoad (vector rx : Bool) (d : RegId) (ha b : Reg) (s : State) : Out :=
  let bound := d.vec && isBound s.me d.r
  let kind : LoadKind := if vector then .vec else .int 8 false
  let answer (v : Vec) (s : State) : Out := if bound then loadBound s d.r v else .next (outstanding s [(d, v)] true)
  elemAccess vector false (rx && !bound) ha b s fun r es w s =>
    match w with
    | .now locs =>
      let (s, vs) := elemReads s ⟨s.cur, false, locs⟩ r es
      answer (BitVec.ofNat 512 (elemsValue r vector vs)) s
    | w =>
      if rx && !bound then elemsLeave r es none w kind [d] s
      else answer (if vector then freeVec s.draws else (Config.freeWord s.draws).setWidth 512) s.draw

/-- A store of elements (R287): what is stored in each, by `vals`. -/
def elemsStore (rx : Bool) (r : Vec) (es : List (Nat × Nat × Nat)) (vals : List Nat) (w : ElemAt) (s : State) : Out :=
  match w with
  | .now locs =>
    let (s, n) := elemWrites s ⟨s.cur, false, locs⟩ r (some (s.cur, .ack)) (es.zip vals)
    let s := outstanding s [] (n == 0)
    .next (s.setMe { s.me with acks := Nat.max 1 n })
  | w => if rx then elemsLeave r es (some vals) w .none [] s else .next (outstanding s [] true)

/-- `tld.e` (R287). -/
def execTldE (d a b : Reg) (rx : Bool) (s : State) : Out :=
  gate false { reads := runX b 2, vwrites := [xreg d], bad := orBad (badHandle a) (badRun b 2) } s fun s =>
    elemsLoad false rx (xreg d) a b s

/-- `tld.v` (R287). -/
def execTldV (d a b : Reg) (rx : Bool) (s : State) : Out :=
  gate false { reads := runX b 2, vwrites := plainV s [d], bad := orBad (badHandle a) (badRun b 2) } s fun s =>
    elemsLoad true rx (vreg d) a b s

/-- `tst.e` (R287). -/
def execTstE (d a b : Reg) (rx : Bool) (s : State) : Out :=
  gate false { reads := runX b 2 ++ [xreg d], bad := orBad (badHandle a) (badRun b 2) } s fun s =>
    elemAccess false true rx a b s fun r es w s => elemsStore rx r es [(readX s d).toNat % 2 ^ recBits r] w s

/-- The element values of a vector at ES from bit 0. -/
def vecElems (r : Vec) (n v : Nat) : List Nat := (List.range n).map fun i => laneAt (recBits r) i v

/-- `tst.v` (R287): a bound source is popped when the access goes through, which is then non-relaxed (R73). -/
def execTstV (d a b : Reg) (rx : Bool) (s : State) : Out :=
  gate false { reads := runX b 2 ++ plainV s [d], bad := orBad (badHandle a) (badRun b 2) } s fun s =>
    let rx := rx && !isBound s.me d
    match (popV s d).2.block with
    | some x => blocked s x
    | none => elemAccess true true rx a b s fun r es w s =>
        let (v, f) := popV s d
        let s := noteBound f.s [d]
        elemsStore rx r es (vecElems r es.length v.toNat) w s

/-! ## The conversion state block (R118) -/

/-- The size of a block for `u` units. -/
def blockSize (u : Nat) : Nat := 128 + 8 * ((u + 31) / 32)

/-- The code of a unit's state in the map. -/
def unitCode : UnitSt → Nat
  | .old => 0 | .busy => 1 | .new => 2

/-- The unit map from the states. -/
def unitMap (us : List UnitSt) : List Byte :=
  (List.range (8 * ((us.length + 31) / 32))).map fun i =>
    BitVec.ofNat 8 (packAt 2 ((List.range 4).map fun j => unitCode (us.getD (4 * i + j) .old)))

/-- The number of units in state NEW. -/
def unitsDone (c : Conv) : Nat := (c.units.filter fun u => u == .new).length

/-- The bytes of a conversion's state block, with its STATUS word (R118). -/
def blockImage (c : Conv) (status : Nat) : List Byte :=
  vecBytes c.oldRec ++ natToBytes 8 c.addr ++ natToBytes 4 c.units.length ++ natToBytes 4 (unitsDone c) ++
    natToBytes 8 status ++ natToBytes 40 0 ++ unitMap c.units

/-- The state block written to memory. -/
def writeBlock (s : State) (p : Nat) (c : Conv) (status : Nat) : State := writeSpace s p c.block (blockImage c status)

/-- A conversion replaced. -/
def setConv (s : State) (p : Nat) (c : Conv) : State :=
  s.setPart p { s.part p with convs := (s.part p).convs.map fun x => if x.id = c.id then c else x }

/-- A handle that holds the record's address marked for reload (R116). -/
def markHandle (addr : Nat) (h : Handle) : Handle := if h.valid ∧ h.addr.toNat = addr then { h with reload := true } else h

/-- Every VALID handle of the partition that holds the record's address marked for reload, those of copy requests
not accepted yet too (R116). -/
def markHandles (s : State) (p addr : Nat) : State :=
  mapSlots s fun k sl =>
    if s.partOf (k / 16) = p then
      { sl with h := sl.h.map (markHandle addr), copies := sl.copies.map fun (r : CopyReq) => { r with h := markHandle addr r.h } }
    else sl

/-- The pages of `n` bytes from `va` on. -/
def pagesFrom (va n : Nat) : List Nat :=
  (List.range ((va % 4096 + n + 4095) / 4096)).map fun i => pageOf va + 4096 * i

/-! ## `th.relay` and `th.wait` (R117, R286) -/

/-- Do two ranges overlap? -/
def overlap (a n b m : Nat) : Bool := decide (a < b + m) && decide (b < a + n)

/-- Is the record's tile in the write set of the slot's transaction, if it has one, and is that one neither of RESTART nor in a
reconnaissance pass (R117)? -/
def mayRelay (s : State) (addr : Nat) : Bool :=
  match s.me.tx with
  | none => true
  | some t => match s.tx? t with
    | none => true
    | some tx => tx.st != .recon && !(tx.desc.getD 1 0).getLsbD 17 && tx.tiles.any fun e => e.tile == pageOf addr && e.excl

/-- The record of the new version, sealed (R117). -/
def newVersion (rec : Vec) (tag base blk : Nat) : Vec :=
  let r := setBits rec 0 32 ((recVersion rec).toNat + 1)
  let r := setBits r 32 8 tag
  let r := setBits r 64 64 base
  let r := setBits r 44 1 1
  resealed (setBits r 448 64 blk)

/-- The engine of a conversion: the die that homes the first line of the new storage (R119). -/
def engineDie (s : State) (p base : Nat) : Nat := (placeAt s p base .write).die

/-- The status of `th.relay` in Rd. -/
def relayDone (d : Reg) (v : Nat) (s : State) : Out := .next (finish (writeVar s (xreg d) (BitVec.ofNat 512 v) 0))

/-- A conversion's units from the map of its state block. -/
def unitsFrom (n : Nat) (bytes : List Byte) : List UnitSt :=
  (List.range n).map fun u => match (bytes.getD (u / 4) 0).toNat / 4 ^ (u % 4) % 4 with
    | 2 => UnitSt.new
    | _ => UnitSt.old

/-- A FAILED conversion goes on (R117, R123): the one under way, or one built from its state block. -/
def resumeKnead (s : State) (p addr : Nat) (rec : Vec) : State :=
  let blk := recAux rec
  match (s.part p).convs.find? fun c => c.block == blk with
  | some c =>
    let c := { c with failed := false, page := none }
    (writeBlock (setConv s p c) p c 0).post (.kneadUnit c.id)
  | none =>
    let (id, s) := s.fresh
    let n := unitCount rec
    let old : Vec := match readSpace s p blk 64 with
      | some bs => vecOfBytes bs
      | none => rec
    let map := (readSpace s p (blk + 128) (8 * ((n + 31) / 32))).getD []
    let c : Conv := ⟨id, addr, blk, old, rec, unitsFrom n map, [], engineDie s p (recBase rec), false, none⟩
    (writeBlock (s.setPart p { s.part p with convs := (s.part p).convs ++ [c] }) p c 0).post (.kneadUnit id)

/-- What an instruction does once the engine may write bytes of the partition's space for it; every page is translated. -/
def withBlock (s : State) (p blk n : Nat) (act : State → Out) : Out :=
  match agentOpen s p true (chunkAddrs blk n) with
  | (s, .ready) => act s
  | (s, .wait) => .next (hold s .answered)
  | (s, .closed page need r) => .next (hold (agentAsk s p page need r) (.xlat p page))

/-- The pages that `th.relay` finds translated: those of the state block, and the first of the new storage, whose die runs the
conversion. A fault reported final there does not stop the relay: the conversion ends FAILED on it (R119, R123). -/
def relayPages (s : State) (p base blk n : Nat) : List Nat :=
  pagesFrom blk n ++
    if s.me.xfault = some base ∨ translate (s.part p) base .write = .final then [] else [base]

/-- RelayStart once the record is read and valid (R117): accesses under way through the old version complete first, in the
old storage. -/
def relayStart (d ha : Reg) (h : Handle) (rec : Vec) (tag base blk : Nat) (l : Loc) (s : State) : Out :=
  let p := s.myPart
  let size := storageBytes rec
  let new := newVersion rec tag base blk
  let newSize := storageBytes new
  let n := unitCount rec
  if !layoutOk tag || base % 4096 != 0 || blk % 128 != 0 then relayDone d 6 s
  else if decide (2 ^ 57 < base + newSize) || decide (2 ^ 57 < blk + blockSize n) ||
      overlap base newSize (recBase rec) size || overlap blk (blockSize n) base newSize ||
      overlap blk (blockSize n) (recBase rec) size || inRecon s || !mayRelay s h.addr.toNat then relayDone d 4 s
  else match firstClosed (s.part p) .write (relayPages s p base blk (blockSize n)) with
    | some (page, .miss) =>
      if s.me.xfault = some page then .next (trapI s 0x23 (BitVec.ofNat 64 page))
      else .next (hold (requestXlat s p page .write) (.xlat p page))
    | some (page, .fault) =>
      if s.me.xfault = some page then .next (trapI s 0x23 (BitVec.ofNat 64 page)) else .next (pageFault s p page .write)
    | some (page, .final) => .next (trapI s 0x23 (BitVec.ofNat 64 page))
    | some (_, _) => relayDone d 4 s
    | none =>
      if usesRecord s p rec then .next (hold s (.oldVersion p rec))
      else withBlock s p blk (blockSize n) fun s =>
        let (id, s) := s.fresh
        let c : Conv := ⟨id, h.addr.toNat, blk, rec, new, List.replicate n .old, [], engineDie s p base, false, none⟩
        let s := writeBlock s p c 0
        let s := (performAt s s.curCore p h.addr.toNat l (.store (offsets 0 (vecBytes new))) none).s
        let s := s.setPart p { s.part p with convs := (s.part p).convs ++ [c] }
        let s := markHandles (setHandle s ha ⟨true, h.addr, new, false⟩) p h.addr.toNat
        relayDone d 0 (s.post (.kneadUnit id))

/-- `th.relay` (R117, R286), under an internal lease on the record's line. -/
def execThRelay (d a b : Reg) (tag : BitVec 8) (s : State) : Out :=
  gate false { reads := runX b 2, vwrites := [xreg d], bad := orBad (badHandle a) (badRun b 2) } s fun s =>
    let h := handleAt s.me a
    if !h.valid then .next (trapI s 0x07 (zextImm a))
    else
      let base := (readX s b).toNat
      let blk := (readX s (Reg.succ b 1)).toNat
      stopped s (checkGlobal s { ea := h.addr, n := 64, align := 64, store := true, sets := false } anyMapping) .write
        (fun dev s => goRemote d (.int 8 false) h.addr dev s)
        (fun l s => whenOpen (unbound s) h.addr.toNat 64 l true true fun s =>
          readRecord h.addr false (fun rec bad s =>
            match bad with
            | some _ => relayDone d 3 s
            | none =>
              if recConv rec then
                loadThen (BitVec.ofNat 64 (recAux rec + 80)) 8 false (fun st s =>
                  if st % 256 = 2 then withBlock s s.myPart (recAux rec) (blockSize (unitCount rec)) fun s =>
                    relayDone d 0 (resumeKnead s s.myPart h.addr.toNat rec)
                  else relayDone d 1 s) s
              else relayStart d a h rec tag.toNat base blk l s) s)

/-- `th.wait` (R286): 1 at once when no conversion is under way, else STATUS once it has left RUNNING. -/
def execThWait (d a : Reg) (s : State) : Out :=
  gate false { vwrites := [xreg d], bad := badHandle a } s fun s =>
    let h := handleAt s.me a
    if !h.valid then .next (trapI s 0x07 (zextImm a))
    else loadThen h.addr 64 true (fun v s =>
      let r : Vec := BitVec.ofNat 512 v
      if !recConv r then relayDone d 1 (unbound s)
      else loadThen (BitVec.ofNat 64 ((recAux r + 80) % 2 ^ 57 / 8 * 8)) 8 true (fun st s =>
        if st % 256 = 0 then .next (hold (unbound s) (.conversion s.myPart (recAux r)))
        else relayDone d (st % 256) (unbound s)) s) s

/-! ## The Knead engine (R119 to R123) -/

/-- The partition and the conversion with a serial number. -/
def convOf (s : State) (id : Nat) : Option (Nat × Conv) :=
  match s.parts.find? fun e => e.2.convs.any fun c => c.id == id with
  | none => none
  | some (p, pt) => (pt.convs.find? fun c => c.id == id).map fun c => (p, c)

/-- The conversions of an engine that are RUNNING and older than one. -/
def aheadOn (s : State) (c : Conv) : Nat :=
  (s.parts.map fun e => (e.2.convs.filter fun x => x.die == c.die && !x.failed && decide (x.id < c.id)).length).sum

/-- The unit in work. -/
def busyUnit (c : Conv) : Option Nat := (List.range c.units.length).find? fun u => c.units.getD u .new == .busy

/-- The next unit: forced ones in order, then the lowest OLD one (R119). -/
def nextUnit (c : Conv) : Option Nat :=
  match c.forced.find? fun u => c.units.getD u .new == .old with
  | some u => some u
  | none => (List.range c.units.length).find? fun u => c.units.getD u .new == .old

/-- The positions of unit `u` as (m, a, b), the padded ones included. -/
def unitCells (r : Vec) (u : Nat) : List (Nat × Nat × Nat) :=
  let u0 := roundUp (recD r 0) 64 / 64
  let u1 := roundUp (recD r 1) 64 / 64
  let m := u / (u0 * u1)
  (List.range 4096).map fun i => (m, u / u0 % u1 * 64 + i / 64, u % u0 * 64 + i % 64)

/-- Is a position an element of the tensor? -/
def isElem (r : Vec) (e : Nat × Nat × Nat) : Bool := decide (e.2.1 < recD r 1) && decide (e.2.2 < recD r 0)

/-- Is a position padding that its layout stores (R113)? -/
def isPadding (r : Vec) (e : Nat × Nat × Nat) : Bool :=
  let x := layoutL (recLayout r) (recD r 1) (recD r 0) e.2.1 e.2.2
  !isElem r e && decide (x < layoutP (recLayout r) (recD r 1) (recD r 0)) &&
    layoutInv (recLayout r) (recD r 1) (recD r 0) x == (e.2.1, e.2.2)

/-- Nibbles written from a nibble address on, without redirection. -/
def writeNibbles (s : State) (p n v : Nat) : Nat → State
  | 0 => s
  | w + 1 => writeNibbles (setNibble s p (.nib n) (v % 16)) p (n + 1) (v / 16) w

/-- Nibbles read without redirection. -/
def plainNibbles (s : State) (p n : Nat) : Nat → Nat
  | 0 => 0
  | w + 1 => nibbleAt s p (.nib n) + 16 * plainNibbles s p (n + 1) w

/-- The cells of a unit moved from the old storage to the new one, its padding written as zero (R119). -/
def moveCells (s : State) (p : Nat) (c : Conv) : List (Nat × Nat × Nat) → State
  | [] => s
  | (m, a, b) :: es =>
    let w := recBits c.newRec / 4
    let s := if isElem c.newRec (m, a, b) then
        writeNibbles s p (nibbleOf c.newRec m a b 0) (plainNibbles s p (nibbleOf c.oldRec m a b 0) w) w
      else if isPadding c.newRec (m, a, b) then writeNibbles s p (nibbleOf c.newRec m a b 0) 0 w
      else s
    moveCells s p c es

/-- The addresses a unit's conversion reads, and those it writes. -/
def unitReads (c : Conv) (u : Nat) : List Nat := elemBytes c.oldRec ((unitCells c.oldRec u).filter (isElem c.oldRec))
/-- The addresses a unit's conversion writes. -/
def unitWrites (c : Conv) (u : Nat) : List Nat :=
  elemBytes c.newRec ((unitCells c.newRec u).filter fun e => isElem c.newRec e || isPadding c.newRec e)

/-- The pages of addresses, each once in a row. -/
def pagesOf : List Nat → List Nat
  | [] => []
  | va :: vas => match pagesOf vas with
    | g :: gs => if g = pageOf va then g :: gs else pageOf va :: g :: gs
    | [] => [pageOf va]

/-- One address in each 64-byte piece that a list of addresses touches. -/
def piecesOf : List Nat → List Nat
  | [] => []
  | va :: vas => match piecesOf vas with
    | g :: gs => if g / 64 = va / 64 then g :: gs else va :: g :: gs
    | [] => [va]

/-- A conversion whose unit in work goes back to OLD. -/
def unitBack (c : Conv) : Conv := { c with units := c.units.map fun u => if u = .busy then .old else u }

/-- The conversion ends FAILED with a page (R118, R123). -/
def kneadFailed (s : State) (p : Nat) (c : Conv) (page : Nat) : State :=
  let c := { unitBack c with failed := true, page := none }
  writeBlock (setConv s p c) p c (2 + page % 2 ^ 57 / 4096 * 256)

/-- The page of a list that lies in a region of another writer than the engine, during a phase (R142, R143). -/
def foreignPage (pt : Part) (pages : List Nat) : Option Nat :=
  pages.find? fun g => match regionOf pt g with
    | some r => r.writer != 0 && r.writer != 3
    | none => false

/-- The engine completes: the record is rewritten and resealed, handles are marked, STATUS is COMPLETE; accesses under way go
on through the record as it is now (R120, R122). -/
def kneadComplete (s : State) (p : Nat) (c : Conv) : State :=
  let r := resealed (setBits (setBits c.newRec 44 1 0) 448 64 0)
  let s := s.setPart p { s.part p with convs := (s.part p).convs.filter fun x => x.id != c.id }
  let s := renewRecord (writeSpace s p c.addr (vecBytes r)) p c.newRec r
  writeBlock (markHandles s p c.addr) p c 1

/-- What the engine does about a page that is not translated: a request, or the page's fault, on which it waits. -/
def kneadWait (s : State) (p : Nat) (c : Conv) (page : Nat) (need : Need) (r : XRes) : State :=
  let s := setConv s p { c with page := some page }
  match r with
  | .miss => (requestXlat s p page need).post (.kneadUnit c.id)
  | .fault => (requestPage s p page need).post (.kneadUnit c.id)
  | _ => s.post (.kneadFault c.id page)

/-- `act` once the engine may write the lines of a list after reading those of another, as an outside agent (R85, R119). -/
def kneadThen (s : State) (p : Nat) (c : Conv) (reads writes : List Nat) (act : State → State) : State :=
  match agentLines p false reads s with
  | (s, .wait) => s.post (.kneadUnit c.id)
  | (s, .closed page need r) => kneadWait s p c page need r
  | (s, .ready) => match agentLines p true writes s with
    | (s, .wait) => s.post (.kneadUnit c.id)
    | (s, .closed page need r) => kneadWait s p c page need r
    | (s, .ready) => act s

/-- KNEAD_UNIT: the next unit is set BUSY, or the one in work is converted and set NEW; the last one completes the
conversion (R119, R120). A write into a region of another writer ends it FAILED (R143). -/
def execKneadUnit (conv : Nat) (s : State) : Out :=
  match convOf s conv with
  | none => .next s
  | some (p, c) =>
    let block := chunkAddrs c.block (blockBytes c)
    let record := chunkAddrs c.addr 64
    if c.failed then .next s
    else if 8 ≤ aheadOn s c then .next (s.post (.kneadUnit conv))
    else match busyUnit c with
      | none =>
        match nextUnit c with
        | none => .next (kneadThen s p c [] (block ++ record) fun s => kneadComplete s p c)
        | some u => .next (kneadThen s p c [] block fun s =>
            let c := { c with units := setAt c.units u .busy, forced := c.forced.filter (· ≠ u) }
            (writeBlock (setConv s p c) p c 0).post (.kneadUnit conv))
      | some u =>
        let writes := unitWrites c u
        match foreignPage (s.part p) (pagesOf writes) with
        | some page => .next (kneadFailed s p c page)
        | none => .next (kneadThen s p c (piecesOf (unitReads c u)) (piecesOf writes ++ block ++ record) fun s =>
            let s := moveCells s p c (unitCells c.newRec u)
            let c := { c with units := setAt c.units u .new, page := none }
            let s := writeBlock (setConv s p c) p c 0
            if unitsDone c = c.units.length then kneadComplete s p c else s.post (.kneadUnit conv))

/-- KNEAD_FAULT: STATUS becomes FAILED with the page, and the unit in work returns to OLD (R118, R123). -/
def execKneadFault (conv page : Nat) (s : State) : Out :=
  match convOf s conv with
  | none => .next s
  | some (p, c) =>
    .next (if c.failed then s else kneadFailed s p c page)

/-- KNEAD_HARDWARE_ERROR: the unit in work returns to OLD and the conversion moves to another die's engine (R123). -/
def execKneadHardwareError (conv : Nat) (s : State) : Out :=
  match convOf s conv with
  | none => .next s
  | some (p, c) =>
    if c.failed then .next s
    else
      let c := { unitBack c with die := (c.die + 1) % 4 }
      .next (writeBlock (setConv s p c) p c 0)

end Sys2Proof.Machine
end

