-- ==== Sys2Proof/Machine/MatrixOps.lean ====
section
/-! DEFINITION. The arithmetic of the matrix array: operand values, the summation order of A40 (R163), I40 accumulation
(R164), accumulators in the scratchpad (R153, R275) and the conversion of drains (R280). -/

namespace Sys2Proof.Machine

/-! ## Operands (R272, R276) -/

/-- ES of a format code (R276). -/
def codeBits (fmt : Vector (BitVec 32) 4) (c : BitVec 3) : Nat :=
  match c.toNat with
  | 4 | 5 => 16
  | 6 | 7 => 8
  | n => descStorage (fmt.toList.getD n 0)

/-- The shadow descriptor that a format code names. -/
def codeDesc (fmt : Vector (BitVec 32) 4) (c : BitVec 3) : Option (BitVec 32) :=
  if c.toNat < 4 then some (fmt.toList.getD c.toNat 0) else none

/-- Code k of row r of a tile at ES bits (R272). -/
def tileCode (t : Tile) (es r k : Nat) : Nat := (t.extractLsb' (512 * r + es * k) es).toNat

/-- The exact value of a code (R276). -/
def codeValue (fmt : Vector (BitVec 32) 4) (c : BitVec 3) (v : Nat) : XVal :=
  match c.toNat with
  | 4 => decodeFmt fp16 v
  | 5 => decodeFmt bf16 v
  | 6 => xOfInt (if 128 ≤ v then (v : Int) - 256 else v)
  | 7 => xOfInt v
  | n => decodeFmt (descFmt (fmt.toList.getD n 0)) v

/-- The integer of a code (R164). -/
def codeInteger (fmt : Vector (BitVec 32) 4) (c : BitVec 3) (v : Nat) : Int :=
  match c.toNat with
  | 6 => if 128 ≤ v then (v : Int) - 256 else v
  | 7 => v
  | n => codeInt (descFmt (fmt.toList.getD n 0)) v

/-- The bias of a format code: 0 for i8 and z8 (R276, R280). -/
def codeBias (fmt : Vector (BitVec 32) 4) (c : BitVec 3) : Int :=
  match codeDesc fmt c with
  | some d => (descFmt d).b
  | none => 0

/-- The value of element k of row r of an operand slot (R161, R276). -/
def slotValue (fmt : Vector (BitVec 32) 4) (c : BitVec 3) (t : Tile) (l : List Outlier) (r k : Nat) : XVal :=
  match outlierAt l r k with
  | some v => decodeFmt fp32 v.toNat
  | none => codeValue fmt c (tileCode t (codeBits fmt c) r k)

/-- The greatest I40 magnitude (R154). -/
def i40Max : Int := (2 ^ 39 : Nat) - 1

/-- An exact value times 2^b. -/
def xScale (x : XVal) (b : Int) : XVal :=
  match x with
  | .fin s n d => .fin s (n * 2 ^ b.toNat) (d * 2 ^ (-b).toNat)
  | v => v

/-- The integer of element k of row r of an operand slot, with the flags of a listed outlier (R164). -/
def slotInteger (fmt : Vector (BitVec 32) 4) (c : BitVec 3) (t : Tile) (l : List Outlier) (r k : Nat) : Int × Word :=
  match outlierAt l r k with
  | some v => xToInt .rne (-i40Max) i40Max (xScale (decodeFmt fp32 v.toNat) (codeBias fmt c))
  | none => (codeInteger fmt c (tileCode t (codeBits fmt c) r k), 0)

/-! ## A40 (R163) -/

/-- A product as a signed integer in units of 2^lo, truncated toward zero, and whether a bit was dropped. -/
def truncUnits (lo : Int) : XVal → Int × Bool
  | .fin s n d =>
    let (un, ud) := scaleDown n d lo
    (signedNum s (un / ud), decide (un % ud ≠ 0))
  | _ => (0, false)

/-- Is the value zero? -/
def xIsZero : XVal → Bool
  | .fin _ n _ => n == 0
  | _ => false

/-- Floor(Log2(|x|)) of a finite non-zero value. -/
def xLog2 : XVal → Int
  | .fin _ n d => floorLog2 n d
  | _ => 0

/-- The sum of one group of products (R163): a special value, or the exact sum within the window and whether bits were
dropped; with the flags it sets. -/
def groupSum (ps : List (XVal × Bool)) : XVal × Bool × Word :=
  let vs := ps.map (·.1)
  let pinf := vs.any (· == .inf false)
  let ninf := vs.any (· == .inf true)
  if vs.any (· == .nan) || (pinf && ninf) || ps.any (·.2) then (.nan, false, flagNV)
  else if pinf then (.inf false, false, 0)
  else if ninf then (.inf true, false, 0)
  else
    let live := vs.filter fun v => !xIsZero v
    match live with
    | [] => (.fin false 0 1, false, 0)
    | v :: _ =>
      let t := live.foldl (fun m x => max m (xLog2 x)) (xLog2 v)
      let lo := t - 90
      let qs := live.map (truncUnits lo)
      let sum : Int := (qs.map (·.1)).sum
      let sticky := qs.any (·.2)
      let twice : Int := 2 * sum + (if sticky then (if sum < 0 then -1 else 1) else 0)
      (dyadic (decide (twice < 0)) twice.natAbs (lo - 1), sticky, 0)

/-- One group added to an accumulator code (R163). -/
def addGroup (c : Nat) (g : XVal × Bool × Word) : Nat × Word :=
  let (v, sticky, fl) := g
  match v with
  | .fin _ n _ =>
    if n = 0 then (c, fl)
    else
      let (r, f) := roundFixed a40 .rne (xadd .rne (decodeFmt a40 c) v).1
      (r, f ||| fl ||| (if sticky then flagNX else 0))
  | v =>
    let (r, bad) := xadd .rne (decodeFmt a40 c) v
    ((roundFixed a40 .rne r).1, fl ||| (if bad then flagNV else 0))

/-- MatrixStep (R163) over the groups of 32 from group g on. -/
def matrixStep (a b : Nat → XVal) (k : Nat) : Nat → Nat → Nat → Nat × Word
  | 0, _, c => (c, 0)
  | n + 1, g, c =>
    let ps := ((List.range 32).filter fun i => decide (32 * g + i < k)).map fun i => xmul (a (32 * g + i)) (b (32 * g + i))
    let (c, f) := addGroup c (groupSum ps)
    let (c, fs) := matrixStep a b k n (g + 1) c
    (c, f ||| fs)

/-! ## I40 (R154, R164) -/

/-- The value of an I40 code. -/
def i40Value (c : Nat) : Int := if 2 ^ 39 ≤ c then (c : Int) - (2 ^ 40 : Nat) else c

/-- A sum clamped to the I40 range (R154). -/
def i40Clamp (v : Int) : Nat × Word :=
  if i40Max < v then (intBits 40 i40Max, flagMXSAT)
  else if v < -i40Max then (intBits 40 (-i40Max), flagMXSAT)
  else (intBits 40 v, 0)

/-- I40Step (R164) over the groups of 32 from group g on. -/
def i40Step (a b : Nat → Int) (k : Nat) : Nat → Nat → Nat → Nat × Word
  | 0, _, c => (c, 0)
  | n + 1, g, c =>
    let sum : Int := (((List.range 32).filter fun i => decide (32 * g + i < k)).map fun i => a (32 * g + i) * b (32 * g + i)).sum
    let (c, f) := i40Clamp (i40Value c + sum)
    let (c, fs) := i40Step a b k n (g + 1) c
    (c, f ||| fs)

/-- The flags of the listed outliers of one operand that enter a product (R164). -/
def listFlags (fmt : Vector (BitVec 32) 4) (c : BitVec 3) (t : Tile) (l : List Outlier) (rows k : Nat) : Word :=
  ((l.filter fun (o : Outlier) => decide (o.r < rows) && decide (o.k < k)).map fun o => (slotInteger fmt c t l o.r o.k).2).foldl (· ||| ·) 0

/-! ## Accumulators (R153, R275) -/

/-- The scratch offset of element (i, j) of an accumulator. -/
def accOffset (seg i j : Nat) : Nat := seg * 4096 + 5 * (64 * i + j)

/-- The code of element (i, j). -/
def accRead (co : Core) (seg i j : Nat) : Nat := bytesToNat (readBytes co.scratch (accOffset seg i j) 5)

/-- The code of element (i, j) replaced. -/
def accWrite (s : State) (c seg i j v : Nat) : State := setScratch s c (accOffset seg i j) (offsets 0 (natToBytes 5 v))

/-- Element positions (i, j) with i < m and j < n, row by row. -/
def cells (m n : Nat) : List (Nat × Nat) := (List.range m).flatMap fun i => (List.range n).map fun j => (i, j)

/-- The new code of one element of a multiply with its flags (R276); a signalling NaN read from the accumulator sets NV
(R147). -/
def productAt (e : PortEntry) (f : MxFields) (oa ob : OpSlot) (k i j c : Nat) : Nat × Word :=
  let groups := (k + 31) / 32
  if f.i40 then
    i40Step (fun x => (slotInteger e.fmt f.fa oa.tile oa.list i x).1) (fun x => (slotInteger e.fmt f.fb ob.tile ob.list j x).1) k groups 0 c
  else
    let (c', fl) := matrixStep (slotValue e.fmt f.fa oa.tile oa.list i) (slotValue e.fmt f.fb ob.tile ob.list j) k groups 0 c
    (c', fl ||| nvOf a40 [c])

/-- K': the extent in k, cut to what a row holds (R276). -/
def kExtent (fmt : Vector (BitVec 32) 4) (c : BitVec 3) (k : Nat) : Nat := Nat.min k (512 / codeBits fmt c)

/-- The new codes of the accumulator of a multiply, with its flags. -/
def multiplyAll (co : Core) (e : PortEntry) (f : MxFields) (m n k : Nat) : List ((Nat × Nat) × Nat) × Word :=
  let oa := look co.os OpSlot.free f.oa.toNat
  let ob := look co.os OpSlot.free f.ob.toNat
  let k := kExtent e.fmt f.fa k
  let rs := (cells m n).map fun p => (p, productAt e f oa ob k p.1 p.2 (accRead co f.seg.toNat p.1 p.2))
  let fl := (rs.map fun r => r.2.2).foldl (· ||| ·) 0
  let lf := if f.i40 then listFlags e.fmt f.fa oa.tile oa.list m k ||| listFlags e.fmt f.fb ob.tile ob.list n k else 0
  (rs.map fun r => (r.1, r.2.1), fl ||| lf)

/-- Accumulator elements written. -/
def accWriteAll (s : State) (c seg : Nat) : List ((Nat × Nat) × Nat) → State
  | [] => s
  | (p, v) :: rest => accWriteAll (accWrite s c seg p.1 p.2 v) c seg rest

/-- The cycles a multiply executes in (R277). -/
def multiplyCycles (co : Core) (e : PortEntry) (f : MxFields) (m n k : Nat) : Nat :=
  let es := codeBits e.fmt f.fa
  let k' := kExtent e.fmt f.fa k
  let rate := if es = 4 then 16384 else if es = 8 then 8192 else 4096
  let entries (o : Nat) (rows : Nat) : Nat :=
    ((look co.os OpSlot.free o).list.filter fun (x : Outlier) => decide (x.r < rows) && decide (x.k < k')).length
  (m * n * 32 * ((k' + 31) / 32) + rate - 1) / rate + entries f.oa.toNat m + entries f.ob.toNat n

/-! ## Drains (R280) -/

/-- The lane type of a drain's destination. -/
def drainType : DrainT → LaneT
  | .i8 => .i8 | .i16 => .i16 | .i32 => .i32 | .s => .s | .hf => .hf | .bf => .bf

/-- One drained element: its lane and flags; a signalling NaN of A40 sets NV (R147, R280). -/
def drainLane (e : PortEntry) (f : DrainFields) (rm : Nat) (sa sb : BitVec 32) (c : Nat) : Nat × Word :=
  let nv : Word := if f.i40 then 0 else nvOf a40 [c]
  let v := if f.i40 then xScale (xOfInt (i40Value c)) (-(codeBias e.fmt f.fa + codeBias e.fmt f.fb)) else decodeFmt a40 c
  let (x, _) := xmul v (decodeFmt fp32 sa.toNat)
  let (y, _) := xmul x (decodeFmt fp32 sb.toNat)
  let lt := drainType f.dt
  if lt.isFloat then
    let (r, fl) := roundFixed (LaneT.fmt lt) (rndOfCode rm) y
    (r, nv ||| fl)
  else
    let (r, fl) := xToInt (rndOfCode rm) (laneRange lt).1 (laneRange lt).2 y
    (intBits lt.bits r, nv ||| fl)

/-- The lanes of row i. -/
def drainRow (co : Core) (e : PortEntry) (f : DrainFields) (n rm : Nat) (sa sb : BitVec 32) (i : Nat) : List (Nat × Word) :=
  (List.range n).map fun j => drainLane e f rm sa sb (accRead co f.seg.toNat i j)

/-- The chunks of row i: lanes past the row are 0. -/
def rowChunks (w : Nat) (lanes : List Nat) : List Vec :=
  let per := 512 / w
  (List.range ((lanes.length + per - 1) / per)).map fun c =>
    BitVec.ofNat 512 (packLanes w (fun i => lanes.getD (c * per + i) 0) per)

/-- Every chunk of a drain with its flags. -/
def drainAll (co : Core) (e : PortEntry) (f : DrainFields) (m n rm : Nat) (sa sb : BitVec 32) : List Vec × Word :=
  let rows := (List.range m).map (drainRow co e f n rm sa sb)
  (rows.flatMap fun r => rowChunks (drainType f.dt).bits (r.map (·.1)), (rows.flatMap fun r => r.map (·.2)).foldl (· ||| ·) 0)

end Sys2Proof.Machine
end

