-- ==== Sys2Proof/Machine/Matrix.lean ====
section
/-! DEFINITION. The meanings of majors 0x30 to 0x32: operand slots (R271 to R274), the matrix port (R275), multiplies,
zeroing and drains (R276 to R280), with the port's events. -/

namespace Sys2Proof.Machine

/-! ## Operand slots and the port -/

/-- An operand slot of a core. -/
def osOf (co : Core) (os : Nat) : OpSlot := look co.os OpSlot.free os

/-- An operand slot of core `c` replaced; an unclaimed one is not listed. -/
def setOs (s : State) (c os : Nat) (v : OpSlot) : State :=
  let co := s.core c
  s.setCore c { co with os := if v = OpSlot.free then remove co.os os else put co.os os v }

/-- The transaction that holds an operand slot once the queued instructions of a list have retired. -/
def claimAfter (os : Nat) : Option Nat → List PortEntry → Option Nat
  | t, [] => t
  | t, e :: es =>
    claimAfter os (match e.op with
      | .release o => if o = os then none else t
      | .claim o _ => if o = os ∧ t = none then e.tx else t
      | _ => t) es

/-- Has the issuing slot's transaction claimed the operand slot (R271)? -/
def claimsOs (s : State) (os : Nat) : Bool :=
  s.me.tx.isSome && claimAfter os (osOf s.myCore os).tx s.myCore.port == s.me.tx

/-- Is a claim or a release of the operand slot still queued? -/
def claimQueued (co : Core) (os : Nat) : Bool :=
  co.port.any fun e => match e.op with
    | .release o => o == os
    | .claim o _ => o == os
    | _ => false

/-- An instruction enters the port (R275). -/
def enqueuePort (s : State) (op : PortOp) (flags : Word) : State :=
  let co := s.myCore
  let e : PortEntry := ⟨s.cur, s.me.cont, s.me.tx, s.me.csr.fmt, op, false, 0, [], flags⟩
  let s := s.setMyCore { co with port := co.port ++ [e] }
  if co.port.isEmpty then s.post (.matrixStart s.curCore) else s

/-- The instruction issues into the port: while 8 are queued the slot is held READY (R275). -/
def issuePort (s : State) (op : PortOp) (flags : Word) : Out :=
  if 8 ≤ s.myCore.port.length then .next (hold s .portRoom) else .next (finish (unbound (enqueuePort s op flags)))

/-- An instruction that names a claimed operand slot: SLOT_STATE unless it is the slot's own transaction's (R271); a
queued claim or release of it comes first. -/
def namesOs (os : Nat) (act : State → Out) (s : State) : Out :=
  if !claimsOs s os then .next (trapI s 0x63 (BitVec.ofNat 64 os))
  else if claimQueued s.myCore os then .next (hold s .portRoom)
  else act s

/-- `os.claim` (R273): the outcome is decided in port order. -/
def execOsClaim (d : Reg) (os : BitVec 6) (s : State) : Out :=
  gate false { vwrites := [xreg d] } s fun s =>
    if s.me.tx.isNone then .next (trapI s 0x63 (zextImm os))
    else if 8 ≤ s.myCore.port.length then .next (hold s .portRoom)
    else
      let (id, s) := pendV s s.cur .plain [xreg d] none 0
      .next (finish (unbound (enqueuePort s (.claim os.toNat id) 0)))

/-- `os.rel` (R273). -/
def execOsRel (os : BitVec 6) (s : State) : Out :=
  gate false {} s (namesOs os.toNat fun s => issuePort s (.release os.toNat) 0)

/-! ## Loads and stores of operand slots (R274) -/

/-- The state of an operand slot set. -/
def setOsState (s : State) (os : Nat) (st : OsSt) : State := setOs s s.curCore os { osOf s.myCore os with st := st }

/-- A load enters the port: its operand slot is FILLING from issue, and its reads, of `n` bytes from `addr` on, count as
relaxed accesses (R274). -/
def issueLoad (os : Nat) (space : Space) (addr : Word) (n : Nat) (loc : Option Loc) (src : OsSrc) (list : List Outlier)
    (s : State) : Out :=
  if 8 ≤ s.myCore.port.length then .next (hold s .portRoom)
  else
    let (id, s) := addRelaxed s space addr loc (.load n) .none false false
    let s := setOsState s os .filling
    .next (finish (unbound (enqueuePort s (.load os src 0 list [id]) 0)))

/-- The holds of a load: not while its slot is FILLING or SHIPPING (R274). -/
def loadHeld (s : State) (os : Nat) : Bool :=
  let st := (osOf s.myCore os).st
  st == .filling || st == .shipping

/-- The elements of a block inside the tensor (R274): slot row, element and position. -/
def blockElems (r : Vec) (m a0 b0 : Nat) (cols : Bool) : List (Nat × Nat × Nat × Nat × Nat) :=
  let kmax := 512 / recBits r
  ((List.range 64).flatMap fun i => (List.range kmax).map fun k =>
    if cols then (i, k, m, a0 + k, b0 + i) else (i, k, m, a0 + i, b0 + k)).filter
      fun e => decide (e.2.2.2.1 < recD r 1) && decide (e.2.2.2.2 < recD r 0)

/-- The units a block covers: number, and the tensor row and column of its corner. -/
def blockUnits (r : Vec) (m a0 b0 : Nat) (cols : Bool) : List (Nat × Nat × Nat) :=
  let kmax := 512 / recBits r
  let n := Nat.max 1 (kmax / 64)
  ((List.range n).map fun i =>
    let a := (if cols then a0 + 64 * i else a0) / 64 * 64
    let b := (if cols then b0 else b0 + 64 * i) / 64 * 64
    (unitOf r m a b, a, b)).filter fun u => decide (u.2.1 < recD r 1) && decide (u.2.2 < recD r 0)

/-- The entries of a unit's list that lie inside a block, at their slot positions (R274). -/
def blockEntries (r : Vec) (a0 b0 : Nat) (cols : Bool) (ua ub : Nat) (l : List Outlier) : List Outlier :=
  let kmax := 512 / recBits r
  ((l.filter fun (o : Outlier) => decide (a0 ≤ ua + o.r) && decide (b0 ≤ ub + o.k)).map fun (o : Outlier) =>
    let i := ua + o.r - a0
    let j := ub + o.k - b0
    if cols then { o with r := j, k := i } else { o with r := i, k := j }).filter fun (o : Outlier) => decide (o.r < 64) && decide (o.k < kmax)

/-- The lists that a load takes with its tile: addresses, with what puts their entries at their slot positions (R274). -/
def OsSrc.lists : OsSrc → List (Nat × (List Outlier → List Outlier))
  | .bytes _ _ _ a n => (List.range n).map fun i =>
      ((a + BitVec.ofNat 64 (256 * i)).toNat, fun l => l.map fun (o : Outlier) => { o with k := o.k + 64 * i })
  | .block r m a0 b0 cols => if recOutl r then
      (blockUnits r m a0 b0 cols).map fun u => (recLists r + 256 * u.1, blockEntries r a0 b0 cols u.2.1 u.2.2)
    else []

/-- The lists of a load read at issue, and refused there where R158 refuses them; then `act` on their entries (R274,
R275). -/
def withLists (act : List Outlier → State → Out) :
    List (Nat × (List Outlier → List Outlier)) → List Outlier → State → Out
  | [], acc, s => act acc s
  | (a, f) :: ls, acc, s => listThen true false (BitVec.ofNat 64 a) (fun v _ s =>
      match parseOutList (natToBytes 256 v) with
      | none => .next (trapI s 0x25 (BitVec.ofNat 64 a))
      | some l => withLists act ls (acc ++ f l.entries) s) s

/-- The number of lists that `os.ld.g` and `os.ld.s` name in x(b) (R274). -/
def listCount (b : Reg) (n4 : Bool) : Nat := if b = 0 then 0 else if n4 then 2 else 1

/-- `os.ld.g` (R274). -/
def execOsLdG (a b : Reg) (os : BitVec 6) (n4 : Bool) (s : State) : Out :=
  gate false { reads := [xreg a, xreg b] } s (namesOs os.toNat fun s =>
    let ea := readX s a
    let go (loc : Option Loc) (s : State) : Out :=
      let src : OsSrc := .bytes .global ea loc (readX s b) (listCount b n4)
      if loadHeld s os.toNat then .next (hold s .portRoom)
      else withLists (fun l s => issueLoad os.toNat .global ea 4096 loc src l s) src.lists [] s
    stopped s (checkGlobal s { ea := ea, n := 4096, align := 4096, store := false } anyMapping) .read
      (fun _ s => go none s) (fun l s => go (some l) s))

/-- The checks of a scratch tile (R274): the control window is refused. -/
def checkSegment (s : State) (ea : Word) (kind : ScrKind) : Option (Nat × Word) :=
  match checkScratch s ea 4096 kind with
  | some c => some c
  | none => if scrWin ea = 1 then some (0x25, ea) else none

/-- `os.ld.s` (R274). -/
def execOsLdS (a b : Reg) (os : BitVec 6) (n4 : Bool) (s : State) : Out :=
  gate false { reads := [xreg a, xreg b] } s (namesOs os.toNat fun s =>
    let ea := readX s a
    let src : OsSrc := .bytes .scratch ea none (readX s b) (listCount b n4)
    match checkSegment s ea .load with
    | some (c, v) => .next (trapI s c v)
    | none =>
      if loadHeld s os.toNat then .next (hold s .portRoom)
      else withLists (fun l s => issueLoad os.toNat .scratch ea 4096 none src l s) src.lists [] s)

/-- A block load through a handle, in A or B orientation (R274). -/
def loadBlock (cols : Bool) (a b : Reg) (os : BitVec 6) (s : State) : Out :=
  gate false { reads := runX b 2, bad := orBad (badHandle a) (badRun b 2) } s (namesOs os.toNat
    (withHandle a fun h s =>
      let r := h.record
      let e := recEtype r
      let (c0, c1, c2, c3) := coordsOf s b
      let kmax := 512 / recBits r
      if e ≠ 0 ∧ e ≠ 2 ∧ e ≠ 3 ∧ e ≠ 4 ∧ e ≠ 8 then .next (trapI s 0x07 (zextImm a))
      else if (if cols then c0 % 64 ≠ 0 ∨ c1 % kmax ≠ 0 else c1 % 64 ≠ 0 ∨ c0 % kmax ≠ 0) then
        .next (trapI s 0x20 (readX s b))
      else match badCoord r c0 c1 c2 c3 with
        | some v => .next (trapI s 0x25 v)
        | none =>
          let (m, a0, b0) := coordElem r c0 c1 c2 c3
          let vas := elemBytes r ((blockElems r m a0 b0 cols).map fun x => x.2.2)
          let first := vas.foldl Nat.min (vas.headD 0)
          let go (away : Bool) (s : State) : Out :=
            let ea := BitVec.ofNat 64 first
            let loc := if away then none else some (placeAt s s.myPart first .read)
            let src : OsSrc := .block r m a0 b0 cols
            if loadHeld s os.toNat then .next (hold s .portRoom)
            else withLists (fun l s => issueLoad os.toNat .global ea (vas.foldl Nat.max 0 + 1 - first) loc
              (if away then .bytes .global ea none 0 0 else src) l s) src.lists [] s
          stopped s (checkBytes s false vas) .read (fun _ s => go true s) (fun _ s => go false s)))

/-- `os.ld.hr` (R274). -/
def execOsLdHr (a b : Reg) (os : BitVec 6) (s : State) : Out := loadBlock false a b os s
/-- `os.ld.hc` (R274). -/
def execOsLdHc (a b : Reg) (os : BitVec 6) (s : State) : Out := loadBlock true a b os s

/-- The addresses of the 64-byte pieces of a tile. -/
def pieces (va : Nat) : List Nat := (List.range 64).map fun i => va + 64 * i

/-- The pieces of a tile to be stored as relaxed accesses of the issuing slot, with their serial numbers; what they store
is not known yet. -/
def addPieces (space : Space) (loc : Option Loc) (ea : Word) : List Nat → State → List Nat × State
  | [], s => ([], s)
  | va :: vas, s =>
    let l := loc.map fun l => l.plus (va - ea.toNat)
    let (id, s) := addRelaxed s space (BitVec.ofNat 64 va) l (.store (offsets 0 (natToBytes 64 0))) .none false false
    let (ids, s) := addPieces space loc ea vas s
    (id :: ids, s)

/-- A store of an operand slot enters the port; not while its slot is EMPTY or SHIPPING (R274). -/
def issueStore (os : Nat) (space : Space) (ea : Word) (loc : Option Loc) (s : State) : Out :=
  let st := (osOf s.myCore os).st
  if st == .empty || st == .shipping then .next (hold s .portRoom)
  else if 8 ≤ s.myCore.port.length then .next (hold s .portRoom)
  else
    let (ids, s) := addPieces space loc ea (pieces ea.toNat) s
    .next (finish (unbound (enqueuePort s (.store os space ea loc ids) 0)))

/-- `os.st.g` (R274). -/
def execOsStG (a : Reg) (os : BitVec 6) (s : State) : Out :=
  gate false { reads := [xreg a] } s (namesOs os.toNat fun s =>
    let ea := readX s a
    stopped s (checkGlobal s { ea := ea, n := 4096, align := 4096, store := true } anyMapping) .write
      (fun _ s => issueStore os.toNat .global ea none s)
      (fun l s => issueStore os.toNat .global ea (some l) s))

/-- `os.st.s` (R274). -/
def execOsStS (a : Reg) (os : BitVec 6) (s : State) : Out :=
  gate false { reads := [xreg a] } s (namesOs os.toNat fun s =>
    let ea := readX s a
    match checkSegment s ea .store with
    | some (c, v) => .next (trapI s c v)
    | none => issueStore os.toNat .scratch ea none s)

/-! ## Multiplies, zeroing and drains at issue (R275, R276, R278 to R280) -/

/-- The checks of an accumulator (R275), then the slot's earlier accesses to its segments, then `act`. -/
def withAcc (seg : BitVec 8) (act : State → Out) (s : State) : Out :=
  if 246 < seg.toNat then .next (trapI s 0x25 (zextImm seg * 4096))
  else match (List.range 5).find? fun i => (segOf s.myCore (seg.toNat + i)).st != .none with
    | some i => .next (trapI s 0x27 (BitVec.ofNat 64 ((seg.toNat + i) * 4096)))
    | none =>
      let ea := BitVec.ofNat 64 (s.curCore * 2 ^ 20 + seg.toNat * 4096)
      if ownPending s s.cur .scratch ea.toNat 20480 then .next (holdOwn s .scratch ea 20480) else act s

/-- M, N and K of `MXSHAPE`. -/
def shapeOf (s : State) : Nat × Nat × Nat :=
  let v := s.me.csr.mxshape
  ((v.extractLsb' 0 7).toNat, (v.extractLsb' 8 7).toNat, (v.extractLsb' 16 8).toNat)

/-- The shadow index of a format code whose descriptor is invalid (R77). -/
def badShadow (s : State) (c : BitVec 3) : Option Word :=
  match codeDesc s.me.csr.fmt c with
  | some d => if badDesc d then some (zextImm c) else none
  | none => none

/-- May a format enter I40 (R276)? FP16, BF16 and narrow formats with an exponent may not. -/
def integral (s : State) (c : BitVec 3) : Bool :=
  match codeDesc s.me.csr.fmt c with
  | some d => (descFmt d).e == 0
  | none => c.toNat == 6 || c.toNat == 7

/-- IMM32 of the instruction that issues. -/
def imm32Of (s : State) : Word := zextImm (s.me.ir.extractLsb' 16 32)

/-- `mx.mul` and `mx.mrot` at issue (R276, R278). -/
def issueMultiply (rotate : Bool) (f : MxFields) (s : State) : Out :=
  gate false {} s fun s =>
    match badShadow s f.fa, badShadow s f.fb with
    | some v, _ => .next (trapI s 0x07 v)
    | none, some v => .next (trapI s 0x07 v)
    | none, none =>
      if codeBits s.me.csr.fmt f.fa ≠ codeBits s.me.csr.fmt f.fb ∨ (f.i40 ∧ !(integral s f.fa && integral s f.fb)) then
        .next (trapI s 0x07 (imm32Of s))
      else namesOs f.oa.toNat (namesOs f.ob.toNat (withAcc f.seg fun s =>
        let co := s.myCore
        let earlier := co.port.any fun e => match e.op with
          | .multiply _ _ _ _ r _ => r
          | _ => false
        if rotate && (earlier || !co.outgoing.isEmpty) then .next (hold s .mrot)
        else if !operandsReady s s.curCore [f.oa.toNat, f.ob.toNat] then
          .next (hold s (.operands [f.oa.toNat, f.ob.toNat] true))
        else if 8 ≤ co.port.length then .next (hold s .portRoom)
        else
          let (m, n, k) := shapeOf s
          let s := if rotate then setOsState (setOsState s f.oa.toNat .shipping) f.ob.toNat .shipping else s
          issuePort s (.multiply f m n k rotate (placeCsr s 2)) 0)) s

/-- `mx.mul` (R276). -/
def execMxMul (f : MxFields) (s : State) : Out := issueMultiply false f s
/-- `mx.mrot` (R278). -/
def execMxMrot (f : MxFields) (s : State) : Out := issueMultiply true f s

/-- `mx.zero` (R279). -/
def execMxZero (seg : BitVec 8) (s : State) : Out :=
  gate false {} s (withAcc seg fun s =>
    let (m, n, _) := shapeOf s
    issuePort s (.zero seg.toNat m n) 0)

/-- A scale of a drain: `SCL` of its index, or 1.0, as an FP32 pattern (R162, R280). -/
def drainScale (sel : BitVec 3) (act : BitVec 32 → Word → State → Out) (s : State) : Out :=
  let ptr : Word := if h : sel.toNat < 4 then s.me.csr.scl[sel.toNat] else 0
  scaleAt s ptr fun x fl s => act (BitVec.ofNat 32 (roundFixed fp32 .rne x).1) fl s

/-- The code of a rounding mode. -/
def rndCode : Rnd → Nat
  | .rne => 0 | .rtz => 1 | .rdn => 2 | .rup => 3 | .rna => 4

/-- `mx.drain` (R280). -/
def execMxDrain (f : DrainFields) (s : State) : Out :=
  gate false {} s fun s =>
    match (if f.i40 then badShadow s f.fa else none), (if f.i40 then badShadow s f.fb else none) with
    | some v, _ => .next (trapI s 0x07 v)
    | none, some v => .next (trapI s 0x07 v)
    | none, none => withAcc f.seg (fun s =>
        if 8 ≤ s.myCore.port.length then .next (hold s .portRoom)
        else
          let (m, n, _) := shapeOf s
          drainScale f.sa (fun sa fa s => drainScale f.sb (fun sb fb s =>
            issuePort s (.drain f m n (rndCode (rndOf s.me.csr.rmode f.rm)) sa sb) (fa ||| fb)) s) s) s

/-! ## The port's events -/

/-- The head of the port taken out; the next one is looked at. -/
def popPort (s : State) (c : Nat) : State :=
  let co := s.core c
  let s := s.setCore c { co with port := co.port.drop 1 }
  if (co.port.drop 1).isEmpty then s else s.post (.matrixStart c)

/-- The head of the port replaced. -/
def setHead (s : State) (c : Nat) (e : PortEntry) : State :=
  let co := s.core c
  s.setCore c { co with port := e :: co.port.drop 1 }

/-- The flags of a retiring matrix instruction reach its slot, if its continuation is still there (R275). -/
def retireFlags (s : State) (e : PortEntry) (fl : Word) : State :=
  let sl := s.slot e.slot
  if fl = 0 ∨ sl.st = .free ∨ sl.cont ≠ e.serial then s else s.setSlot e.slot (sl.orFlags fl)

/-- The relaxed accesses of a retired operand-slot instruction are complete. -/
def dropAll (s : State) (k : Nat) : List Nat → State
  | [] => s
  | id :: ids => dropAll (dropRelaxed s k id) k ids

/-- May the port's load of 64 bytes go on now: class, line and unit (R86, R121, R133)? The state carries what waiting for it
began. -/
def portOpen (s : State) (k va : Nat) : State × Bool :=
  let p := s.partOf (k / 16)
  match translate (s.part p) va .read with
  | .hit l =>
    match touch s p va l (some (k / 16)) false with
    | (s, false) => (s, false)
    | (s, true) =>
      if !lineOpen s p l.key k then (s, false)
      else match unitBlock (s.part p) va false 64 with
        | some (u, force) => (if force then forceAt s p va u else s, false)
        | none => (s, true)
  | _ => (s, true)

/-- May every piece of a list of addresses go on? -/
def portOpenAll (k : Nat) : List Nat → State → State × Bool
  | [], s => (s, true)
  | va :: vas, s => match portOpen s k va with
    | (s, false) => (s, false)
    | (s, true) => portOpenAll k vas s

/-- The bytes of pieces of a tile as the slot sees them: from a leased line's copy (R229), or as relaxed loads. -/
def pieceBytes (s : State) (k : Nat) : List Nat → State × List Byte
  | [] => (s, [])
  | va :: vas =>
    let (t, v) := match leasedLine (s.slot k) va 64 with
      | some x => (s, (performHeld (s.slot k) x va (.load 64)).2)
      | none => relaxedLoad s k va (placeAt s (s.partOf (k / 16)) va .read) 64
    let (u, bs) := pieceBytes t k vas
    (u, natToBytes 64 v ++ bs)

/-- A tile from its bytes. -/
def tileOf (bs : List Byte) : Tile := BitVec.ofNat 32768 (bytesToNat bs)

/-- A tile of a block of a tensor: elements beyond its extents are code 0 (R274). -/
def blockTile (s : State) (k : Nat) (r : Vec) (m a0 b0 : Nat) (cols : Bool) : State × Tile :=
  let es := blockElems r m a0 b0 cols
  let at_ := es.map fun x => x.2.2
  let (s, vs) := elemReads s ⟨k, true, pagePlaces s (s.partOf (k / 16)) .read (elemBytes r at_)⟩ r at_
  (s, BitVec.ofNat 32768 ((es.zip vs).map fun e => e.2 * 2 ^ (512 * e.1.1 + recBits r * e.1.2.1)).sum)

/-- A tile whose bytes the spec leaves open. -/
def freeTile (draw : Nat) : Tile := BitVec.ofNat 32768 (packLanes 512 (fun i => (freeVec (64 * draw + i)).toNat) 64)

/-- The lists that are served here, as the tile enters the slot (R161); none where one cannot be read, or R158 refuses it by
now. -/
def listsNow (k : Nat) : List (Nat × (List Outlier → List Outlier)) → State → State × Option (List Outlier)
  | [], s => (s, some [])
  | (a, f) :: ls, s =>
    let p := s.partOf (k / 16)
    match podOf s p a, translate (s.part p) a .read with
    | .here, .hit _ =>
      let (s, bs) := pieceBytes s k ((List.range 4).map fun i => a + 64 * i)
      match parseOutList bs, listsNow k ls s with
      | some l, (s, some es) => (s, some (f l.entries ++ es))
      | _, (s, _) => (s, none)
    | _, _ => (s, none)

/-- The global addresses, one in each 64 bytes, that a load's tile comes from. -/
def OsSrc.sources : OsSrc → List Nat
  | .bytes .global ea (some _) _ _ => pieces ea.toNat
  | .bytes _ _ _ _ _ => []
  | .block r m a b cols => ((elemBytes r ((blockElems r m a b cols).map fun x => x.2.2)).map fun va => va / 64 * 64).dedup

/-- The tile of a load, when it can be read now. -/
def readTile (s : State) (k : Nat) (src : OsSrc) : State × Option Tile :=
  match src with
  | .bytes .scratch ea _ _ _ => match performScratch s (scrCore ea) ea (.load 4096) none with
    | some p => (p.s, some (BitVec.ofNat 32768 p.old))
    | none => (s, none)
  | .bytes .global _ none _ _ => (s.draw, some (freeTile s.draws))
  | .bytes .global ea (some _) _ _ =>
    let (t, bs) := pieceBytes s k (pieces ea.toNat)
    (t, some (tileOf bs))
  | .block r m a b cols =>
    let (s, t) := blockTile s k r m a b cols
    (s, some t)

/-- The tile of a load and the entries of its lists, when they can be read now: the slot's earlier relaxed accesses to the
bytes come first (R126), and no line is held. -/
def takeTile (s : State) (k : Nat) (src : OsSrc) (ids : List Nat) : State × Option (Tile × Option (List Outlier)) :=
  let mine := (s.slot k).relaxed.filter fun r => ids.contains r.id
  if mine.any fun r => (s.slot k).relaxed.any fun q => decide (q.id < r.id) && relaxedOrder s k q r then (s, none)
  else
    let lists := src.lists.flatMap fun e => [e.1, e.1 + 64, e.1 + 128, e.1 + 192]
    match portOpenAll k (src.sources ++ lists) s with
    | (s, false) => (s, none)
    | (s, true) => match readTile s k src with
      | (s, none) => (s, none)
      | (s, some t) =>
        let (s, l) := listsNow k src.lists s
        (s, some (t, l))

/-- Is the slot in a reconnaissance pass (R60)? -/
def slotInRecon (s : State) (k : Nat) : Bool :=
  match (s.slot k).tx with
  | none => false
  | some t => match s.tx? t with
    | none => false
    | some x => x.st == .recon

/-- The pieces of a tile on their way to memory or a scratchpad, as relaxed stores (R274); nothing is written in a
reconnaissance pass (R60). -/
def sendPieces (k : Nat) (space : Space) : List (Nat × List Byte) → State → State
  | [], s => s
  | (id, bs) :: ps, s =>
    let op : AccessOp := .store (offsets 0 bs)
    let op := if slotInRecon s k && space == .global then op.recon else op
    let at_ := s.slot k
    let s := s.setSlot k { at_ with relaxed := at_.relaxed.map fun r => if r.id = id then { r with op := op } else r }
    match at_.relaxed.find? fun r => r.id == id with
    | none => sendPieces k space ps s
    | some r =>
      let here := { s with curCore := k / 16, curSlot := k % 16 }
      let t := sendRelaxed here space r.addr id op .none 0
      sendPieces k space ps { t with curCore := s.curCore, curSlot := s.curSlot }

/-- A list of bytes in groups of 64. -/
def groups64 (bs : List Byte) : List (List Byte) := (List.range 64).map fun i => (bs.drop (64 * i)).take 64

/-- The target of a shipment: the core one step west or north of `c` in its tray (R278). -/
def neighbour (tray : Word) (c : Nat) (west : Bool) : Nat :=
  let root := (tray.extractLsb' 16 10).toNat
  let w := (tray.extractLsb' 8 4).toNat + 1
  let h := (tray.extractLsb' 12 3).toNat + 1
  let x := c % 16 - root % 16
  let y := c / 16 % 8 - root / 16 % 8
  if west then root + y * 16 + (x + w - 1) % w else root + (y + h - 1) % h * 16 + x

/-- The two shipments of a rotating multiply (R278). -/
def shipments (s : State) (c : Nat) (e : PortEntry) (f : MxFields) (tray : Word) : List Shipment :=
  let one (o : BitVec 6) (west : Bool) : Shipment :=
    let sl := osOf (s.core c) o.toNat
    ⟨e.tx, neighbour tray c west, (o ^^^ 1).toNat, sl.tile, sl.list, e.slot, e.serial⟩
  [one f.oa true, one f.ob false]

/-- Shipments sent over the neighbour fabric. -/
def sendShipments (s : State) (c : Nat) : List Shipment → State
  | [] => s
  | x :: xs =>
    let (id, s) := s.fresh
    let s := { s with fabric := s.fabric ++ [(⟨id, c, x.srcSlot % 16, x.core, .tile x, none⟩ : Msg)] }
    sendShipments (s.post (.mrotShipmentLand id)) c xs

/-- Are the operand slots of the port's head filled (R276)? -/
def portReady (co : Core) (os : List Nat) : Bool := os.all fun o => (osOf co o).st != .filling && (osOf co o).st != .empty

/-- MATRIX_START: the head of the port begins, or is carried out at once (R275, R277); a load or store whose lines are
held begins later. -/
def execMatrixStart (core : Nat) (s : State) : Out :=
  let co := s.core core
  match co.port with
  | [] => .next s
  | e :: _ =>
    if e.started then .next s
    else match e.op with
      | .claim os vid =>
        let o := osOf co os
        let mine := o.tx == e.tx
        let s := if o.tx.isNone then setOs s core os ⟨.empty, e.tx, 0, []⟩ else s
        .next (popPort (resolveV s e.slot vid [if o.tx.isNone || mine then 0 else 1] 0) core)
      | .release os =>
        .next (popPort (if (osOf co os).tx = e.tx then setOs s core os OpSlot.free else s) core)
      | .load os src _ list ids =>
        match takeTile s e.slot src ids with
        | (s, some (t, l)) => .next ((setHead s core
            { e with op := .load os src t (l.getD list) ids, started := true }).post (.osFillComplete core os))
        | (s, none) => .next (s.post (.matrixStart core))
      | .store os space _ _ ids =>
        .next (popPort (sendPieces e.slot space (ids.zip (groups64 (natToBytes 4096 (osOf co os).tile.toNat))) s) core)
      | .multiply f m n k rotate tray =>
        if !portReady co [f.oa.toNat, f.ob.toNat] then .next (s.post (.matrixStart core))
        else
          let s := if rotate then s.setCore core { co with outgoing := shipments s core e f tray } else s
          .next ((setHead s core { e with started := true, due := co.cyc + multiplyCycles co e f m n k + 8 }).post
            (.matrixRetire core))
      | .zero _ m n =>
        .next ((setHead s core { e with started := true, due := co.cyc + (m * n + 127) / 128 + 8 }).post (.matrixRetire core))
      | .drain f m n rm sa sb =>
        let (out, fl) := drainAll co e f m n rm sa sb
        .next ((setHead s core { e with started := true, due := co.cyc + 1, out := out, flags := e.flags ||| fl }).post
          (.drainChunk core))

/-- OS_FILL_COMPLETE: the last byte and the list are in, and the operand slot is FULL (R271), unless a queued `mx.mrot`
has made it SHIPPING already. -/
def execOsFillComplete (core os : Nat) (s : State) : Out :=
  let co := s.core core
  match co.port with
  | [] => .next s
  | e :: _ => match e.op with
    | .load o _ t list ids =>
      if o = os ∧ e.started then
        let x := osOf co os
        let s := if x.tx = e.tx then
            setOs s core os { x with st := if x.st = .filling then .full else x.st, tile := t, list := list }
          else s
        .next (popPort (dropAll s e.slot ids) core)
      else .next s
    | _ => .next s

/-- MATRIX_RETIRE: the accumulator and the flags are written at once (R275); a rotating multiply empties its operand
slots and ships (R278). -/
def execMatrixRetire (core : Nat) (s : State) : Out :=
  let co := s.core core
  match co.port with
  | [] => .next s
  | e :: _ =>
    if !e.started then .next s
    else if co.cyc < e.due then .next (s.post (.matrixRetire core))
    else match e.op with
      | .multiply f m n k rotate _ =>
        let (vs, fl) := multiplyAll co e f m n k
        let s := retireFlags (accWriteAll s core f.seg.toNat vs) e fl
        let empty (s : State) (o : Nat) : State :=
          let x := osOf (s.core core) o
          if x.tx = e.tx then setOs s core o { x with st := .empty, tile := 0, list := [] } else s
        let s := if rotate then
            sendShipments (empty (empty s f.oa.toNat) f.ob.toNat) core (s.core core).outgoing
          else s
        .next (popPort s core)
      | .zero seg m n =>
        .next (popPort (accWriteAll s core seg ((cells m n).map fun p => (p, 0))) core)
      | _ => .next s

/-- A drain retires: the elements are zeroed with ZR, and its flags are set (R280). -/
def retireDrain (s : State) (core : Nat) (e : PortEntry) (f : DrainFields) (m n : Nat) : State :=
  let s := if f.zr then accWriteAll s core f.seg.toNat ((cells m n).map fun p => (p, 0)) else s
  popPort (retireFlags s e e.flags) core

/-- DRAIN_CHUNK: one chunk a cycle enters the slot's `qm` while it has room, and with the last the drain retires (R280). A
continuation that has gone takes none. -/
def execDrainChunk (core : Nat) (s : State) : Out :=
  let co := s.core core
  match co.port with
  | [] => .next s
  | e :: _ => match e.op, e.started with
    | .drain f m n _ _ _, true =>
      let sl := s.slot e.slot
      if co.cyc < e.due then .next (s.post (.drainChunk core))
      else if sl.cont ≠ e.serial then .next (retireDrain s core e f m n)
      else match e.out with
        | [] => .next (retireDrain s core e f m n)
        | v :: vs =>
          if 8 ≤ sl.qm.length then .next (s.post (.drainChunk core))
          else
            let s := s.setSlot e.slot { sl with qm := sl.qm ++ [v] }
            match vs with
            | [] => .next (retireDrain s core e f m n)
            | _ => .next ((setHead s core { e with out := vs, due := co.cyc + 1 }).post (.drainChunk core))
    | _, _ => .next s

/-- A shipment leaves its core's outgoing buffers (R278). -/
def freeOutgoing (s : State) (x : Shipment) : State :=
  let c := x.srcSlot / 16
  let co := s.core c
  s.setCore c { co with outgoing := co.outgoing.erase x }

/-- MROT_SHIPMENT_LAND: a shipment lands in an EMPTY slot of its transaction, waits while the slot is not ready, or is
discarded: silently when its transaction has ended, with SLOT_STATE when another transaction has the slot (R278). -/
def execMrotShipmentLand (msg : Nat) (s : State) : Out :=
  match findMsg s msg with
  | none => .next s
  | some m => match m.body with
    | .tile x =>
      if behind s m then .next (s.post (.mrotShipmentLand msg)) else
      let live := match x.tx with
        | some t => (s.tx? t).isSome
        | none => false
      let o := osOf (s.core x.core) x.os
      if !live then .next (freeOutgoing (dropMsg s msg) x)
      else if o.tx.isSome && o.tx != x.tx then
        let s := freeOutgoing (dropMsg s msg) x
        let v := BitVec.ofNat 64 (x.core * 64 + x.os)
        let sl := s.slot x.srcSlot
        if sl.cont = x.cont ∧ sl.st ≠ .free then
          .next (s.setSlot x.srcSlot { sl with causes := sl.causes ++ [⟨0x63, v, true⟩] })
        else .next (pushEvent s (x.srcSlot / 16) 0x63 v x.tx)
      else if o.st = .empty then
        .next (setOs (freeOutgoing (dropMsg s msg) x) x.core x.os { o with st := .full, tile := x.tile, list := x.list })
      else .next (s.post (.mrotShipmentLand msg))
    | _ => .next (dropMsg s msg)

end Sys2Proof.Machine
end

