-- ==== Sys2Proof/Machine/Copy.lean ====
section
/-! DEFINITION. The meanings of major 0x33, copies (R281 to R284, R135), with the copy engine's events: acceptance, progress
and completion, the missed promise, and an engine's hardware error. -/

namespace Sys2Proof.Machine

/-! ## Issue (R282) -/

/-- The request a copy instruction hands over, its status still to be numbered (R281). -/
def copyRequest (s : State) (d a : Reg) : CopyReq :=
  let r : CopyReq := ⟨0, Handle.invalid, s.me.tx, s.me.level, readX s a, readX s (Reg.succ a 1), readX s (Reg.succ a 2),
    readX s (Reg.succ a 3), d⟩
  match r.handle with
  | some n => { r with h := handleAt s.me (BitVec.ofNat 5 n) }
  | none => r

/-- `cpy` and `cpy.nb` (R282): malformed requests and INVALID handles trap; a full FIFO makes the one wait and answers
BUSY to the other. -/
def copyIssue (block : Bool) (d a : Reg) (s : State) : Out :=
  gate false { reads := runX a 4, vwrites := [xreg d], bad := badPrivateRun a 4 } s fun s =>
    let r := copyRequest s d a
    if r.malformed then .next (trapI s 0x61 r.w3)
    else if r.handle.isSome && !r.h.valid then .next (trapI s 0x07 (BitVec.ofNat 64 (r.handle.getD 0)))
    else if inRecon s then
      let s := s.setMe { s.me with csr := { s.me.csr with promise := BitVec.ofNat 64 (s.tick % 2 ^ 64) } }
      .next (finish (writeVar s (xreg d) 0 0))
    else if 4 ≤ s.me.copies.length then
      if block then .next (hold (unbound s) .copyFifo) else .next (finish (writeVar s (xreg d) 1 0))
    else
      let (id, s) := pendV (unbound s) s.cur .copy [xreg d] none 0
      let s := s.setMe { s.me with copies := s.me.copies ++ [{ r with id := id }] }
      .next (finish (s.post (.copyAccept s.curCore)))

/-- `cpy` (R282). -/
def execCpy (d a : Reg) (s : State) : Out := copyIssue true d a s
/-- `cpy.nb` (R282). -/
def execCpyNb (d a : Reg) (s : State) : Out := copyIssue false d a s

/-! ## The status (R284, R343) -/

/-- The slot that holds the pending result with a serial number. -/
def holderOf (m : SMap Slot) (id : Nat) : Option (Nat × Slot) := m.find? fun e => e.2.vpend.any fun v => v.id == id

/-- A pending result known in a continuation that is in no slot: it comes with the continuation. -/
def noteResult (sl : Slot) (id : Nat) (v : Vec) : Slot :=
  { sl with vpend := sl.vpend.map fun w => if w.id = id then { w with values := some [v] } else w }

/-- The pending result removed from a slot. -/
def clearResult (sl : Slot) (id : Nat) : Slot := { sl with vpend := sl.vpend.filter fun w => w.id != id }

/-- The flags of a copy's conversions ORed into `FFLAGS` of a continuation that is in no slot. -/
def noteFlags (sl : Slot) (f : Word) : Slot := if f = 0 then sl else sl.orFlags f

/-- The status of a copy written to Rd wherever the continuation is, and the flags of its conversions with it (R151): in its
slot, in its save area's word, or on its way to a slot; a continuation that has ended discards it (R284, R294, R343). One
for a shared register goes to the bank of the core that the continuation runs on then, whoever owns it (log entry 59). -/
def copyStatus (s : State) (r : CopyReq) (v f : Word) : State :=
  match holderOf s.slots r.id with
  | some (k, sl) => landSoon (s.setSlot k (clearResult sl r.id)) (k / 16) k [xreg r.d] [v.setWidth 512] f
  | none => match holderOf s.saved r.id with
    | some (key, sl) =>
      let p := key / 2 ^ 57
      let va := key % 2 ^ 57
      let s := if f = 0 then s else match readSpace s p (va + 160) 8 with
        | some bs => writeSpace s p (va + 160) (natToBytes 8 (bytesToNat bs ||| (f &&& 0xFF).toNat))
        | none => s
      let sl := noteFlags sl f
      if r.d.shared then { s with saved := put s.saved key (noteResult sl r.id (v.setWidth 512)) }
      else
        let s := if r.d = 0 then s else writeSpace s p (va + 24 + 8 * r.d.toNat) (natToBytes 8 v.toNat)
        { s with saved := put s.saved key (clearResult sl r.id) }
    | none => { s with cores := s.cores.map fun (e : Nat × Core) => (e.1, { e.2 with
        landing := e.2.landing.map fun (x : Context) =>
          if x.slot.vpend.any (fun w => w.id == r.id) then
            { x with slot := noteResult (noteFlags x.slot f) r.id (v.setWidth 512) } else x }) }

/-- A status and then, with BAREN, the arrival on the barrier; one that is not LIVE drops it (R284, R137). -/
def copyEnds (s : State) (r : CopyReq) (v f : Word) : State :=
  let s := copyStatus s r v f
  if r.baren && (barOf s r.bar).live then (barArrive s r.bar).2 else s

/-- The status of a refused request: nothing is moved, and no barrier is arrived on (R282). -/
def copyRefused (s : State) (r : CopyReq) (code : Nat) (f : Word) : State := copyStatus s r (BitVec.ofNat 64 code) f

/-! ## Acceptance (R282, R283) -/

/-- Does an address of a copy fail R83, R93, R329's partition row or the pod window (R282, R386)? -/
def copyAddressBad (s : State) (p : Nat) (lvl : Level) (store : Bool) (e : Bool × Nat) : Bool :=
  let a := e.2
  if e.1 then
    let c := a / 2 ^ 20 % 1024
    decide (2 ^ 32 ≤ a) || decide (2 ≤ a / 2 ^ 30) || !s.present c || (lvl != .m && s.partOf c != p) ||
      (if a / 2 ^ 30 = 1 then store else lvl == .u && decide (251 ≤ a % 2 ^ 20 / 4096))
  else decide (2 ^ 57 ≤ a) || podOf s p a == .bad

/-- The addresses that a byte of a tensor lands at, reads where it lies now, writes where it will lie: a relayout that goes on
converts its unit first (R121). -/
def landsAt (pt : Part) (va : Nat) (store : Bool) : List Nat :=
  let ahead (c : Conv) : Conv := if c.failed then c else
    { c with units := c.units.map fun u => if u = .busy || store && u = .old then .new else u }
  touchedVas { pt with convs := pt.convs.map ahead } va 1 store

/-- Does a byte of a copy fail R56 for the transaction that asked for it? -/
def copyOutOfSet (s : State) (p : Nat) (t : Option Nat) (store : Bool) (e : Bool × Nat) : Bool :=
  !e.1 && (match t with
    | none => false
    | some t => match s.tx? t with
      | none => false
      | some tx => (landsAt (s.part p) e.2 store).any fun va =>
        !(tx.tiles.any (fun w => w.tile == pageOf va && (w.excl || !store)) ||
          classOf (classEntry (s.part p) va) == 1 || classOf (classEntry (s.part p) va) == 2))

/-- May the copy engine write at the address: no region of another writer, no block of a relayout that is RUNNING
(R143, R118)? -/
def copyMayWrite (pt : Part) (e : Bool × Nat) : Bool :=
  e.1 || ((match regionOf pt e.2 with
    | none => true
    | some r => r.writer == 0 || r.writer == 2) && !onRunningBlock pt e.2 1)

/-- The completion barrier's checks (R282). -/
def copyBarBad (s : State) (p k : Nat) (r : CopyReq) : Bool :=
  let c := r.bar / 2 ^ 16
  r.baren && (!s.present c || s.partOf c != p || !(barOf s r.bar).live || !mayUse s k c (barOf s r.bar).tray)

/-- The record of a request's handle, read again when the handle is marked, and whether it fails R111; the state block is
looked at only where the other checks pass. -/
def copyRecord (s : State) (p : Nat) (h : Handle) : Vec × Bool :=
  if !h.reload then (h.record, false)
  else match readSpace s p h.addr.toNat 64 with
    | none => (h.record, true)
    | some bs =>
      let r := vecOfBytes bs
      let names := match readSpaceWord s p (recAux r + 64) with
        | some a => blockNames a h.addr.toNat
        | none => false
      (r, (recordFault r names).isSome)

/-- The scale pointer of a request that converts elements of ETYPE 0, if it names a word (R162, R281). -/
def copyScale (r : CopyReq) (record : Vec) : Option Nat :=
  if r.kind = 2 ∧ r.fidx ≠ 0 ∧ recEtype record = 0 ∧ recScale record ≠ 0 then some (recScale record) else none

/-- The outlier list that the conversion of a move's end uses (R281). -/
def endList (record : Vec) (fidx : Nat) (e : CopyEnd) : Option Nat :=
  match e with
  | .elem m a b =>
    if recEtype record = 0 ∧ fidx ≠ 0 ∧ recOutl record then some (recLists record + 256 * unitOf record m a b) else none
  | _ => none

/-- The outlier lists of a list of ends, each once. -/
def endLists (record : Vec) (fidx : Nat) (es : List CopyEnd) : List Nat := (es.filterMap (endList record fidx)).dedup

/-- The status of a request that fails a check at acceptance, in the order of R282's table; 0 when it passes. Its scale word
and lists have to be addresses, and the lists it writes have to be its own to write (R143); R56 does not look at them. -/
def copyCheck (s : State) (p k : Nat) (r : CopyReq) (record : Vec) (sealBad : Bool) : Nat :=
  let ms := r.moves record
  let src := ms.flatMap fun m => m.src.bytes record
  let dst := ms.flatMap fun m => m.dst.bytes record
  let lists (es : List CopyEnd) : List (Bool × Nat) := (endLists record r.fidx es).map fun a => (false, a)
  let used := (copyScale r record).toList.map fun a => (false, a)
  let reads := src ++ used ++ lists (ms.map (·.src))
  let writes := dst ++ lists (ms.map (·.dst))
  if sealBad then 3
  else if reads.any (copyAddressBad s p r.level false) || writes.any (copyAddressBad s p r.level true) ||
      src.any (copyOutOfSet s p r.tx false) || dst.any (copyOutOfSet s p r.tx true) ||
      writes.any (fun e => !copyMayWrite (s.part p) e) || src.any (fun e => dst.contains e) || copyBarBad s p k r then 4
  else 0

/-- The promise of a core's latest accepted request still in progress, or 0 (R283). -/
def lastPromise (s : State) (c : Nat) : Nat :=
  match (s.copies.filter fun (j : CopyJob) => j.slot / 16 == c).getLast? with
  | some j => j.promise
  | none => 0

/-- The promise written to `PROMISE` of the continuation that asked, where it is (R283, R344). -/
def writePromise (s : State) (id : Nat) (v : Word) : State :=
  match holderOf s.slots id with
  | some (k, sl) => s.setSlot k { sl with csr := { sl.csr with promise := v } }
  | none => match holderOf s.saved id with
    | some (key, _) => writeSpace s (key / 2 ^ 57) (key % 2 ^ 57 + 376) (natToBytes 8 v.toNat)
    | none => s

/-- The head request of the slot with key `k` accepted (R282, R283). -/
def acceptCopy (s : State) (k : Nat) (r : CopyReq) : State :=
  let p := s.partOf (k / 16)
  let (record, sealBad) := if r.kind = 2 then copyRecord s p r.h else (0, false)
  match copyCheck s p k r record sealBad with
  | 0 =>
    let b := r.size record
    let promise := Nat.max s.tick (lastPromise s (k / 16)) + 200 + (b + 63) / 64
    let s := writePromise s r.id (BitVec.ofNat 64 promise)
    if b = 0 then copyEnds s r 0 0
    else
      let j : CopyJob := ⟨r, k, p, record, promise, false, false, [], none, [], [], 0, none⟩
      let s := ({ s with copies := s.copies ++ [j] }).post (.copyComplete r.id)
      s.post (.promiseMissed (k / 16) (k % 16) r.id)
  | n => copyRefused s r n 0

/-- The first page that keeps the record of a marked handle from being checked, with what its translation gives: the page of
the record, or of the state block that a record which passes the other checks names (R111, R282). -/
def recordClosed (s : State) (p : Nat) (r : CopyReq) : Option (Nat × XRes) :=
  if r.kind ≠ 2 ∨ !r.h.reload then none
  else match readSpace s p r.h.addr.toNat 64 with
    | none => firstMissing s p r.h.addr.toNat .read 64
    | some bs =>
      let v := vecOfBytes bs
      if (recordFault v true).isNone && recConv v then firstMissing s p (recAux v + 64) .read 8 else none

/-- Has every earlier access of the slot completed at dev scope, and can the record of a marked handle be checked
(R282)? -/
def copyMayStart (s : State) (k : Nat) (r : CopyReq) : Bool :=
  ((s.slot k).relaxed.all fun q => decide (r.id < q.id) || !relaxedInScope s k 4 q) &&
    (match recordClosed s (s.partOf (k / 16)) r with
      | some (_, .final) => true
      | some (_, .nowhere) => true
      | some _ => false
      | none => true)

/-- The slots of a core in the order the engine looks at them: round robin after the last served (R284). -/
def copyOrder (s : State) (c : Nat) : List Nat :=
  (List.range 16).map fun i => slotKey c (((s.core c).copyRobin + 1 + i) % 16)

/-- The head request to accept: the highest PRIO, then round robin (R284). -/
def nextCopy (s : State) : List Nat → Option (Nat × CopyReq)
  | [] => none
  | k :: ks =>
    let rest := nextCopy s ks
    match (s.slot k).copies with
    | [] => rest
    | r :: _ =>
      if !copyMayStart s k r then rest
      else match rest with
        | some (j, q) => if r.prio < q.prio then some (j, q) else some (k, r)
        | none => some (k, r)

/-- COPY_ACCEPT: the engine takes the next head of its slots' FIFOs (R282 to R284); it looks again while one waits. -/
def execCopyAccept (core : Nat) (s : State) : Out :=
  match nextCopy s (copyOrder s core) with
  | none =>
    let heads := (copyOrder s core).filterMap fun k => (s.slot k).copies.head?
    let s := heads.foldl (fun s r => match recordClosed s (s.partOf core) r with
      | some (page, x) => agentAsk s (s.partOf core) page .read x
      | none => s) s
    .next (if heads.isEmpty then s else s.post (.copyAccept core))
  | some (k, r) =>
    let s := s.setSlot k { s.slot k with copies := (s.slot k).copies.drop 1 }
    let s := s.setCore core { s.core core with copyRobin := k % 16 }
    .next (acceptCopy s k r)

/-- PROMISE_MISSED: the time base has passed the promise and the status is not written: the slot takes the cause once, if
the continuation still runs there and the status has a register (R283). -/
def execPromiseMissed (core slot job : Nat) (s : State) : Out :=
  match s.copies.find? fun (j : CopyJob) => j.req.id == job with
  | none => .next s
  | some j =>
    let k := slotKey core slot
    if s.tick ≤ j.promise then .next (s.post (.promiseMissed core slot job))
    else if j.missed ∨ j.req.d = 0 ∨ !(s.slot k).vpend.any (fun v => v.id == job) then .next s
    else
      let s := { s with copies := s.copies.map fun (x : CopyJob) => if x.req.id = job then { x with missed := true } else x }
      .next (s.setSlot k { s.slot k with causes := (s.slot k).causes ++ [⟨0x60, BitVec.ofNat 64 j.promise, true⟩] })

/-! ## Progress (R135, R284) -/

/-- A job replaced. -/
def setJob (s : State) (j : CopyJob) : State :=
  { s with copies := s.copies.map fun (x : CopyJob) => if x.req.id = j.req.id then j else x }

/-- Is a byte of a copy performed by another device of the pod? -/
def copyAway (s : State) (p a : Nat) : Bool := match podOf s p a with
  | .away _ => true
  | _ => false

/-- The virtual addresses whose pages a copy needs for a list of bytes, redirected ones too (R121). -/
def copyVas (s : State) (p : Nat) (write : Bool) (bs : List (Bool × Nat)) : List Nat :=
  bs.flatMap fun b => if b.1 || copyAway s p b.2 then [] else touchedVas (s.part p) b.2 1 write

/-- The first page that keeps the moves of a copy from going on, in copy order, with what is needed of it, what its
translation gives, and the number of the move. -/
def copyClosed (s : State) (p : Nat) (record : Vec) (fidx : Nat) : Nat → List Move → Option (Nat × Need × XRes × Nat)
  | _, [] => none
  | i, m :: ms =>
    let pages (write : Bool) (e : CopyEnd) : List Nat :=
      (copyVas s p write (e.bytes record) ++ ((endList record fidx e).toList.filter fun a => !copyAway s p a)).map pageOf
    match firstClosed (s.part p) .read (pages false m.src), firstClosed (s.part p) .write (pages true m.dst) with
    | some (page, r), _ => some (page, .read, r, i)
    | none, some (page, r) => some (page, .write, r, i)
    | none, none => copyClosed s p record fidx (i + 1) ms

/-- The lines of destination bytes to be owned: where the bytes lie now. Those of a unit of a relayout that is not converted
yet join when it is (R121, R135). -/
def copyKeys (s : State) (p : Nat) (record : Vec) (ms : List Move) : List Nat :=
  (ms.flatMap fun m => (copyVas s p true (m.dst.bytes record)).map fun va => (placeAt s p va .write).key).dedup

/-- Is the line held by a lease, by a waiting access, by another copy or by another partition? -/
def copyBlocked (s : State) (p job key : Nat) : Bool :=
  !(lineQueue s p key).isEmpty || (s.part p).copyLines.any (fun e => e.1 == key && e.2 != job) || lineStuck s p key ||
    heldElsewhere s p key

/-- The classes of a list of addresses as an outside agent's access leaves them; false when one waits (R85, R86). -/
def copyTouch (s : State) (p : Nat) (store : Bool) : List Nat → State × Bool
  | [] => (s, true)
  | va :: vas => match touch s p va (placeAt s p va (if store then .write else .read)) none store with
    | (s, false) => (s, false)
    | (s, true) => copyTouch s p store vas

/-- The global addresses of an end that this device performs. -/
def copyHere (s : State) (p : Nat) (record : Vec) (e : CopyEnd) : List Nat :=
  ((e.bytes record).filter fun b => !b.1 && !copyAway s p b.2).map fun b => b.2

/-- The addresses that the access to an end touches here, and the outlier list that its conversion uses. -/
def copyTouched (s : State) (j : CopyJob) (write : Bool) (es : List CopyEnd) : List Nat :=
  (es.flatMap fun e => copyVas s j.part write (e.bytes j.record)) ++
    ((endLists j.record j.req.fidx es).filter fun a => !copyAway s j.part a).flatMap fun a => [a, a + 128]

/-- Lines granted in exclusive ownership; remote-data copies of them are invalidated before (R90, R135). -/
def grantLines (s : State) (p job : Nat) : List Nat → State
  | [] => s
  | k :: ks =>
    let s := { s with rdc := if k % 2 = 0 then dropCopies s.rdc (k / 2) else s.rdc }
    grantLines (s.setPart p { s.part p with copyLines := put (s.part p).copyLines k job }) p job ks

/-- The lines of a job that are not in a list given up. -/
def keepLines (s : State) (p job : Nat) (keep : List Nat) : State :=
  s.setPart p { s.part p with copyLines := (s.part p).copyLines.filter fun e => e.2 != job || keep.contains e.1 }

/-- A byte of a copy read at its moment; none while a segment holds it up. -/
def copyByte (s : State) (p : Nat) (e : Bool × Nat) : Option Nat :=
  if e.1 then (performScratch s (e.2 / 2 ^ 20 % 1024) (BitVec.ofNat 64 e.2) (.load 1) none).map fun r => r.old
  else if copyAway s p e.2 then some (Config.freeByte s.draws).toNat
  else some (performGlobal s p e.2 (placeAt s p e.2 .read) (.load 1) none).old

/-- The bytes of an end read, lowest first. -/
def copyBytes (s : State) (p : Nat) : List (Bool × Nat) → Option (List Nat)
  | [] => some []
  | e :: es => match copyByte s p e, copyBytes s p es with
    | some b, some bs => some (b :: bs)
    | _, _ => none

/-- The scale that a copy's conversions use, with its flags (R162). -/
def CopyJob.factor (j : CopyJob) : XVal × Word :=
  match j.scale with
  | none => (.fin false 1 1, 0)
  | some w => scaleOfWord w

/-- The outlier list at an address as it is now: none where it is malformed or read by another device. -/
def listNow (s : State) (p a : Nat) : Option OutList :=
  if copyAway s p a then none
  else match readSpace s p a 256 with
    | some bs => parseOutList bs
    | none => none

/-- The outlier list of a move's end, if it has one. -/
def elemList (s : State) (j : CopyJob) (e : CopyEnd) : Option OutList :=
  match endList j.record j.req.fidx e with
  | some a => listNow s j.part a
  | none => none

/-- Does R158 refuse a list that the moves use? -/
def listsBad (s : State) (j : CopyJob) (es : List CopyEnd) : Bool :=
  (endLists j.record j.req.fidx es).any fun a => !copyAway s j.part a && (listNow s j.part a).isNone

/-- An element of a narrow tensor widened, with its flags (R281, R260). -/
def widen (s : State) (j : CopyJob) (e : CopyEnd) (a b v : Nat) : Nat × Word :=
  let fm := descFmt (recFmt j.record)
  let listed := match elemList s j e with
    | some l => outlierAt l.entries (a % 64) (b % 64)
    | none => none
  let (x, nv) := match listed with
    | some o => (decodeFmt fp32 o.toNat, nvOf fp32 [o.toNat])
    | none => (decodeFmt fm v, nvOf fm [v])
  let (y, bad) := xmul x j.factor.1
  let (c, fl) := etypeCode (fidxType j.req.fidx) y
  (c, fl ||| nv ||| if bad then flagNV else 0)

/-- The value of a move's source with its flags, converted for its destination except where the destination is narrow
(R281). -/
def readMove (s : State) (j : CopyJob) (m : Move) : Option (Nat × Word) :=
  let p := j.part
  let own := recEtype j.record
  let packed := fidxType j.req.fidx
  let fixed (v : Nat) : Nat × Word := if j.req.fidx = 0 then (v, 0)
    else if j.req.hsen then etypeConv own packed v
    else if own = 0 then (v, 0)
    else etypeConv packed own v
  match m.src with
  | .byte sc a => (copyByte s p (sc, a)).map fun v => (v, 0)
  | .pack _ bit w => (copyBytes s p (m.src.bytes j.record)).map fun bs =>
      fixed (bytesToNat (bs.map fun b => BitVec.ofNat 8 b) / 2 ^ (bit % 8) % 2 ^ w)
  | .elem i a b =>
    if copyAway s p (nibbleOf j.record i a b 0 / 2) then some ((Config.freeWord s.draws).toNat, 0)
    else
      let v := elemLoad s p j.record i a b
      some (if own = 0 ∧ j.req.fidx ≠ 0 then widen s j m.src a b v else fixed v)
  | .none => some (0, 0)

/-- A unit of a relayout that a list of addresses must wait for; forced when it is OLD and written (R121). -/
def copyUnit (s : State) (p : Nat) (write : Bool) : List Nat → Option State
  | [] => none
  | va :: vas => match unitBlock (s.part p) va write 1, convAt (s.part p) va with
    | some (u, force), some (c, _) => some (if force then forceUnit s p c.id u else s)
    | _, _ => copyUnit s p write vas

/-- The values of the moves of one line read, with their flags (R135); none while a segment holds one up. -/
def readLine (s : State) (j : CopyJob) : List (Nat × Move) → Option CopyJob
  | [] => some j
  | (i, m) :: ms => match readMove s j m, readLine s j ms with
    | some (v, fl), some j => some { j with data := put j.data i v, flags := j.flags ||| fl }
    | _, _ => none

/-- A byte stored by the engine; none while a segment holds it up. -/
def storeByte (s : State) (p : Nat) (e : Bool × Nat) (v : Byte) : Option State :=
  if e.1 then (performScratch s (e.2 / 2 ^ 20 % 1024) (BitVec.ofNat 64 e.2) (.store [(0, v)]) none).map fun r => r.s
  else if copyAway s p e.2 then some s
  else some (performGlobal s p e.2 (placeAt s p e.2 .write) (.store [(0, v)]) none).s

/-- Full bytes of one destination line stored as one store (R135). -/
def storeLine (s : State) (p : Nat) (bs : List ((Bool × Nat) × Byte)) : Option State :=
  match bs with
  | [] => some s
  | ((sc, a), _) :: _ =>
    let base := a / 128 * 128
    let op : AccessOp := .store (bs.map fun b => (b.1.2 - base, b.2))
    if sc then (performScratch s (a / 2 ^ 20 % 1024) (BitVec.ofNat 64 base) op none).map fun r => r.s
    else if copyAway s p a then some s
    else
      let l := placeAt s p a .write
      let start : Loc := match l with
        | .dev pa => .dev (pa / 128 * 128)
        | .host pa c => .host (pa / 128 * 128) c
      some (performGlobal s p base start op none).s

/-- The code of an element of a narrow destination with its flags, and its list written back (R159, R160). -/
def narrowMove (s : State) (j : CopyJob) (e : CopyEnd) (a b v : Nat) : Nat × Word × State :=
  let packed := fidxType j.req.fidx
  let (code, fl, list) := narrowElement (descFmt (recFmt j.record)) .rne (elemList s j e) (a % 64) (b % 64)
    (xdivBy (etypeValue packed v) j.factor.1)
  (code, fl ||| etypeNV packed v, match list, endList j.record j.req.fidx e with
    | some l, some at_ => writeSpace s j.part at_ (outBytes l)
    | _, _ => s)

/-- One move that is not a run of whole bytes written, with the flags of its conversion (R281). -/
def writeMove (s : State) (j : CopyJob) (m : Move) (v : Nat) : Option (State × Word) :=
  let p := j.part
  let plain (s : Option State) : Option (State × Word) := s.map fun s => (s, 0)
  match m.dst with
  | .byte sc a => plain (storeByte s p (sc, a) (BitVec.ofNat 8 v))
  | .pack sc bit w =>
    if w = 4 then
      match copyByte s p (sc, bit / 8) with
      | some old => plain (storeByte s p (sc, bit / 8)
          (BitVec.ofNat 8 (if bit % 8 = 0 then old / 16 * 16 + v % 16 else old % 16 + 16 * (v % 16))))
      | none => none
    else plain (storeLine s p ((m.dst.bytes j.record).zip (natToBytes ((w + 7) / 8) v)))
  | .elem i a b =>
    if copyAway s p (nibbleOf j.record i a b 0 / 2) then some (s, 0)
    else
      let (code, fl, s) := if recEtype j.record = 0 ∧ j.req.fidx ≠ 0 then narrowMove s j m.dst a b v else (v, 0, s)
      some (elemStore s p j.record i a b code, fl)
  | .none => some (s, 0)

/-- The moves written one after another, with their flags. -/
def writeMoves (s : State) (j : CopyJob) : List (Nat × Move) → Option (State × Word)
  | [] => some (s, 0)
  | (i, m) :: ms => match writeMove s j m (look j.data 0 i) with
    | some (s, fl) => (writeMoves s j ms).map fun r => (r.1, fl ||| r.2)
    | none => none

/-- The moves of one destination line written: runs of bytes as one store (R135). -/
def writeLine (s : State) (j : CopyJob) (ms : List (Nat × Move)) : Option (State × Word) :=
  if j.req.kind = 2 then writeMoves s j ms
  else (storeLine s j.part (ms.flatMap fun e => match e.2.dst with
    | .byte sc a => [((sc, a), BitVec.ofNat 8 (look j.data 0 e.1))]
    | _ => [])).map fun s => (s, 0)

/-- The job leaves the engine and gives its lines up. -/
def copyLeaves (s : State) (j : CopyJob) : State :=
  let s := keepLines s j.part j.req.id []
  { s with copies := s.copies.filter fun (x : CopyJob) => x.req.id != j.req.id }

/-- The job over: the status and the arrival follow. -/
def copyOver (s : State) (j : CopyJob) (v : Word) : State := copyEnds (copyLeaves s j) j.req v j.flags

/-- The job refused after its acceptance: a list that R158 refuses was found (R158). -/
def copyStops (s : State) (j : CopyJob) : State := copyRefused (copyLeaves s j) j.req 4 j.flags

/-- A value that a move's source has, read before or now, and the job with the flags of reading it. -/
def moveValue (s : State) (j : CopyJob) (i : Nat) (m : Move) : Option (Nat × CopyJob) :=
  match look (j.data.map fun e => (e.1, some e.2)) none i with
  | some v => some (v, j)
  | none => (readMove s j m).map fun r => (r.1, { j with flags := j.flags ||| r.2 })

/-- Moves each take their new value or keep the old, as the engine left them (R284; log entry 1); those that a segment holds
up keep the old one. -/
def leaveMoves (s : State) (j : CopyJob) : List (Nat × Move) → State × CopyJob
  | [] => (s, j)
  | (i, m) :: ms =>
    let t := s.draw
    if Config.freeBool s.draws then
      match moveValue t j i m with
      | some (v, j) => match writeMove t j m v with
        | some (t, fl) => leaveMoves t { j with flags := j.flags ||| fl } ms
        | none => leaveMoves t j ms
      | none => leaveMoves t j ms
    else leaveMoves t j ms

/-- Is a move's every page translated? -/
def moveOpen (s : State) (j : CopyJob) (m : Move) : Bool := (copyClosed s j.part j.record j.req.fidx 0 [m]).isNone

/-- The numbered moves of a job. -/
def CopyJob.numbered (j : CopyJob) : List (Nat × Move) :=
  let ms := j.req.moves j.record
  (List.range ms.length).zip ms

/-- One of a list, as the schedule chooses. -/
def chosen (s : State) (l : List Nat) : Nat := l.getD (Config.choose s.draws % l.length) 0

/-- The lines of the addresses read put into the remote-data cache of core `c`'s die, but for PRIVATE pages (R90). -/
def fillLines (s : State) (c p : Nat) (vas : List Nat) : State :=
  (vas.map fun va => va / 128 * 128).dedup.foldl (fun s va =>
    if 2 ≤ classOf (classEntry (s.part p) va) then fillCopy s c (placeAt s p va .read) else s) s

/-- The requests that an access to a list of addresses makes at their home slices (R91). -/
def noteLines (s : State) (c p : Nat) (vas : List Nat) : State :=
  (vas.map fun va => va / 128 * 128).dedup.foldl (fun s va => noteRequest s c true (placeAt s p va .read)) s

/-- What an access of the engine to addresses meets: the reclassifier, a line that others hold, a range that can give no
number, or a unit of a relayout; then `act` (R86, R101, R121, R135). `named` are the addresses of the elements. -/
def copyThen (s : State) (j : CopyJob) (write : Bool) (es : List CopyEnd) (act : List Nat → State → State) : State :=
  let again (s : State) : State := s.post (.copyComplete j.req.id)
  let vas := copyTouched s j write es
  match copyTouch s j.part write vas with
  | (s, false) => again s
  | (s, true) =>
    if vas.any fun va => copyBlocked s j.part j.req.id (placeAt s j.part va (needOf write)).key || write && !rangeOpen s j.part va
    then again s
    else match copyUnit s j.part write (es.flatMap (copyHere s j.part j.record)) with
      | some s => again s
      | none => if listsBad s j es then copyStops s j else act vas s

/-- One line of the source read. -/
def copyReads (s : State) (j : CopyJob) (unread : List (Nat × Move)) : State :=
  let g := chosen s (unread.map fun e => e.2.src.group j.record)
  let ms := unread.filter fun e => e.2.src.group j.record == g
  copyThen s.draw j false (ms.map (·.2.src)) fun vas s =>
    match readLine s j ms with
    | some j => (setJob (noteLines (fillLines s (j.slot / 16) j.part vas) (j.slot / 16) j.part vas) j).post
        (.copyComplete j.req.id)
    | none => s.post (.copyComplete j.req.id)

/-- One line of the destination written, and its ownership given up (R135). -/
def copyWrites (s : State) (j : CopyJob) (left : List (Nat × Move)) : State :=
  let g := chosen s (left.map fun e => e.2.dst.group j.record)
  let ms := left.filter fun e => e.2.dst.group j.record == g
  copyThen s.draw j true (ms.map (·.2.dst)) fun vas s =>
    match writeLine s j ms with
    | none => s.post (.copyComplete j.req.id)
    | some (s, fl) =>
      let rest := left.filter fun e => e.2.dst.group j.record != g
      let j := { j with
        written := g :: j.written, lines := copyKeys s j.part j.record (rest.map (·.2)), flags := j.flags ||| fl }
      (setJob (noteLines (keepLines s j.part j.req.id j.lines) (j.slot / 16) j.part vas) j).post (.copyComplete j.req.id)

/-- Lines of converted units that join those that the job owns (R121, R135). -/
def joinLines (s : State) (j : CopyJob) (left : List (Nat × Move)) : State × CopyJob :=
  if (s.part j.part).convs.isEmpty then (s, j)
  else
    let more := (copyKeys s j.part j.record (left.map (·.2))).filter fun k =>
      !j.lines.contains k && !copyBlocked s j.part j.req.id k
    let j := { j with lines := j.lines ++ more }
    (setJob (grantLines s j.part j.req.id more) j, j)

/-- Has every subscriber applied what engines have written into the ranges of a copy's destination (R137, R284)? -/
def copyApplied (s : State) (j : CopyJob) (ms : List (Nat × Move)) : Bool :=
  let base (b : Bool × Nat) : Nat :=
    if b.1 then (segOf (s.core (b.2 / 2 ^ 20 % 1024)) (b.2 % 2 ^ 20 / 4096)).range else b.2 / 4096 * 4096
  (((ms.flatMap fun e => e.2.dst.bytes j.record).map base).dedup).all fun va => match rangeAt s j.part va with
    | some r => r.unacked.all fun u => u.2.2.isSome
    | none => true

/-- The scale word read, once for the copy (R162). -/
def copyScaleRead (s : State) (j : CopyJob) (a : Nat) : State :=
  let again (s : State) : State := s.post (.copyComplete j.req.id)
  let take (s : State) (w : Word) : State := again (setJob s { j with scale := some w, flags := j.flags ||| (scaleOfWord w).2 })
  if copyAway s j.part a then take s.draw (Config.freeWord s.draws)
  else match copyTouch s j.part false [a] with
    | (s, false) => again s
    | (s, true) =>
      let l := placeAt s j.part a .read
      if copyBlocked s j.part j.req.id l.key then again s
      else take s (BitVec.ofNat 64 (performGlobal s j.part a l (.load 8) none).old)

/-- The work of a copy on its moves before number `n`, and how it ends after them: `some` when nothing is left (R135,
R284). -/
def copyWork (s : State) (j : CopyJob) (n : Nat) : Option State :=
  let again (s : State) : State := s.post (.copyComplete j.req.id)
  let ms := j.numbered.filter fun e => decide (e.1 < n)
  let left := ms.filter fun e => e.2.dst != .none && !j.written.contains (e.2.dst.group j.record)
  if !j.granted then
    let keys := copyKeys s j.part j.record (ms.map (·.2))
    match copyTouch s j.part true (ms.flatMap fun e => copyVas s j.part true (e.2.dst.bytes j.record)) with
    | (s, false) => some (again s)
    | (s, true) =>
      if keys.any (copyBlocked s j.part j.req.id) then some (again s)
      else if listsBad s j (ms.flatMap fun e => [e.2.src, e.2.dst]) then some (copyStops s j)
      else some (again (grantLines (setJob s { j with granted := true, lines := keys }) j.part j.req.id keys))
  else
    let (s, j) := joinLines s j left
    match copyScale j.req j.record, j.scale with
    | some a, none => some (copyScaleRead s j a)
    | _, _ => match ms.filter fun e => (look (j.data.map fun d => (d.1, some d.2)) none e.1).isNone with
      | [] =>
        if !left.isEmpty then some (copyWrites s j left)
        else if !copyApplied s j ms then some (again s)
        else none
      | unread => some (copyReads s j unread)

/-- The first page that a copy waits for: of its scale word, or of its moves. -/
def jobClosed (s : State) (j : CopyJob) : Option (Nat × Need × XRes × Nat) :=
  let scale := ((copyScale j.req j.record).toList.filter fun a => j.scale.isNone && !copyAway s j.part a).map pageOf
  match firstClosed (s.part j.part) .read scale with
  | some (page, r) => some (page, .read, r, 0)
  | none => copyClosed s j.part j.record j.req.fidx 0 (j.req.moves j.record)

/-- FAULT: the moves before the page have their new values, those from it on either (R284). -/
def copyFaults (s : State) (j : CopyJob) (page n : Nat) : State :=
  match copyWork s j n with
  | some s => s
  | none =>
    let before := (j.numbered.filter fun e => decide (e.1 < n)).map fun e => e.2.dst.group j.record
    let rest := j.numbered.filter fun e => decide (n ≤ e.1) && e.2.dst != .none && moveOpen s j e.2 &&
      (before.contains (e.2.dst.group j.record) || !j.written.contains (e.2.dst.group j.record))
    let (s, j) := leaveMoves s j rest
    copyOver s j (BitVec.ofNat 64 (2 + page % 2 ^ 57 / 4096 * 256))

/-- COPY_COMPLETE: the copy goes on (R135, R284): its pages are translated, its destination lines granted, every source
line is read once, every destination line written once, and then the status follows. -/
def execCopyComplete (job : Nat) (s : State) : Out :=
  match s.copies.find? fun (j : CopyJob) => j.req.id == job with
  | none => .next s
  | some j =>
    let p := j.part
    let waits (s : State) (page : Nat) : State := (setJob s { j with page := some (page, false) }).post (.copyComplete job)
    match jobClosed s j with
    | some (page, need, r, n) =>
      if j.page = some (page, true) then .next (copyFaults s j page n)
      else match r with
        | .miss => .next (requestXlat (waits s page) p page need)
        | .fault => .next (requestPage (waits s page) p page need)
        | _ => .next (copyFaults s j page n)
    | none => match copyWork s j j.numbered.length with
      | some s => .next s
      | none => .next (copyOver s j (BitVec.ofNat 64 (256 * j.req.size j.record)))

/-- A copy stopped: each destination byte holds its old value or its new one, and the status is ABORTED (R284). -/
def abortCopy (s : State) (j : CopyJob) : State :=
  let left := j.numbered.filter fun e => e.2.dst != .none && !j.written.contains (e.2.dst.group j.record)
  let (s, j) := leaveMoves s j (left.filter fun e => moveOpen s j e.2)
  copyOver s j 5

/-- COPY_ENGINE_HARDWARE_ERROR: the copies of a core's engine end ABORTED (R284). -/
def execCopyEngineHardwareError (core : Nat) (s : State) : Out :=
  .next ((s.copies.filter fun (j : CopyJob) => j.slot / 16 == core).foldl abortCopy s)

end Sys2Proof.Machine
end

