-- ==== Sys2Proof/Machine/Work.lean ====
section
/-! DEFINITION. Continuation records and work lists (R17 to R30), transactions and their continuations: placing a
record, picking one up, ending and discarding continuations (R23, R28, R34), and the shared banks' owner (R69). -/

namespace Sys2Proof.Machine

/-! ## The shape word of a descriptor (R42) -/

/-- Word i of a transaction's descriptor. -/
def Tx.word (t : Tx) (i : Nat) : Word := t.desc.getD i 0
/-- W. -/
def descW (d : List Word) : Nat := ((d.getD 1 0).extractLsb' 0 4).toNat + 1
/-- H. -/
def descH (d : List Word) : Nat := ((d.getD 1 0).extractLsb' 4 3).toNat + 1
/-- Slots per core. -/
def descSlots (d : List Word) : Nat := ((d.getD 1 0).extractLsb' 8 4).toNat + 1
/-- PRIO. -/
def descPrio (d : List Word) : Nat := ((d.getD 1 0).extractLsb' 12 2).toNat
/-- RECON. -/
def descRecon (d : List Word) : Bool := (d.getD 1 0).getLsbD 16
/-- RESTART. -/
def descRestart (d : List Word) : Bool := (d.getD 1 0).getLsbD 17
/-- DET. -/
def descDet (d : List Word) : Bool := (d.getD 1 0).getLsbD 18
/-- PODSEQ. -/
def descPodseq (d : List Word) : Bool := (d.getD 1 0).getLsbD 19
/-- AFTER. -/
def descAfter (d : List Word) : Bool := (d.getD 1 0).getLsbD 20
/-- The completion barrier's name. -/
def descBar (d : List Word) : Nat :=
  ((d.getD 1 0).extractLsb' 26 10).toNat * 2 ^ 16 + ((d.getD 1 0).extractLsb' 36 10).toNat
/-- BAREN. -/
def descBaren (d : List Word) : Bool := (d.getD 1 0).getLsbD 46

/-! ## Trays (R14) -/

/-- The cores of a tray by tray index: root, width, height. -/
def trayCores (root w h : Nat) : List Nat := (List.range (w * h)).map fun i => root + 16 * (i / w) + i % w

/-- The tray index of a core, when it is in the tray. -/
def trayIndex (root w h c : Nat) : Nat := (trayCores root w h).findIdx (· == c)

/-- `TRAY` on core c (R79). -/
def trayWord (root w h c : Nat) : Word :=
  BitVec.ofNat 64 (root * 2 ^ 16 + (h - 1) * 2 ^ 12 + (w - 1) * 2 ^ 8 + trayIndex root w h c)

/-! ## Records (R17, R25) -/

/-- The offset of place `i` in its core's scratchpad (R25). -/
def placeOffset (i : Nat) : Nat := 0xFC000 + 64 * i

/-- The eight words of a place. -/
def placeWords (s : State) (c i : Nat) : List Word :=
  (List.range 8).map fun j => BitVec.ofNat 64 (bytesToNat (readBytes (s.core c).scratch (placeOffset i + 8 * j) 8))

/-- A record written into a place. -/
def writePlace (s : State) (c i : Nat) (ws : List Word) : State :=
  setScratch s c (placeOffset i) (offsets 0 (ws.flatMap fun w => natToBytes 8 w.toNat))

/-- The lowest unreserved place of a core's list: one that no continuation owns (R25; log entry 61). -/
def freePlaceOf (co : Core) : Option Nat :=
  (List.range 256).find? fun i => (look (co.places.map fun e => (e.1, some e.2)) none i).isNone

/-- The fields of a context word (R18). -/
def ctxTxh (w : Word) : Nat := (w.extractLsb' 48 16).toNat
/-- LANE. -/
def ctxLane (w : Word) : Nat := (w.extractLsb' 36 12).toNat
/-- PRIO. -/
def ctxPrio (w : Word) : Nat := (w.extractLsb' 25 2).toNat
/-- LVL. -/
def ctxLvl (w : Word) : Bool := w.getLsbD 24

/-- The transaction that a handle names in a partition, once it has a crew or a pass (R18). -/
def txOfHandle (s : State) (p h : Nat) : Option (Nat × Tx) :=
  s.txs.find? fun e => e.2.part == p && e.2.txh == h && (e.2.st == .running || e.2.st == .recon)

/-- Has the transaction a crew on the core? -/
def hasCrew (t : Tx) (c : Nat) : Bool := t.crews.any fun e => e.1 == c

/-- The slots of a core are offered the records of its list. -/
def offer (s : State) (c : Nat) : State :=
  (List.range 16).foldl (fun s i => s.post (.pickUp c i)) s

/-- A record queued in a place of a core (R25, R26). -/
def queueRecord (s : State) (c i : Nat) (ws : List Word) (t : Option Nat) : State :=
  let (id, s) := s.fresh
  let s := s.setCore c { s.core c with places := put (s.core c).places i ⟨t, true, id, false, 0⟩ }
  let s := offer (writePlace s c i ws) c
  if s.agenda.contains (.loadLevel c) then s
  else (s.setCore c { s.core c with lastBalance := s.tick }).post (.loadLevel c)

/-! ## Pick-up (R19, R20, R26, R37) -/

/-- The lane a crew slot is bound to (R36). -/
def boundLane (t : Tx) (c i : Nat) : Nat :=
  match t.root, t.crews.find? fun e => e.1 == c with
  | some (r, w, h), some (_, slots) => trayIndex r w h c * slots.length + slots.findIdx (· == i)
  | _, _ => 0

/-- May the slot take the record in a place (R20, R26, R37, R330)? -/
def mayTake (s : State) (c i : Nat) (ws : List Word) : Bool :=
  let w := ws.getD 1 0
  match (s.slot (slotKey c i)).resv with
  | none => ctxLvl w
  | some t => !ctxLvl w && (match s.tx? t with
    | some tx => tx.st == .running && tx.txh == ctxTxh w && (!descDet tx.desc || ctxLane w == boundLane tx c i)
    | none => false)

/-- Does the first record come before the second: higher PRIO, then older (R26)? -/
def recordBefore (p q : Nat × Nat) : Bool := decide (q.1 < p.1) || (p.1 == q.1 && decide (p.2 < q.2))

/-- The record a slot picks: the oldest of the highest PRIO among those it may take (R26). -/
def pickRecord (s : State) (c i : Nat) : SMap Place → Option (Nat × (Nat × Nat))
  | [] => none
  | (n, pl) :: rest =>
    let best := pickRecord s c i rest
    let ws := placeWords s c n
    if pl.queued && !pl.transit && mayTake s c i ws then
      let key := (ctxPrio (ws.getD 1 0), pl.order)
      match best with
      | some (m, k) => if recordBefore key k then some (n, key) else some (m, k)
      | none => some (n, key)
    else best

/-- The user CSRs of a slot at pick-up for a transaction (R19, R79). -/
def txCsrs (tx : Tx) (c : Nat) : UserCsr :=
  let fmtWord (i : Nat) : BitVec 32 := (tx.word (11 + i / 2)).extractLsb' (32 * (i % 2)) 32
  { UserCsr.pickUp with
    fmt := Vector.ofFn fun i => fmtWord i.val
    scl := tx.scl
    txn := BitVec.ofNat 64 (tx.key.getD 0)
    tray := match tx.root with
      | some (r, w, h) => trayWord r w h c
      | none => BitVec.ofNat 64 (c * 2 ^ 16) }

/-- The slot being loaded from the words of a record (R19, R22): PC, the context word and x1 to x6. -/
def loadSlot (old : Slot) (ws : List Word) (pl : Option (Nat × Nat)) (serial : Nat) : Slot :=
  { freeSlot old with
    st := .load
    pc := ws.getD 0 0
    ctx := ws.getD 1 0
    x := Vector.ofFn fun i => if 1 ≤ i.val ∧ i.val ≤ 6 then ws.getD (i.val + 1) 0 else 0
    place := pl
    cont := serial }

/-- Is a record refused (R20)? -/
def recordRefused (s : State) (c : Nat) (w : Word) : Bool :=
  ctxReserved w || w.extractLsb' 16 2 == 3 || (match txOfHandle s (s.partOf c) (ctxTxh w) with
    | some (_, tx) => tx.st != .running || !hasCrew tx c
    | none => true)

/-- The live count falls by one; a transaction that is marked ended with none left retires (R28, R57). -/
def dropLive (s : State) (t : Nat) : State :=
  match s.tx? t with
  | none => s
  | some tx =>
    let s := s.setTx t { tx with live := tx.live - 1 }
    if tx.live ≤ 1 ∧ tx.ended ∧ tx.st = .running then s.post (.transactionRetire t) else s

/-- A loaded slot accepted or refused (R19, R20, R23). -/
def acceptLoad (s : State) (c i : Nat) : State :=
  let k := slotKey c i
  let sl := s.slot k
  let pass := match sl.tx with
    | some t => match s.tx? t with
      | some tx => tx.st == .recon
      | none => false
    | none => false
  let found := if pass then s.txs.find? (fun e => sl.tx == some e.1) else txOfHandle s (s.partOf c) (ctxTxh sl.ctx)
  match found, !pass && recordRefused s c sl.ctx with
  | some (t, tx), false =>
    s.setSlot k { sl with
      st := .ready, tx := some t, home := c, readyAt := (s.core c).cyc
      level := if ctxLvl sl.ctx then .s else .u
      csr := txCsrs tx c, sdlg := tx.sdlg, sftrap := tx.sftrap }
  | _, _ =>
    let addr := match sl.place with
      | some (pc, n) => pc * 2 ^ 20 + placeOffset n
      | none => 0
    let owner := match sl.place with
      | some (pc, n) => (look (s.core pc).places ⟨none, false, 0, false, 0⟩ n).tx
      | none => none
    let s := freePlace s sl.place
    let s := s.setSlot k (freeSlot sl)
    let s := pushEvent s c 0x63 (BitVec.ofNat 64 addr) owner
    match owner with
    | some t => dropLive s t
    | none => s

/-! ## Ends and discards (R23, R28, R34) -/

/-- The continuation in the slot with key `k` ends by `tx.end` (R28, R290). -/
def endContinuation (s : State) (k : Nat) : State :=
  let sl := s.slot k
  let s := dropSlot s k
  match sl.tx with
  | none => s
  | some t => match s.tx? t with
    | none => s
    | some tx =>
      if tx.st = .recon then (s.setTx t { tx with ended := true }).post (.reconNumbering t)
      else
        let s := if sl.ctx.getLsbD 28 then s.setTx t { tx with ended := true } else s
        dropLive s t

/-- Every slot of a list whose continuation belongs to the transaction is discarded (R34). -/
def dropSlotsOf (s : State) (t : Nat) : List Nat → State
  | [] => s
  | k :: ks => dropSlotsOf (if (s.slot k).tx = some t then dropSlot s k else s) t ks

/-- Does a message carry a continuation, a spawned record or a tile of the transaction (R34)? -/
def msgOf (t : Nat) (m : Msg) : Bool :=
  match m.body with
  | .spawn o _ _ => o == some t
  | .context c => c.slot.tx == some t
  | .refusal c => c.slot.tx == some t
  | .tile x => x.tx == some t
  | .record _ _ o => o == some t
  | .records _ o => o == t
  | _ => false

/-- What a core keeps of a discarded transaction: nothing in its list, landing places, park areas, matrix port and
outgoing buffers (R34, R52, R57). -/
def clearCore (t : Nat) (parkedIn : Nat → Bool) (co : Core) : Core :=
  { co with
    places := co.places.filter fun e => e.2.tx != some t
    landing := co.landing.filter fun x => x.slot.tx != some t
    parked := co.parked.filter fun e => !parkedIn e.1
    port := co.port.filter fun e => e.tx != some t || e.started
    outgoing := co.outgoing.filter fun x => x.tx != some t }

/-- The saved continuation of park area `n` of a core, if there is one. -/
def parkedCont (s : State) (c n : Nat) : Option Slot :=
  look (s.saved.map fun e => (e.1, some e.2)) none (areaKey (s.partOf c) (parkBase (s.core c) + 8192 * n))

/-- Every continuation of a transaction discarded, wherever it is; copies and accesses that have left go on (R34, R61,
R63, R389). -/
def discardAll (s : State) (t : Nat) : State :=
  let s := dropSlotsOf s t (s.slots.map (·.1))
  let s := { s with cores := s.cores.map fun (e : Nat × Core) => (e.1, clearCore t (fun n =>
    match parkedCont s e.1 n with
    | some sl => sl.tx == some t
    | none => false) e.2) }
  let s := { s with saved := s.saved.filter fun e => e.2.tx != some t, fabric := s.fabric.filter fun m => !msgOf t m }
  mapSlots s fun _ sl =>
    let sl := { sl with copies := sl.copies.filter fun (r : CopyReq) => r.tx != some t }
    if sl.resv = some t ∧ sl.st = .away then freeSlot sl else sl

/-- Is a message an access on its way to a bank, a barrier or a queue? -/
def Msg.isAccess (m : Msg) : Bool :=
  match m.body with
  | .bank _ _ _ _ _ | .fe _ _ _ | .bar _ _ _ | .mail _ _ => true
  | _ => false

/-- Has every access, reduction and copy that the transaction issued completed (R57 step 1)? -/
def txQuiet (s : State) (t : Nat) : Bool :=
  s.copies.all (fun (j : CopyJob) => j.req.tx != some t) &&
    s.fabric.all (fun (m : Msg) => m.tx != some t || !m.isAccess) &&
    s.slots.all (fun e => e.2.relaxed.all (fun r => r.tx != some t) && e.2.copies.all fun (r : CopyReq) => r.tx != some t) &&
    !s.cores.any fun e => e.2.port.any fun q => q.tx == some t

/-! ## The owner of the shared banks (R69) -/

/-- The earliest dispatched transaction that runs with a crew on the core (R69); a reconnaissance pass is none (log entry
65). -/
def nextOwner (s : State) (c : Nat) : List (Nat × Tx) → Option (Nat × Nat)
  | [] => none
  | (t, tx) :: rest =>
    let best := nextOwner s c rest
    if tx.st = .running ∧ hasCrew tx c then
      match best with
      | some (o, u) => if o < tx.order then some (o, u) else some (tx.order, t)
      | none => some (tx.order, t)
    else best

/-- The owner of a core's banks looked at again: when it changes the banks are zero (R69). -/
def passOwner (s : State) (c : Nat) : State :=
  let new := (nextOwner s c s.txs).map (·.2)
  let co := s.core c
  if co.owner = new then s
  else s.setCore c { co with owner := new, y := Vector.replicate 16 0, g := Vector.replicate 16 0 }

/-- The reservations and operand slots of a transaction given up on its cores; a held `SMSG` takes effect with a DET
crew's end (R57, R362, R69). -/
def releaseCrews (s : State) (t : Nat) : List (Nat × List Nat) → State
  | [] => s
  | (c, slots) :: rest =>
    let s := slots.foldl (fun s i => s.setSlot (slotKey c i)
      (let sl := s.slot (slotKey c i); if sl.resv = some t then { sl with resv := none } else sl)) s
    let co := s.core c
    let s := s.setCore c { co with
      os := co.os.filter fun e => e.2.tx != some t
      places := co.places.filter fun e => e.2.tx != some t
      smsg := co.smsgHeld.getD co.smsg, smsgHeld := none }
    releaseCrews s t rest

end Sys2Proof.Machine
end

