-- ==== Sys2Proof/Machine/Spawn.lean ====
section
/-! DEFINITION. The meanings of majors 0x3A to 0x3C: spawns, suspension, traps and their return (R291 to R293), illegal
opcodes (R182), with the events of work lists: arrival of a record, pick-up and load-levelling (R26 to R30). -/

namespace Sys2Proof.Machine

/-! ## `spawn` (R27, R291) -/

/-- The context word of a spawned record (R27). -/
def childContext (ctx : Word) : Word := (ctx &&& 0xFFFF00000F000000#64) ||| 0x10000#64

/-- The core that a spawn names (R14, R291): of the sender's tray, or its own; none when out of range. -/
def spawnTarget (s : State) (a : Word) : Option Nat :=
  if a = BitVec.allOnes 64 then some s.curCore
  else
    let own := if a = 0 then some s.curCore else none
    match s.me.tx with
    | none => own
    | some t => match s.tx? t with
      | some tx => match tx.root with
        | some (r, w, h) => (trayCores r w h)[a.toNat]?
        | none => own
      | none => own

/-- A cause at M level for instructions that leave a record (R330); the spec gives it no value. -/
def mLevelTrap (s : State) : State := trapI s.draw 0x63 (Config.freeWord s.draws)

/-- `spawn` (R291): refused at once in deterministic operation, in a pass and outside every transaction; otherwise sent
once the slot's earlier accesses have completed at dev scope. -/
def spawnTo {n : Nat} (d a b : Reg) (off : BitVec n) (s : State) : Out :=
  gate false { reads := xreg a :: runX b 6, vwrites := [xreg d], bad := badPrivateRun b 6 } s fun s =>
    if s.me.level = .m then .next (mLevelTrap s)
    else match spawnTarget s (readX s a) with
      | none => .next (trapI s 0x25 (readX s a))
      | some c =>
        let s := unbound s
        if inDet s || inRecon s || s.me.tx.isNone then .next (finish (writeVar s (xreg d) 1 0))
        else if !fenced s s.cur 4 then .next (hold s (.fence 4))
        else
          let ws := codeTarget s.me.pc off :: childContext s.me.ctx ::
            (List.range 6).map fun i => readX s (Reg.succ b i)
          let (id, s) := pendV s s.cur .spawn [xreg d] none 0
          .next (finish (sendMsg s c (.spawn s.me.tx ws id) (fun m => .spawnArrive m)))

/-- `spawn`, form I (R291). -/
def execSpawn (d a b : Reg) (off : BitVec 16) (s : State) : Out := spawnTo d a b off s
/-- `spawn`, form L (R291). -/
def execSpawnL (d a b : Reg) (off : BitVec 32) (s : State) : Out := spawnTo d a b off s

/-- SPAWN_ARRIVE: the record is accepted into an unreserved place, or refused; the outcome returns to the sender (R27,
R34, R350). -/
def execSpawnArrive (msg : Nat) (s : State) : Out :=
  deliver s msg (.spawnArrive msg) fun m s =>
    match m.body with
    | .spawn t ws vid =>
      let s := dropMsg s msg
      let k := slotKey m.src m.srcSlot
      let crew := match t with
        | some t => match s.tx? t with
          | some tx => tx.st == .running && hasCrew tx m.dst
          | none => false
        | none => false
      match t, (if crew && !(s.core m.dst).isParked then freePlaceOf (s.core m.dst) else none) with
      | some t, some i =>
        let s := match s.tx? t with
          | some tx => s.setTx t { tx with live := tx.live + 1 }
          | none => s
        resolveV (queueRecord s m.dst i ws (some t)) k vid [0] 0
      | _, _ => resolveV s k vid [1] 0
    | _ => dropMsg s msg

/-! ## `suspend` (R25, R292) -/

/-- The record a continuation leaves (R292). -/
def suspendRecord (sl : Slot) : List Word :=
  fallThrough sl :: ((sl.ctx &&& ~~~0x30000#64) ||| 0x20000#64) :: (List.range 6).map fun i => sl.x.toList.getD (i + 1) 0

/-- The record written to the place of the continuation, which may lie on another core; one that owns none takes a free
place of its core, and without one it is lost. -/
def leaveRecord (s : State) (ws : List Word) : State :=
  let t := s.me.tx
  match s.me.place with
  | some (c, i) =>
    if c = s.curCore then queueRecord s c i ws t else sendMsg s c (.record i ws t) (fun m => .shipArrive m)
  | none => match freePlaceOf s.myCore with
    | some i => queueRecord s s.curCore i ws t
    | none => s

/-- The record of the issuing slot written, and the slot FREE (R23, R292). -/
def suspendNow (s : State) : State := offer (vacate (leaveRecord s (suspendRecord s.me)) s.cur) s.curCore

/-- `suspend` (R292): once everything it waits for has come, the slot is in SAVE, and then its record is written. A result
for x0 is not waited for (R68). -/
def execSuspend (s : State) : Out :=
  gate false {} s fun s =>
    if s.me.level = .m then .next (mLevelTrap s)
    else if s.me.csr.qen ≠ 0 ∨ s.me.csr.sen ≠ 0 then .next (trapI s 0x64 0)
    else if inRecon s then .next (finish (unbound s))
    else
      let s := abandonLease s s.cur
      match (s.me.vpend.flatMap fun v => v.regs).filter fun r => !r.isX0 with
      | [] =>
        if !settled s s.cur then .next (hold s .ending)
        else if s.me.relaxed.any (·.red) then .next (hold s .drainAll)
        else if !fenced s s.cur 4 then .next (hold s (.fence 4))
        else
          let t := hold s .saving
          .next (t.setMe { t.me with st := .save })
      | rs => .next (hold s (.result rs))

/-! ## Traps (R182, R293, R334) -/

/-- `trap n` (R293): cause 0xF0 + n, xTPC the next instruction. -/
def execTrap (n : BitVec 4) (s : State) : Out :=
  gate false {} s fun s => .next (takeTrap s (0xF0 + n.toNat) 0 (fallThrough s.me) false)

/-- `tret` (R293, R334). -/
def execTret (s : State) : Out := gate false {} s fun s => .next (returnFromTrap s)

/-- A head whose major is not assigned (R182): ILLEGAL_OPCODE, with head and tail. -/
def execIllegalOpcode (_raw : Raw) (s : State) : Out := .next (trapI s 0x02 s.me.ir)

/-! ## Pick-up (R26, R30) -/

/-- Is there a record that the slot could take, now or once it is FREE or the record is back (R26, R30)? -/
def hasRecordFor (s : State) (c i : Nat) : Bool :=
  (s.core c).places.any fun e => e.2.queued && mayTake s c i (placeWords s c e.1)

/-- Does a lower-numbered FREE slot of the same crew go first (R26)? -/
def laterThan (s : State) (c i : Nat) : Bool :=
  (s.slot (slotKey c i)).resv.isSome && (List.range i).any fun j =>
    let sl := s.slot (slotKey c j)
    sl.st == .free && sl.resv == (s.slot (slotKey c i)).resv && (pickRecord s c j (s.core c).places).isSome

/-- PICK_UP: a FREE slot takes the record it may run and loads it; a loaded slot is accepted or refused (R19, R20, R23,
R26). The slot looks again while there is a record for it. -/
def execPickUp (core slot : Nat) (s : State) : Out :=
  let k := slotKey core slot
  let again (s : State) : State := if hasRecordFor s core slot then s.post (.pickUp core slot) else s
  match (s.slot k).st with
  | .load => .next (again (acceptLoad s core slot))
  | .free =>
    if laterThan s core slot then .next (again s)
    else match pickRecord s core slot (s.core core).places with
      | none => .next (again s)
      | some (n, _) =>
        let ws := placeWords s core n
        let pl := look (s.core core).places ⟨none, false, 0, false, 0⟩ n
        let (id, s) := s.fresh
        let s := s.setCore core { s.core core with places := put (s.core core).places n { pl with queued := false } }
        .next ((s.setSlot k { loadSlot (s.slot k) ws (some (core, n)) id with tx := pl.tx }).post (.pickUp core slot))
  | _ => .next (again s)

/-! ## Load-levelling (R29, R30) -/

/-- The records of a transaction that wait in a core's list, not in transit (R29). -/
def waiting (s : State) (c t : Nat) : List (Nat × Place) :=
  (s.core c).places.filter fun e => e.2.queued && !e.2.transit && e.2.tx == some t

/-- How many of them the load-levelling units of this tick see: a record that another unit marked in this tick still
counts, since loads are sampled at the interval's tick (R29). -/
def sampled (s : State) (c t : Nat) : Nat :=
  ((s.core c).places.filter fun e =>
    e.2.queued && (!e.2.transit || e.2.marked == s.tick) && e.2.tx == some t).length

/-- The four neighbours of a core on its die, with the wrap-around links (R29). -/
def neighbours (c : Nat) : List Nat :=
  let x := c % 16
  let y := c / 16 % 8
  let die := c / 128 * 128
  [die + 16 * y + (x + 1) % 16, die + 16 * y + (x + 15) % 16, die + 16 * ((y + 1) % 8) + x, die + 16 * ((y + 7) % 8) + x]

/-- The neighbour of the tray with the fewest waiting records, the lowest number among equals (R29). -/
def bestNeighbour (s : State) (t : Nat) : List Nat → Option Nat
  | [] => none
  | n :: ns => match bestNeighbour s t ns with
    | none => some n
    | some b =>
      let ln := sampled s n t
      let lb := sampled s b t
      if ln < lb ∨ (ln = lb ∧ n < b) then some n else some b

/-- A record put in its place by entry order. -/
def insertByOrder (e : Nat × Place) : List (Nat × Place) → List (Nat × Place)
  | [] => [e]
  | x :: xs => if e.2.order < x.2.order then e :: x :: xs else x :: insertByOrder e xs

/-- Records in the order they entered the list. -/
def byOrder (es : List (Nat × Place)) : List (Nat × Place) := es.foldr insertByOrder []

/-- Records marked in transit at a tick, or back (R30). -/
def markTransit (co : Core) (ns : List Nat) (on : Bool) (tick : Nat) : Core :=
  { co with places := co.places.map fun (e : Nat × Place) =>
      (e.1, if ns.contains e.1 then { e.2 with transit := on, marked := tick } else e.2) }

/-- The neighbours of a core on which a transaction has a crew, itself apart. -/
def crewNeighbours (tx : Tx) (c : Nat) : List Nat := (neighbours c).filter fun n => hasCrew tx n && n != c

/-- The rule of R29 for one transaction on one core. -/
def balance (c : Nat) (s : State) (e : Nat × Tx) : State :=
  let t := e.1
  let tx : Tx := e.2
  if tx.st ≠ TxSt.running ∨ descDet tx.desc ∨ !hasCrew tx c then s
  else match bestNeighbour s t (crewNeighbours tx c) with
    | none => s
    | some b =>
      let mine := byOrder (waiting s c t)
      let gap := sampled s c t - sampled s b t
      if gap < 2 then s
      else
        let go := mine.drop (mine.length - Nat.min 16 (gap / 2))
        let rs := go.map fun r => (r.1, placeWords s c r.1)
        let s := s.setCore c (markTransit (s.core c) (go.map (·.1)) true s.tick)
        let (id, s) := s.fresh
        ({ s with fabric := s.fabric ++ [(⟨id, c, 0, b, .records rs t, none⟩ : Msg)] }).post (.shipArrive id)

/-- Has the time base reached the next multiple of a core's interval (R29)? -/
def balanceLate (s : State) (c : Nat) : Bool :=
  let n := ((s.core c).slbi.extractLsb' 0 32).toNat
  n != 0 && decide ((s.core c).lastBalance / n < s.tick / n)

/-- LOAD_LEVEL: at each balancing interval of the time base the rule runs for every transaction of the core; it comes
back while records wait there (R29). -/
def execLoadLevel (core : Nat) (s : State) : Out :=
  let again (s : State) : State :=
    if (s.core core).places.any fun e => e.2.queued then s.post (.loadLevel core) else s
  if !balanceLate s core then .next (again s)
  else
    let s := s.setCore core { s.core core with lastBalance := s.tick }
    .next (again (s.txs.foldl (balance core) s))

/-- The records of a shipment put into free places, oldest first: those accepted and those refused (R30). -/
def acceptRecords (s : State) (c t : Nat) : List (Nat × List Word) → State × List Nat × List Nat
  | [] => (s, [], [])
  | (n, ws) :: rest =>
    match freePlaceOf (s.core c) with
    | some i =>
      let (s, yes, no) := acceptRecords (queueRecord s c i ws (some t)) c t rest
      (s, n :: yes, no)
    | none =>
      let (s, yes, no) := acceptRecords s c t rest
      (s, yes, n :: no)

/-- Has the transaction a crew on the core? -/
def crewOn (s : State) (t c : Nat) : Bool :=
  match s.tx? t with
  | some tx => tx.st == TxSt.running && hasCrew tx c
  | none => false

/-- A shipment at its core: its records put in the list, or discarded (R34), and the answer on its way. -/
def takeShipment (s : State) (m : Msg) (rs : List (Nat × List Word)) (t : Nat) : State :=
  let (s, yes, no) := if crewOn s t m.dst then acceptRecords s m.dst t rs else (s, rs.map fun r => r.1, [])
  let (id, s) := s.fresh
  ({ s with fabric := s.fabric ++ [(⟨id, m.dst, 0, m.src, .shipAnswer yes no, none⟩ : Msg)] }).post (.shipAnswer id)

/-- SHIP_ARRIVE: a shipment, or a suspended continuation's record on its way to its place, reaches a core (R25, R30).
A record of a transaction with no crew there is discarded (R34). -/
def execShipArrive (msg : Nat) (s : State) : Out :=
  deliver s msg (.shipArrive msg) fun m s =>
    let s := dropMsg s msg
    match m.body with
    | .records rs t => takeShipment s m rs t
    | .record i ws t => queueRecord s m.dst i ws t
    | _ => s

/-- SHIP_ANSWER: accepted records leave the sender's list, refused ones are pickable again (R30). -/
def execShipAnswer (msg : Nat) (s : State) : Out :=
  deliver s msg (.shipAnswer msg) fun m s =>
    let s := dropMsg s msg
    match m.body with
    | .shipAnswer yes no =>
      let co := markTransit (s.core m.dst) no false 0
      s.setCore m.dst { co with places := co.places.filter fun e => !(yes.contains e.1 && e.2.transit) }
    | _ => s

end Sys2Proof.Machine
end

