-- ==== Sys2Proof/Machine/Descriptor.lean ====
section
/-! DEFINITION. Accesses of the sequencer, the lock managers and the reduction merge as outside agents (R85), and the
transaction descriptor: its words, its set entries, the merging of duplicates and the refusals of R44. -/

namespace Sys2Proof.Machine

/-! ## Accesses by outside agents (R85) -/

/-- What an agent's read gives: the value, a wait, on a page of the host's or not, or a fault that is final. -/
inductive Got where
  | val (v : Nat)
  | wait (page : Option Nat)
  | final (page : Nat)
  deriving DecidableEq, Repr

/-- An agent reads `n` bytes at an address of the partition's space. -/
def agentRead (s : State) (p va n : Nat) : State × Got :=
  match agentOpen s p false (chunkAddrs va n) with
  | (s, .ready) => (s, .val (agentBytes s p va n))
  | (s, .wait) => (s, .wait none)
  | (s, .closed page need r) =>
    match r with
    | .miss => (agentAsk s p page need r, .wait (some page))
    | .fault => (agentAsk s p page need r, .wait (some page))
    | _ => (s, .final page)

/-- An agent writes bytes at an address; false while it has to wait. Bytes whose page has no place are lost. -/
def agentWrite (s : State) (p va : Nat) (bs : List Byte) : State × Bool :=
  match agentOpen s p true (chunkAddrs va bs.length) with
  | (s, .ready) => ((performGlobal s p va (placeAt s p va .write) (.store (offsets 0 bs)) none).s, true)
  | (s, .wait) => (s, false)
  | (s, .closed page need r) =>
    match r with
    | .miss => (agentAsk s p page need r, false)
    | .fault => (agentAsk s p page need r, false)
    | _ => (s, true)

/-! ## The descriptor and its sets (R41, R43) -/

/-- A descriptor as the sequencer reads it: its sixteen words, the entries of its lists, and its scale pointers. -/
structure Desc where
  words : List Word
  reads : List Word
  writes : List Word
  scl : Vector Word 4
  deriving DecidableEq, Repr

/-- The `n` words in a value. -/
def splitWords (v : Nat) : Nat → List Word
  | 0 => []
  | n + 1 => BitVec.ofNat 64 v :: splitWords (v / 2 ^ 64) n

/-- Word i of the descriptor. -/
def Desc.word (d : Desc) (i : Nat) : Word := d.words.getD i 0
/-- NR. -/
def Desc.nr (d : Desc) : Nat := ((d.word 3).extractLsb' 0 8).toNat
/-- NW. -/
def Desc.nw (d : Desc) : Nat := ((d.word 3).extractLsb' 8 8).toNat

/-- The outcome of reading a descriptor. -/
inductive Fetched where
  | desc (d : Desc)
  | wait (page : Option Nat)
  | final (page : Nat)
  deriving DecidableEq, Repr

/-- A list of set entries: read only when its count is not 0 and its pointer is a word's address (R41). -/
def fetchList (s : State) (p : Nat) (ptr : Word) (n : Nat) : State × Got :=
  if n = 0 ∨ ptr.toNat % 8 ≠ 0 ∨ !canonical ptr then (s, .val 0) else agentRead s p ptr.toNat (8 * n)

/-- The descriptor at an address with its sets and its scale table (R41, R358), all read when it is taken (log entry 62). A
RECON descriptor has no sets. -/
def fetchDesc (s : State) (p va : Nat) : State × Fetched :=
  match agentRead s p va 128 with
  | (s, .wait g) => (s, .wait g)
  | (s, .final g) => (s, .final g)
  | (s, .val v) =>
    let d : Desc := ⟨splitWords v 16, [], [], Vector.replicate 4 0⟩
    let recon := descRecon d.words
    match fetchList s p (d.word 2) (if recon then 0 else d.nr) with
    | (s, .wait g) => (s, .wait g)
    | (s, .final g) => (s, .final g)
    | (s, .val rs) =>
      match fetchList s p (d.word 4) (if recon then 0 else d.nw) with
      | (s, .wait g) => (s, .wait g)
      | (s, .final g) => (s, .final g)
      | (s, .val ws) =>
        let table := d.word 13
        match (if table = 0 ∨ !canonical table then (s, Got.val 0) else agentRead s p table.toNat 32) with
        | (s, .wait g) => (s, .wait g)
        | (s, .final g) => (s, .final g)
        | (s, .val sc) => (s, .desc { d with
            reads := if recon then [] else splitWords rs d.nr
            writes := if recon then [] else splitWords ws d.nw
            scl := Vector.ofFn fun i => BitVec.ofNat 64 (sc / 2 ^ (64 * i.val)) })

/-- TIDX of a set entry. -/
def entTidx (e : Word) : Nat := (e.extractLsb' 57 7).toNat
/-- TILE, as the tile's address. -/
def entTile (e : Word) : Nat := (e.extractLsb' 12 45).toNat * 4096
/-- MODE. -/
def entMode (e : Word) : Nat := (e.extractLsb' 8 4).toNat
/-- OSLOT. -/
def entOs (e : Word) : Nat := (e.extractLsb' 0 6).toNat
/-- Is the entry pushed? -/
def entPushed (e : Word) : Bool := entMode e == 1 || entMode e == 5

/-- The entries with whether they stand in the write list, the read list first. -/
def Desc.entries (d : Desc) : List (Bool × Word) := d.reads.map (fun e => (false, e)) ++ d.writes.map (fun e => (true, e))

/-- An entry merged into a list of tiles (R44). -/
def mergeEntry (ts : List SetTile) (e : Bool × Word) : List SetTile :=
  let push := if entPushed e.2 then some (entTidx e.2, entOs e.2) else none
  if ts.any fun t => t.tile == entTile e.2 then
    ts.map fun t => if t.tile = entTile e.2 then
        { t with excl := t.excl || e.1, push := match t.push with
          | some q => some q
          | none => push }
      else t
  else ts ++ [⟨entTile e.2, e.1, push, false, false, false, none⟩]

/-- The tiles of a descriptor after merging (R44). -/
def Desc.tiles (d : Desc) : List SetTile := d.entries.foldl mergeEntry []

/-- Is the entry malformed: a reserved bit or MODE, or a mode of the other list? -/
def badEntry (e : Bool × Word) : Bool :=
  e.2.extractLsb' 6 2 != 0 || (if e.1 then !(4 ≤ entMode e.2 && entMode e.2 ≤ 6) else !(1 ≤ entMode e.2 && entMode e.2 ≤ 2))

/-- A reserved bit of the descriptor, or a set pointer or scale pointer with bits above the address space. -/
def Desc.reserved (d : Desc) : Bool :=
  let w := d.word 1
  w.extractLsb' 47 17 != 0 || w.extractLsb' 21 5 != 0 || w.extractLsb' 14 2 != 0 || w.getLsbD 7 ||
    (d.word 3).extractLsb' 16 48 != 0 || (d.word 14).extractLsb' 0 3 != 0 || (d.word 14).extractLsb' 57 7 != 0 ||
    (d.nr != 0 && !canonical (d.word 2)) || (d.nw != 0 && !canonical (d.word 4)) ||
    (descRecon d.words && !canonical (d.word 2)) || !canonical (d.word 13)

/-- Is the partition the device's member of a pod (R385)? -/
def inPod (s : State) (p : Nat) : Bool := s.hub.mpod.getLsbD 15 && (s.hub.mpod.extractLsb' 8 3).toNat == p

/-- The device that locks a tile, when it is another one (R49, R386). -/
def awayDev (s : State) (p tile : Nat) : Option Nat :=
  match podOf s p tile with
  | .away d => some d
  | _ => none

/-- Does another device lock the tile? -/
def tileAway (s : State) (p tile : Nat) : Bool := (awayDev s p tile).isSome

/-- A core that gets more than 64 pushed tiles, or an operand slot named twice (R44). -/
def pushClash (ts : List SetTile) : Bool :=
  let ps := ts.filterMap fun t => t.push
  ps.any fun q => decide (64 < (ps.filter fun r => r.1 == q.1).length) || decide (1 < (ps.filter fun r => r == q).length)

/-- The status of a descriptor that R44 refuses, of the earliest row that applies: 2 REFUSED, 3 LIMIT. -/
def Desc.refusal (s : State) (p : Nat) (d : Desc) : Option Nat :=
  let cores := descW d.words * descH d.words
  if d.reserved || d.entries.any badEntry then some 2
  else if d.entries.any fun e =>
      if entPushed e.2 then decide (cores ≤ entTidx e.2) else entTidx e.2 != 0 || entOs e.2 != 0 then some 2
  else if (d.nr ≠ 0 ∧ (d.word 2).toNat % 8 ≠ 0) ∨ (d.nw ≠ 0 ∧ (d.word 4).toNat % 8 ≠ 0) ∨
      (descRecon d.words ∧ (d.word 2).toNat % 8 ≠ 0) then some 2
  else if descPodseq d.words && !inPod s p then some 2
  else if descRecon d.words ∧ (d.nr ≠ 0 ∨ d.nw ≠ 0 ∨ d.word 4 ≠ 0) then some 2
  else if 128 < d.nr ∨ 128 < d.nw ∨ 128 < d.tiles.length then some 3
  else if pushClash d.tiles then some 3
  else if !descPodseq d.words && d.tiles.any fun t => tileAway s p t.tile then some 3
  else none

/-- The entries of a reconnaissance area as lists, told apart by their modes (R59, R60). -/
def reconDesc (d : Desc) (es : List Word) : Desc :=
  let w (e : Word) : Bool := 4 ≤ entMode e && entMode e ≤ 6
  { d with reads := es.filter fun e => !w e, writes := es.filter w }

/-- The refusal of the sets that a pass has built (R44, R60): the rows on the descriptor's own counts are over. -/
def reconRefusal (s : State) (p : Nat) (d : Desc) : Option Nat :=
  let clear : Word := 0x10000
  (Desc.refusal s p { d with words := setAt d.words 1 (d.word 1 &&& ~~~clear) })

end Sys2Proof.Machine
end

