-- ==== Sys2Proof/Machine/Locks.lean ====
section
/-! DEFINITION. The lock managers (R49 to R53, R58, R62, R64): which one locks a tile, the queues and the grant rule, pushes
and snapshots, close markers, and the end of a transaction whose set tile faults for good. -/

namespace Sys2Proof.Machine

/-- An event put on the agenda unless it is there. -/
def postOnce (s : State) (e : Instr) : State := if s.agenda.contains e then s else s.post e

/-! ## Which manager (R49) -/

/-- LockIndex of a tile. -/
def lockIndex (tile : Nat) : Nat :=
  (tile / 2 ^ 12 % 512) ^^^ (tile / 2 ^ 21 % 512) ^^^ (tile / 2 ^ 30 % 512) ^^^ (tile / 2 ^ 39 % 512) ^^^
    (tile / 2 ^ 48 % 512)

/-- The number of a partition's lock managers: sixteen banks in each island (R6, R400). -/
def managers (s : State) (p : Nat) : Nat :=
  Nat.max 1 (16 * ((List.range 32).filter fun i => holdsIsland (s.part p).record i).length)

/-- The manager of a tile. -/
def managerOf (s : State) (p tile : Nat) : Nat := lockIndex tile % managers s p

/-! ## The transaction's own view -/

/-- A tile of a transaction's sets changed. -/
def updTile (s : State) (t tile : Nat) (f : SetTile → SetTile) : State :=
  match s.tx? t with
  | none => s
  | some tx => s.setTx t { tx with tiles := tx.tiles.map fun e => if e.tile = tile then f e else e }

/-- A tile of a transaction's sets. -/
def setTileOf (s : State) (t tile : Nat) : Option SetTile :=
  match s.tx? t with
  | none => none
  | some tx => tx.tiles.find? fun e => e.tile == tile

/-- A transaction ends with a status that is not DONE; its retirement steps follow (R57, R58). -/
def failTx (s : State) (t status : Nat) : State :=
  match s.tx? t with
  | none => s
  | some tx =>
    if tx.st = .closing then s
    else (s.setTx t { tx with st := .closing, status := status }).post (.transactionRetire t)

/-! ## Grants (R51, R52, R62) -/

/-- Does the manager copy the tile aside at its grant (R62)? -/
def snapshots (tx : Tx) (e : SetTile) : Bool := e.excl && (descRestart tx.desc || descRecon tx.desc)

/-- The contents of a tile at its home. -/
def tileAt (s : State) (p tile : Nat) : Tile :=
  BitVec.ofNat 32768 (performGlobal s p tile (placeAt s p tile .read) (.load 4096) none).old

/-- The contents of a tile that another device's manager pushes. -/
def farTile (s : State) : Tile :=
  BitVec.ofNat 32768 (bytesToNat ((List.range 4096).map fun i => Config.freeByte (4096 * s.draws + i)))

/-- The core of a push, by tray index. -/
def pushCore (tx : Tx) (tidx : Nat) : Option Nat :=
  match tx.root with
  | some (r, w, h) => (trayCores r w h)[tidx]?
  | none => none

/-- A tile on its way to an operand slot (R52). -/
def sendPush (s : State) (t core os : Nat) (data : Tile) : State :=
  let (id, s) := s.fresh
  ({ s with fabric := s.fabric ++ [(⟨id, 1024, 0, core, .tile ⟨some t, core, os, data, [], 0, 0⟩, none⟩ : Msg)] }).post (.pushLanded id)

/-- The grant of a tile, its contents given (R52, R62): a snapshot where one is kept, and the push. -/
def grantTile (s : State) (t : Nat) (tx : Tx) (e : SetTile) (data : Tile) : State :=
  let s := updTile s t e.tile fun e => { e with
    granted := true, landed := e.push.isNone, snapshot := if snapshots tx e then some data else e.snapshot }
  match e.push with
  | none => s
  | some (i, os) => match pushCore tx i with
    | some c => if tx.st = .replacing then s else sendPush s t c os data
    | none => s

/-- The grant that the rule allows made, when the tile can be read; false while it has to wait. A translation that is gone
again is asked for anew, and a fault of it that is final ends the transaction (R58). -/
def grantNow (s : State) (p tile t : Nat) : State × Bool :=
  match s.tx? t, setTileOf s t tile with
  | some tx, some e =>
    if e.push.isNone && !snapshots tx e then (grantTile s t tx e 0, true)
    else match translate (s.part p) tile .read with
      | .hit _ =>
        match (if e.push.isSome then agentOpen s p false (chunkAddrs tile 4096) else (s, .ready)) with
        | (s, .ready) => (grantTile s t tx e (tileAt s p tile), true)
        | (s, _) => (s, false)
      | .miss => (requestXlat s p tile .read, false)
      | .fault => (requestPage s p tile .read, false)
      | _ => (failTx s t 4, false)
  | _, _ => (s, true)

/-- `CloseSeen` of a device at a manager for a round (R51, R64): markers come in the order of the rounds. -/
def closeSeen (s : State) (p mgr dev round : Nat) : Bool :=
  let pt := s.part p
  decide (round < look pt.closed 0 (mgr * 256 + dev)) || decide (round < look pt.closed 0 (2 ^ 20 + dev))

/-- `Closed` (R51). -/
def closedFor (s : State) (p mgr key : Nat) : Bool :=
  let j := key / 2 ^ 16
  let d := key / 256 % 256
  if inPod s p then
    (s.part p).members.all fun m => if m ≤ d then closeSeen s p mgr m j else j == 0 || closeSeen s p mgr m (j - 1)
  else closeSeen s p mgr 0 j

/-- Is the request of another device's transaction? Its grant goes over Stente (R387). -/
def foreign (t : Nat) : Bool := decide (2 ^ 64 ≤ t)

/-- `TryGrant` along a tile's queue (R51), with the requests before. -/
def grantLoop (s : State) (p tile : Nat) (before : List LockReq) : List LockReq → State × List LockReq
  | [] => (s, [])
  | q :: qs =>
    if q.granted then
      let (s, r) := grantLoop s p tile (before ++ [q]) qs
      (s, q :: r)
    else if !closedFor s p (managerOf s p tile) q.key || !q.xdone then (s, q :: qs)
    else if (if q.excl then !before.isEmpty else before.any fun b => b.excl) then (s, q :: qs)
    else match (if foreign q.tx then (sendFlit s (q.key / 256 % 256) 3, true) else grantNow s p tile q.tx) with
      | (s, true) =>
        let (s, r) := grantLoop s p tile (before ++ [{ q with granted := true }]) qs
        (s, { q with granted := true } :: r)
      | (s, false) => (postOnce s (.setTileTranslationDone q.tx tile false), q :: qs)

/-- The queue of a tile; an empty one is not listed. -/
def setLocks (s : State) (p tile : Nat) (q : List LockReq) : State :=
  let pt := s.part p
  s.setPart p { pt with locks := if q.isEmpty then remove pt.locks tile else put pt.locks tile q }

/-- `TryGrant` (R51). -/
def tryGrant (s : State) (p tile : Nat) : State :=
  let (s, q) := grantLoop s p tile [] (look (s.part p).locks [] tile)
  setLocks s p tile q

/-! ## Requests, translations and releases -/

/-- A request put in its queue by number (R51). -/
def insertLock (r : LockReq) : List LockReq → List LockReq
  | [] => [r]
  | q :: qs => if r.key < q.key then r :: q :: qs else q :: insertLock r qs

/-- The translation of a request's tile looked at (R58): granting goes on, the host is asked, or the transaction ends
with FAULT. -/
def examineTile (s : State) (p t tile : Nat) (fault : Bool) : State :=
  let q := look (s.part p).locks [] tile
  match q.find? fun r => r.tx == t with
  | none => s
  | some r =>
    if r.xdone then tryGrant s p tile
    else match (if fault then XRes.final else translate (s.part p) tile (needOf r.excl)) with
      | .hit _ =>
        let s := setLocks s p tile (q.map fun x => if x.tx = t then { x with xdone := true } else x)
        tryGrant (updTile s t tile fun e => { e with xdone := true }) p tile
      | .miss => requestXlat s p tile (needOf r.excl)
      | .fault => requestPage s p tile (needOf r.excl)
      | _ =>
        if foreign t then tryGrant (setLocks (sendFlit s (r.key / 256 % 256) 3) p tile (q.filter fun x => x.tx != t)) p tile
        else failTx s t 4

/-- LOCK_REQUEST: a request reaches its manager, which queues it and starts its translation (R51, R58). A request for a tile
that another device locks goes there over Stente (R387). -/
def execLockRequest (msg : Nat) (s : State) : Out :=
  deliver s msg (.lockRequest msg) fun m s =>
    let s := dropMsg s msg
    match m.body with
    | .lockReq t tile =>
      match s.tx? t, setTileOf s t tile with
      | some tx, some e =>
        match awayDev s tx.part tile with
        | some d => sendFlit s d 2
        | none =>
          let q := look (s.part tx.part).locks [] tile
          let s := setLocks s tx.part tile (insertLock ⟨t, tx.key.getD 0, e.excl, false, false⟩ q)
          examineTile s tx.part t tile false
      | _, _ => s
    | _ => s

/-- SET_TILE_TRANSLATION_DONE: an answer for a set tile's translation reaches its manager, or the fault is final (R58). -/
def execSetTileTranslationDone (tx tile : Nat) (fault : Bool) (s : State) : Out :=
  match s.tx? tx with
  | none => .next (if foreign tx then examineTile s (s.hub.mpod.extractLsb' 8 3).toNat tx tile fault else s)
  | some x => .next (examineTile s x.part tx tile fault)

/-- LOCK_RELEASE: `Release` (R51, R57). -/
def execLockRelease (msg : Nat) (s : State) : Out :=
  deliver s msg (.lockRelease msg) fun m s =>
    let s := dropMsg s msg
    match m.body with
    | .lockRel t tile =>
      let p := m.src - 1025
      match awayDev s p tile with
      | some d => sendFlit s d 2
      | none =>
        let q := (look (s.part p).locks [] tile).filter fun r => r.tx != t
        tryGrant (setLocks s p tile q) p tile
    | _ => s

/-- PUSH_LANDED: a pushed tile fills its operand slot, once the slot is claimed (R52, R54, R271). -/
def execPushLanded (msg : Nat) (s : State) : Out :=
  match findMsg s msg with
  | none => .next s
  | some m => match m.body with
    | .tile x =>
      match x.tx with
      | none => .next (dropMsg s msg)
      | some t => match s.tx? t with
        | none => .next (dropMsg s msg)
        | some tx =>
          let o := osOf (s.core x.core) x.os
          if o.tx = some t ∧ o.st = .empty then
            let s := setOs (dropMsg s msg) x.core x.os { o with st := .full, tile := x.tile, list := [] }
            .next (s.setTx t { tx with tiles := tx.tiles.map fun e => match e.push with
              | some (i, os) => if pushCore tx i = some x.core ∧ os = x.os then { e with landed := true } else e
              | none => e })
          else .next (s.post (.pushLanded msg))
    | _ => .next (dropMsg s msg)

/-! ## Close markers (R46, R50, R64) -/

/-- Every request of a transaction sent to its tile's manager (R49). -/
def sendRequests (s : State) (p t : Nat) : List SetTile → State
  | [] => s
  | e :: es =>
    let (id, s) := s.fresh
    let s := { s with fabric := s.fabric ++ [(⟨id, 1025 + p, 0, managerOf s p e.tile, .lockReq t e.tile, none⟩ : Msg)] }
    sendRequests (s.post (.lockRequest id)) p t es

/-- Every lock of a transaction released (R57). -/
def sendReleases (s : State) (p t : Nat) : List SetTile → State
  | [] => s
  | e :: es =>
    let (id, s) := s.fresh
    let s := { s with fabric := s.fabric ++ [(⟨id, 1025 + p, 0, managerOf s p e.tile, .lockRel t e.tile, none⟩ : Msg)] }
    sendReleases (s.post (.lockRelease id)) p t es

/-- The device's index in the pod; 0 outside a pod (R45). -/
def ownDev (s : State) (p : Nat) : Nat := if inPod s p then (s.hub.mpod.extractLsb' 0 8).toNat else 0

/-- A close marker sent to every manager (R46, R64). -/
def sendMarkers (s : State) (p dev round : Nat) : Nat → State
  | 0 => s
  | n + 1 => sendMarkers (s.post (.closeMarker p n dev round)) p dev round n

/-- A close marker sent to every other member of the pod (R64). -/
def sendFarMarkers (s : State) (p : Nat) : State :=
  if inPod s p then ((s.part p).members.filter (· ≠ myDev s)).foldl (fun s m => sendFlit s m 2) s else s

/-- The requests among the messages of a list that other devices lock, all of one sequencer, sent over Stente (R49, R387). -/
def sendFarRequests (s : State) (p : Nat) : List Msg → State
  | [] => s
  | m :: ms =>
    let s := match m.body with
      | .lockReq t tile => match s.tx? t, setTileOf s t tile, awayDev s p tile with
        | some _, some _, some d => sendFlit (dropMsg s m.id) d 2
        | _, _, _ => s
      | _ => s
    sendFarRequests s p ms

/-- The requests of the round that have not been sent yet go out before its marker (R50, R64). -/
def sendPendingRequests (s : State) (p : Nat) : State :=
  sendFarRequests s p (s.fabric.filter fun m => m.src == 1025 + p)

/-- The round closes (R46): its requests and then its marker go out (R50), the next round opens, a held `SLQD` takes effect
(R354) and the host window table is read again (R383). -/
def closeRound (s : State) (p : Nat) : State :=
  let s := sendMarkers (sendFarMarkers (sendPendingRequests s p) p) p (ownDev s p) (s.part p).round (managers s p)
  let pt := s.part p
  let s := readWindows (s.setPart p { pt with
    round := pt.round + 1, pos := 0, roundAt := none, slqd := pt.slqdHeld.getD pt.slqd, slqdHeld := none }) p
  if (s.part p).slqd.extractLsb' 0 9 = 0 then s else postOnce s (.pick p)

/-- Is a request of the device's own for this round or an earlier one still on its way to the manager (R50)? -/
def requestBehind (s : State) (p mgr round : Nat) : Bool :=
  s.fabric.any fun m => m.src == 1025 + p && m.dst == mgr && (match m.body with
    | .lockReq t _ => match s.tx? t with
      | some tx => decide (tx.key.getD 0 / 2 ^ 16 ≤ round)
      | none => false
    | _ => false)

/-- `TryGrant` on each tile of a list. -/
def tryGrants (s : State) (p : Nat) : List Nat → State
  | [] => s
  | tile :: ts => tryGrants (tryGrant s p tile) p ts

/-- CLOSE_MARKER: a marker reaches a manager after the requests sent before it; its tiles are looked at (R50, R64). -/
def execCloseMarker (part mgr dev round : Nat) (s : State) : Out :=
  if dev = ownDev s part ∧ requestBehind s part mgr round then .next (s.post (.closeMarker part mgr dev round))
  else
    let pt := s.part part
    let n := Nat.max (look pt.closed 0 (mgr * 256 + dev)) (round + 1)
    let s := s.setPart part { pt with closed := put pt.closed (mgr * 256 + dev) n }
    let tiles := (keysOf pt.locks fun q => q.any fun r => !r.granted).filter fun t => managerOf s part t == mgr
    .next (tryGrants s part tiles)

end Sys2Proof.Machine
end

