-- ==== Sys2Proof/Machine/Retire.lean ====
section
/-! DEFINITION. The end of transactions: retirement and every other terminal status (R57), the reduction merge at a phase's
boundary (R141, R144), snapshots put back (R61, R63), and hardware errors (R63). -/

namespace Sys2Proof.Machine

/-! ## Snapshots put back (R61 to R63) -/

/-- A tile of a list whose snapshot cannot be put back yet, as its page is not translated. -/
def restoreClosed (s : State) (p : Nat) : List SetTile → Option (Nat × XRes)
  | [] => none
  | e :: es =>
    if e.snapshot.isNone || tileAway s p e.tile then restoreClosed s p es
    else match translate (s.part p) e.tile .write with
      | .miss => some (e.tile, .miss)
      | .fault => some (e.tile, .fault)
      | _ => restoreClosed s p es

/-- The snapshots of a list written back to their tiles. -/
def restoreAll (s : State) (p : Nat) : List SetTile → State
  | [] => s
  | e :: es =>
    match e.snapshot, translate (s.part p) e.tile .write with
    | some d, .hit l =>
      restoreAll (performGlobal s p e.tile l (.store (offsets 0 (natToBytes 4096 d.toNat))) none).s p es
    | _, _ => restoreAll s p es

/-- The exclusive tiles of a transaction restored; false while a translation is waited for. -/
def restoreTiles (s : State) (tx : Tx) : State × Bool :=
  match restoreClosed s tx.part tx.tiles with
  | some (page, r) => (agentAsk s tx.part page .write r, false)
  | none => (restoreAll s tx.part tx.tiles, true)

/-! ## The reduction merge (R40, R144) -/

/-- The order of the logs: transaction number, LANE, issue index (R40). -/
def logBefore (a b : LogEntry) : Bool :=
  decide (a.key < b.key) || (a.key == b.key && (decide (a.lane < b.lane) || (a.lane == b.lane && decide (a.idx < b.idx))))

/-- The entry of a log that comes first. -/
def firstLog : List LogEntry → Option LogEntry
  | [] => none
  | e :: es => match firstLog es with
    | some f => some (if logBefore f e then f else e)
    | none => some e

/-- One logged reduction applied to its destination, rounding once by its own mode; false while it has to wait (R144). -/
def applyLog (s : State) (p : Nat) (e : LogEntry) : State × Bool :=
  match agentOpen s p true [e.addr] with
  | (s, .ready) =>
    let l := placeAt s p e.addr .write
    ((performGlobal s p e.addr l (.atomic e.op e.n e.value 0 e.rm) none).s, true)
  | (s, .wait) => (s, false)
  | (s, .closed page need r) =>
    match r with
    | .miss => (agentAsk s p page need r, false)
    | .fault => (agentAsk s p page need r, false)
    | _ => (s, true)

/-- Is another transaction of the same deterministic batch still to retire (R141)? -/
def phaseGoesOn (s : State) (t : Nat) (tx : Tx) : Bool :=
  s.txs.any fun e => e.1 != t && e.2.part == tx.part && e.2.batch == tx.batch && descDet e.2.desc &&
    (e.2.st != .closing || e.2.root.isSome)

/-- The end of the phase with the last transaction of its batch: the logs are applied one after another, then the
phase is over; false while one is left (R141, R144). -/
def endPhase (s : State) (t : Nat) (tx : Tx) : State × Bool :=
  let pt := s.part tx.part
  if pt.phase ≠ some tx.batch ∨ !descDet tx.desc ∨ phaseGoesOn s t tx then (s, true)
  else match firstLog pt.logs with
    | none => (s.setPart tx.part { pt with phase := none, regions := [] }, true)
    | some e => match applyLog s tx.part e with
      | (s, true) => (s.setPart tx.part { s.part tx.part with logs := (s.part tx.part).logs.erase e }, false)
      | (s, false) => (s, false)

/-! ## Retirement (R57) -/

/-- The owners of the shared banks of the cores of a list looked at again (R69). -/
def passOwners (s : State) : List (Nat × List Nat) → State
  | [] => s
  | (c, _) :: es => passOwners (passOwner s c) es

/-- Step 1, second half: shipments and pushes of the transaction that have not landed are discarded (R57, R278). -/
def dropTiles (s : State) (t : Nat) : State :=
  { s with
    fabric := s.fabric.filter fun m => !(match m.body with
      | .tile x => x.tx == some t
      | _ => false)
    cores := s.cores.map fun (e : Nat × Core) =>
      (e.1, { e.2 with outgoing := e.2.outgoing.filter fun (x : Shipment) => x.tx != some t }) }

/-- Step 2: locks, operand slots and reservations released (R57, R362, R69). -/
def releaseTx (s : State) (t : Nat) (tx : Tx) : State :=
  let s := dropTiles s t
  let s := if tx.key.isSome then sendReleases s tx.part t tx.tiles else s
  let s := releaseCrews s t tx.crews
  let s := s.setTx t { tx with tiles := [], crews := [], root := none }
  passOwners s tx.crews

/-- The completion word (R57). -/
def completionWord (tx : Tx) (lost : Bool) : Nat :=
  tx.key.getD 0 % 2 ^ 40 * 2 ^ 24 + tx.reexec % 16 * 2 ^ 20 + tx.checks % 16 * 2 ^ 16 + (if lost then 256 else 0) + tx.status

/-- Is the arrival on the completion barrier dropped (R57, R65)? -/
def barLost (s : State) (tx : Tx) : Bool :=
  descBaren tx.desc && (!(barOf s (descBar tx.desc)).live || (barOf s (descBar tx.desc)).tray)

/-- Steps 3 and 4: the completion word, then the completion barrier; false while the word's page is waited for (R57). -/
def complete (s : State) (t : Nat) (tx : Tx) : State × Bool :=
  let a := (tx.word 14).toNat
  let lost := barLost s tx
  let (s, ok) := if a = 0 then (s, true) else agentWrite s tx.part a (natToBytes 8 (completionWord tx lost))
  if !ok then (s, false)
  else
    let s := if descBaren tx.desc && !lost then (barArrive s (descBar tx.desc)).2 else s
    ({ s with txs := remove s.txs t }, true)

/-- TRANSACTION_RETIRE (R57): a transaction that is marked ended with no continuation left, or that ends with another
status, goes through the four steps. Its accesses and copies complete first; an ABORTED one with RESTART has its tiles
restored (R63); a deterministic phase ends with its last transaction (R141, R144). -/
def execTransactionRetire (tx : Nat) (s : State) : Out :=
  let again (s : State) : State := s.post (.transactionRetire tx)
  match s.tx? tx with
  | none => .next s
  | some x =>
    if x.st = .running then
      if x.ended ∧ x.live = 0 then .next (again (s.setTx tx { x with st := .closing, status := 1 })) else .next s
    else if x.st ≠ .closing then .next s
    else if x.root.isSome then
      if !txQuiet s tx then .next (again s)
      else match (if x.status = 5 ∧ descRestart x.desc then restoreTiles s x else (s, true)) with
        | (s, false) => .next (again s)
        | (s, true) => match endPhase s tx x with
          | (s, false) => .next (again s)
          | (s, true) => .next (again (releaseTx s tx x))
    else match complete s tx x with
      | (s, true) => .next s
      | (s, false) => .next (again s)

/-! ## Hardware errors (R63) -/

/-- A transaction that has to be placed again: its crews given up, its pushes to be repeated; locks and number kept. -/
def unplace (s : State) (t : Nat) (tx : Tx) (core : Nat) : State :=
  let s := releaseCrews (dropTiles s t) t tx.crews
  let s := s.setTx t { tx with
    st := .replacing, crews := [], failedCores := tx.failedCores ++ [core]
    tiles := tx.tiles.map fun e => { e with landed := e.granted && e.push.isNone } }
  (passOwners s tx.crews).post (if descDet tx.desc then .detReplace t else .dispatch t)

/-- Does an error on the core concern the transaction: a core of its tray, or one where a continuation of it runs (R63,
R335)? -/
def runsOn (s : State) (t : Nat) (tx : Tx) (core : Nat) : Bool :=
  hasCrew tx core || s.slots.any fun e => e.1 / 16 == core && e.2.tx == some t

/-- TX_HARDWARE_ERROR: an error on a core of a transaction (R63). A running one starts again from its snapshots or ends
ABORTED; a placed one that has not been dispatched is placed again; a reconnaissance pass begins again. -/
def execTxHardwareError (tx core : Nat) (s : State) : Out :=
  match s.tx? tx with
  | none => .next s
  | some x =>
    if !runsOn s tx x core then .next s
    else match x.st with
      | .closing => .next s
      | .unnumbered => .next s
      | .replacing => .next s
      | .recon =>
        let s := releaseCrews (discardAll s tx) tx x.crews
        .next ((s.setTx tx { x with crews := [], live := 0, ended := false, failedCores := x.failedCores ++ [core] }).post
          (.reconNumbering tx))
      | .waiting => .next (unplace s tx x core)
      | .running =>
        let s := discardAll s tx
        if descRestart x.desc ∧ x.reexec < 3 then
          .next (unplace s tx { x with reexec := x.reexec + 1, live := Nat.max 1 x.live, ended := false } core)
        else .next (failTx s tx 5)

end Sys2Proof.Machine
end

