-- ==== Sys2Proof/Machine/Sched.lean ====
section
/-! DEFINITION. The Peel and the sequencer's numbering: placement (R39, R54, R361 to R364), sequence numbers and rounds (R45,
R46, R48), reconnaissance passes (R60), deterministic reservations (R362), phases (R141, R142) and dispatch (R55). -/

namespace Sys2Proof.Machine

/-! ## Cores and rectangles (R54, R361) -/

/-- The unreserved slots of a core that a crew may have, in increasing number (R21, R361). -/
def unreservedSlots (s : State) (c : Nat) : List Nat :=
  (List.range 16).filter fun i => (s.slot (slotKey c i)).resv.isNone && !(i == 15 && (s.core c).smsg.getLsbD 0)

/-- The reserved slots of a core. -/
def reservedCount (s : State) (c : Nat) : Nat :=
  ((List.range 16).filter fun i => (s.slot (slotKey c i)).resv.isSome).length

/-- Is the core eligible for a crew of `n` slots (R361)? -/
def coreEligible (s : State) (p n c : Nat) (excl : List Nat) : Bool :=
  s.present c && s.partOf c == p && !takesNoLandings s c && decide (n ≤ (unreservedSlots s c).length) && !excl.contains c

/-- Does a rectangle from this origin lie within one die? -/
def rectFits (w h r : Nat) : Bool := decide (r % 16 + w ≤ 16) && decide (r / 16 % 8 + h ≤ 8)

/-- A core's operand slot that nobody holds. -/
def osFree (s : State) (c os : Nat) : Bool := osOf (s.core c) os == OpSlot.free

/-- May a tray stand at this origin: its cores eligible, a place for the entry continuation, every pushed operand slot
unclaimed (R54, R361)? -/
def originOpen (s : State) (p w h n : Nat) (pushes : List (Nat × Nat)) (excl : List Nat) (r : Nat) : Bool :=
  let cs := trayCores r w h
  rectFits w h r && cs.all (fun c => coreEligible s p n c excl) && (freePlaceOf (s.core r)).isSome &&
    pushes.all fun q => match cs[q.1]? with
      | some c => osFree s c q.2
      | none => false

/-- How an origin is ranked: the reserved slots of its fullest core, then of the rectangle, then its number (R361). -/
def originRank (s : State) (w h r : Nat) : Nat × Nat × Nat :=
  let ns := (trayCores r w h).map (reservedCount s)
  (ns.foldl Nat.max 0, ns.sum, r)

/-- Does the first rank come before the second? -/
def rankBefore (a b : Nat × Nat × Nat) : Bool :=
  decide (a.1 < b.1) || (a.1 == b.1 && (decide (a.2.1 < b.2.1) || (a.2.1 == b.2.1 && decide (a.2.2 < b.2.2))))

/-- The best origin of a list. -/
def bestOf (s : State) (w h : Nat) : List Nat → Option Nat
  | [] => none
  | r :: rs => match bestOf s w h rs with
    | some b => some (if rankBefore (originRank s w h b) (originRank s w h r) then b else r)
    | none => some r

/-- The origin that the Peel chooses (R361), none when nothing can be placed. -/
def bestOrigin (s : State) (p w h n : Nat) (pushes : List (Nat × Nat)) (excl : List Nat) : Option Nat :=
  bestOf s w h ((List.range 512).filter (originOpen s p w h n pushes excl))

/-- Does some rectangle of present, unparked cores of the partition fit the shape (R360)? -/
def shapeFits (s : State) (p w h : Nat) : Bool :=
  (List.range 512).any fun r => rectFits w h r &&
    (trayCores r w h).all fun c => s.present c && s.partOf c == p && !(s.core c).isParked

/-- The origins of R39, in increasing die, y and x. -/
def detOrigins (s : State) (p w h : Nat) : List Nat :=
  (List.range 512).filter fun r => rectFits w h r && (trayCores r w h).all fun c => s.present c && s.partOf c == p

/-- The origin of a deterministic transaction with a sequence number (R39). -/
def detOrigin (s : State) (p w h key : Nat) : Option Nat :=
  let l := detOrigins s p w h
  l[key % 2 ^ 64 % l.length]?

/-- Does a transaction that lost its placement wait for a new one, so that nothing else is placed (R364)? -/
def replacing (s : State) (p : Nat) : Bool := s.txs.any fun e => e.2.part == p && e.2.st == .replacing

/-- The cores pinned for the heads of other queues (R361). -/
def pinnedCores (s : State) (p : Nat) (q : Option Nat) : List Nat :=
  (s.part p).queues.flatMap fun (e : Nat × QueueSt) => if some e.1 = q then [] else e.2.pinned

/-! ## Reserving (R21, R54) -/

/-- The crew slots of one core reserved and its pushed operand slots claimed. -/
def reserveCore (s : State) (t c n : Nat) (oslots : List Nat) : State × List Nat :=
  let slots := (unreservedSlots s c).take n
  let s := slots.foldl (fun s i => s.setSlot (slotKey c i) { s.slot (slotKey c i) with resv := some t }) s
  (oslots.foldl (fun s os => setOs s c os ⟨.empty, some t, 0, []⟩) s, slots)

/-- The crews of the cores of a list, numbered by tray index, reserved. -/
def reserveCores (s : State) (t n : Nat) (pushes : List (Nat × Nat)) : List (Nat × Nat) → State × List (Nat × List Nat)
  | [] => (s, [])
  | (i, c) :: rest =>
    let (s, slots) := reserveCore s t c n ((pushes.filter fun q => q.1 == i).map fun q => q.2)
    let (s, more) := reserveCores s t n pushes rest
    (s, (c, slots) :: more)

/-- The pushes of a transaction: tray index and operand slot. -/
def pushesOf (tx : Tx) : List (Nat × Nat) := tx.tiles.filterMap fun e => e.push

/-- The place for the entry continuation (R25). -/
def reservePlace (s : State) (t c : Nat) : State :=
  match freePlaceOf (s.core c) with
  | none => s
  | some i =>
    let (id, s) := s.fresh
    s.setCore c { s.core c with places := put (s.core c).places i ⟨some t, false, id, false, 0⟩ }

/-- A transaction placed at an origin (R54): crews, operand slots and the entry's place. -/
def placeTx (s : State) (t : Nat) (tx : Tx) (r w h n : Nat) (pushes : List (Nat × Nat)) : State :=
  let cs := trayCores r w h
  let (s, crews) := reserveCores s t n pushes ((List.range cs.length).zip cs)
  reservePlace (s.setTx t { tx with root := some (r, w, h), crews := crews }) t r

/-! ## Numbering (R45, R46, R48) -/

/-- Is the round's window open: inside a pod the one of the time base, outside for 2,048 ticks from its first transaction
on (R46)? -/
def windowOpen (s : State) (p : Nat) : Bool :=
  if inPod s p then (s.part p).round == s.tick / 2048
  else match (s.part p).roundAt with
    | some a => decide (s.tick < a + 2048)
    | none => true

/-- Has the open round a number to give: a free POS, an open window, and live rounds close enough together (R45, R46)? -/
def canNumber (s : State) (p : Nat) : Bool :=
  let pt := s.part p
  decide (pt.pos < 256) && windowOpen s p &&
    s.txs.all fun e => e.2.part != p || (match e.2.key with
      | some k => decide (pt.round + 1 < k / 2 ^ 16 + 2 ^ 47)
      | none => true)

/-- The number that comes next. -/
def nextKey (s : State) (p : Nat) : Nat := (s.part p).round * 2 ^ 16 + ownDev s p * 256 + (s.part p).pos

/-- A transaction numbered (R45, R46): its lock requests go out at once (R49), and the round closes when it is full. -/
def numberTx (s : State) (t : Nat) : State :=
  match s.tx? t with
  | none => s
  | some tx =>
    let p := tx.part
    let s := s.setTx t { tx with key := some (nextKey s p), st := .waiting }
    let pt := s.part p
    let s := s.setPart p { pt with pos := pt.pos + 1, roundAt := match pt.roundAt with
      | some a => some a
      | none => some s.tick }
    let s := (sendRequests s p t tx.tiles).post (.dispatch t)
    if inPod s p then s
    else if (s.part p).pos = 256 then closeRound s p
    else postOnce (postOnce s (.roundCloseWindow p)) (.roundCloseIdle p)

/-- A deterministic transaction numbered: its origin follows from its number, and its reservation waits there (R39,
R362). -/
def numberDet (s : State) (t : Nat) : State :=
  match s.tx? t with
  | none => s
  | some tx =>
    let w := descW tx.desc
    let h := descH tx.desc
    match detOrigin s tx.part w h (nextKey s tx.part) with
    | none => s
    | some r =>
      let s := s.setTx t { tx with root := some (r, w, h), crews := (trayCores r w h).map fun c => (c, []) }
      (numberTx s t).post (.detReservationComplete t)

/-- ROUND_CLOSE_WINDOW: 2,048 ticks after the round's first transaction it closes; outside a pod (R46). -/
def execRoundCloseWindow (part : Nat) (s : State) : Out :=
  match (s.part part).roundAt with
  | none => .next s
  | some a =>
    if inPod s part then .next s
    else if a + 2048 ≤ s.tick then .next (closeRound s part)
    else .next (postOnce s (.roundCloseWindow part))

/-- POD_CLOSE_MARKER_SEND: inside a pod every window closes at its end, with a marker even for an empty round (R46,
R64). -/
def execPodCloseMarkerSend (part : Nat) (s : State) : Out :=
  if !inPod s part then .next s
  else
    let s := if ((s.part part).round + 1) * 2048 ≤ s.tick + 1 then closeRound s part else s
    .next (s.post (.podCloseMarkerSend part))

/-! ## Transactions begin (R18, R60) -/

/-- A transaction handle that no live transaction of the partition has: the first free one in counting on (R18; log entry
61). -/
def freeTxh (s : State) (p : Nat) : Nat :=
  let n := (s.part p).nextTxh
  (((List.range 65536).map fun i => (n + i) % 65536).find? fun h => !s.txs.any fun e => e.2.part == p && e.2.txh == h).getD n

/-- A transaction taken from a queue, not numbered yet. -/
def newTx (s : State) (p : Nat) (queue : Option Nat) (d : Desc) (tiles : List SetTile) (sdlg : Vector Word 4) (sftrap : Word)
    (batch : Nat) (st : TxSt) (status : Nat) : Nat × State :=
  let (id, s) := s.fresh
  let h := freeTxh s p
  let s := s.setPart p { s.part p with nextTxh := (h + 1) % 65536 }
  (id, s.setTx id {
    part := p, txh := h, queue := queue, desc := d.words, scl := d.scl, sdlg := sdlg, sftrap := sftrap, tiles := tiles,
    key := none, st := st, root := none, crews := [], live := 0, ended := false, checks := 0, reexec := 0, nEntries := 0,
    nNotes := 0, status := status, order := 0, failedCores := [], batch := batch })

/-- The context word of an entry continuation (R18). -/
def entryContext (tx : Tx) : Word :=
  BitVec.ofNat 64 (tx.txh * 2 ^ 48 + 2 ^ 28 + (if descDet tx.desc then 2 ^ 27 else 0) + descPrio tx.desc * 2 ^ 25)

/-- The entry continuation loaded into a FREE slot of a core (R55): PC, context and x1 to x6. -/
def startEntry (s : State) (t : Nat) (tx : Tx) (c i : Nat) : State :=
  let (id, s) := s.fresh
  let k := slotKey c i
  let place := ((s.core c).places.find? fun e => e.2.tx == some t).map fun e => (c, e.1)
  let ws := tx.word 0 :: entryContext tx :: (List.range 6).map fun j => tx.word (5 + j)
  (s.setSlot k { loadSlot (s.slot k) ws place id with tx := some t }).post (.pickUp c i)

/-! ## Reconnaissance (R48, R60, R61) -/

/-- The slot of the pass found and reserved: a tray of one core and one slot (R361). -/
def placePass (s : State) (t : Nat) (tx : Tx) : State :=
  if replacing s tx.part then s
  else match bestOrigin s tx.part 1 1 1 [] (tx.failedCores ++ pinnedCores s tx.part tx.queue) with
    | none => s
    | some c =>
      let (s, slots) := reserveCore s t c 1 []
      reservePlace (s.setTx t { tx with crews := [(c, slots)] }) t c

/-- A checked restart once everything of the attempt has completed (R61): tiles restored, locks and reservations
released, the number given up. -/
def restartTx (s : State) (t : Nat) (tx : Tx) : State :=
  if !txQuiet s t then s
  else match restoreTiles s tx with
    | (s, false) => s
    | (s, true) =>
      let s := releaseTx s t tx
      match s.tx? t with
      | some tx => s.setTx t { tx with key := none, live := 0, ended := false, nEntries := 0, nNotes := 0 }
      | none => s

/-- The number that a transaction gets after its pass (R48): a deterministic one at once, another when it can be placed. -/
def numberRecon (s : State) (t : Nat) (tx : Tx) : State :=
  if !canNumber s tx.part then s
  else if descDet tx.desc then numberDet s t
  else if replacing s tx.part then s
  else
    let w := descW tx.desc
    let h := descH tx.desc
    let n := descSlots tx.desc
    match bestOrigin s tx.part w h n (pushesOf tx) (pinnedCores s tx.part none) with
    | none => s
    | some r => numberTx (placeTx s t tx r w h n (pushesOf tx)) t

/-- The pass is over: its slot is given back, the sets it built are read from the area and checked (R44, R59, R60); what a
final fault on the area does is the model's choice (log entry 62). A deterministic transaction takes its number in the
round that is open now (R48). -/
def endPass (s : State) (t : Nat) (tx : Tx) : State :=
  match (if tx.nEntries = 0 then (s, Got.val 0) else agentRead s tx.part (tx.word 2).toNat (8 * tx.nEntries)) with
  | (s, .wait _) => s
  | (s, .final _) => failTx (releaseTx s t tx) t 4
  | (s, .val v) =>
    let d := reconDesc ⟨tx.desc, [], [], tx.scl⟩ (splitWords v tx.nEntries)
    let s := releaseTx s t tx
    match s.tx? t, reconRefusal s tx.part d with
    | some tx, none =>
      let tx : Tx := { tx with st := .unnumbered, tiles := d.tiles, live := 0, ended := false }
      let s := s.setTx t tx
      if descDet tx.desc then numberRecon s t tx else s
    | _, some n => failTx s t n
    | none, none => s

/-- The pass starts when its slot is FREE (R60). -/
def startPass (s : State) (t : Nat) (tx : Tx) (c i : Nat) : State :=
  if (s.slot (slotKey c i)).st = .free then
    startEntry (s.setTx t { tx with live := 1, nEntries := 0, nNotes := 0 }) t tx c i
  else s

/-- Does a RECON transaction go on to look for its slot or its number? -/
def reconGoesOn (s : State) (t : Nat) : Bool :=
  match s.tx? t with
  | some y => y.st == TxSt.recon || y.st == TxSt.unnumbered
  | none => false

/-- RECON_NUMBERING (R48, R60, R61): a RECON transaction goes on: a restart is completed, a slot is found for its pass, the
pass starts, its sets are checked when it has ended, and it is numbered when it can be. -/
def execReconNumbering (tx : Nat) (s : State) : Out :=
  match s.tx? tx with
  | none => .next s
  | some x =>
    let s' := match x.st with
      | .recon =>
        if x.key.isSome then restartTx s tx x
        else match x.crews with
          | [] => placePass s tx x
          | (c, slots) :: _ =>
            if x.ended then endPass s tx x
            else if x.live = 0 then
              startPass s tx x c (slots.headD 0)
            else s
      | .unnumbered => numberRecon s tx x
      | _ => s
    .next (if reconGoesOn s' tx then postOnce s' (.reconNumbering tx) else s')

/-! ## Deterministic reservations (R362) -/

/-- Has a deterministic transaction of an earlier batch still to retire, or another phase to end (R141, R362)? -/
def earlierPhase (s : State) (t : Nat) (tx : Tx) : Bool :=
  (match (s.part tx.part).phase with
   | some b => b != tx.batch
   | none => false) ||
    s.txs.any fun e => e.1 != t && e.2.part == tx.part && descDet e.2.desc && e.2.batch != tx.batch && e.2.key.isSome &&
      decide (e.2.key.getD 0 < tx.key.getD 0) && (e.2.st != .closing || e.2.root.isSome)

/-- Is the core free for the reservation: present, unparked, without a crew, no earlier reservation waiting (R362, R370)? -/
def coreFreeFor (s : State) (t : Nat) (tx : Tx) (c : Nat) : Bool :=
  s.present c && !(s.core c).isParked && reservedCount s c == 0 &&
    !s.txs.any fun e => e.1 != t && descDet e.2.desc && e.2.st == .waiting && hasCrew e.2 c &&
      decide (e.2.key.getD 0 < tx.key.getD 0)

/-- DET_RESERVATION_COMPLETE (R362): every crew of the rectangle has retired and the previous phase has ended; a crew of 16
slots on a core with a message handler ends with LIMIT. -/
def execDetReservationComplete (tx : Nat) (s : State) : Out :=
  match s.tx? tx with
  | none => .next s
  | some x =>
    match x.root with
    | none => .next s
    | some (r, w, h) =>
      let cs := trayCores r w h
      let n := descSlots x.desc
      let again (s : State) : State := s.post (.detReservationComplete tx)
      if x.st ≠ .waiting ∨ !descDet x.desc ∨ !x.crews.all (fun e => e.2.isEmpty) then .next s
      else if earlierPhase s tx x || !cs.all (coreFreeFor s tx x) then .next (again s)
      else if n = 16 ∧ cs.any (fun c => (s.core c).smsg.getLsbD 0) then .next (failTx s tx 3)
      else if (freePlaceOf (s.core r)).isNone || !(pushesOf x).all (fun q => match cs[q.1]? with
          | some c => osFree s c q.2
          | none => false) then .next (again s)
      else .next (placeTx s tx x r w h n (pushesOf x))

/-! ## Dispatch (R55, R141, R142) -/

/-- Is every earlier-numbered transaction of the queue over (R48)? -/
def afterMet (s : State) (tx : Tx) : Bool :=
  !descAfter tx.desc || !s.txs.any fun e => e.2.part == tx.part && tx.queue.isSome && e.2.queue == tx.queue &&
    e.2.key.isSome && decide (e.2.key.getD 0 < tx.key.getD 0)

/-- Is every grant and push in, and every crew slot FREE (R55)? -/
def dispatchable (s : State) (tx : Tx) : Bool :=
  tx.st == .waiting && tx.tiles.all (fun e => e.granted && (e.landed || e.push.isNone)) &&
    !tx.crews.any (fun e => e.2.isEmpty) &&
    tx.crews.all (fun e => e.2.all fun i => (s.slot (slotKey e.1 i)).st == .free) && afterMet s tx

/-- The region table read from entry `i` on (R142): the regions, a wait, or a refusal. -/
inductive Table where
  | regions (rs : List Region)
  | wait
  | bad
  deriving DecidableEq, Repr

/-- One entry of the region table: none for a reserved bit or WRITER. -/
def regionEntry (v : Nat) : Option Region :=
  let w0 := v % 2 ^ 64
  let w1 := v / 2 ^ 64
  if 2 ^ 57 ≤ w0 ∨ w0 % 4096 ≠ 0 ∨ 2 ^ 36 ≤ w1 ∨ 5 ≤ w1 / 2 ^ 32 then none
  else some ⟨w0, w1 % 2 ^ 32, w1 / 2 ^ 32⟩

/-- The entries of the table, at most 64; one with PAGES zero ends it (R142). -/
def readTable (s : State) (p base i : Nat) : Nat → State × Table
  | 0 => (s, .regions [])
  | n + 1 =>
    match agentRead s p (base + 16 * i) 16 with
    | (s, .wait _) => (s, .wait)
    | (s, .final _) => (s, .bad)
    | (s, .val v) =>
      if v / 2 ^ 64 % 2 ^ 32 = 0 then (s, .regions [])
      else match regionEntry v, readTable s p base (i + 1) n with
        | none, (s, _) => (s, .bad)
        | some r, (s, .regions rs) => (s, .regions (r :: rs))
        | some _, q => q

/-- The region table of a partition; a partition whose `SRGN` is 0 has none. -/
def regionTable (s : State) (p : Nat) : State × Table :=
  let a := (s.part p).srgn.toNat
  if a = 0 then (s, .regions [])
  else match readTable s p a 0 64 with
    | (s, .regions rs) => (s, if regionsOverlap rs then .bad else .regions rs)
    | q => q

/-- Every deterministic transaction of a batch ends REFUSED (R142). -/
def refusePhase (s : State) (p batch : Nat) : List (Nat × Tx) → State
  | [] => s
  | e :: es =>
    refusePhase (if e.2.part = p ∧ e.2.batch = batch ∧ descDet e.2.desc ∧ e.2.key.isSome then failTx s e.1 2 else s) p batch es

/-- The phase of a deterministic transaction begun if it is the first of its batch; false while it has to wait (R141,
R142). -/
def startPhase (s : State) (tx : Tx) : State × Bool :=
  if !descDet tx.desc ∨ (s.part tx.part).phase = some tx.batch then (s, true)
  else match regionTable s tx.part with
    | (s, .wait) => (s, false)
    | (s, .bad) => (refusePhase s tx.part tx.batch s.txs, false)
    | (s, .regions rs) => (s.setPart tx.part { s.part tx.part with phase := some tx.batch, regions := rs, logs := [] }, true)

/-- The reductions of a core's lanes counted from dispatch (R40). -/
def resetCounts (s : State) (crews : List (Nat × List Nat)) : State :=
  mapSlots s fun k sl =>
    if crews.any fun e => k / 16 == e.1 && e.2.contains (k % 16) then { sl with redIdx := 0 } else sl

/-- The turns of a core's deterministic crew counted from dispatch (R38). -/
def resetTurns (s : State) : List (Nat × List Nat) → State
  | [] => s
  | (c, _) :: es => resetTurns (s.setCore c { s.core c with detTurn := 0 }) es

/-- A transaction dispatched in one step (R15, R55). -/
def dispatchTx (s : State) (t : Nat) (tx : Tx) : State :=
  let (id, s) := s.fresh
  let tx := { tx with st := .running, live := 1, ended := false, order := id }
  let s := s.setTx t tx
  let s := if descDet tx.desc then resetCounts (resetTurns s tx.crews) tx.crews else s
  let s := passOwners s tx.crews
  match tx.root, tx.crews with
  | some (r, _, _), (_, slots) :: _ => startEntry s t tx r (slots.headD 0)
  | _, _ => s

/-- Can every push of a transaction be repeated now, its granted tiles being readable (R63)? -/
def repushOpen (s : State) (p : Nat) : List SetTile → State × Bool
  | [] => (s, true)
  | e :: es =>
    if !e.granted || e.push.isNone || tileAway s p e.tile then repushOpen s p es
    else match agentOpen s p false (chunkAddrs e.tile 4096) with
      | (s, .ready) => repushOpen s p es
      | (s, .wait) => (s, false)
      | (s, .closed page need r) => (agentAsk s p page need r, false)

/-- The pushes of granted tiles repeated (R63). -/
def repush (s : State) (t : Nat) (tx : Tx) : List SetTile → State
  | [] => s
  | e :: es =>
    let s := match e.granted, e.push with
      | true, some (i, os) => match pushCore tx i with
        | some c => sendPush s t c os (if tileAway s tx.part e.tile then farTile s else tileAt s tx.part e.tile)
        | none => s
      | _, _ => s
    repush s.draw t tx es

/-- A transaction placed again after an error (R63, R364): what it did is undone first. -/
def replaceTx (s : State) (t : Nat) (tx : Tx) : State :=
  if !txQuiet s t then s
  else match (if tx.live ≠ 0 then restoreTiles s tx else (s, true)) with
    | (s, false) => s
    | (s, true) =>
      let tx := { tx with live := 0 }
      let s := s.setTx t tx
      match repushOpen s tx.part tx.tiles with
      | (s, false) => s
      | (s, true) =>
        let w := descW tx.desc
        let h := descH tx.desc
        let n := descSlots tx.desc
        let tx := { tx with st := .waiting }
        if descDet tx.desc then
          if tx.failedCores ≠ [] then s
          else match detOrigin s tx.part w h (tx.key.getD 0) with
            | none => s
            | some r =>
              let tx := { tx with root := some (r, w, h), crews := (trayCores r w h).map fun c => (c, []) }
              ((repush (s.setTx t tx) t tx tx.tiles).post (.detReservationComplete t)).post (.dispatch t)
        else match bestOrigin s tx.part w h n (pushesOf tx) (tx.failedCores ++ pinnedCores s tx.part none) with
          | none => s
          | some r =>
            let s := placeTx s t tx r w h n (pushesOf tx)
            match s.tx? t with
            | some tx => repush s t tx tx.tiles
            | none => s

/-- DISPATCH (R55): the Peel dispatches a transaction when it can; one that lost its cores is placed again first (R63). -/
def execDispatch (tx : Nat) (s : State) : Out :=
  let again (s : State) : State := postOnce s (.dispatch tx)
  match s.tx? tx with
  | none => .next s
  | some x =>
    if x.st = .replacing then .next (if descDet x.desc then s else again (replaceTx s tx x))
    else if x.st ≠ .waiting then .next s
    else if !dispatchable s x then .next (again s)
    else match startPhase s x with
      | (s, false) => .next (again s)
      | (s, true) => .next (dispatchTx s tx x)

/-- DET_REPLACE (R63): a deterministic transaction that lost its cores is placed by R39 again, once Starter has dealt with
each failed core. -/
def execDetReplace (tx : Nat) (s : State) : Out :=
  match s.tx? tx with
  | none => .next s
  | some x =>
    if x.st ≠ .replacing ∨ !descDet x.desc then .next s
    else
      let s := replaceTx s tx x
      .next (match s.tx? tx with
        | some y => if y.st = .replacing then s.post (.detReplace tx) else s
        | none => s)

end Sys2Proof.Machine
end

