-- ==== Sys2Proof/Machine/Queues.lean ====
section
/-! DEFINITION. Launch queues (R354 to R358) and picks (R359, R360): the queue directory, headers and rings, what makes a
queue ready, the choice of a queue, the entries a pick takes, and the pinning of a blocked head (R361). -/

namespace Sys2Proof.Machine

/-! ## Headers (R354, R355) -/

/-- A queue the sequencer knows nothing of. -/
def QueueSt.off : QueueSt := ⟨0, 0, 0, 0, 0, false, 0, [], none⟩

/-- What the sequencer keeps of queue q. -/
def queueSt (s : State) (p q : Nat) : QueueSt := look (s.part p).queues QueueSt.off q

/-- The queue's record replaced. -/
def setQueue (s : State) (p q : Nat) (v : QueueSt) : State :=
  s.setPart p { s.part p with queues := put (s.part p).queues q v }

/-- NQ of `SLQD`. -/
def queueCount (s : State) (p : Nat) : Nat := ((s.part p).slqd.extractLsb' 0 9).toNat

/-- A header as read: its address, whether its directory word is malformed, and its sixteen words. -/
inductive Header where
  | absent
  | wait (page : Option Nat)
  | found (va : Nat) (bad : Bool) (ws : List Word)
  deriving DecidableEq, Repr

/-- The header of queue q read through the directory (R354). -/
def readHeader (s : State) (p q : Nat) : State × Header :=
  let base := ((s.part p).slqd &&& 0x01FFFFFFFFFFF000#64).toNat
  if queueCount s p ≤ q then (s, .absent)
  else match agentRead s p (base + 8 * q) 8 with
    | (s, .wait g) => (s, .wait g)
    | (s, .final _) => (s, .absent)
    | (s, .val 0) => (s, .absent)
    | (s, .val w) =>
      let va := w / 128 * 128
      match agentRead s p va 128 with
      | (s, .wait g) => (s, .wait g)
      | (s, .final _) => (s, .absent)
      | (s, .val v) => (s, .found va (w % 128 != 0) (splitWords v 16))

/-- EN. -/
def hdrEn (ws : List Word) : Bool := (ws.getD 0 0).getLsbD 0
/-- USUB. -/
def hdrUsub (ws : List Word) : Bool := (ws.getD 0 0).getLsbD 1
/-- HOLD. -/
def hdrHold (ws : List Word) : Bool := (ws.getD 0 0).getLsbD 2
/-- The ring's entries. -/
def hdrSize (ws : List Word) : Nat := 2 ^ ((ws.getD 0 0).extractLsb' 12 4).toNat
/-- Most transactions one pick takes. -/
def hdrWeight (ws : List Word) : Nat := Nat.max 1 ((ws.getD 0 0).extractLsb' 24 8).toNat
/-- RING. -/
def hdrRing (ws : List Word) : Nat := (ws.getD 1 0).toNat
/-- HEAD. -/
def hdrHead (ws : List Word) : Nat := (ws.getD 2 0).toNat
/-- RESV. -/
def hdrResv (ws : List Word) : Nat := (ws.getD 3 0).toNat
/-- The address of the ring entry of a place. -/
def hdrEntry (ws : List Word) (i : Nat) : Nat := hdrRing ws + 8 * (i % hdrSize ws)
/-- The delegation masks given to the queue's transactions: of delegable causes only (R3, R351). -/
def hdrSdlg (ws : List Word) : Vector Word 4 := Vector.ofFn fun i => masked (ws.getD (4 + i.val) 0) (delegable i.val)
/-- `SFTRAP` given to them. -/
def hdrSftrap (ws : List Word) : Word := ws.getD 8 0

/-- Is the header malformed (R355)? -/
def hdrMalformed (bad : Bool) (ws : List Word) : Bool :=
  let ctl := ws.getD 0 0
  let lg := (ctl.extractLsb' 12 4).toNat
  bad || ctl.extractLsb' 32 32 != 0 || ctl.extractLsb' 16 8 != 0 || ctl.extractLsb' 3 9 != 0 || decide (lg < 4) ||
    decide (12 < lg) || hdrRing ws % 4096 != 0 || (ws.getD 8 0).extractLsb' 8 56 != 0 ||
    (ws.drop 10).any fun w => w != 0

/-- STAT (R355). -/
def statWord (s : State) (v : QueueSt) : Nat :=
  let waited := if v.state = 0 ∨ v.state = 4 then 0 else Nat.min (s.tick - v.since) (2 ^ 32 - 1)
  waited * 2 ^ 32 + v.eidx % 65536 * 65536 + v.reason % 256 * 256 + v.state % 256

/-- The queue's record replaced and its STAT written; nothing changes while the header cannot be written. -/
def setState (s : State) (p q hva : Nat) (v : QueueSt) : State :=
  match agentWrite s p (hva + 72) (natToBytes 8 (statWord s v)) with
  | (s, true) => setQueue s p q v
  | (s, false) => s

/-! ## Enabling and watching (R357) -/

/-- The granules of the header and the ring. -/
def queueGranules (hva : Nat) (ws : List Word) : List Nat :=
  pageOf hva :: (List.range ((8 * hdrSize ws + 4095) / 4096)).map fun i => hdrRing ws + 4096 * i

/-- Where the granules of a queue lie: all in device memory, some elsewhere, or a page to wait for (R355). -/
inductive Located where
  | device
  | elsewhere
  | wait (page : Nat) (r : XRes)
  deriving DecidableEq, Repr

/-- The granules of a list located; one outside the address space, or on another device, is elsewhere. -/
def locate (s : State) (p : Nat) : List Nat → Located
  | [] => .device
  | va :: vas =>
    if 2 ^ 57 ≤ va ∨ podOf s p va ≠ .here then .elsewhere
    else match translate (s.part p) va .write with
      | .hit (.dev _) => locate s p vas
      | .miss => .wait va .miss
      | .fault => .wait va .fault
      | _ => .elsewhere

/-- Granules made SHARED as `cls.set` would: an UNTOUCHED one at once, another through the reclassifier (R85, R348,
R357). -/
def shareQueue (s : State) (p : Nat) : List Nat → State
  | [] => s
  | va :: vas =>
    let e := classEntry (s.part p) va
    let s := if classOf e = 0 then setClass s p va shared
      else if classOf e = 3 then s
      else startReclass s p va shared
    shareQueue s p vas

/-- QUEUE_ENABLE: a queue with EN is checked, its granules become SHARED and its lines are watched; a malformed header or
a wrong place is STATE 4 (R355, R357), and so is a malformed directory word, with or without EN (R354). -/
def execQueueEnable (part queue : Nat) (s : State) : Out :=
  match readHeader s part queue with
  | (s, .absent) => .next s
  | (s, .wait _) => .next (s.post (.queueEnable part queue))
  | (s, .found va bad ws) =>
    let v := queueSt s part queue
    if !hdrEn ws && !bad then .next s
    else if hdrMalformed bad ws then
      .next (setState s part queue va { v with state := 4, reason := 1, watched := false, header := va })
    else match locate s part (queueGranules va ws) with
      | .wait page r => .next ((agentAsk s part page .write r).post (.queueEnable part queue))
      | .elsewhere => .next (setState s part queue va { v with state := 4, reason := 2, watched := false, header := va })
      | .device =>
        let s := shareQueue s part (queueGranules va ws)
        .next ((setState s part queue va { v with
          state := 0, reason := if v.state = 4 then 0 else v.reason, watched := true, header := va }).post
            (.watchedLineWrite part queue))

/-- The queue looked at (R357, R358): enabling, disabling, ready or not. -/
def examineQueue (s : State) (p q : Nat) : State :=
  match readHeader s p q with
  | (s, .absent) => s.setPart p { s.part p with queues := remove (s.part p).queues q }
  | (s, .wait _) => s
  | (s, .found va bad ws) =>
    let v := queueSt s p q
    if !hdrEn ws && !bad then
      (if v.watched ∨ v.state ≠ 0 then
        setState s p q va { QueueSt.off with header := va, reason := if v.state = 4 then 0 else v.reason, eidx := v.eidx }
      else s)
    else if bad || !v.watched then
      (if v.state = 4 ∧ hdrMalformed bad ws then s else postOnce s (.queueEnable p q))
    else match agentRead s p (hdrEntry ws (hdrHead ws)) 8 with
      | (s, .val e) =>
        let ready := e % 2 == 1 && !hdrHold ws
        if !ready then (if v.state = 0 then s else setState s p q va { v with state := 0, pinned := [], parkedOn := none })
        else if v.state = 0 then setState s p q va { v with state := 1, since := s.tick }
        else s
      | (s, _) => s

/-- Every queue from number `n` down looked at. -/
def examineAll (s : State) (p : Nat) : Nat → State
  | 0 => s
  | n + 1 => examineAll (examineQueue s p n) p n

/-- WATCHED_LINE_WRITE: the sequencer looks at a queue again (R357). -/
def execWatchedLineWrite (part queue : Nat) (s : State) : Out := .next (examineQueue s part queue)

/-- Is the queue ready (R358)? -/
def queueReady (v : QueueSt) : Bool := v.watched && v.state != 0 && v.state != 4

/-- ROUND_CLOSE_IDLE: outside a pod a round that holds a transaction closes when no queue is ready (R46). -/
def execRoundCloseIdle (part : Nat) (s : State) : Out :=
  if (s.part part).roundAt.isNone || inPod s part then .next s
  else
    let s := examineAll s part (queueCount s part)
    if (s.part part).queues.any fun e => queueReady e.2 then .next (postOnce s (.roundCloseIdle part))
    else .next (closeRound s part)

/-! ## Heads (R358, R360, R361) -/

/-- What the head of a queue is: an entry that can be taken, with its refusal or its origin; blocked with a STATE; waited
for; or lost to a final fault. -/
inductive Head where
  | take (d : Desc) (refusal : Option Nat) (origin : Option Nat)
  | blocked (d : Desc) (st : Nat)
  | wait
  | final
  deriving DecidableEq, Repr

/-- The descriptor address of a ring entry (R356). -/
def entryAddr (e : Nat) : Nat := e % 2 ^ 57 / 128 * 128

/-- The head with a descriptor judged (R44, R360, R361). A pinned head goes to the origin pinned for it, and waits there
even when a core of it becomes absent (log entry 61). -/
def judgeHead (s : State) (p q : Nat) (d : Desc) : Head :=
  match d.refusal s p with
  | some n => .take d (some n) none
  | none =>
    let det := descDet d.words
    let recon := descRecon d.words
    let w := if recon then 1 else descW d.words
    let h := if recon then 1 else descH d.words
    if det then (if (detOrigins s p (descW d.words) (descH d.words)).isEmpty then .blocked d 2 else .take d none none)
    else if recon then
      match (if replacing s p then none else bestOrigin s p 1 1 1 [] (pinnedCores s p (some q))) with
      | some r => .take d none (some r)
      | none => .blocked d (if shapeFits s p 1 1 then 3 else 2)
    else
      let pushes := d.tiles.filterMap fun e => e.push
      let excl := pinnedCores s p (some q)
      let n := descSlots d.words
      let best := if replacing s p then none
        else match (queueSt s p q).pinned with
          | r :: _ => if originOpen s p w h n pushes excl r then some r else none
          | [] => bestOrigin s p w h n pushes excl
      match best with
      | some r => .take d none (some r)
      | none => .blocked d (if shapeFits s p w h then 3 else 2)

/-- The head of a queue read and judged; a fault on it parks the queue, and one reported final loses the entry (R358). -/
def readHead (s : State) (p q : Nat) (ws : List Word) (i : Nat) : State × Head :=
  match agentRead s p (hdrEntry ws i) 8 with
  | (s, .wait _) => (s, .wait)
  | (s, .final _) => (s, .wait)
  | (s, .val e) =>
    if e % 2 = 0 then (s, .wait)
    else match fetchDesc s p (entryAddr e) with
      | (s, .desc d) => (s, judgeHead s p q d)
      | (s, .final _) => (s, .final)
      | (s, .wait none) => (s, .wait)
      | (s, .wait (some page)) =>
        let v := queueSt s p q
        if v.parkedOn = some (page, true) then (s, .final)
        else (setQueue s p q { v with parkedOn := some (page, false) }, .wait)

/-- STATE 2 or 3 of a blocked head; one that is new to STATE 3 may come to be pinned (R360, R361). -/
def blockQueue (s : State) (p q hva n : Nat) : State :=
  let v := queueSt s p q
  if v.state = n then s
  else
    let s := setState s p q hva { v with state := n, blockedAt := s.tick }
    if n = 3 then postOnce s (.headPin p q) else s

/-! ## Picks (R359, R360) -/

/-- E of a queue whose head has a priority (R359). -/
def pickClass (s : State) (v : QueueSt) (prio : Nat) : Nat := Nat.min 3 (prio + (s.tick - v.since) / 8192)

/-- The ready queues from number `n` down whose heads can be taken, with their classes. -/
def candidates (s : State) (p : Nat) : Nat → State × List (Nat × Nat)
  | 0 => (s, [])
  | q + 1 =>
    let v := queueSt s p q
    let (s, here) := if !queueReady v then (s, [])
      else match readHeader s p q with
        | (s, .found va _ ws) =>
          match readHead s p q ws (hdrHead ws) with
          | (s, .take d _ _) =>
            ((if v.state = 1 then s else setState s p q va { queueSt s p q with state := 1 }), [(q, pickClass s v (descPrio d.words))])
          | (s, .final) => (s, [(q, pickClass s v 0)])
          | (s, .blocked _ n) => (blockQueue s p q va n, [])
          | (s, .wait) => (s, [])
        | (s, _) => (s, [])
    let (s, rest) := candidates s p q
    (s, here ++ rest)

/-- The queue that a pick chooses: the highest class, then the first after the queue last picked at it (R359). `lastPick`
holds one more than that queue's number. -/
def chooseQueue (s : State) (p : Nat) (cs : List (Nat × Nat)) : Option (Nat × Nat) :=
  let e := (cs.map fun c => c.2).foldl Nat.max 0
  let qs := (cs.filter fun c => c.2 == e).map fun c => c.1
  let start := if h : e < 4 then (s.part p).lastPick[e] else 0
  ((List.range 256).map fun i => (start + i) % 256).find? (fun q => qs.contains q) |>.map fun q => (q, e)

/-- The entry at HEAD taken: written as zero, and HEAD advanced; false while its lines cannot be written (R358). -/
def takeEntry (s : State) (p hva : Nat) (ws : List Word) (i : Nat) : State × Bool :=
  let a := hdrEntry ws i
  match agentOpen s p true [a, hva] with
  | (s, .ready) =>
    let s := (agentWrite s p a (natToBytes 8 0)).1
    ((agentWrite s p (hva + 16) (natToBytes 8 ((i + 1) % 2 ^ 64))).1, true)
  | (s, .wait) => (s, false)
  | (s, .closed page need r) => (agentAsk s p page need r, false)

/-- A descriptor taken that R44 refuses: its status is written, and its barrier arrived on (R44, R57). -/
def refuseTx (s : State) (p q : Nat) (d : Desc) (batch n : Nat) : State :=
  let (t, s) := newTx s p (some q) d [] (Vector.replicate 4 0) 0 batch .closing n
  s.post (.transactionRetire t)

/-- A descriptor taken: to its pass, to its deterministic reservation, or to its place; and numbered (R48, R54, R60, R362). -/
def startTx (s : State) (p q : Nat) (d : Desc) (ws : List Word) (origin : Option Nat) (batch : Nat) : State :=
  if descRecon d.words then
    let (t, s) := newTx s p (some q) d [] (hdrSdlg ws) (hdrSftrap ws) batch .recon 0
    s.post (.reconNumbering t)
  else
    let (t, s) := newTx s p (some q) d d.tiles (hdrSdlg ws) (hdrSftrap ws) batch .unnumbered 0
    if descDet d.words then numberDet s t
    else match origin, s.tx? t with
      | some r, some tx =>
        numberTx (placeTx s t tx r (descW d.words) (descH d.words) (descSlots d.words) (pushesOf tx)) t
      | _, _ => s

/-- The entries a pick takes from a queue in queue order, at most `n` more, while the round it began in has room (R46);
`det` is the flag of the first one taken (R360). -/
def takeEntries (s : State) (p q batch round : Nat) : Nat → Option Bool → State
  | 0, _ => s
  | n + 1, det =>
    if !canNumber s p || (s.part p).round != round then s
    else match readHeader s p q with
      | (s, .found hva _ ws) =>
        let i := hdrHead ws
        if !hdrEn ws || hdrHold ws then s
        else match readHead s p q ws i with
          | (s, .take d refusal origin) =>
            if det.isSome && (det != some (descDet d.words) || (descRecon d.words && refusal.isNone)) then s
            else match takeEntry s p hva ws i with
              | (s, false) => s
              | (s, true) =>
                let s := setQueue s p q { queueSt s p q with pinned := [], parkedOn := none }
                match refusal with
                | some m => takeEntries (refuseTx s p q d batch m) p q batch round n (some (det.getD (descDet d.words)))
                | none =>
                  let s := startTx s p q d ws origin batch
                  if descRecon d.words then s else takeEntries s p q batch round n (some (det.getD (descDet d.words)))
          | (s, .final) =>
            (match takeEntry s p hva ws i with
             | (s, false) => s
             | (s, true) => setState s p q hva { queueSt s p q with
                 reason := 3, eidx := i % hdrSize ws, parkedOn := none })
          | (s, .blocked _ m) => blockQueue s p q hva m
          | (s, .wait) => s
      | (s, _) => s

/-- One pick (R359, R360). -/
def pickOnce (s : State) (p : Nat) : State :=
  let (s, cs) := candidates s p (queueCount s p)
  match chooseQueue s p cs with
  | none => s
  | some (q, e) =>
    match readHeader s p q with
    | (s, .found hva _ ws) =>
      let (batch, s) := s.fresh
      let before := hdrHead ws
      let s := takeEntries s p q batch (s.part p).round (hdrWeight ws) none
      match readHeader s p q with
      | (s, .found _ _ ws') =>
        if hdrHead ws' = before then s
        else
          let pt := s.part p
          let s := s.setPart p { pt with lastPick := if h : e < 4 then pt.lastPick.set e (q + 1) else pt.lastPick }
          setState s p q hva { queueSt s p q with since := s.tick }
      | (s, _) => s
    | (s, _) => s

/-- PICK (R359): the sequencer looks at its queues and makes one pick, once it and the Peel are ready (R409); it comes back
while the directory lists a queue. -/
def execPick (part : Nat) (s : State) : Out :=
  let n := queueCount s part
  if n = 0 then .next s
  else if !(s.hub.ready.getLsbD 1 && s.hub.ready.getLsbD 2) then .next (postOnce s (.pick part))
  else .next (postOnce (pickOnce (examineAll s part n) part) (.pick part))

/-! ## Pinning (R361) -/

/-- Could the pinned head, with crews of `n` slots, stand at this origin once the reservations of its cores end? -/
def originPinnable (s : State) (p w h n : Nat) (excl : List Nat) (r : Nat) : Bool :=
  rectFits w h r && (trayCores r w h).all fun c =>
    s.present c && s.partOf c == p && !(s.core c).isParked && !excl.contains c &&
      decide (n ≤ if (s.core c).smsg.getLsbD 0 then 15 else 16)

/-- What pinning finds: the cores to pin, a head to look at again later, or a head that is blocked no longer. -/
inductive PinTarget where
  | pin (cores : List Nat)
  | later
  | over
  deriving DecidableEq, Repr

/-- The cores that a blocked head would be pinned to (R361). -/
def pinTarget (s : State) (part queue : Nat) : State × PinTarget :=
  match readHeader s part queue with
  | (s, .found _ _ ws) =>
    match readHead s part queue ws (hdrHead ws) with
    | (s, .blocked d 3) =>
      let recon := descRecon d.words
      let w := if recon then 1 else descW d.words
      let h := if recon then 1 else descH d.words
      let n := if recon then 1 else descSlots d.words
      (match bestOf s w h ((List.range 512).filter (originPinnable s part w h n (pinnedCores s part (some queue)))) with
       | some r => (s, .pin (trayCores r w h))
       | none => (s, .later))
    | (s, .wait) => (s, .later)
    | (s, _) => (s, .over)
  | (s, _) => (s, .later)

/-- HEAD_PIN: a head that has been in STATE 3 for 65,536 ticks has its cores kept for it (R361). -/
def execHeadPin (part queue : Nat) (s : State) : Out :=
  let v := queueSt s part queue
  if v.state ≠ 3 ∨ v.pinned ≠ [] then .next s
  else if s.tick < v.blockedAt + 65536 then .next (postOnce s (.headPin part queue))
  else match pinTarget s part queue with
    | (s, .pin cores) => .next (setQueue s part queue { queueSt s part queue with pinned := cores })
    | (s, .later) => .next (postOnce s (.headPin part queue))
    | (s, .over) => .next s

end Sys2Proof.Machine
end

