-- ==== Sys2Proof/Machine/Tx.lean ====
section
/-! DEFINITION. The meanings of major 0x38, transactions (R288 to R290, R60, R61): submission, the reconnaissance
instructions, the checked restart, and the end of a continuation. -/

namespace Sys2Proof.Machine

/-! ## `tx.sub` (R288, R356) -/

/-- The slot waits while a page of the sequencer's is asked for, or tries again at once. -/
def waitPage (s : State) (page : Option Nat) : Out :=
  .next (hold s (.xlat s.myPart (page.getD 0)))

/-- A status of the sequencer on its way to Rd. -/
def subStatus (s : State) (d : Reg) (v : Word) : Out := .next (outstanding s (statusIn d v) true)

/-- The place reserved and the entry written, as one access of the sequencer (R356). -/
def enqueue (s : State) (p hva addr : Nat) (ws : List Word) : State :=
  let i := hdrResv ws
  let e := hdrEntry ws i
  let s := (performGlobal s p (hva + 24) (placeAt s p (hva + 24) .write)
    (.store (offsets 0 (natToBytes 8 ((i + 1) % 2 ^ 64)))) none).s
  (performGlobal s p e (placeAt s p e .write) (.store (offsets 0 (natToBytes 8 (addr + 1)))) none).s

/-- A descriptor that passes R44 submitted, if the ring has room. -/
def submit (s : State) (d : Reg) (q hva addr : Nat) (ws : List Word) : Out :=
  let p := s.myPart
  if (hdrResv ws + 2 ^ 64 - hdrHead ws) % 2 ^ 64 = hdrSize ws then subStatus s d 6
  else match agentOpen s p true [hva, hdrEntry ws (hdrResv ws)] with
    | (s, .wait) => waitPage s none
    | (s, .closed page need r) =>
      match r with
      | .miss => waitPage (agentAsk s p page need r) (some page)
      | .fault => waitPage (agentAsk s p page need r) (some page)
      | _ => subStatus s d 2
    | (s, .ready) => subStatus (postOnce (enqueue s p hva addr ws) (.watchedLineWrite p q)) d 0

/-- `tx.sub` (R288): REFUSED by the queue, by R44 or by a fault that is final; LIMIT; FULL; or accepted. -/
def execTxSub (d a b : Reg) (s : State) : Out :=
  gate false { reads := [xreg a, xreg b], vwrites := [xreg d] } s fun s =>
    let ea := readX s a
    let q := readX s b
    let p := s.myPart
    if !canonical ea then .next (trapI s 0x25 ea)
    else if ea.toNat % 128 ≠ 0 then .next (trapI s 0x20 ea)
    else if q.extractLsb' 16 48 ≠ 0 then .next (trapI s 0x25 q)
    else if inRecon s then .next (finish (writeVar (unbound s) (xreg d) 0 0))
    else if !s.hub.ready.getLsbD 1 then (if stepEnded s 131 then .next (trapI s 0x25 ea) else .next (hold s .bringup))
    else
      let s := unbound s
      match readHeader s p q.toNat with
      | (s, .absent) => subStatus s d 2
      | (s, .wait g) => waitPage s g
      | (s, .found hva bad ws) =>
        if (s.me.level = .u ∧ !hdrUsub ws) ∨ (queueSt s p q.toNat).state = 4 ∨ hdrMalformed bad ws then subStatus s d 2
        else if !fenced s s.cur 6 then .next (hold s (.fence 6))
        else match fetchDesc s p ea.toNat with
          | (s, .wait g) =>
            (match g with
             | some page => if s.me.xfault = some page then subStatus s d 2 else waitPage s g
             | none => waitPage s g)
          | (s, .final _) => subStatus s d 2
          | (s, .desc t) =>
            match t.refusal s p with
            | some n =>
              let (batch, s) := s.fresh
              let (id, s) := newTx s p none t [] (Vector.replicate 4 0) 0 batch .closing n
              subStatus (s.post (.transactionRetire id)) d (BitVec.ofNat 64 n)
            | none => submit s d q.toNat hva ea.toNat ws

/-! ## The reconnaissance area (R59, R60, R289) -/

/-- The transaction of the issuing slot. -/
def myTx (s : State) : Option (Nat × Tx) :=
  match s.me.tx with
  | none => none
  | some t => match s.tx? t with
    | some tx => some (t, tx)
    | none => none

/-- A word of the area written; the area's lines have been found open. -/
def areaStore (s : State) (va : Nat) (v : Word) : State :=
  let p := s.myPart
  (performGlobal s p va (placeAt s p va .write) (.store (offsets 0 (natToBytes 8 v.toNat))) none).s

/-- `act` once the words of the area at these addresses can be written. -/
def areaOpen (s : State) (vas : List Nat) (act : State → Out) : Out :=
  let p := s.myPart
  match agentOpen s p true vas with
  | (s, .ready) => act s
  | (s, .wait) => waitPage s none
  | (s, .closed page need r) =>
    match r with
    | .miss => if s.me.xfault = some page then .next (trapI s 0x23 (BitVec.ofNat 64 page))
        else waitPage (agentAsk s p page need r) (some page)
    | .fault => if s.me.xfault = some page then .next (trapI s 0x23 (BitVec.ofNat 64 page))
        else waitPage (agentAsk s p page need r) (some page)
    | _ => .next (trapI s 0x23 (BitVec.ofNat 64 page))

/-- `tx.addr` (R289): in the pass, an entry appended to the area; nothing otherwise. -/
def execTxAddr (a : Reg) (s : State) : Out :=
  gate false { reads := [xreg a] } s fun s =>
    match inRecon s, myTx s with
    | true, some (t, tx) =>
      if 128 ≤ tx.nEntries then .next (trapI s 0xA2 0)
      else
        let va := (tx.word 2).toNat + 8 * tx.nEntries
        areaOpen s [va] fun s =>
          let s := areaStore s va (readX s a)
          .next (finish (s.setTx t { tx with nEntries := tx.nEntries + 1 }))
    | _, _ => .next (finish s)

/-- `tx.note` (R289): an 8-byte load outside R56; in the pass the address and the value are appended to the area. -/
def execTxNote (d a : Reg) (s : State) : Out :=
  gate false { reads := [xreg a], vwrites := [xreg d] } s fun s =>
    let ea := readX s a
    let read (s : State) (act : Word → State → State) : Out :=
      stopped s (checkGlobal s { ea := ea, n := 8, align := 8, store := false, sets := false } anyMapping) .read
        (fun dev s => withRemote ea dev (fun s =>
          let v := Config.freeWord s.draws
          .next (act v (outstanding s.draw (loadAnswer (.int 8 false) d v.toNat) true))) (unbound s))
        (fun l s => match globalNow ea 8 true (.load 8) (loadAnswer (.int 8 false) d) l s with
          | .next t => .next (if underWay t.me then act (match t.me.answer with
              | some ((_, w) :: _) => w.setWidth 64
              | _ => 0) t else t)
          | o => o)
    match inRecon s, myTx s with
    | true, some (t, tx) =>
      if 32 ≤ tx.nNotes then .next (trapI s 0xA2 0)
      else
        let va := (tx.word 2).toNat + 1024 + 16 * tx.nNotes
        areaOpen s [va, va + 8] fun s => read s fun v u =>
          (areaStore (areaStore u va ea) (va + 8) v).setTx t { tx with nNotes := tx.nNotes + 1 }
    | _, _ => read s fun _ u => u

/-! ## `tx.chk` (R61, R289) -/

/-- The notes loaded in order, each as a non-relaxed load outside R56; `act` gets whether every value is as noted. -/
def chkNotes (act : Bool → State → Out) : List (Word × Word) → Bool → State → Out
  | [], ok, s => act ok s
  | (ea, v) :: ns, ok, s => loadThen ea 8 false (fun u s => chkNotes act ns (ok && u == v.toNat) s) s

/-- The notes in the area: address and value, in note order. -/
def notePairs : List Word → List (Word × Word)
  | a :: v :: ws => (a, v) :: notePairs ws
  | _ => []

/-- A checked restart (R61): every continuation is discarded, and the transaction goes back to the sequencer, which
restores its tiles and releases its locks. -/
def checkedRestart (s : State) (t : Nat) (tx : Tx) : State :=
  let s := discardAll s t
  (s.setTx t { tx with st := .recon, checks := tx.checks + 1, ended := false }).post (.reconNumbering t)

/-- `tx.chk` (R61, R289): nothing in the pass and without RECON. -/
def execTxChk (s : State) : Out :=
  gate false {} s fun s =>
    match inRecon s, myTx s with
    | false, some (t, tx) =>
      if !descRecon tx.desc then .next (finish s)
      else
        match (if tx.nNotes = 0 then (s, Got.val 0) else agentRead s s.myPart ((tx.word 2).toNat + 1024) (16 * tx.nNotes)) with
        | (s, .wait g) => waitPage s g
        | (s, .final page) => .next (trapI s 0x22 (BitVec.ofNat 64 page))
        | (s, .val v) =>
          chkNotes (fun ok s =>
            if ok then .next (outstanding s [] true)
            else if 8 ≤ tx.checks then .next (trapI s 0xA1 0)
            else .next (checkedRestart s t tx)) (notePairs (splitWords v (2 * tx.nNotes))) true (unbound s)
    | _, _ => .next (finish s)

/-! ## `tx.end` (R28, R290, R330) -/

/-- `tx.end` (R290): the slot waits for its results and its queued matrix instructions; then the continuation ends. -/
def execTxEnd (s : State) : Out :=
  gate false {} s fun s =>
    if s.me.level = .m then .next (mLevelTrap s)
    else
      let s := abandonLease s s.cur
      if settled s s.cur then .next (endContinuation s s.cur) else .next (hold s .ending)

end Sys2Proof.Machine
end

