-- ==== Sys2Proof/Machine/Privileged.lean ====
section
/-! DEFINITION. The meanings of major 0x3D, privileged instructions (R342 to R350): the spill engine and replay (R343 to
R345, R367, R377), the ready queue (R346), waiting for events (R347), page classes and code (R348, R349), and parked
cores (R350). -/

namespace Sys2Proof.Machine

/-! ## Issue of `spill` and `fill` -/

/-- A request handed to the core's spill engine; the slot waits for its end (R367). -/
def askEngine (s : State) (r : SpillReq) : Out :=
  let s := unbound s
  let s := s.setMyCore { s.myCore with spillq := s.myCore.spillq ++ [r] }
  .next ((hold s .spillEngine).post (.spillEngineDone s.curCore))

/-- `spill` (R343). -/
def execSpill (d a b : Reg) (s : State) : Out :=
  gate true { reads := [xreg a, xreg b], vwrites := [xreg d] } s fun s =>
    let t := readX s a
    let area := if b = 0 then s.myCore.saveb + 0x2000 * t else readX s b
    if t.extractLsb' 4 60 ≠ 0 then .next (trapI s 0x25 t)
    else if !canonical area then .next (trapI s 0x25 area)
    else if area.toNat % 8192 ≠ 0 then .next (trapI s 0x20 area)
    else askEngine s ⟨false, some s.cur, t.toNat, area.toNat, d, none⟩

/-- `fill` (R345). -/
def execFill (d a b : Reg) (s : State) : Out :=
  gate true { reads := [xreg a, xreg b], vwrites := [xreg d] } s fun s =>
    let area := readX s a
    let t := readX s b
    if t.extractLsb' 4 60 ≠ 0 then .next (trapI s 0x25 t)
    else if !canonical area then .next (trapI s 0x25 area)
    else if area.toNat % 8192 ≠ 0 then .next (trapI s 0x20 area)
    else askEngine s ⟨true, some s.cur, t.toNat, area.toNat, d, none⟩

/-! ## The engine -/

/-- How far a request is: it ends with a status, with a cause at its issuer, or goes on. -/
inductive Served where
  | status (s : State) (v : Word)
  | cause (s : State) (code : Nat) (tval : Word)
  | again (s : State)
  deriving DecidableEq, Repr

/-- The two pages of an area translated, for the engine; a class that has to change is waited for (R85, R86). -/
def areaPages (s : State) (p c area : Nat) (store : Bool) : State × Agent :=
  let one (s : State) (va : Nat) : State × Agent :=
    match translate (s.part p) va (needOf store) with
    | .hit l => match touch s p va l (some c) store with
      | (s, true) => (s, .ready)
      | (s, false) => (s, .wait)
    | r => (s, .closed va (needOf store) r)
  match one s area with
  | (s, .ready) => one s (area + 4096)
  | q => q

/-- `act` once the area's pages are there; a fault on one that is final is the issuer's (R338). -/
def withArea (s : State) (p c : Nat) (r : SpillReq) (act : State → Served) : Served :=
  match r.fault with
  | some (code, v) => .cause s code v
  | none => match areaPages s p c r.area (!r.isFill) with
    | (s, .ready) => act s
    | (s, .wait) => .again s
    | (s, .closed page need x) =>
      match x with
      | .miss => .again (agentAsk s p page need x)
      | .fault => .again (agentAsk s p page need x)
      | .nowhere => .cause s 0x25 (BitVec.ofNat 64 page)
      | _ => .cause s (finalCause need) (BitVec.ofNat 64 page)

/-- Must the spill still wait before the target may be stopped: a lease, a trap to enter, an access that is being answered,
or a continuation that leaves its slot already (R34, R343)? -/
def spillWaits (s : State) (k : Nat) : Bool :=
  let sl := s.slot k
  sl.lease.isSome || sl.trapping.isSome || s.fabric.any (fun m => m.src == k / 16 && m.srcSlot == k % 16 && (match m.body with
    | .bar _ _ _ => true
    | _ => false)) ||
    (match sl.wait with
     | some .access => true
     | some (.remote _ _ _ _) => true
     | some .status => true
     | some .spillEngine => true
     | some (.migrate _ _ _ _ _ _) => true
     | some (.parking _ _) => true
     | some .saving => true
     | _ => false)

/-- Is the wait kept in the area: a sleep or a barrier wait (R344)? -/
def keepsWait : Option Wait → Bool
  | some (.sleep _) => true
  | some (.barrier _ _ _ _) => true
  | _ => false

/-- One look of the engine at a spill (R34, R343). -/
def serveSpill (s : State) (c : Nat) (r : SpillReq) : Served :=
  let k := slotKey c r.target
  let sl := s.slot k
  let p := s.partOf c
  if r.issuer = some k then .status s 2
  else match sl.st with
    | .free => .status s 1
    | .load => .status s 2
    | .away => .status s 2
    | st =>
      if sl.level ≠ .u ∨ sl.halted then .status s 2
      else if spillWaits s k then .again s
      else
        let s := if keepsWait sl.wait then s
          else
            let s := leaveWait s k
            s.setSlot k { s.slot k with st := .save, wait := none, answer := none }
        if !drainedAll s k then .again s
        else match withArea s p c r fun s =>
            let kept := detached (s.slot k)
            let s := leaveWait s k
            .status (vacate (writeArea s p r.area kept) k) 0 with
          | .cause t code v => .cause (t.setSlot k { t.slot k with st := if st = .save then .ready else st }) code v
          | o => o

/-- No stall count of the instruction that waited before the spill is left (R33, R212). -/
def atOnce (s : State) : State := s.setMe { s.me with readyAt := s.myCore.cyc }

/-- The target resumes by the KIND of its area (R345). -/
def resumeKind (s : State) (k : Nat) (bs : List Byte) : State :=
  let s := { s with curCore := k / 16, curSlot := k % 16 }
  let name := areaField bs 24 8
  let gen := areaField bs 18 2
  let d := BitVec.ofNat 5 (areaField bs 20 4)
  let sync := match s.me.wait with
    | some (.barrier _ _ _ y) => y
    | _ => false
  let waiting := s.setMe { s.me with st := .wait, wait := some (.barrier name gen d sync), waitSince := s.tick }
  match areaField bs 16 1 with
  | 0 => s.setMe { s.me with st := .ready, wait := none }
  | 1 =>
    let s := s.setMe { s.me with wait := none }
    if name ≤ s.tick then atOnce (finish s) else (atOnce (hold s (.sleep name))).post (.sleepEnd (k / 16) (k % 16))
  | 2 =>
    let b := barOf s name
    if !b.live then wakeWaiter waiting k 1
    else if b.gen ≠ gen then wakeWaiter waiting k 0
    else
      let s := setBar (s.setMe { s.me with wait := none }) name { b with waiters := b.waiters ++ [(k, gen)] }
      atOnce (hold s (.barrier name gen d sync))
  | 3 => wakeWaiter waiting k 0
  | _ => wakeWaiter waiting k 1

/-- A continuation filled into a FREE slot from its area: what the area holds, the engine state it left, and what its
transaction and its slot give it (R344, R345). -/
def fillSlot (s : State) (k area : Nat) (bs : List Byte) (t : Option (Nat × Tx)) : State :=
  let c := k / 16
  let p := s.partOf c
  let old := s.slot k
  let base := look s.saved Slot.reset (areaKey p area)
  let (id, s) := s.fresh
  let sl := restore base bs
  let from_ := txCsrs (match t with
    | some e => e.2
    | none => ⟨p, 0, none, [], Vector.replicate 4 0, Vector.replicate 4 0, 0, [], none, .running, none, [], 0, false, 0, 0, 0, 0,
        0, 0, [], 0⟩) c
  let sl := { sl with
    st := .ready, wait := base.wait, resv := old.resv, redIdx := old.redIdx, relaxed := old.relaxed, copies := old.copies, home := c
    tx := t.map fun e => e.1, readyAt := (s.core c).cyc, cont := id, answer := none, replay := none, xfault := none
    csr := { sl.csr with tray := from_.tray, txn := from_.txn } }
  let s := { s.setSlot k sl with saved := remove s.saved (areaKey p area) }
  resumeKind (postKnown s k) k bs

/-- One look of the engine at a fill (R345). -/
def serveFill (s : State) (c : Nat) (r : SpillReq) : Served :=
  let k := slotKey c r.target
  let p := s.partOf c
  if (s.slot k).st ≠ .free then .status s 1
  else withArea s p c r fun s =>
    match readSpace s p r.area 8192 with
    | none => .again s
    | some bs =>
      match txOfHandle s p (ctxTxh (areaWord bs 8)) with
      | some (t, tx) =>
        if (s.slot k).resv ≠ some t ∨ tx.st ≠ .running ∨ areaRefused bs then .status s 2
        else if areaField bs 8184 8 ≠ crc32c ((bs.drop 4096).take 4088) then .status s 3
        else .status (fillSlot s k r.area bs (some (t, tx))) 0
      | none => .status s 2

/-- The issuer of a request goes on: with a status, or with the cause that it takes before it issues again. -/
def answerIssuer (s : State) (r : SpillReq) (o : Word ⊕ (Nat × Word)) : State :=
  match r.issuer with
  | none => s
  | some k =>
    let s := { s with curCore := k / 16, curSlot := k % 16 }
    if s.me.wait ≠ some .spillEngine then s
    else match o with
      | .inl v => finishWoken (landOne s s.curCore k (xreg r.d) (v.setWidth 512))
      | .inr (code, v) => s.setMe { s.me with st := .ready, wait := none, causes := s.me.causes ++ [⟨code, v, false⟩] }

/-- SPILL_ENGINE_DONE: the engine works on the oldest request of its core (R343, R345, R367). -/
def execSpillEngineDone (core : Nat) (s : State) : Out :=
  match (s.core core).spillq with
  | [] => .next s
  | r :: _ =>
    let pop (s : State) : State := s.setCore core { s.core core with spillq := (s.core core).spillq.drop 1 }
    match (if r.isFill then serveFill s core r else serveSpill s core r) with
    | .again s => .next (s.post (.spillEngineDone core))
    | .status s v => .next (answerIssuer (pop s) r (.inl v))
    | .cause s code v => .next (answerIssuer (pop s) r (.inr (code, v)))

/-! ## Replay (R377, R378) -/

/-- The slot that a parked continuation is filled into: a crew slot of its transaction, or an unreserved one. -/
def replaySlot (s : State) (c : Nat) (sl : Slot) : Option Nat :=
  match sl.tx with
  | some t =>
    if sl.level = .u ∧ sl.home = c then
      (List.range 16).find? fun i => (s.slot (slotKey c i)).st == .free && (s.slot (slotKey c i)).resv == some t
    else freeUnreserved s c
  | none => freeUnreserved s c

/-- Is the continuation the next of its page in the partition: none of the page is being replayed, and none parked
before it (R377)? -/
def replayTurn (s : State) (p page order : Nat) : Bool :=
  !(s.slots.any fun e => s.partOf (e.1 / 16) == p && e.2.replay == some page) &&
    !((coresOf s p).any fun c => (s.core c).parked.any fun e => e.2.1 == page && (match parkedCont s c e.1 with
      | some sl => decide (sl.readyAt < order)
      | none => false))

/-- A parked continuation that may be filled now: its area, page and status, its slot and what it left. -/
def nextReplay (s : State) (c : Nat) : List (Nat × Nat × Nat) → Option ((Nat × Nat × Nat) × Nat × Slot)
  | [] => none
  | e :: es =>
    match parkedCont s c e.1 with
    | none => nextReplay s c es
    | some sl =>
      if e.2.2 ≠ 0 ∧ replayTurn s (s.partOf c) e.2.1 sl.readyAt then
        match replaySlot s c sl with
        | some i => some (e, i, sl)
        | none => nextReplay s c es
      else nextReplay s c es

/-- REPLAY: the spill engine fills a parked continuation whose page has been answered for (R377); after a fault that is
final its access traps (R378). It comes back while one is left. -/
def execReplay (core : Nat) (s : State) : Out :=
  let again (s : State) : State :=
    if (s.core core).parked.any fun e => e.2.2 != 0 then postOnce s (.replay core) else s
  if !(s.core core).spillq.isEmpty then .next (again s)
  else match nextReplay s core (s.core core).parked with
    | none => .next (again s)
    | some ((n, page, status), i, sl) =>
      let p := s.partOf core
      let k := slotKey core i
      let area := parkBase (s.core core) + 8192 * n
      match areaPages s p core area false with
      | (s, .wait) => .next (again s)
      | (s, .closed g need r) => .next (again (agentAsk s p g need r))
      | (s, .ready) =>
        match readSpace s p area 8192 with
        | none => .next (again s)
        | some bs =>
          let co := s.core core
          let s := s.setCore core { co with parked := co.parked.filter fun e => e.1 != n }
          let t := match sl.tx with
            | some t => match s.tx? t with
              | some tx => some (t, tx)
              | none => none
            | none => none
          let s := fillSlot s k area bs t
          let mine := s.slot k
          let s := s.setSlot k { mine with
            level := sl.level, ts := sl.ts, tm := sl.tm, home := sl.home
            replay := if status = 1 then some page else none
            xfault := if status = 2 then some page else none }
          .next (again s)

/-! ## The ready queue (R346, R366) -/

/-- `rq.push` (R346): slots in `wfe` wake when the queue becomes non-empty. -/
def execRqPush (d a b : Reg) (s : State) : Out :=
  gate true { reads := [xreg a, xreg b], vwrites := [xreg d] } s fun s =>
    let v := readX s a
    let n := readX s b
    if v.extractLsb' 48 16 ≠ 0 then .next (trapI s 0x25 v)
    else if h : n.toNat < 4 then
      let co := s.myCore
      if 64 ≤ co.rq[n.toNat].length then .next (finish (writeVar s (xreg d) 1 0))
      else
        let s := s.setMyCore { co with rq := co.rq.set n.toNat (co.rq[n.toNat] ++ [v.setWidth 48]) }
        .next (wakeWfe (finish (writeVar s (xreg d) 0 0)) s.curCore 16)
    else .next (trapI s 0x25 n)

/-- The oldest entry of the highest non-empty priority: its priority, value and the rest. -/
def popReady (q : Vector (List (BitVec 48)) 4) : Option (Nat × BitVec 48 × Vector (List (BitVec 48)) 4) :=
  match q[3], q[2], q[1], q[0] with
  | v :: vs, _, _, _ => some (3, v, q.set 3 vs)
  | [], v :: vs, _, _ => some (2, v, q.set 2 vs)
  | [], [], v :: vs, _ => some (1, v, q.set 1 vs)
  | [], [], [], v :: vs => some (0, v, q.set 0 vs)
  | [], [], [], [] => none

/-- `rq.pop` (R346). -/
def execRqPop (d : Reg) (s : State) : Out :=
  gate true { vwrites := [xreg d] } s fun s =>
    match popReady s.myCore.rq with
    | none => .next (finish (writeVar s (xreg d) 0 0))
    | some (p, v, q) =>
      let s := s.setMyCore { s.myCore with rq := q }
      .next (finish (writeVar s (xreg d) (BitVec.ofNat 512 (2 ^ 63 + p * 2 ^ 48 + v.toNat)) 0))

/-! ## Page classes and code (R348, R349) -/

/-- The wait of `cls.set` for its own change. -/
def classWait (p va : Nat) : Wait := .granule p (va / 4096) (BitVec.allOnes 64)

/-- `cls.set` (R348): the change runs as the reclassifier's, and the slot waits for it. -/
def execClsSet (a b : Reg) (s : State) : Out :=
  gate true { reads := [xreg a, xreg b] } s fun s =>
    let ea := readX s a
    let e := readX s b
    let p := s.myPart
    let cls := (e.extractLsb' 14 2).toNat
    let owner := (e.extractLsb' 0 10).toNat
    if !canonical ea then .next (trapI s 0x25 ea)
    else if e.extractLsb' 16 48 ≠ 0 ∨ e.extractLsb' 10 4 ≠ 0 ∨ (cls ≠ 1 ∧ owner ≠ 0) ∨
        (cls = 1 ∧ (!s.present owner || s.partOf owner != p)) then .next (trapI s 0x25 e)
    else
      let s := unbound s
      if s.me.wait = some (classWait p ea.toNat) then
        .next (if reclassifying s p ea.toNat then hold s (classWait p ea.toNat) else outstanding s [] true)
      else if reclassifying s p ea.toNat || behindHeld s p ea.toNat s.cur then
        .next (hold (joinGranule s p ea.toNat s.cur) (.granule p (ea.toNat / 4096) ea))
      else
        .next (hold (startReclass (leaveGranule s p (ea.toNat / 4096) s.cur) p ea.toNat (e.setWidth 16)) (classWait p ea.toNat))

/-- The lines of a granule that a home timeout left stuck recovered (R105; log entry 57). -/
def recoverLines (s : State) (p va : Nat) : State :=
  match translate (s.part p) (va / 4096 * 4096) .read with
  | .hit l => s.setPart p { s.part p with stuck := (s.part p).stuck.filter fun k =>
      !(k % 2 == l.key % 2 && decide (l.key ≤ k) && decide (k ≤ (l.plus 4095).key)) }
  | _ => s

/-- The power-gated islands of the cores of a list woken by a probe (R105, R404). -/
def wakeCores (s : State) (cs : List Nat) : State := cs.foldl (fun s c => wakeIsland s (islandOf c)) s

/-- `cls.flush` (R348): the granule is flushed from every first-level cache of the partition; it waits for the granule's
leased lines, and ends what a home timeout left of it (R105). -/
def execClsFlush (a : Reg) (s : State) : Out :=
  gate true { reads := [xreg a] } s fun s =>
    let ea := readX s a
    let p := s.myPart
    if !canonical ea then .next (trapI s 0x25 ea)
    else
      let s := unbound s
      if reclassifying s p ea.toNat || granuleHeld s p (ea.toNat / 4096) then
        .next (hold s (.granule p (ea.toNat / 4096) ea))
      else
        let cores := coresOf s p
        .next (outstanding (recoverLines (flushGranule (wakeCores s cores) p (ea.toNat / 4096) cores) p ea.toNat) [] true)

/-- `xinv` (R349): after every earlier access, the code lines of the range leave the partition's instruction caches; a
slot that has entered one keeps its copy. -/
def execXinv (a b : Reg) (s : State) : Out :=
  gate true { reads := [xreg a, xreg b] } s fun s =>
    if !fenced s s.cur 6 then .next (hold s (.fence 6))
    else
      let s := unbound s
      let n := (readX s b).toNat
      let s := if n = 0 then s else dropCode s (readX s a).toNat n (coresOf s s.myPart)
      .next (outstanding s [] true)

/-! ## Parking cores (R350) -/

/-- Does a core hold no reservation, and is every slot FREE? -/
def coreIdle (s : State) (c : Nat) : Bool :=
  (List.range 16).all fun i => (s.slot (slotKey c i)).st == .free && (s.slot (slotKey c i)).resv.isNone

/-- A core parked or unparked; its island's power follows (R350, R404). -/
def setParked (s : State) (c : Nat) (v : Bool) : State :=
  gateIsland (s.setCore c { s.core c with isParked := v }) (islandOf c)

/-- `core.park` and `core.unpark`, told apart by bit [16] of a (R350). -/
def parkOp (d a : Reg) (s : State) : Out :=
  gate true { reads := [xreg a], vwrites := [xreg d] } s fun s =>
    let v := readX s a
    let c := (v.extractLsb' 0 10).toNat
    if v.extractLsb' 10 6 ≠ 0 ∨ v.extractLsb' 17 47 ≠ 0 ∨ !s.present c ∨ (s.me.level ≠ .m ∧ s.partOf c ≠ s.myPart) then
      .next (trapI s 0x25 v)
    else if v.getLsbD 16 then .next (finish (writeVar (setParked s c false) (xreg d) 0 0))
    else if c = s.curCore || !coreIdle s c then .next (finish (writeVar s (xreg d) 1 0))
    else .next (finish (writeVar (setParked s c true) (xreg d) 0 0))

/-- `core.park` (R350). -/
def execCorePark (d a : Reg) (s : State) : Out := parkOp d a s
/-- `core.unpark` (R350). -/
def execCoreUnpark (d a : Reg) (s : State) : Out := parkOp d a s

/-! ## Waiting for events (R347) -/

/-- `wfe` (R347). -/
def execWfe (d a b : Reg) (s : State) : Out :=
  gate true { reads := [xreg a, xreg b], vwrites := [xreg d] } s fun s =>
    let mask := readX s a
    let till := (readX s b).toNat
    if mask.extractLsb' 3 61 ≠ 0 then .next (trapI s 0x25 mask)
    else
      let e := wfeConditions s s.curCore mask.toNat till
      if mask = 0 ∨ e ≠ 0 then .next (finish (writeVar s (xreg d) (BitVec.ofNat 512 e) 0))
      else
        let s := hold (unbound s) (.wfe mask.toNat till d)
        .next (if mask.getLsbD 2 then s.post (.wfeDeadline s.curCore s.curSlot) else s)

/-- WFE_DEADLINE: the time base has reached the deadline of a waiting `wfe` (R347). -/
def execWfeDeadline (core slot : Nat) (s : State) : Out :=
  match (s.slot (slotKey core slot)).wait with
  | some (.wfe mask till _) =>
    if mask / 4 % 2 = 0 then .next s
    else if s.tick < till then .next (postOnce s (.wfeDeadline core slot))
    else .next (wakeWfe s core 16)
  | _ => .next s

end Sys2Proof.Machine
end

