-- ==== Sys2Proof/Machine/Events.lean ====
section
/-! DEFINITION. Events of slots and cores: the end of a sleep (R212), the limit of a wait (R32), TIMER (R341), core events
(R337), and code lines (R168, R208, R374 to R379). -/

namespace Sys2Proof.Machine

/-! ## Waits that time ends -/

/-- SLEEP_END: the time base has reached the end tick of a sleeping slot, which goes on (R212). -/
def execSleepEnd (core slot : Nat) (s : State) : Out :=
  match (s.slot (slotKey core slot)).wait with
  | some (.sleep till) =>
    if s.tick < till then .next (postOnce s (.sleepEnd core slot))
    else .next (finishWoken { s with curCore := core, curSlot := slot })
  | _ => .next s

/-- TVAL of WAIT_LIMIT: the word, the barrier's name, or 0 (R338). -/
def limitValue : Wait → Word
  | .deferred a => BitVec.ofNat 64 a
  | .barrier name _ _ _ => BitVec.ofNat 64 name
  | _ => 0

/-- WAIT_LIMIT: a wait has lasted `WAITLIM` ticks; its instruction has no effect and traps at its next issue (R32, R243).
What has come about by then ends the wait instead (R31). -/
def execWaitLimit (core slot : Nat) (s : State) : Out :=
  let k := slotKey core slot
  let sl := s.slot k
  match sl.wait with
  | none => .next s
  | some w =>
    if !w.limited || sl.csr.waitlim == 0 then .next s
    else if s.tick < sl.waitSince + sl.csr.waitlim.toNat || mayRetry s k w then .next (postOnce s (.waitLimit core slot))
    else
      let s := leaveWait (withdrawArrival s k) k
      .next (s.setSlot k { s.slot k with
        st := .ready, wait := none, causes := (s.slot k).causes ++ [⟨0x40, limitValue w, false⟩] })

/-- TIMER: the time base has reached `PCTB`, which becomes 0; the cause is taken when R341 lets it. -/
def execTimer (core slot : Nat) (s : State) : Out :=
  let k := slotKey core slot
  let sl := s.slot k
  if sl.pctb = 0 then .next s
  else if s.tick < sl.pctb.toNat then .next (postOnce s (.timer core slot))
  else .next (s.setSlot k { sl with pctb := 0, causes := sl.causes ++ [⟨0x46, sl.pctb, true⟩] })

/-! ## Core events (R337) -/

/-- The slot that takes a core event: at S, at `SEVEC`, with `STPC` 0 and PLV = S, BUSY and EVT in `STSTAT`. -/
def eventSlot (old : Slot) (co : Core) (c serial code : Nat) (tval tag : Word) : Slot :=
  { freeSlot old with
    st := .ready, level := .s, pc := co.sevec, xfer := co.sevec, home := c, cont := serial, readyAt := co.cyc
    ts := ⟨0, BitVec.ofNat 64 code, tval, 0, 0x45⟩, tag := tag
    csr := { UserCsr.pickUp with tray := BitVec.ofNat 64 (c * 2 ^ 16) } }

/-- CORE_EVENT: while `SEVEC` is not zero, the lowest FREE unreserved slot takes the oldest event (R337). -/
def execCoreEvent (core : Nat) (s : State) : Out :=
  let co := s.core core
  match co.events with
  | [] => .next s
  | (code, tval, tag) :: rest =>
    if co.sevec = 0 then .next s
    else match freeUnreserved s core with
      | none => .next (postOnce s (.coreEvent core))
      | some i =>
        let (id, s) := s.fresh
        let k := slotKey core i
        let s := s.setSlot k (eventSlot (s.slot k) co core id code tval tag)
        let s := s.setCore core { s.core core with events := rest }
        .next (if rest.isEmpty then s else postOnce s (.coreEvent core))

/-! ## Code lines (R168, R208) -/

/-- The line of 64 bytes at a place. -/
def lineAt (s : State) (l : Loc) : Line := BitVec.ofNat 512 (bytesToNat (s.bytesAt l 64))

/-- The lines of a core's instruction cache: 64 KiB (R10). -/
def icacheSize : Nat := 1024

/-- A line put into the instruction cache of a core; in a full one it takes the place of another line, which one is free
(R10; log entry 1). -/
def cacheLine (s : State) (c addr : Nat) (v : Line) : State :=
  let co := s.core c
  let full := (remove co.icache addr).length
  if full < icacheSize then s.setCore c { co with icache := put co.icache addr v }
  else
    let out := ((remove co.icache addr).map fun e => e.1).getD (Config.choose s.draws % full) addr
    s.draw.setCore c { co with icache := put (remove co.icache out) addr v }

/-- Is the line in the core's instruction cache? -/
def cached (s : State) (c addr : Nat) : Bool := (look ((s.core c).icache.map fun e => (e.1, some e.2)) none addr).isSome

/-- The next sequential line is fetched ahead of time, where it is translated (R208). -/
def fetchAhead (s : State) (c addr : Nat) : State :=
  if cached s c addr then s
  else match translate (s.part (s.partOf c)) addr .exec with
    | .hit l => if (placeReady s l 0).isNone then cacheLine s c addr (lineAt s l) else s
    | _ => s

/-- INSTRUCTION_LINE_ARRIVAL: the line that a slot waits for arrives, or its translation is asked for; a fault on it parks
the continuation at its target, and one that is final lets the slot trap (R208, R374, R376, R378, R379). For a slot that
has its line, the next one is fetched ahead. -/
def execInstructionLineArrival (core slot : Nat) (s : State) : Out :=
  let s := { s with curCore := core, curSlot := slot }
  match s.me.wait with
  | some (.fetch line) =>
    if cached s core line then .next s
    else match translate (s.part s.myPart) line .exec with
      | .hit l => match placeReady s l 0 with
        | none => .next (fetchAhead (cacheLine s core line (lineAt s l)) core (line + 64))
        | some .bringup => .next (postOnce s (.instructionLineArrival core slot))
        | some _ => .next (s.setMe { s.me with wait := none })
      | .miss => .next (postOnce (requestXlat s s.myPart (pageOf line) .exec) (.instructionLineArrival core slot))
      | .fault => .next (pageFault s s.myPart (pageOf line) .exec)
      | _ => .next (s.setMe { s.me with wait := none })
  | _ => match s.me.line with
    | some (a, _) => .next (fetchAhead s core (a.toNat + 64))
    | none => .next s

end Sys2Proof.Machine
end

