-- ==== Sys2Proof/Machine/Links.lean ====
section
/-! DEFINITION. The outside of the package: host snoops and host accesses (R382, R140, R145), Stente flits, planes and
their timeouts (R386, R387), the time base in a pod (R388), and membership (R385). -/

namespace Sys2Proof.Machine

/-! ## The host (R382) -/

/-- Does the device hold a host sector against a snoop: a lease or a copy has it, or a timeout left it held (R105, R145)? -/
def sectorHeld (s : State) (key : Nat) : Bool := (List.range 8).any fun p => agentHeld s p key

/-- HOST_SNOOP: a snoop of a 64-byte sector waits for a lease on it; a host write then stands in memory (R139, R140, R145,
R382, R384). A part without CXL.cache sees none. -/
def execHostSnoop (addr : Nat) (kind : SnoopKind) (s : State) : Out :=
  if !s.hub.ready.getLsbD 8 then .next (if stepEnded s 160 then s else s.post (.hostSnoop addr kind))
  else if sectorHeld s (2 * (addr / 64) + 1) then .next (s.post (.hostSnoop addr kind))
  else match kind with
    | .read => .next s
    | .write data => .next { s with hostMem := writeBytes s.hostMem (addr / 64 * 64) (vecBytes data) }

/-- The partition that holds the extent of a device physical address. -/
def partOfPa (s : State) (pa : Nat) : Option Nat := (List.range 8).find? fun p => holdsExtent (s.part p).record (pa / 2 ^ 30)

/-- The carve-out offset of a device physical address (R401). -/
def offsetOf (r : PartRecord) (pa : Nat) : Nat :=
  ((List.range (pa / 2 ^ 30)).filter fun e => holdsExtent r e).length * 2 ^ 30 + pa % 2 ^ 30

/-- The virtual addresses under which the partition's cached translations reach a device physical address (R372, R383). -/
def virtualsOf (pt : Part) (pa : Nat) : List Nat :=
  let off := offsetOf pt.record pa
  (pt.hwin.filter fun w => w.writer == 2 && decide (off < w.pages * 4096)).flatMap fun w =>
    ((pt.xlat.filter fun e => decide (e.2.pa ≤ w.base + off) && decide (w.base + off < e.2.pa + 2 ^ e.2.log2)).map fun e =>
      xbase e.1 e.2.log2 + (w.base + off - e.2.pa)).eraseDups

/-- The waits of a host access at one address: what R85 says of an outside agent, at each virtual address. -/
def hostOpen (s : State) (p pa : Nat) (store : Bool) : State × Bool :=
  if agentHeld s p (Loc.dev pa).key then (s, false)
  else match agentOpen s p store (virtualsOf (s.part p) pa) with
    | (s, .wait) => (s, false)
    | (s, _) => (s, true)

/-- A host access may be performed when each of its bytes may. -/
def hostReady (s : State) (p pa : Nat) (store : Bool) : Nat → State × Bool
  | 0 => (s, true)
  | n + 1 => match hostOpen s p pa store with
    | (s, false) => (s, false)
    | (s, true) => hostReady s p (pa + 1) store n

/-- One byte read or written by the host, through a relayout or a subscription of its virtual address (R101, R121). A store
to the state block of a relayout that is RUNNING is dropped (R118). An address that no cached translation reaches has no
virtual address, and is accessed as it is (log entry 60). -/
def hostByte (s : State) (p pa : Nat) (op : AccessOp) : Perf :=
  match virtualsOf (s.part p) pa with
  | va :: _ =>
    if op.isStore && onRunningBlock (s.part p) va 1 then ⟨s, 0, false⟩ else performGlobal s p va (.dev pa) op none
  | [] =>
    let old := (readByte s.devMem pa).toNat
    ⟨s.setBytesAt (.dev pa) (op.writes old), old, false⟩

/-- The bytes the host reads. -/
def hostRead (s : State) (p pa : Nat) : Nat → List Byte
  | 0 => []
  | n + 1 => BitVec.ofNat 8 (hostByte s p pa (.load 1)).old :: hostRead s p (pa + 1) n

/-- The bytes the host writes. -/
def hostWrite (s : State) (p pa : Nat) : List Byte → State
  | [] => s
  | b :: bs => hostWrite (hostByte s p pa (.store [(0, b)])).s p (pa + 1) bs

/-- HOST_DEVICE_ACCESS: the host reads or writes device memory at a device physical address, over CXL.mem or a BAR, as an
outside agent (R85, R382). It waits for bring-up; an address outside every carve-out, or a function that is not there, is
answered with Completer Abort (R409). A read's bytes are what the hub answers. -/
def execHostDeviceAccess (addr : Nat) (data : HostData) (s : State) : Out :=
  let again (s : State) : State := s.post (.hostDeviceAccess addr data)
  if !s.hub.ready.getLsbD 7 then .next (if stepEnded s 160 then s else again s)
  else match partOfPa s addr with
    | none => .next s
    | some p =>
      if s.hub.lostStacks.contains (stackOf addr) then .next s
      else match data with
        | .read n => match hostReady s p addr false n with
          | (s, false) => .next (again s)
          | (s, true) => .next { s with hub := { s.hub with answer := hostRead s p addr n } }
        | .write bs => match hostReady s p addr true bs.length with
          | (s, false) => .next (again s)
          | (s, true) => .next (hostWrite s p addr bs)

/-! ## Time (R11, R388) -/

/-- Ticks of the device's own clock pass: a joining member that is ahead holds its count; otherwise the count is slewed by one
tick in each 1,024 until the offset is zero (R388). -/
def passTime (s0 : State) (n : Nat) : State :=
  let s := { s0 with ns := s0.ns + n }
  let h := Nat.min n s.hub.hold
  let m := n - h
  let k := Nat.min s.hub.offset.natAbs ((s.tick + m) / 1024 - s.tick / 1024)
  if 0 ≤ s.hub.offset then
    { s with tick := s.tick + m + k, hub := { s.hub with hold := s.hub.hold - h, offset := s.hub.offset - (k : Int) } }
  else { s with tick := s.tick + (m - k), hub := { s.hub with hold := s.hub.hold - h, offset := s.hub.offset + (k : Int) } }

/-- The pod partition of the device (R380). -/
def podPart (s : State) : Nat := (s.hub.mpod.extractLsb' 8 3).toNat

/-- The members of the pod, as this device knows them. -/
def podMembers (s : State) : List Nat := (s.part (podPart s)).members

/-- The lowest DEV of the members: the time master (R388). -/
def timeMaster (ms : List Nat) : Option Nat := ms.foldl (fun b m => match b with
  | none => some m
  | some x => some (Nat.min x m)) none

/-- TIME_SYNC_SEND: every 65,536 ticks the time master sends its time base to each member (R388). -/
def execTimeSyncSend (s : State) : Out :=
  let s1 := s.post .timeSyncSend
  if s.tick < s.hub.lastSync + 65536 then .next s1
  else
    let s1 := { s1 with hub := { s1.hub with lastSync := s.tick } }
    if inPod s (podPart s) && timeMaster (podMembers s) == some (myDev s) then
      .next (((podMembers s).filter (· ≠ myDev s)).foldl (fun s m => sendFlit s m 4) s1)
    else .next s1

/-- The time master's value has come: the offset to slew away. A member more than 2,048 ticks off reports to Starter and
leaves the pod, at a round that Starter chooses (R385, R388). -/
def timeSync (s : State) (master : Nat) : State :=
  let off : Int := (master : Int) - s.tick
  let s := { s with hub := { s.hub with offset := off } }
  if off.natAbs ≤ 2048 then s
  else
    let p := podPart s
    let round := (s.part p).round + 1 + (Config.freeWord s.draws).toNat % 2 ^ 16
    ({ s.draw with hub := { s.hub with reports := s.hub.reports ++ [(myDev s, 0x100)] } }).post
      (.membershipChange ⟨round, (podMembers s).filter (· ≠ myDev s)⟩)

/-! ## Membership (R64, R385) -/

/-- Rounds before a member joined count as closed (R385). -/
def closeBefore (s : State) (p round : Nat) : List Nat → State
  | [] => s
  | m :: ms => closeBefore (s.setPart p { s.part p with closed := put (s.part p).closed (2 ^ 20 + m) round }) p round ms

/-- The change takes effect: new members' earlier rounds are closed, missing markers of those that left are empty rounds, and
the tiles that waited for them are looked at (R64, R385). -/
def changeMembers (s : State) (p : Nat) (c : Membership) : State :=
  let s := closeBefore s p c.round (c.members.filter fun m => !(s.part p).members.contains m)
  let s := s.setPart p { s.part p with members := c.members, newMembers := none }
  tryGrants s p (keysOf (s.part p).locks fun q => q.any fun r => !r.granted)

/-- The device joins: its time base, if behind, has stepped forward, the round is that of the tick, and MEMBER is set
(R46, R380, R388). -/
def joinPod (s : State) (p : Nat) (c : Membership) : State :=
  let s := { s with tick := s.tick + s.hub.offset.toNat, hub := { s.hub with offset := 0, mpod := s.hub.mpod ||| 0x8000 } }
  let s := s.setPart p { s.part p with round := s.tick / 2048, pos := 0, roundAt := none }
  postOnce (postOnce (changeMembers s p c) (.podCloseMarkerSend p)) .timeSyncSend

/-- MEMBERSHIP_CHANGE: a change takes effect at its round (R385). A device that joins first brings its time base in step,
holding its count while it is ahead; one that is no longer listed leaves, and MEMBER is 0 (R388). -/
def execMembershipChange (change : Membership) (s : State) : Out :=
  let p := podPart s
  let s0 := s.setPart p { s.part p with newMembers := some change }
  let again : State := s0.post (.membershipChange change)
  let inside := inPod s p
  let mine := change.members.contains (myDev s)
  let round := if inside then (s.part p).round else s.tick / 2048
  if round < change.round then .next again
  else if mine && !inside then
    if s.hub.hold ≠ 0 then .next again
    else if s.hub.offset < 0 then
      .next { again with hub := { again.hub with hold := again.hub.offset.natAbs, offset := 0 } }
    else .next (joinPod s p change)
  else
    let s := changeMembers s p change
    .next (if inside && !mine then { s with hub := { s.hub with mpod := s.hub.mpod &&& ~~~0x8000#64, offset := 0 } } else s)

/-! ## Planes (R387) -/

/-- The flits of a direction whose plane has gone down, sent again in order. -/
def resendDown (s : State) (before : List (Nat × Nat)) (dev plane cls : Nat) : State :=
  let fs := (linkOf s dev cls).unacked.filter fun f => planeOf before (flitSrc f) (flitDst f) cls dev == plane
  { s with hub := { s.hub with outFlits := s.hub.outFlits ++ fs } }

/-- The same for every class. -/
def resendAll (s : State) (before : List (Nat × Nat)) (dev plane : Nat) : Nat → State
  | 0 => s
  | n + 1 => resendDown (resendAll s before dev plane n) before dev plane n

/-- PLANE_DOWN: a plane to a device goes down; unacknowledged flits that travelled on it are resent in order on the next
plane up (R387). -/
def execPlaneDown (dev plane : Nat) (s : State) : Out :=
  let before := s.hub.planesDown
  if before.contains (dev, plane) then .next s
  else
    let s := { s with hub := { s.hub with planesDown := before ++ [(dev, plane)] } }
    .next (if linkDown s dev then s else resendAll s before dev plane 16)

/-- STENTE_PLANE_UP: the plane is up again, and the choice of planes changes back; what could not be sent is sent (R387). -/
def execStentePlaneUp (dev plane : Nat) (s : State) : Out :=
  let none_ := linkDown s dev
  let s := { s with hub := { s.hub with planesDown := s.hub.planesDown.filter (· ≠ (dev, plane)) } }
  .next (if none_ && !linkDown s dev then
      (List.range 16).foldl (fun s c => { s with hub := { s.hub with outFlits := s.hub.outFlits ++ (linkOf s dev c).unacked } }) s
    else s)

/-- LINK_TIMEOUT: an access to another device has had no answer for 50,000 ticks, and its instruction traps (R338, R387). -/
def execLinkTimeout (core slot : Nat) (s : State) : Out :=
  let k := slotKey core slot
  let sl := s.slot k
  match sl.wait with
  | some (.remote _ ea _ _) =>
    if s.tick < sl.waitSince + 50000 then .next (postOnce s (.linkTimeout core slot))
    else .next (s.setSlot k { sl with st := .ready, wait := none, causes := sl.causes ++ [⟨0xE1, ea, false⟩] })
  | _ => .next s

/-! ## Flits that arrive (R386, R387) -/

/-- The slots that wait for an answer of a device. -/
def remoteWaiters (s : State) (dev : Nat) : List Nat :=
  (s.slots.filter fun e => match e.2.wait with
    | some (.remote d _ _ _) => d == dev
    | _ => false).map (·.1)

/-- The result of an access on another device reaches its slot (R386). -/
def remoteResult (s : State) (k value : Nat) : State :=
  match (s.slot k).wait with
  | some (.remote _ ea _ .again) => s.setSlot k { s.slot k with wait := some .answered, had := (s.slot k).had ++ [ea] }
  | some (.remote _ _ d kind) =>
    (s.setSlot k { s.slot k with wait := some .access, answer := some (loadAnswer kind d value) }).post
      (.accessComplete (k / 16) (k % 16))
  | _ => s

/-- A fault at the other device parks the requester (R376, R386). -/
def remoteFault (s : State) (k : Nat) : State :=
  match (s.slot k).wait with
  | some (.remote _ ea _ _) =>
    let s := { s with curCore := k / 16, curSlot := k % 16 }
    parkOn (abandonLease s s.cur) s.myPart (pageOf ea.toNat)
  | _ => s

/-- The pages served by a device on which continuations of the pod partition are parked. -/
def farParked (s : State) (dev : Nat) : List Nat :=
  (coresOf s (podPart s)).flatMap fun c => ((s.core c).parked.filter fun e => awayDev s (podPart s) e.2.1 == some dev).map fun e => e.2.1

/-- A CLASS 1 flit: the result of an access, a fault that parks its requester, or the owner's report of its host's answer for
a page: the access replays, or traps (R378, R386). -/
def remoteAnswer (s : State) (f : Flit) : State :=
  let dev := flitSrc f
  let kind := Config.payload f 0 % 4
  if kind < 2 then
    match remoteWaiters s dev with
    | [] => s
    | k :: ks =>
      let k := (k :: ks).getD (Config.payload f 1 % (ks.length + 1)) k
      if kind = 0 then remoteResult s k (Config.payload f 2) else remoteFault s k
  else match farParked s dev with
    | [] => s
    | g :: gs => markParked s ((g :: gs).getD (Config.payload f 1 % (gs.length + 1)) g) (kind - 1) (coresOf s (podPart s))

/-- A CLASS 0 flit: an access that the pod partition performs for another device, as an outside agent; false while it has to
wait (R85, R386). -/
def remoteServe (s : State) (f : Flit) : State × Bool :=
  let p := podPart s
  let va := Config.payload f 0 % 2 ^ 57
  let n := Config.payload f 1 % 64 + 1
  let store := Config.payload f 2 % 2 == 1
  match agentOpen s p store (chunkAddrs va n) with
  | (s, .wait) => (s, false)
  | (s, .closed page need .miss) => (agentAsk s p page need .miss, false)
  | (s, .closed page need .fault) => (agentAsk s p page need .fault, false)
  | (s, .closed _ _ _) => (sendFlit s (flitSrc f) 1, true)
  | (s, .ready) =>
    let old := natToBytes n (agentBytes s p va n)
    let bs := if store && !onRunningBlock (s.part p) va n then (Config.payloadStore f old).take n else []
    let s := if bs.isEmpty then s
      else (performGlobal s p va (placeAt s p va .write) (.store (offsets 0 bs)) none).s
    (sendFlit s (flitSrc f) 1, true)

/-- A CLASS 2 flit: a close marker for every manager, a lock request of another device, or its release (R50, R64). -/
def remoteLock (s : State) (f : Flit) : State :=
  let p := podPart s
  let tile := Config.payload f 1 % 2 ^ 45 * 4096
  let round := Config.payload f 2
  let key := round * 2 ^ 16 + flitSrc f * 256 + Config.payload f 3 % 256
  let t := 2 ^ 64 + key
  let q := look (s.part p).locks [] tile
  match Config.payload f 0 % 3 with
  | 0 => sendMarkers s p (flitSrc f) round (managers s p)
  | 1 =>
    let s := setLocks s p tile (insertLock ⟨t, key, Config.payload f 4 % 2 == 1, false, false⟩ q)
    examineTile s p t tile false
  | _ => tryGrant (setLocks s p tile (q.filter fun r => r.tx != t)) p tile

/-- The tiles of this device's transactions that wait for a grant of another device. -/
def farTiles (s : State) (dev : Nat) : List (Nat × Nat) :=
  s.txs.flatMap fun e => if e.2.key.isSome then
      (e.2.tiles.filter fun t => !t.granted && awayDev s e.2.part t.tile == some dev).map fun t => (e.1, t.tile)
    else []

/-- A CLASS 3 flit: a grant of another device's manager, with the tile it pushes (R52, R387). -/
def remoteGrant (s : State) (f : Flit) : State :=
  match farTiles s (flitSrc f) with
  | [] => s
  | e :: es =>
    let (t, tile) := (e :: es).getD (Config.payload f 0 % (es.length + 1)) e
    match s.tx? t, setTileOf s t tile with
    | some tx, some x => grantTile (updTile s.draw t tile fun x => { x with xdone := true }) t tx x (farTile s)
    | _, _ => s

/-- The flits still kept after the receiver has reported its last SEQ. -/
def acknowledged (fs : List Flit) (ack : Nat) : List Flit :=
  if fs.any fun f => flitSeq f == ack then (fs.dropWhile fun f => flitSeq f != ack).drop 1 else fs

/-- What a flit in order does, by its class; false while it has to wait. A management flit is Starter's. -/
def deliverFlit (s : State) (f : Flit) : State × Bool :=
  match flitClass f with
  | 0 => if inPod s (podPart s) then remoteServe s f else (s, true)
  | 1 => (remoteAnswer s f, true)
  | 2 => (if inPod s (podPart s) then remoteLock s f else s, true)
  | 3 => (remoteGrant s f, true)
  | 4 => (if timeMaster (podMembers s) == some (flitSrc f) then timeSync s (Config.payload f 0) else s, true)
  | _ => (s, true)

/-- STENTE_FLIT_RECEIVE: a flit with a bad CRC, of a reserved class or for another device is not taken; one that the device
already has is discarded; one ahead of its turn waits; the next one is delivered (R387). -/
def execStenteFlitReceive (flit : Flit) (s : State) : Out :=
  let dev := flitSrc flit
  let cls := flitClass flit
  if !flitGood flit || decide (5 < cls) || flitDst flit != myDev s then .next s
  else
    let l := linkOf s dev cls
    let s := setLink s dev cls { l with unacked := acknowledged l.unacked (flitAck flit) }
    let ahead := (flitSeq flit + 65536 - l.received) % 65536
    if ahead = 0 ∨ 32768 ≤ ahead then .next s
    else if ahead ≠ 1 then .next (s.post (.stenteFlitReceive flit))
    else match deliverFlit s flit with
      | (s, false) => .next (s.post (.stenteFlitReceive flit))
      | (s, true) =>
        let s := setLink s dev cls { linkOf s dev cls with received := flitSeq flit }
        .next { s with hub := { s.hub with delivered := s.hub.delivered ++ [flit] } }

end Sys2Proof.Machine
end

