-- ==== Sys2Proof/Machine/Starter.lean ====
section
/-! DEFINITION. Starter: partitions (R400), power and heat (R402, R403), repair in service (R405), firmware (R406, R407),
attestation (R408), bring-up and the boot journal (R409, R410), and the resets (R11, R380). -/

namespace Sys2Proof.Machine

/-! ## The mailbox (R407, R409) -/

/-- The status of the last mailbox command. -/
def mailStatus (s : State) (v : MailStatus) : State := { s with hub := { s.hub with status := v } }

/-- A mailbox command waits while a new Starter starts, and for the step that opens the mailbox; with the mailbox not open it
is refused (R407, R409). -/
def mailbox (s : State) (cmd : Instr) (act : State → State) : Out :=
  if s.hub.activating.isSome then .next { s with hub := { s.hub with waitingCmds := s.hub.waitingCmds ++ [cmd] } }
  else if s.hub.ready.getLsbD 0 then .next (act s)
  else .next (if stepEnded s 32 then mailStatus s .refused else s.post cmd)

/-! ## Partitions (R400) -/

/-- Stacks whose extents are lost take no part in the map; the highest extent present on a die is Starter's (R399, R405). -/
def reservedExtent (s : State) (die : Nat) : Option Nat :=
  ((List.range 72).reverse.map fun i => 72 * die + i).find? fun e => !s.hub.lostStacks.contains (stackOf (e * 2 ^ 30))

/-- Is an extent reserved? -/
def isReserved (s : State) (e : Nat) : Bool := reservedExtent s (e / 72) == some e

/-- The bits of a record that are reserved. -/
def recordReserved (r : PartRecord) : Bool :=
  r.extractLsb' 1 31 != 0 || r.extractLsb' 352 32 != 0 || r.extractLsb' 384 128 != 0

/-- ISL. -/
def recordIslands (r : PartRecord) : BitVec 32 := r.extractLsb' 32 32
/-- EXT. -/
def recordExtents (r : PartRecord) : BitVec 288 := r.extractLsb' 64 288

/-- The refusals of PART_SET. -/
def partRefused (s : State) (k : Nat) (r : PartRecord) : Bool :=
  decide (8 ≤ k) || recordReserved r || (partValid r && (recordIslands r == 0 || recordExtents r == 0)) ||
    ((List.range 8).any fun q => q != k && (recordIslands r &&& recordIslands (s.part q).record != 0 ||
      recordExtents r &&& recordExtents (s.part q).record != 0)) ||
    (List.range 288).any fun e => holdsExtent r e && isReserved s e

/-- The cores of an island set. -/
def coresIn (m : BitVec 32) : List Nat := (List.range 512).filter fun c => m.getLsbD (islandOf c)

/-- Does a core hold a reservation, a continuation or a claimed operand slot (R400, R411)? -/
def coreBusy (s : State) (c : Nat) : Bool := !coreIdle s c || (s.core c).os.any fun e => e.2.tx.isSome

/-- `MPART` of each core of a list set, which clears its ready queue (R352, R366, R400); nothing of the partition it leaves
stays in its first-level cache (log entry 58). -/
def setMparts (s : State) (v : Word) : List Nat → State
  | [] => s
  | c :: cs =>
    let s := flushLines s c fun _ => true
    setMparts (s.setCore c { s.core c with mpart := v, rq := Vector.replicate 4 [] }) v cs

/-- The record written: a partition that comes to exist or ceases to has everything at its initial value (R380, R400). What
`MPART` of a core that leaves holds the spec does not state (log entry 1). -/
def writeRecord (s : State) (k : Nat) (r : PartRecord) : State :=
  let old := (s.part k).record
  let base := if partValid old && partValid r then s.part k else Part.reset k
  let s := s.setPart k { base with record := r }
  let s1 := setMparts s.draw (Config.freeWord s.draws &&& 7) (coresIn (recordIslands old &&& ~~~recordIslands r))
  setMparts s1 (BitVec.ofNat 64 k) (coresIn (recordIslands r &&& ~~~recordIslands old))

/-- PART_SET and PART_CLEAR after the mailbox. -/
def setPartition (k : Nat) (r : PartRecord) (s : State) : State :=
  if partRefused s k r then mailStatus s .refused
  else if (coresIn (recordIslands (s.part k).record &&& ~~~recordIslands r)).any (coreBusy s) then mailStatus s .busy
  else mailStatus (writeRecord s k r) .done

/-- PART_SET: writes a partition record, or is refused or BUSY (R400). -/
def execPartSet (part : Nat) (rec : PartRecord) (s : State) : Out := mailbox s (.partSet part rec) (setPartition part rec)

/-- PART_CLEAR: writes the record as all zero (R400). -/
def execPartClear (part : Nat) (s : State) : Out := mailbox s (.partClear part) (setPartition part 0)

/-! ## Islands, power and heat (R402, R403) -/

/-- Interpolation between two rows of the table, rounded up to 5 mV; frequencies in units of 10 MHz. -/
def between (f f0 v0 f1 v1 : Nat) : Nat :=
  let n := (f - f0) * (v1 - v0)
  let d := f1 - f0
  v0 + (n + 5 * d - 1) / (5 * d) * 5

/-- The minimum voltage of a frequency (R402). -/
def minVoltage (f : Nat) : Nat :=
  if f ≤ 80 then between f 50 300 80 320
  else if f ≤ 110 then between f 80 320 110 350
  else if f ≤ 140 then between f 110 350 140 440
  else between f 140 440 160 520

/-- The point an island may run at: the requested one less the steps of the cap, or 0.50 GHz after a thermal trip (R403). -/
def islandPoint (s : State) (i : Nat) : Nat :=
  let v := islandAt s i
  if v.tripped then 50 else Nat.max 50 (v.asked - 5 * (s.hub.lowered.filter fun g => g.contains i).length)

/-- The hundredths of cycles that an island's clock has run (R4): frequencies are in units of 10 MHz, time in ns. -/
def Island.phase (v : Island) (ns : Nat) : Nat := v.base + (ns - v.since) * v.freq

/-- The island at the point it may run at; the voltage follows the frequency. Its clock stands for at most 5 µs while it
changes, and no state is lost (R402). -/
def retune (s : State) (i : Nat) : State :=
  let f := islandPoint s i
  let v := islandAt s i
  if v.freq = f then setIsland s i { v with mv := minVoltage f }
  else setIsland s.draw i { v with
    freq := f, mv := minVoltage f, base := v.phase s.ns, since := s.ns + (Config.freeWord s.draws).toNat % 5001 }

/-- Each island of a list at its point. -/
def retuneAll (s : State) : List Nat → State
  | [] => s
  | i :: is => retuneAll (retune s i) is

/-- IVF_SET: refused for an island of another function's partition, and clamped to 0.50 to 1.60 GHz (R402). -/
def execIvfSet (island freq : Nat) (s : State) : Out :=
  mailbox s (.ivfSet island freq) fun s =>
    if 32 ≤ island ∨ ((List.range 8).any fun k => k != 0 && holdsIsland (s.part k).record island) then mailStatus s .refused
    else mailStatus (retune (setIsland s island { islandAt s island with asked := Nat.min 160 (Nat.max 50 freq) }) island) .done

/-- CAP_SET: a cap from 700 to 1,400 W (R403). -/
def execCapSet (watts : Nat) (s : State) : Out :=
  mailbox s (.capSet watts) fun s =>
    if watts < 700 ∨ 1400 < watts then mailStatus s .refused
    else mailStatus { s with hub := { s.hub with cap := watts } } .done

/-- The islands at the highest frequency of any. -/
def fastest (s : State) : List Nat :=
  let top := ((List.range 32).map fun i => (islandAt s i).freq).foldl Nat.max 0
  (List.range 32).filter fun i => (islandAt s i).freq == top && decide (50 < top)

/-- POWER_CAP_CHECK: every 1,000,000 ticks the power is compared with the cap; over it the fastest islands go down by 50 MHz,
under 95 % of it the last step is taken back (R403). A starting Starter pauses the steps (R407). -/
def execPowerCapCheck (s : State) : Out :=
  let again (s : State) : State := s.post .powerCapCheck
  if s.tick < s.hub.lastCap + 1000000 ∨ s.hub.activating.isSome then .next (again s)
  else
    let w := Config.power s.draws
    let s := { s.draw with hub := { s.hub with lastCap := s.tick } }
    if s.hub.cap < w then
      let g := fastest s
      .next (again (retuneAll (if g.isEmpty then s else { s with hub := { s.hub with lowered := s.hub.lowered ++ [g] } }) g))
    else if 100 * w < 95 * s.hub.cap then
      match s.hub.lowered.getLast? with
      | none => .next (again s)
      | some g => .next (again (retuneAll { s with hub := { s.hub with lowered := s.hub.lowered.dropLast } } g))
    else .next (again s)

/-- THERMAL_TRIP: the hardware drops an island above 105 °C to 0.50 GHz (R403). -/
def execThermalTrip (island : Nat) (s : State) : Out :=
  .next (retune (setIsland s island { islandAt s island with tripped := true }) island)

/-- THERMAL_RECOVER: below 95 °C the island returns to its point (R403). -/
def execThermalRecover (island : Nat) (s : State) : Out :=
  .next (retune (setIsland s island { islandAt s island with tripped := false }) island)

/-! ## Repair in service (R405) -/

/-- A unit as a key of the error counts. -/
def unitKey : HwUnit → Nat
  | .core c => 8 * c
  | .slice n => 8 * n + 1
  | .hbmRow j r => 8 * (j + 8 * r) + 2
  | .hbmChannel j c => 8 * (j + 8 * c) + 3
  | .lane l n => 8 * (4 * l + n) + 4
  | .consumed c k _ => 8 * slotKey c k + 5

/-- The spares of a kind in use: of die d under d, the channel of stack j under 16 + j, cores without one under 100 + c. -/
def sparesUsed (s : State) (key : Nat) : Nat := look s.hub.spares 0 key

/-- One more of them. -/
def useSpare (s : State) (key : Nat) : State :=
  { s with hub := { s.hub with spares := put s.hub.spares key (sparesUsed s key + 1) } }

/-- The extents of a stack, as bits of a record. -/
def stackMask (j : Nat) : PartRecord :=
  BitVec.ofNat 512 ((List.range 288).map fun e => if stackOf (e * 2 ^ 30) = j then 2 ^ (64 + e) else 0).sum

/-- The extents of a stack leave the partitions with these numbers. -/
def loseExtents (s : State) (j : Nat) : Nat → State
  | 0 => s
  | k + 1 => loseExtents (s.setPart k { s.part k with record := (s.part k).record &&& ~~~stackMask j }) j k

/-- A stack's extents are lost (R405). -/
def loseStack (s : State) (j : Nat) : State :=
  if s.hub.lostStacks.contains j then s
  else loseExtents { s with hub := { s.hub with lostStacks := s.hub.lostStacks ++ [j] } } j 8

/-- Steps 3 and 4 of a core's retirement: a spare of the die takes its logical number with the scratchpad, tags, barriers,
segments and work list; operand memory is not copied, and first-level lines have been written back (log entry 58). With no spare left the number is absent (R9, R405). -/
def replaceCore (s : State) (c : Nat) : State :=
  let die := c / 128
  let n := sparesUsed s die
  let s := flushLines s c fun _ => true
  let co : Core := { s.core c with os := [], icache := [], isParked := false }
  let s := { s with txs := s.txs.map fun (e : Nat × Tx) => (e.1, { e.2 with failedCores := e.2.failedCores.filter (· ≠ c) }) }
  gateIsland (if n < 8 then useSpare (s.setCore c { co with physOver := some (physIndex die (128 + n)) }) die
    else useSpare (s.setCore c { co with absent := true }) (100 + c)) (islandOf c)

/-- CORE_RETIRED raised in every slot of a core that holds a continuation. -/
def raiseRetired (s : State) (c : Nat) : Nat → State
  | 0 => s
  | i + 1 =>
    let sl := s.slot (slotKey c i)
    let s := if sl.st = .free ∨ sl.st = .away then s
      else s.setSlot (slotKey c i) { sl with causes := sl.causes ++ [⟨0xC2, BitVec.ofNat 64 c, false⟩] }
    raiseRetired s c i

/-- The transactions with work on a core that have not ended. -/
def workingOn (s : State) (c : Nat) : List Nat := (s.txs.filter fun e => runsOn s e.1 e.2 c).map (·.1)

/-- One look at the retirement of a core: it is parked and its slots and transactions are told; once no transaction has work
there, a spare takes over (R405). -/
def retireCore (s : State) (c : Nat) : State :=
  if s.present c = false then s
  else if s.hub.retiring.contains c then
    if (workingOn s c).isEmpty then { replaceCore s c with hub := { (replaceCore s c).hub with retiring := s.hub.retiring.filter (· ≠ c) } }
    else s.post (.retire (.core c))
  else
    let s := { setParked s c true with hub := { s.hub with retiring := s.hub.retiring ++ [c] } }
    (postErrors (raiseRetired s c 16) c (workingOn s c)).post (.retire (.core c))

/-- A slice's four banks are absent; their lock queues move to the next present bank, with every index unchanged (R405). -/
def retireSlice (s : State) (n : Nat) : State :=
  let banks := ((List.range 4).map fun i => 4 * n + i).filter fun b => !s.hub.absentBanks.contains b
  { s with hub := { s.hub with absentBanks := s.hub.absentBanks ++ banks } }

/-- The retirement of a unit by the table of R405. -/
def retireUnit (s : State) : HwUnit → State
  | .core c => retireCore s c
  | .slice n => retireSlice s n
  | .hbmRow j r => { s with hub := { s.hub with repairs := s.hub.repairs ++ [(j, r)] } }
  | .hbmChannel j _ =>
    if sparesUsed s (16 + j) = 0 then useSpare s (16 + j) else useSpare (loseStack s j) (16 + j)
  | .lane l n => { s with hub := { s.hub with deadLanes := s.hub.deadLanes ++ [(l, n)] } }
  | .consumed _ _ _ => s

/-- A retirement that falls due while a new Starter starts is queued (R407, R411). -/
def dueRetirement (s : State) (u : HwUnit) : State :=
  if s.hub.activating.isSome then { s with hub := { s.hub with waitingCmds := s.hub.waitingCmds ++ [.retire u] } }
  else retireUnit s u

/-- RETIRE: a retirement that the mailbox forces, or one under way (R405). -/
def execRetire (unit : HwUnit) (s : State) : Out :=
  mailbox s (.retire unit) fun s => mailStatus (retireUnit s unit) .done

/-- The error events that wait for a new Starter. -/
def queuedErrors (s : State) : Nat := (s.hub.waitingCmds.filter fun e => match e with
  | .softError _ => true
  | _ => false).length

/-- The ticks of 24 hours. -/
def dayTicks : Nat := 86400000000000

/-- SOFT_ERROR: a corrected error is counted; a unit with more than 16 in 24 hours is retired (R405). While a new Starter
starts, 64 events queue (R407). -/
def execSoftError (unit : HwUnit) (s : State) : Out :=
  if s.hub.activating.isSome then
    .next (if queuedErrors s < 64 then { s with hub := { s.hub with waitingCmds := s.hub.waitingCmds ++ [.softError unit] } } else s)
  else
    let k := unitKey unit
    let es := ((look s.hub.errors [] k).filter fun t => decide (s.tick < t + dayTicks)) ++ [s.tick]
    let s := { s with hub := { s.hub with errors := put s.hub.errors k es } }
    .next (if 16 < es.length then retireUnit s unit else s)

/-- Data that a slot consumed had an uncorrectable error: UNCORRECTABLE in the slot, at the access it waits for (R338). -/
def consumedError (s : State) (c k addr : Nat) : State :=
  let key := slotKey c k
  let sl := s.slot key
  if sl.st = .free ∨ sl.st = .away then s
  else
    let sl := if sl.wait = some .access then { sl with wait := none, st := .ready, answer := none } else sl
    hardwareCause (s.setSlot key sl) key 0xC1 (BitVec.ofNat 64 addr)

/-- UNCORRECTABLE_ERROR: UNCORRECTABLE is raised in the slot that consumed the data, and a unit is retired at once (R405). -/
def execUncorrectableError (unit : HwUnit) (s : State) : Out :=
  match unit with
  | .consumed c k addr => .next (consumedError s c k addr)
  | u => .next (dueRetirement s u)

/-! ## Firmware (R406, R407) -/

/-- SVN of an image. -/
def imageSvn (i : FwImage) : Nat := (i.header.extractLsb' 128 32).toNat

/-- Is an image accepted (R406)? -/
def imageOk (i : FwImage) (svn : Nat) : Bool :=
  Config.signatureOk i.header && Config.sha3 (i.body.take (i.header.extractLsb' 192 64).toNat) == i.header.extractLsb' 256 256 &&
    decide (svn ≤ imageSvn i) && i.header.extractLsb' 20128 12640 == 0

/-- The image of the active slot. -/
def activeImage (h : Hub) : FwImage := if h.activeB then h.imageB else h.imageA
/-- The image of the inactive slot. -/
def inactiveImage (h : Hub) : FwImage := if h.activeB then h.imageA else h.imageB

/-- FW_STAGE: the image is written into the inactive slot and checked (R406, R407). -/
def execFwStage (image : FwImage) (s : State) : Out :=
  mailbox s (.fwStage image) fun s =>
    let ok := imageOk image s.hub.svn
    let h := { s.hub with staged := ok }
    mailStatus { s with hub := if h.activeB then { h with imageA := image } else { h with imageB := image } }
      (if ok then .done else .refused)

/-- Starter restarts from the other slot: MGMT is 0 until it is ready (R407). -/
def execFwActivate (s : State) : Out :=
  mailbox s .fwActivate fun s =>
    if !s.hub.staged then mailStatus s .refused
    else
      let s := mailStatus { s with hub := { s.hub with
        activeB := !s.hub.activeB, activating := some s.tick, ready := s.hub.ready &&& ~~~1#64 } } .done
      (s.post .starterReady).post .fwActivateTimeout

/-- Starter runs: MGMT is 1, and what waited goes on (R407). -/
def starterRuns (s : State) : State :=
  { s with
    agenda := s.agenda ++ s.hub.waitingCmds
    hub := { s.hub with activating := none, ready := s.hub.ready ||| 1, waitingCmds := [] } }

/-- STARTER_READY: the new Starter sets READY.MGMT (R407). -/
def execStarterReady (s : State) : Out := .next (if s.hub.activating.isSome then starterRuns s else s)

/-- FW_ACTIVATE_TIMEOUT: after 2,000,000,000 ticks without READY.MGMT the old slot is active again (R407). -/
def execFwActivateTimeout (s : State) : Out :=
  match s.hub.activating with
  | none => .next s
  | some t =>
    if s.tick < t + 2000000000 then .next (postOnce s .fwActivateTimeout)
    else .next (starterRuns { s with hub := { s.hub with activeB := !s.hub.activeB } })

/-- FW_COMMIT: the fused minimum rises to the active image's SVN (R407). -/
def execFwCommit (s : State) : Out :=
  mailbox s .fwCommit fun s =>
    mailStatus { s with hub := { s.hub with svn := Nat.max s.hub.svn (imageSvn (activeImage s.hub)) } } .done

/-! ## Attestation (R408) -/

/-- The bytes of an image. -/
def imageBytes (i : FwImage) : List Byte := natToBytes 4096 i.header.toNat ++ i.body

/-- The repair state as bytes (log entry 10). -/
def repairBytes (h : Hub) : List Byte :=
  h.spares.flatMap (fun e => natToBytes 8 e.1 ++ natToBytes 8 e.2) ++ h.absentBanks.flatMap (natToBytes 8) ++
    h.repairs.flatMap (fun e => natToBytes 8 e.1 ++ natToBytes 8 e.2) ++
    h.deadLanes.flatMap (fun e => natToBytes 8 e.1 ++ natToBytes 8 e.2)

/-- Bytes +0 to +183 of the report (R408). -/
def reportBody (s : State) (nonce : Nat) : List Byte :=
  let h := s.hub
  let digest (bs : List Byte) : List Byte := natToBytes 32 (Config.sha3 bs).toNat
  natToBytes 32 nonce ++ digest (imageBytes (activeImage h)) ++ digest (imageBytes (inactiveImage h)) ++
    digest ((List.range 8).flatMap fun k => natToBytes 64 (s.part k).record.toNat) ++ digest (repairBytes h) ++
    natToBytes 4 (imageSvn (activeImage h)) ++ natToBytes 4 h.svn ++ natToBytes 16 Config.serial.toNat

/-- ATTEST: a signed report for a nonce (R408). -/
def execAttest (nonce : Nat) (s : State) : Out :=
  mailbox s (.attest nonce) fun s =>
    let body := reportBody s nonce
    mailStatus { s with hub := { s.hub with answer := body ++ Config.sign body } } .done

/-! ## Resets (R11, R380) -/

/-- What survives a reset of the hub: flash, fuses, the active slot, and repairs (R406 to R408, R410; log entry 10). -/
def keptHub (h : Hub) : Hub :=
  { Hub.reset with
    spares := h.spares, absentBanks := h.absentBanks, repairs := h.repairs, deadLanes := h.deadLanes
    lostStacks := h.lostStacks.filter fun j => decide (2 ≤ look h.spares 0 (16 + j))
    imageA := h.imageA, imageB := h.imageB, activeB := h.activeB, staged := h.staged, svn := h.svn, journal := h.journal }

/-- A core after a reset: its repairs remain (R9, R405). -/
def keptCore (h : Hub) (e : Nat × Core) : Nat × Core :=
  (e.1, { Core.reset with physOver := e.2.physOver, absent := look h.spares 0 (100 + e.1) != 0 })

/-- The extents of each lost stack leave partition 0's initial record. -/
def loseAll (s : State) : List Nat → State
  | [] => s
  | j :: js => loseAll (loseExtents s j 8) js

/-- The device starts again: everything but the time base, host memory, what the hub keeps and the memory given is at its
reset value. -/
def startAgain (s : State) (mem : List Host.Cell) : State :=
  loseAll { State.reset with
    tick := s.tick, draws := s.draws, nextId := s.nextId, turn := s.turn, hostMem := s.hostMem, devMem := mem
    cores := (s.cores.filter fun e => e.2.physOver.isSome || e.2.absent).map (keptCore s.hub)
    hub := keptHub s.hub } (keptHub s.hub).lostStacks

/-- POWER_ON_RESET: the time base is 0 and bring-up begins; memory is as after power-on (R11, R410). -/
def execPowerOnReset (s : State) : Out := .next (startAgain { s with tick := 0 } [])

/-- FUNDAMENTAL_RESET: the time base is 0 and the device starts again (R11). -/
def execFundamentalReset (s : State) : Out := .next (startAgain { s with tick := 0 } s.devMem)

/-- FUNCTION_LEVEL_RESET: `SPASID` of the function's partition is 0; the time base goes on (R11, R380). -/
def execFunctionLevelReset (part : Nat) (s : State) : Out :=
  .next (spasidWritten s part 0)

/-! ## Bring-up (R409, R410) -/

/-- READY with a bit set. -/
def setReady (s : State) (b : Nat) : State := { s with hub := { s.hub with ready := s.hub.ready ||| BitVec.ofNat 64 (2 ^ b) } }

/-- The limit of a step in ticks. -/
def stepLimit (code : Nat) : Nat :=
  match code / 32 with
  | 1 => 1000000000 | 2 => 2000000000 | 3 => 5000000000 | 4 => 1000000000 | 5 => 3000000000
  | 6 => 2000000000 | 7 => 1000000000 | _ => 500000000

/-- The path that the journal decides for a step: primary, alternate or, with none, skipped (R410). -/
def stepPath (j : List JournalEntry) (code : Nat) : Option Bool :=
  match j.reverse.find? fun e => e.step == code with
  | none => some true
  | some e =>
    if e.passed then some true
    else if e.primary && code / 32 != 4 && code / 32 != 8 then some false else none

/-- An outcome written to the journal, a ring of 64 entries (R410). -/
def writeJournal (s : State) (code : Nat) (primary passed : Bool) : State :=
  let j := s.hub.journal ++ [⟨code, primary, passed⟩]
  { s with hub := { s.hub with journal := j.drop (j.length - 64) } }

/-- Every core of a list absent. -/
def setAbsent (s : State) : List Nat → State
  | [] => s
  | c :: cs => setAbsent (s.setCore c { s.core c with absent := true }) cs

/-- The sequencer and the Peel are ready once the cores and fabrics have been tested (log entry 14). -/
def afterStep (s : State) (code : Nat) : State := if code = 131 then setReady (setReady s 1) 2 else s

/-- A skipped step: its bits stay 0 (R410). -/
def skipStep (s : State) (code : Nat) : State :=
  match code / 32 with
  | 2 => loseStack s (code % 32)
  | 4 => setAbsent s ((List.range 128).map fun i => 128 * (code % 32) + i)
  | _ => s

/-- A step that passed on its primary or its alternate path (R409, R410). -/
def passStep (s : State) (code : Nat) (primary : Bool) : State :=
  let u := code % 32
  match code / 32 with
  | 1 => setReady (if primary then s else { s with hub := { s.hub with activeB := !s.hub.activeB } }) 0
  | 2 => setReady s (14 + u)
  | 3 => setReady (if primary then s else replaceCore s.draw (128 * u + Config.choose s.draws % 128)) (10 + u)
  | 4 => s
  | 5 => if primary then setReady (setReady (setReady s 7) 8) 9 else setReady s 7
  | 6 => setReady (if primary then s else { s with hub := { s.hub with deadLanes := s.hub.deadLanes ++ [(u, 3)] } }) (22 + u)
  | 7 => if primary then setReady s 38 else { s with hub := { s.hub with mpod := s.hub.mpod &&& ~~~0x8000#64 } }
  | _ => setReady s 39

/-- The steps of a list begun: those that the journal skips are passed over, and the first other one runs to its end or its
limit (R410). -/
def runSteps (s : State) : List Nat → State
  | [] => { s with hub := { s.hub with step := none } }.post .powerCapCheck
  | c :: cs =>
    match stepPath s.hub.journal c with
    | none => runSteps (afterStep (skipStep s c) c) cs
    | some primary =>
      let s := { s with hub := { s.hub with step := some (c, primary, s.tick) } }
      (s.draw.post (.bringupStepDone c (Config.freeBool s.draws))).post (.bringupStepTimeout c)

/-- A failed step is journalled, the hub is reset and the device starts again (R410). -/
def failStep (s : State) (code : Nat) (primary : Bool) : State :=
  let s := writeJournal s code primary false
  startAgain s s.devMem

/-- BRINGUP: Starter runs the steps in order (R410). -/
def execBringup (s : State) : Out :=
  .next (match s.hub.step with
    | some (0, _, _) => runSteps s bringupSteps
    | _ => s)

/-- BRINGUP_STEP_DONE: a step ends; its outcome is journalled, its bits are set, and the next step runs (R409, R410). -/
def execBringupStepDone (step : Nat) (ok : Bool) (s : State) : Out :=
  match s.hub.step with
  | some (now, primary, _) =>
    if now ≠ step ∨ step = 0 then .next s
    else if !ok then .next (failStep s step primary)
    else
      let s := afterStep (passStep (writeJournal s step primary true) step primary) step
      .next (runSteps s (bringupSteps.filter fun c => decide (step < c)))
  | none => .next s

/-- BRINGUP_STEP_TIMEOUT: a step that exceeds its limit has failed (R410). -/
def execBringupStepTimeout (step : Nat) (s : State) : Out :=
  match s.hub.step with
  | some (now, primary, since) =>
    if now ≠ step ∨ step = 0 then .next s
    else if s.tick < since + stepLimit step then .next (postOnce s (.bringupStepTimeout step))
    else .next (failStep s step primary)
  | none => .next s

/-- JOURNAL_CLEAR: the next start tries every primary again (R410). -/
def execJournalClear (s : State) : Out :=
  mailbox s .journalClear fun s => mailStatus { s with hub := { s.hub with journal := [] } } .done

end Sys2Proof.Machine
end

