-- ==== Sys2Proof/Machine/Dispatch.lean ====
section
/-! DEFINITION. The dispatcher: one arm per constructor of `Instr`, each one direct call of a meaning. -/

namespace Sys2Proof.Machine

/-- What one instruction or event does at a state. -/
def exec (i : Instr) (s : State) : Host.Outcome State Fault Refusal :=
  match i with
  | .divisionComplete core => Sys2Proof.Machine.execDivisionComplete core s
  | .sleepEnd core slot => Sys2Proof.Machine.execSleepEnd core slot s
  | .reclassifyComplete job => Sys2Proof.Machine.execReclassifyComplete job s
  | .migrationDeparture core slot => Sys2Proof.Machine.execMigrationDeparture core slot s
  | .landing msg => Sys2Proof.Machine.execLanding msg s
  | .landingFromPlace core => Sys2Proof.Machine.execLandingFromPlace core s
  | .migrationRefused msg => Sys2Proof.Machine.execMigrationRefused msg s
  | .bankAccessArrive msg => Sys2Proof.Machine.execBankAccessArrive msg s
  | .accessComplete core slot => Sys2Proof.Machine.execAccessComplete core slot s
  | .variableResultArrival core slot id => Sys2Proof.Machine.execVariableResultArrival core slot id s
  | .streamDetectorTimeout slice port => Sys2Proof.Machine.execStreamDetectorTimeout slice port s
  | .homeProbeTimeout core slot probed => Sys2Proof.Machine.execHomeProbeTimeout core slot probed s
  | .leaseHeld core slot => Sys2Proof.Machine.execLeaseHeld core slot s
  | .leaseExpired core slot => Sys2Proof.Machine.execLeaseExpired core slot s
  | .barrierOpArrive msg => Sys2Proof.Machine.execBarrierOpArrive msg s
  | .msgDeliver msg => Sys2Proof.Machine.execMsgDeliver msg s
  | .subscriptionUpdate msg => Sys2Proof.Machine.execSubscriptionUpdate msg s
  | .initialCopy core seg => Sys2Proof.Machine.execInitialCopy core seg s
  | .intransitDone core seg => Sys2Proof.Machine.execIntransitDone core seg s
  | .streamChunkArrive core slot k => Sys2Proof.Machine.execStreamChunkArrive core slot k s
  | .topkChunk core slot => Sys2Proof.Machine.execTopkChunk core slot s
  | .osFillComplete core os => Sys2Proof.Machine.execOsFillComplete core os s
  | .matrixStart core => Sys2Proof.Machine.execMatrixStart core s
  | .matrixRetire core => Sys2Proof.Machine.execMatrixRetire core s
  | .mrotShipmentLand msg => Sys2Proof.Machine.execMrotShipmentLand msg s
  | .drainChunk core => Sys2Proof.Machine.execDrainChunk core s
  | .copyAccept core => Sys2Proof.Machine.execCopyAccept core s
  | .copyComplete job => Sys2Proof.Machine.execCopyComplete job s
  | .promiseMissed core slot job => Sys2Proof.Machine.execPromiseMissed core slot job s
  | .kneadUnit conv => Sys2Proof.Machine.execKneadUnit conv s
  | .kneadFault conv page => Sys2Proof.Machine.execKneadFault conv page s
  | .kneadHardwareError conv => Sys2Proof.Machine.execKneadHardwareError conv s
  | .spawnArrive msg => Sys2Proof.Machine.execSpawnArrive msg s
  | .spillEngineDone core => Sys2Proof.Machine.execSpillEngineDone core s
  | .coreUnpark d a => Sys2Proof.Machine.execCoreUnpark d a s
  | .wfeDeadline core slot => Sys2Proof.Machine.execWfeDeadline core slot s
  | .waitLimit core slot => Sys2Proof.Machine.execWaitLimit core slot s
  | .timer core slot => Sys2Proof.Machine.execTimer core slot s
  | .coreEvent core => Sys2Proof.Machine.execCoreEvent core s
  | .pickUp core slot => Sys2Proof.Machine.execPickUp core slot s
  | .loadLevel core => Sys2Proof.Machine.execLoadLevel core s
  | .shipArrive msg => Sys2Proof.Machine.execShipArrive msg s
  | .shipAnswer msg => Sys2Proof.Machine.execShipAnswer msg s
  | .watchedLineWrite part queue => Sys2Proof.Machine.execWatchedLineWrite part queue s
  | .queueEnable part queue => Sys2Proof.Machine.execQueueEnable part queue s
  | .pick part => Sys2Proof.Machine.execPick part s
  | .reconNumbering tx => Sys2Proof.Machine.execReconNumbering tx s
  | .roundCloseWindow part => Sys2Proof.Machine.execRoundCloseWindow part s
  | .roundCloseIdle part => Sys2Proof.Machine.execRoundCloseIdle part s
  | .podCloseMarkerSend part => Sys2Proof.Machine.execPodCloseMarkerSend part s
  | .closeMarker part mgr dev round => Sys2Proof.Machine.execCloseMarker part mgr dev round s
  | .lockRequest msg => Sys2Proof.Machine.execLockRequest msg s
  | .setTileTranslationDone tx tile fault => Sys2Proof.Machine.execSetTileTranslationDone tx tile fault s
  | .lockRelease msg => Sys2Proof.Machine.execLockRelease msg s
  | .pushLanded msg => Sys2Proof.Machine.execPushLanded msg s
  | .dispatch tx => Sys2Proof.Machine.execDispatch tx s
  | .transactionRetire tx => Sys2Proof.Machine.execTransactionRetire tx s
  | .txHardwareError tx core => Sys2Proof.Machine.execTxHardwareError tx core s
  | .detReplace tx => Sys2Proof.Machine.execDetReplace tx s
  | .detReservationComplete tx => Sys2Proof.Machine.execDetReservationComplete tx s
  | .headPin part queue => Sys2Proof.Machine.execHeadPin part queue s
  | .atsResponse req ans => Sys2Proof.Machine.execAtsResponse req ans s
  | .atsTimeout req => Sys2Proof.Machine.execAtsTimeout req s
  | .prgResponseSuccess req => Sys2Proof.Machine.execPrgResponseSuccess req s
  | .prgResponseFailure req invalid => Sys2Proof.Machine.execPrgResponseFailure req invalid s
  | .pageRequestTimeout req => Sys2Proof.Machine.execPageRequestTimeout req s
  | .replay core => Sys2Proof.Machine.execReplay core s
  | .atsInvalidate pasid va len => Sys2Proof.Machine.execAtsInvalidate pasid va len s
  | .hostSnoop addr kind => Sys2Proof.Machine.execHostSnoop addr kind s
  | .hostDeviceAccess addr data => Sys2Proof.Machine.execHostDeviceAccess addr data s
  | .stenteFlitReceive flit => Sys2Proof.Machine.execStenteFlitReceive flit s
  | .planeDown dev plane => Sys2Proof.Machine.execPlaneDown dev plane s
  | .linkTimeout core slot => Sys2Proof.Machine.execLinkTimeout core slot s
  | .timeSyncSend => Sys2Proof.Machine.execTimeSyncSend s
  | .membershipChange change => Sys2Proof.Machine.execMembershipChange change s
  | .powerOnReset => Sys2Proof.Machine.execPowerOnReset s
  | .fundamentalReset => Sys2Proof.Machine.execFundamentalReset s
  | .functionLevelReset part => Sys2Proof.Machine.execFunctionLevelReset part s
  | .partSet part rec => Sys2Proof.Machine.execPartSet part rec s
  | .partClear part => Sys2Proof.Machine.execPartClear part s
  | .ivfSet island freq => Sys2Proof.Machine.execIvfSet island freq s
  | .capSet watts => Sys2Proof.Machine.execCapSet watts s
  | .powerCapCheck => Sys2Proof.Machine.execPowerCapCheck s
  | .thermalTrip island => Sys2Proof.Machine.execThermalTrip island s
  | .thermalRecover island => Sys2Proof.Machine.execThermalRecover island s
  | .softError unit => Sys2Proof.Machine.execSoftError unit s
  | .uncorrectableError unit => Sys2Proof.Machine.execUncorrectableError unit s
  | .retire unit => Sys2Proof.Machine.execRetire unit s
  | .fwStage image => Sys2Proof.Machine.execFwStage image s
  | .fwActivate => Sys2Proof.Machine.execFwActivate s
  | .fwActivateTimeout => Sys2Proof.Machine.execFwActivateTimeout s
  | .fwCommit => Sys2Proof.Machine.execFwCommit s
  | .attest nonce => Sys2Proof.Machine.execAttest nonce s
  | .journalClear => Sys2Proof.Machine.execJournalClear s
  | .bringup => Sys2Proof.Machine.execBringup s
  | .bringupStepTimeout step => Sys2Proof.Machine.execBringupStepTimeout step s
  | .relaxedAccessComplete core slot id => Sys2Proof.Machine.execRelaxedAccessComplete core slot id s
  | .instructionLineArrival core slot => Sys2Proof.Machine.execInstructionLineArrival core slot s
  | .copyEngineHardwareError core => Sys2Proof.Machine.execCopyEngineHardwareError core s
  | .stentePlaneUp dev plane => Sys2Proof.Machine.execStentePlaneUp dev plane s
  | .bringupStepDone step ok => Sys2Proof.Machine.execBringupStepDone step ok s
  | .starterReady => Sys2Proof.Machine.execStarterReady s
  | .yield => Sys2Proof.Machine.execYield s
  | .add d a b => Sys2Proof.Machine.execAdd d a b s
  | .sub d a b => Sys2Proof.Machine.execSub d a b s
  | .and d a b => Sys2Proof.Machine.execAnd d a b s
  | .or d a b => Sys2Proof.Machine.execOr d a b s
  | .xor d a b => Sys2Proof.Machine.execXor d a b s
  | .sll d a b => Sys2Proof.Machine.execSll d a b s
  | .srl d a b => Sys2Proof.Machine.execSrl d a b s
  | .sra d a b => Sys2Proof.Machine.execSra d a b s
  | .min d a b => Sys2Proof.Machine.execMin d a b s
  | .max d a b => Sys2Proof.Machine.execMax d a b s
  | .minZ d a b => Sys2Proof.Machine.execMinZ d a b s
  | .maxZ d a b => Sys2Proof.Machine.execMaxZ d a b s
  | .addImm16 d a imm => Sys2Proof.Machine.execAddImm16 d a imm s
  | .subImm16 d a imm => Sys2Proof.Machine.execSubImm16 d a imm s
  | .andImm16 d a imm => Sys2Proof.Machine.execAndImm16 d a imm s
  | .orImm16 d a imm => Sys2Proof.Machine.execOrImm16 d a imm s
  | .xorImm16 d a imm => Sys2Proof.Machine.execXorImm16 d a imm s
  | .sllImm16 d a sh => Sys2Proof.Machine.execSllImm16 d a sh s
  | .srlImm16 d a sh => Sys2Proof.Machine.execSrlImm16 d a sh s
  | .sraImm16 d a sh => Sys2Proof.Machine.execSraImm16 d a sh s
  | .minImm16 d a imm => Sys2Proof.Machine.execMinImm16 d a imm s
  | .maxImm16 d a imm => Sys2Proof.Machine.execMaxImm16 d a imm s
  | .minZImm16 d a imm => Sys2Proof.Machine.execMinZImm16 d a imm s
  | .maxZImm16 d a imm => Sys2Proof.Machine.execMaxZImm16 d a imm s
  | .addImm32 d a imm => Sys2Proof.Machine.execAddImm32 d a imm s
  | .subImm32 d a imm => Sys2Proof.Machine.execSubImm32 d a imm s
  | .andImm32 d a imm => Sys2Proof.Machine.execAndImm32 d a imm s
  | .orImm32 d a imm => Sys2Proof.Machine.execOrImm32 d a imm s
  | .xorImm32 d a imm => Sys2Proof.Machine.execXorImm32 d a imm s
  | .minImm32 d a imm => Sys2Proof.Machine.execMinImm32 d a imm s
  | .maxImm32 d a imm => Sys2Proof.Machine.execMaxImm32 d a imm s
  | .minZImm32 d a imm => Sys2Proof.Machine.execMinZImm32 d a imm s
  | .maxZImm32 d a imm => Sys2Proof.Machine.execMaxZImm32 d a imm s
  | .liImm16 d imm => Sys2Proof.Machine.execLiImm16 d imm s
  | .liImm32 d imm => Sys2Proof.Machine.execLiImm32 d imm s
  | .liHigh d a imm => Sys2Proof.Machine.execLiHigh d a imm s
  | .mul d a b => Sys2Proof.Machine.execMul d a b s
  | .mulh d a b => Sys2Proof.Machine.execMulh d a b s
  | .mulhZ d a b => Sys2Proof.Machine.execMulhZ d a b s
  | .div d a b => Sys2Proof.Machine.execDiv d a b s
  | .divZ d a b => Sys2Proof.Machine.execDivZ d a b s
  | .rem d a b => Sys2Proof.Machine.execRem d a b s
  | .remZ d a b => Sys2Proof.Machine.execRemZ d a b s
  | .setEq d a b => Sys2Proof.Machine.execSetEq d a b s
  | .setNe d a b => Sys2Proof.Machine.execSetNe d a b s
  | .setLt d a b => Sys2Proof.Machine.execSetLt d a b s
  | .setGe d a b => Sys2Proof.Machine.execSetGe d a b s
  | .setLtZ d a b => Sys2Proof.Machine.execSetLtZ d a b s
  | .setGeZ d a b => Sys2Proof.Machine.execSetGeZ d a b s
  | .setEqImm d a imm => Sys2Proof.Machine.execSetEqImm d a imm s
  | .setNeImm d a imm => Sys2Proof.Machine.execSetNeImm d a imm s
  | .setLtImm d a imm => Sys2Proof.Machine.execSetLtImm d a imm s
  | .setGeImm d a imm => Sys2Proof.Machine.execSetGeImm d a imm s
  | .setLtZImm d a imm => Sys2Proof.Machine.execSetLtZImm d a imm s
  | .setGeZImm d a imm => Sys2Proof.Machine.execSetGeZImm d a imm s
  | .sel d a b => Sys2Proof.Machine.execSel d a b s
  | .clz d a => Sys2Proof.Machine.execClz d a s
  | .ctz d a => Sys2Proof.Machine.execCtz d a s
  | .pcnt d a => Sys2Proof.Machine.execPcnt d a s
  | .shadd d a b sh => Sys2Proof.Machine.execShadd d a b sh s
  | .lea2d d a b esz p pitch => Sys2Proof.Machine.execLea2d d a b esz p pitch s
  | .beq a b off => Sys2Proof.Machine.execBeq a b off s
  | .bne a b off => Sys2Proof.Machine.execBne a b off s
  | .blt a b off => Sys2Proof.Machine.execBlt a b off s
  | .bge a b off => Sys2Proof.Machine.execBge a b off s
  | .bltZ a b off => Sys2Proof.Machine.execBltZ a b off s
  | .bgeZ a b off => Sys2Proof.Machine.execBgeZ a b off s
  | .beqL a b off => Sys2Proof.Machine.execBeqL a b off s
  | .bneL a b off => Sys2Proof.Machine.execBneL a b off s
  | .bltL a b off => Sys2Proof.Machine.execBltL a b off s
  | .bgeL a b off => Sys2Proof.Machine.execBgeL a b off s
  | .bltZL a b off => Sys2Proof.Machine.execBltZL a b off s
  | .bgeZL a b off => Sys2Proof.Machine.execBgeZL a b off s
  | .j off => Sys2Proof.Machine.execJ off s
  | .jL off => Sys2Proof.Machine.execJL off s
  | .jal d off => Sys2Proof.Machine.execJal d off s
  | .jalL d off => Sys2Proof.Machine.execJalL d off s
  | .jr d a => Sys2Proof.Machine.execJr d a s
  | .ret => Sys2Proof.Machine.execRet s
  | .csrr d csr => Sys2Proof.Machine.execCsrr d csr s
  | .csrw a csr => Sys2Proof.Machine.execCsrw a csr s
  | .csrs a csr => Sys2Proof.Machine.execCsrs a csr s
  | .csrc a csr => Sys2Proof.Machine.execCsrc a csr s
  | .fflagsAccess op x => Sys2Proof.Machine.execFflagsAccess op x s
  | .qenWrite a => Sys2Proof.Machine.execQenWrite a s
  | .senWrite a => Sys2Proof.Machine.execSenWrite a s
  | .vtabWrite a k => Sys2Proof.Machine.execVtabWrite a k s
  | .slqdWrite a => Sys2Proof.Machine.execSlqdWrite a s
  | .spasidWrite a => Sys2Proof.Machine.execSpasidWrite a s
  | .shwinWrite a => Sys2Proof.Machine.execShwinWrite a s
  | .spodwWrite a => Sys2Proof.Machine.execSpodwWrite a s
  | .smsgWrite a => Sys2Proof.Machine.execSmsgWrite a s
  | .sdovfWrite a => Sys2Proof.Machine.execSdovfWrite a s
  | .sevstWrite a => Sys2Proof.Machine.execSevstWrite a s
  | .mpartWrite a => Sys2Proof.Machine.execMpartWrite a s
  | .rdtb d => Sys2Proof.Machine.execRdtb d s
  | .sleep a => Sys2Proof.Machine.execSleep a s
  | .sleepImm imm => Sys2Proof.Machine.execSleepImm imm s
  | .slpUntil a => Sys2Proof.Machine.execSlpUntil a s
  | .ldg d a f rx off => Sys2Proof.Machine.execLdg d a f rx off s
  | .ldgL d a f rx off => Sys2Proof.Machine.execLdgL d a f rx off s
  | .pf a off => Sys2Proof.Machine.execPf a off s
  | .pfL a off => Sys2Proof.Machine.execPfL a off s
  | .stg a b wd rx off => Sys2Proof.Machine.execStg a b wd rx off s
  | .stgL a b wd rx off => Sys2Proof.Machine.execStgL a b wd rx off s
  | .lds d a f rx off => Sys2Proof.Machine.execLds d a f rx off s
  | .ldsL d a f rx off => Sys2Proof.Machine.execLdsL d a f rx off s
  | .sts a b wd rx off => Sys2Proof.Machine.execSts a b wd rx off s
  | .stsL a b wd rx off => Sys2Proof.Machine.execStsL a b wd rx off s
  | .vldg d a rx off => Sys2Proof.Machine.execVldg d a rx off s
  | .vldgL d a rx off => Sys2Proof.Machine.execVldgL d a rx off s
  | .vstg a b wd rx off => Sys2Proof.Machine.execVstg a b wd rx off s
  | .vstgL a b wd rx off => Sys2Proof.Machine.execVstgL a b wd rx off s
  | .vlds d a rx off => Sys2Proof.Machine.execVlds d a rx off s
  | .vldsL d a rx off => Sys2Proof.Machine.execVldsL d a rx off s
  | .vsts a b wd rx off => Sys2Proof.Machine.execVsts a b wd rx off s
  | .vstsL a b wd rx off => Sys2Proof.Machine.execVstsL a b wd rx off s
  | .take d a off => Sys2Proof.Machine.execTake d a off s
  | .put d a b off => Sys2Proof.Machine.execPut d a b off s
  | .peek d a off => Sys2Proof.Machine.execPeek d a off s
  | .feClr a off => Sys2Proof.Machine.execFeClr a off s
  | .feSet a off => Sys2Proof.Machine.execFeSet a off s
  | .lease d a => Sys2Proof.Machine.execLease d a s
  | .release d => Sys2Proof.Machine.execRelease d s
  | .amoAdd d a b wd => Sys2Proof.Machine.execAmoAdd d a b wd s
  | .amoAnd d a b wd => Sys2Proof.Machine.execAmoAnd d a b wd s
  | .amoOr d a b wd => Sys2Proof.Machine.execAmoOr d a b wd s
  | .amoXor d a b wd => Sys2Proof.Machine.execAmoXor d a b wd s
  | .amoSwap d a b wd => Sys2Proof.Machine.execAmoSwap d a b wd s
  | .amoMin d a b wd => Sys2Proof.Machine.execAmoMin d a b wd s
  | .amoMax d a b wd => Sys2Proof.Machine.execAmoMax d a b wd s
  | .amoMinZ d a b wd => Sys2Proof.Machine.execAmoMinZ d a b wd s
  | .amoMaxZ d a b wd => Sys2Proof.Machine.execAmoMaxZ d a b wd s
  | .amoCas d a b wd => Sys2Proof.Machine.execAmoCas d a b wd s
  | .amoFadd d a b => Sys2Proof.Machine.execAmoFadd d a b s
  | .redAdd a b wd => Sys2Proof.Machine.execRedAdd a b wd s
  | .redAnd a b wd => Sys2Proof.Machine.execRedAnd a b wd s
  | .redOr a b wd => Sys2Proof.Machine.execRedOr a b wd s
  | .redXor a b wd => Sys2Proof.Machine.execRedXor a b wd s
  | .redMin a b wd => Sys2Proof.Machine.execRedMin a b wd s
  | .redMax a b wd => Sys2Proof.Machine.execRedMax a b wd s
  | .redMinZ a b wd => Sys2Proof.Machine.execRedMinZ a b wd s
  | .redMaxZ a b wd => Sys2Proof.Machine.execRedMaxZ a b wd s
  | .redFadd a b => Sys2Proof.Machine.execRedFadd a b s
  | .faddC d a b => Sys2Proof.Machine.execFaddC d a b s
  | .fenceSlot => Sys2Proof.Machine.execFenceSlot s
  | .fenceCore => Sys2Proof.Machine.execFenceCore s
  | .fenceTray => Sys2Proof.Machine.execFenceTray s
  | .fenceDie => Sys2Proof.Machine.execFenceDie s
  | .fenceDev => Sys2Proof.Machine.execFenceDev s
  | .fencePod => Sys2Proof.Machine.execFencePod s
  | .fenceSys => Sys2Proof.Machine.execFenceSys s
  | .barInit a b => Sys2Proof.Machine.execBarInit a b s
  | .barArr d a => Sys2Proof.Machine.execBarArr d a s
  | .barWait d a b => Sys2Proof.Machine.execBarWait d a b s
  | .barSync d a => Sys2Proof.Machine.execBarSync d a s
  | .barInv a => Sys2Proof.Machine.execBarInv a s
  | .msgSend d a b => Sys2Proof.Machine.execMsgSend d a b s
  | .subOn d a b => Sys2Proof.Machine.execSubOn d a b s
  | .subOwn d a => Sys2Proof.Machine.execSubOwn d a s
  | .subOff a => Sys2Proof.Machine.execSubOff a s
  | .vaddInt d a b sx c => Sys2Proof.Machine.execVaddInt d a b sx c s
  | .vsubInt d a b sx c => Sys2Proof.Machine.execVsubInt d a b sx c s
  | .vmulInt d a b sx c => Sys2Proof.Machine.execVmulInt d a b sx c s
  | .vmulh d a b sx c => Sys2Proof.Machine.execVmulh d a b sx c s
  | .vand d a b sx c => Sys2Proof.Machine.execVand d a b sx c s
  | .vor d a b sx c => Sys2Proof.Machine.execVor d a b sx c s
  | .vxor d a b sx c => Sys2Proof.Machine.execVxor d a b sx c s
  | .vsll d a b sx c => Sys2Proof.Machine.execVsll d a b sx c s
  | .vsrl d a b sx c => Sys2Proof.Machine.execVsrl d a b sx c s
  | .vsra d a b sx c => Sys2Proof.Machine.execVsra d a b sx c s
  | .vminInt d a b sx c => Sys2Proof.Machine.execVminInt d a b sx c s
  | .vmaxInt d a b sx c => Sys2Proof.Machine.execVmaxInt d a b sx c s
  | .vaddSat d a b sx c => Sys2Proof.Machine.execVaddSat d a b sx c s
  | .vsubSat d a b sx c => Sys2Proof.Machine.execVsubSat d a b sx c s
  | .vabsInt d a c => Sys2Proof.Machine.execVabsInt d a c s
  | .vaddFp d a b sx c => Sys2Proof.Machine.execVaddFp d a b sx c s
  | .vsubFp d a b sx c => Sys2Proof.Machine.execVsubFp d a b sx c s
  | .vmulFp d a b sx c => Sys2Proof.Machine.execVmulFp d a b sx c s
  | .vminFp d a b sx c => Sys2Proof.Machine.execVminFp d a b sx c s
  | .vmaxFp d a b sx c => Sys2Proof.Machine.execVmaxFp d a b sx c s
  | .vabsFp d a c => Sys2Proof.Machine.execVabsFp d a c s
  | .vneg d a c => Sys2Proof.Machine.execVneg d a c s
  | .vfma d a b sx c => Sys2Proof.Machine.execVfma d a b sx c s
  | .vfms d a b sx c => Sys2Proof.Machine.execVfms d a b sx c s
  | .vfnma d a b sx c => Sys2Proof.Machine.execVfnma d a b sx c s
  | .vfnms d a b sx c => Sys2Proof.Machine.execVfnms d a b sx c s
  | .vcmpEq d a b c => Sys2Proof.Machine.execVcmpEq d a b c s
  | .vcmpNe d a b c => Sys2Proof.Machine.execVcmpNe d a b c s
  | .vcmpLt d a b c => Sys2Proof.Machine.execVcmpLt d a b c s
  | .vcmpGe d a b c => Sys2Proof.Machine.execVcmpGe d a b c s
  | .vcmpLe d a b c => Sys2Proof.Machine.execVcmpLe d a b c s
  | .vcmpGt d a b c => Sys2Proof.Machine.execVcmpGt d a b c s
  | .vsel d a b c => Sys2Proof.Machine.execVsel d a b c s
  | .vperm d a b c => Sys2Proof.Machine.execVperm d a b c s
  | .vperm2 d a b c => Sys2Proof.Machine.execVperm2 d a b c s
  | .vbcast d a c => Sys2Proof.Machine.execVbcast d a c s
  | .vbcastl d a idx c => Sys2Proof.Machine.execVbcastl d a idx c s
  | .vslup d a b idx c => Sys2Proof.Machine.execVslup d a b idx c s
  | .vsldn d a b idx c => Sys2Proof.Machine.execVsldn d a b idx c s
  | .vins d a idx c => Sys2Proof.Machine.execVins d a idx c s
  | .vext d a idx c => Sys2Proof.Machine.execVext d a idx c s
  | .vredAdd d a c => Sys2Proof.Machine.execVredAdd d a c s
  | .vredMin d a c => Sys2Proof.Machine.execVredMin d a c s
  | .vredMax d a c => Sys2Proof.Machine.execVredMax d a c s
  | .vredAnd d a c => Sys2Proof.Machine.execVredAnd d a c s
  | .vredOr d a c => Sys2Proof.Machine.execVredOr d a c s
  | .vredXor d a c => Sys2Proof.Machine.execVredXor d a c s
  | .vcvt d a g st lt rm => Sys2Proof.Machine.execVcvt d a g st lt rm s
  | .vcvtN d a b g st k rm => Sys2Proof.Machine.execVcvtN d a b g st k rm s
  | .vcvtW d a b g lt k rm => Sys2Proof.Machine.execVcvtW d a b g lt k rm s
  | .strCfg k a => Sys2Proof.Machine.execStrCfg k a s
  | .strStop k => Sys2Proof.Machine.execStrStop k s
  | .bstr k off => Sys2Proof.Machine.execBstr k off s
  | .vexp d a c => Sys2Proof.Machine.execVexp d a c s
  | .vexp2 d a c => Sys2Proof.Machine.execVexp2 d a c s
  | .vlog2 d a c => Sys2Proof.Machine.execVlog2 d a c s
  | .vrcp d a c => Sys2Proof.Machine.execVrcp d a c s
  | .vrsqrt d a c => Sys2Proof.Machine.execVrsqrt d a c s
  | .vsqrt d a c => Sys2Proof.Machine.execVsqrt d a c s
  | .vsin d a c => Sys2Proof.Machine.execVsin d a c s
  | .vcos d a c => Sys2Proof.Machine.execVcos d a c s
  | .vtanh d a c => Sys2Proof.Machine.execVtanh d a c s
  | .vsigm d a c => Sys2Proof.Machine.execVsigm d a c s
  | .topkCfg a lt smallest => Sys2Proof.Machine.execTopkCfg a lt smallest s
  | .topkIn a => Sys2Proof.Machine.execTopkIn a s
  | .topkOut d => Sys2Proof.Machine.execTopkOut d s
  | .topkMerge a => Sys2Proof.Machine.execTopkMerge a s
  | .osClaim d os => Sys2Proof.Machine.execOsClaim d os s
  | .osRel os => Sys2Proof.Machine.execOsRel os s
  | .osLdG a b os n4 => Sys2Proof.Machine.execOsLdG a b os n4 s
  | .osLdS a b os n4 => Sys2Proof.Machine.execOsLdS a b os n4 s
  | .osLdHr a b os => Sys2Proof.Machine.execOsLdHr a b os s
  | .osLdHc a b os => Sys2Proof.Machine.execOsLdHc a b os s
  | .osStG a os => Sys2Proof.Machine.execOsStG a os s
  | .osStS a os => Sys2Proof.Machine.execOsStS a os s
  | .mxMul f => Sys2Proof.Machine.execMxMul f s
  | .mxMrot f => Sys2Proof.Machine.execMxMrot f s
  | .mxZero seg => Sys2Proof.Machine.execMxZero seg s
  | .mxDrain f => Sys2Proof.Machine.execMxDrain f s
  | .cpy d a => Sys2Proof.Machine.execCpy d a s
  | .cpyNb d a => Sys2Proof.Machine.execCpyNb d a s
  | .thLd d a => Sys2Proof.Machine.execThLd d a s
  | .thSeal a => Sys2Proof.Machine.execThSeal a s
  | .thRelay d a b tag => Sys2Proof.Machine.execThRelay d a b tag s
  | .thWait d a => Sys2Proof.Machine.execThWait d a s
  | .tldE d a b rx => Sys2Proof.Machine.execTldE d a b rx s
  | .tldV d a b rx => Sys2Proof.Machine.execTldV d a b rx s
  | .tstE d a b rx => Sys2Proof.Machine.execTstE d a b rx s
  | .tstV d a b rx => Sys2Proof.Machine.execTstV d a b rx s
  | .txSub d a b => Sys2Proof.Machine.execTxSub d a b s
  | .txAddr a => Sys2Proof.Machine.execTxAddr a s
  | .txNote d a => Sys2Proof.Machine.execTxNote d a s
  | .txChk => Sys2Proof.Machine.execTxChk s
  | .txEnd => Sys2Proof.Machine.execTxEnd s
  | .spawn d a b off => Sys2Proof.Machine.execSpawn d a b off s
  | .spawnL d a b off => Sys2Proof.Machine.execSpawnL d a b off s
  | .suspend => Sys2Proof.Machine.execSuspend s
  | .trap n => Sys2Proof.Machine.execTrap n s
  | .tret => Sys2Proof.Machine.execTret s
  | .spill d a b => Sys2Proof.Machine.execSpill d a b s
  | .fill d a b => Sys2Proof.Machine.execFill d a b s
  | .rqPush d a b => Sys2Proof.Machine.execRqPush d a b s
  | .rqPop d => Sys2Proof.Machine.execRqPop d s
  | .clsSet a b => Sys2Proof.Machine.execClsSet a b s
  | .clsFlush a => Sys2Proof.Machine.execClsFlush a s
  | .xinv a b => Sys2Proof.Machine.execXinv a b s
  | .corePark d a => Sys2Proof.Machine.execCorePark d a s
  | .wfe d a b => Sys2Proof.Machine.execWfe d a b s
  | .illegalOpcode raw => Sys2Proof.Machine.execIllegalOpcode raw s

end Sys2Proof.Machine
end

