-- ==== Sys2Proof/Machine/IssueSlot.lean ====
section
/-! DEFINITION. What one issue of a slot does (R183, R336, R340): a pending cause, the breakpoint, entering a line,
decoding and running the instruction; and one core cycle around it. -/

namespace Sys2Proof.Machine

/- Decoding builds every constructor of `Instr`, which Lean's compiler cannot number; the kernel evaluates all of it. -/
noncomputable section

/-- The cause with the lowest code of a list (R336). -/
def lowestCause : List Cause → Option Cause
  | [] => none
  | c :: cs => match lowestCause cs with
    | some d => some (if d.code < c.code then d else c)
    | none => some c

/-- A pending cause taken at an instruction boundary (R336): a wait it ends has no effect, an arrival of `bar.sync`
is withdrawn (R243), and xTPC is the waiting instruction, or the next one where TIMER ends a sleep (R341). -/
def takeCause (s : State) (c : Cause) : State :=
  let sl := s.me
  let asleep := match sl.wait with
    | some (.sleep _) => true
    | _ => false
  let tpc := if asleep && c.code == 0x46 then fallThrough sl else sl.pc
  let s := withdrawArrival s s.cur
  let s := leaveWait s s.cur
  let s := s.setMe { s.me with causes := s.me.causes.erase c, wait := none, st := .ready }
  takeTrap s c.code c.tval tpc c.async

/-- Does the breakpoint fire before the instruction at the PC issues (R340)? -/
def breakpoint (sl : Slot) : Bool :=
  sl.level == .u && sl.sbpc.getLsbD 0 && !sl.brkSkip && sl.wait.isNone &&
    sl.pc == (((sl.sbpc.extractLsb' 1 56).setWidth 64 : Word) <<< 1)

/-- The head and tail issue: ILLEGAL_FUNCTION, or the meaning of the instruction (R182, R183). -/
def runHead (s : State) (h : BitVec 16) (t : BitVec 48) : Out :=
  let s := s.setMe { s.me with ir := (t ++ h : Word) }
  match decode h t with
  | .error _ => .next (trapI s 0x03 s.me.ir)
  | .ok i => exec i s

/-- The slot has entered the line of its PC (R168, R208): it keeps its copy of it, and the next sequential line is fetched
ahead of time. A lease's sequence that enters another line than its code lines is not bounded (R230). -/
def enterLine (s : State) (addr : Word) (l : Line) : State :=
  let sl := s.me
  if sl.line = some (addr, l) then s
  else
    let mine := match sl.lease with
      | some x => x.code.any fun e => e.1 == addr.toNat
      | none => true
    let s := if mine then s else unbound s
    (s.setMe { s.me with line := some (addr, l) }).post (.instructionLineArrival s.curCore s.curSlot)

/-- The slot runs the instruction at its PC in a line that it has entered (R168, R174). -/
def issueInLine (s : State) (addr : Word) (l : Line) : Out :=
  match checkLine s.me addr l with
  | .trap c v => .next (trapI s c v)
  | .head h t => runHead s h t

/-- The instruction at the PC of the issuing slot: a refused target, the trap of a fetch that has ended, or the head of
its line (R168, R174, R208). -/
def issueHere (s : State) : Out :=
  if badTargetEarly s.me.pc then .next (trapI s 0x05 s.me.xfer)
  else
    let addr := lineOf s.me.pc
    match lineFor s.myCore s.me addr with
    | some l => issueInLine (enterLine s addr l) addr l
    | none => match fetchStop s s.curCore s.me with
      | some c => .next (accessTrap s c s.me.pc)
      | none => .next s

/-- One issue of the chosen slot: a pending cause, which occupies the issue; a breakpoint; or its instruction (R336,
R340). -/
def issueSlot (s : State) : Out :=
  match lowestCause (takeable s.me) with
  | some c => .next (takeCause s c)
  | none => if breakpoint s.me then .next (trapI s 0x08 s.me.pc) else issueHere s

/-- The issued instruction of a slot goes on after its wait: a trap that it has raised is entered, a slot in SAVE writes what
it leaves, or the instruction tries again what it waited for (R23, R31, R333). -/
def resumeSlot (s : State) : Out :=
  match s.me.trapping, s.me.wait with
  | some h, _ => .next (enterTrap (s.setMe { s.me with trapping := none }) h)
  | none, some (.parking i page) => .next (parkNow s i page)
  | none, some .saving => .next (suspendNow s)
  | none, _ => issueHere s

/-- The issue of slot `k` counted in the rotation and in the waits of slots that yielded (R33, R213). -/
def noteIssue (s : State) (c k : Nat) : State :=
  let s := s.setCore c { s.core c with last := k }
  noteYield s c k 16
where
  noteYield (s : State) (c k : Nat) : Nat → State
    | 0 => s
    | i + 1 =>
      let key := slotKey c i
      let s := match (s.slot key).yieldTo with
        | none => s
        | some (others, till) =>
          if i = k then s else s.setSlot key { s.slot key with yieldTo := some (others.filter (· ≠ k), till) }
      noteYield s c k i

/-- Apply a function to a next state. -/
def mapNext (f : State → State) : Out → Out
  | .next s => .next (f s)
  | .fault r => .fault r
  | .refused r => .refused r

/-- The core's cycle ends (R4, R33); what is over its first-level cache's size has left it (R10). -/
def endCycle (c : Nat) (s : State) : State :=
  let s := trimL1 s c ((s.core c).l1.length - l1Size)
  s.setCore c { s.core c with cyc := (s.core c).cyc + 1, detTurn := (s.core c).detTurn + 1 }

/-- The next core to take a turn is a free choice (R413). -/
def advance (s : State) : State := { s with draws := s.draws + 1, turn := Config.choose s.draws % 512 }

/-- A next state goes on by a function. -/
def bindNext (o : Out) (f : State → Out) : Out :=
  match o with
  | .next s => f s
  | .fault r => .fault r
  | .refused r => .refused r

/-! ## One cycle of a core -/

/-- The slots of core `c` below `n` that wait for nothing and miss their line ask for it (R208). -/
def startFetches (s : State) (c : Nat) : Nat → State
  | 0 => s
  | k + 1 =>
    let s := startFetches s c k
    let sl := s.slot (slotKey c k)
    if sl.st == .ready && sl.wait.isNone && !sl.halted && !lineReady s c sl then
      (hold { s with curCore := c, curSlot := k } (.fetch (lineOf sl.pc).toNat)).post (.instructionLineArrival c k)
    else s

/-- The slots of core `c` below `n` whose issued instruction may go on do so (R31). -/
def resumeSlots (s : State) (c : Nat) : Nat → Out
  | 0 => .next s
  | k + 1 => bindNext (resumeSlots s c k) fun s =>
      if resumable s c k then resumeSlot { s with curCore := c, curSlot := k } else .next s

/-- Has the slot's try been held before the instruction issued, so that the cycle goes to another slot (R31, R33)? -/
def heldBack (s : State) (k : Nat) : Bool := match (s.slot k).wait with
  | some w => w.unissued
  | none => false

/-- The slot with key `k` about to issue: what it yielded to no longer holds it (R213). -/
def endYield (s : State) (k : Nat) : State :=
  if (s.slot k).yieldTo.isSome then s.setSlot k { s.slot k with yieldTo := none } else s

/-- The slots tried in order: the first that issues takes the cycle (R33). -/
def issueFrom (c : Nat) : List Nat → State → Out
  | [], s => .next s
  | k :: ks, s =>
    if mayIssue s c k then
      bindNext (issueSlot (endYield { s with curCore := c, curSlot := k } (slotKey c k))) fun t =>
        if heldBack t (slotKey c k) then issueFrom c ks t else .next (noteIssue t c k)
    else issueFrom c ks s

/-- A core before it issues in a cycle: results that are due have landed (R176), and slots whose line is missing have
asked for it. -/
def cycleStart (s : State) (c : Nat) : State := startFetches (landCore s c 16) c 16

/-- One cycle of a core: instructions that waited go on, and one instruction issues (R31, R33). -/
def coreCycle (c : Nat) (s : State) : Out :=
  bindNext (resumeSlots (cycleStart s c) c 16) fun s => mapNext (endCycle c) (issueFrom c (issueOrder s c) s)

/-! ## Time (R4) -/

/-- Has core `c` still to take a cycle that its island's clock has reached? -/
def owesCycle (s : State) (c : Nat) : Bool :=
  s.present c && decide (100 * (s.core c).cyc ≤ (islandAt s (islandOf c)).phase s.ns)

/-- The first core from `c` on, wrapping, that owes a cycle, among `n`. -/
def nextCore (s : State) (c : Nat) : Nat → Option Nat
  | 0 => none
  | n + 1 => if owesCycle s (c % 512) then some (c % 512) else nextCore s (c + 1) n

/-- The time that a core's cycle or the time base takes: a core that owes a cycle takes it, and when none does a tick
passes. -/
def clockStep (s : State) : Out :=
  match nextCore s s.turn 512 with
  | some c => coreCycle c s
  | none => .next (passTime s 1)

/-! ## Events that time forces -/

/-- The result of the request with this serial number is overdue: no answer in 50,000 ticks, or in `SPRTO` (R374, R378). -/
def requestLate (s : State) (req : Nat) (paging : Bool) : Bool :=
  match requestOf s req with
  | none => true
  | some (p, r) =>
    let limit := ((s.part p).sprto.extractLsb' 0 40).toNat
    r.paging == paging && !r.queued &&
      (if paging then limit != 0 && decide (r.sent + limit ≤ s.tick) else decide (r.sent + 50000 ≤ s.tick))

/-- Has a limit of a slot's wait been reached with nothing come about (R32)? -/
def waitLate (s : State) (k : Nat) : Bool :=
  let sl := s.slot k
  match sl.wait with
  | none => false
  | some w => w.limited && sl.csr.waitlim != 0 && decide (sl.waitSince + sl.csr.waitlim.toNat ≤ s.tick) && !mayRetry s k w

/-- Must the head of a core's matrix port go on in this cycle: it starts, retires or gives its next chunk (R276, R277,
R280)? -/
def portLate (s : State) (c : Nat) (start : Bool) : Bool :=
  match (s.core c).port with
  | [] => false
  | e :: _ => match e.op with
    | .multiply f _ _ _ _ _ =>
      if start then !e.started && portReady (s.core c) [f.oa.toNat, f.ob.toNat]
      else e.started && decide (e.due ≤ (s.core c).cyc)
    | .zero _ _ _ => if start then !e.started else e.started && decide (e.due ≤ (s.core c).cyc)
    | .drain _ _ _ _ _ _ =>
      if start then !e.started
      else e.started && decide (e.due ≤ (s.core c).cyc) &&
        (e.out.isEmpty || (s.slot e.slot).cont != e.serial || decide ((s.slot e.slot).qm.length < 8))
    | _ => false

/-- Has the moment come by which an event must come about, by a rule that states it? Every other event comes when it
may (R413). -/
def mustRun (s : State) : Instr → Bool
  | .sleepEnd c k => match (s.slot (slotKey c k)).wait with
    | some (.sleep till) => decide (till ≤ s.tick)
    | _ => false
  | .wfeDeadline c k => match (s.slot (slotKey c k)).wait with
    | some (.wfe mask till _) => mask / 4 % 2 == 1 && decide (till ≤ s.tick)
    | _ => false
  | .waitLimit c k => waitLate s (slotKey c k)
  | .timer c k => (s.slot (slotKey c k)).pctb != 0 && decide ((s.slot (slotKey c k)).pctb.toNat ≤ s.tick)
  | .leaseExpired c k => match (s.slot (slotKey c k)).lease with
    | some l => !l.bounded && decide (l.start + l.limit ≤ (s.core c).cyc)
    | none => false
  | .variableResultArrival c k id =>
    let sl := s.slot (slotKey c k)
    match sl.vpend.find? fun v => v.id == id with
    | some v => v.source.isSpecial && resultRipe sl (s.core c).cyc v
    | none => false
  | .divisionComplete c => match (s.core c).divq with
    | j :: _ => decide (j.due ≤ (s.core c).cyc)
    | [] => false
  | .matrixStart c => portLate s c true
  | .matrixRetire c | .drainChunk c => portLate s c false
  | .atsTimeout r => requestLate s r false
  | .pageRequestTimeout r => requestLate s r true
  | .linkTimeout c k => match (s.slot (slotKey c k)).wait with
    | some (.remote _ _ _ _) => decide ((s.slot (slotKey c k)).waitSince + 50000 ≤ s.tick)
    | _ => false
  | .streamDetectorTimeout slice port =>
    let d := look s.hub.detectors (0, 0, 0) (detectorKey slice port)
    d.1 == 8 && decide (d.2.2 + 64 ≤ s.tick)
  | .promiseMissed c k job => match s.copies.find? fun (j : CopyJob) => j.req.id == job with
    | some j => decide (j.promise < s.tick) && !j.missed && (s.slot (slotKey c k)).vpend.any fun v => v.id == job
    | none => false
  | .loadLevel c => balanceLate s c
  | .headPin p q =>
    let v := queueSt s p q
    v.state == 3 && v.pinned.isEmpty && decide (v.blockedAt + 65536 ≤ s.tick) && (match pinTarget s p q with
      | (_, .pin _) => true
      | _ => false)
  | .watchedLineWrite _ _ => decide (98 ≤ s.tick % 100)
  | .roundCloseWindow p => !inPod s p && (match (s.part p).roundAt with
    | some a => decide (a + 2048 ≤ s.tick)
    | none => false)
  | .podCloseMarkerSend p => inPod s p && decide (((s.part p).round + 1) * 2048 ≤ s.tick + 1)
  | .timeSyncSend => decide (s.hub.lastSync + 65536 ≤ s.tick)
  | .powerCapCheck => s.hub.activating.isNone && decide (s.hub.lastCap + 1000000 ≤ s.tick)
  | .fwActivateTimeout => match s.hub.activating with
    | some t => decide (t + 2000000000 ≤ s.tick)
    | none => false
  | .bringupStepTimeout step => match s.hub.step with
    | some (now, _, since) => now == step && step != 0 && decide (since + stepLimit step ≤ s.tick)
    | none => false
  | _ => false

/-- One event of the agenda, taken out of it. -/
def runEvent (s : State) (k : Nat) (e : Instr) : Out := exec e { s with agenda := s.agenda.eraseIdx k }

/-- The first event of the agenda whose moment has come, with its place. -/
def firstDue (s : State) : List Instr → Nat → Option (Nat × Instr)
  | [], _ => none
  | e :: es, i => if mustRun s e then some (i, e) else firstDue s es (i + 1)

/-- What one step does: an event whose moment has come; else an event of the agenda or the clock, as the schedule
chooses (R413). -/
def stepOnce (s : State) : Out :=
  match firstDue s s.agenda 0 with
  | some (k, e) => mapNext advance (runEvent s k e)
  | none =>
    match s.agenda with
    | [] => mapNext advance (clockStep s)
    | _ :: _ =>
      let k := Config.choose s.draws % (s.agenda.length + 1)
      match s.agenda[k]? with
      | some e => mapNext advance (runEvent s.draw k e)
      | none => mapNext advance (clockStep s.draw)

/-- The machine with slot 0 of core 0 running at S, about to issue the instruction with this head and tail from a
line of its own at 0x1000. -/
def placeInstruction (s : State) (head : BitVec 16) (tail : BitVec 48) : State :=
  let s := { s with agenda := [], turn := 0, curCore := 0, curSlot := 0 }
  let now := (islandAt s 0).phase s.ns / 100
  let s := s.setCore 0 { s.core 0 with last := 15, absent := false, cyc := Nat.min (s.core 0).cyc now }
  s.setSlot 0 { s.slot 0 with st := .ready, wait := none, halted := false, level := .s, readyAt := 0, yieldTo := none, causes := [], pc := 0x1002, line := some (0x1000, Line.single head tail) }

end

end Sys2Proof.Machine
end

