-- ==== Sys2Proof/Machine/Step.lean ====
section
/-! DEFINITION. The step function, and the placing of one instruction where the next step issues it. -/

namespace Sys2Proof.Machine

/-- One step of the machine. -/
noncomputable def step (s : State) : Host.Outcome State Fault Refusal := stepOnce s

/-- The state with the instruction of a table word where the next step fetches it (log entry 11). -/
noncomputable def State.withFetchWord (s : State) (nbits w : Nat) : State :=
  placeInstruction s (tableWords nbits w).1 (tableWords nbits w).2

end Sys2Proof.Machine
end

