-- ==== Sys2Proof/Safety.lean ====
section
/-! DEFINITION. What counts as a safe run, and the words that the statements are written in: an instruction whose
checks all pass, and a slot that goes on past it. -/

namespace Sys2Proof.Machine

/-- A step that neither faults nor is refused. -/
def Completes (o : Out) : Prop := ∃ t, o = .next t

/-- The byte memories of a state in canonical form: device memory, host memory and every scratchpad. -/
def MemoriesWf (s : State) : Prop :=
  Memory.wf s.devMem = true ∧ Memory.wf s.hostMem = true ∧ ∀ c, Memory.wf (s.core c).scratch = true

/-- A run of `n` steps from `s` that is safe: every step completes and keeps the memories canonical. -/
def SafeRun : Nat → State → Prop
  | 0, s => MemoriesWf s
  | n + 1, s => MemoriesWf s ∧ ∃ t, step s = .next t ∧ SafeRun n t

/-- None of the checks of R183 that every instruction meets stops one that uses the registers `u`: it is not refused
as PRIVILEGED or BAD_REGISTER, reads no uncovered result while `SCHK`.ON is 1, and waits for no pending one (R178). -/
def Clear (priv : Bool) (u : Uses) (s : State) : Prop :=
  (priv = true → s.me.level ≠ .u) ∧ badField s u = none ∧
    (s.me.csr.schk.getLsbD 0 = true → uncovered s u = none) ∧ pendingRegs s u = []

/-- The stall count of the instruction that the slot issues (R177). -/
def stallCount (s : State) : Nat := (stallOf (s.me.ir.extractLsb' 0 16)).toNat

/-- Where the slot goes on when its instruction does not transfer control: FallThrough(PC), or the PC that the
save area of a resumed wait gives (R174, R345). -/
def nextPc (s : State) : Word := match s.me.resume with
  | some r => r
  | none => fallThrough s.me

/-- `t` is `b` with the issuing slot READY at `pc`, its stall count running, and with nothing else changed in the
machine; of a lease only the count of its instructions moves. -/
def GoesOn (b : State) (pc : Word) (t : State) : Prop :=
  t = b.setMe { b.me with
      st := .ready
      wait := none
      pc := pc
      xfer := t.me.xfer
      brkSkip := false
      resume := none
      xfault := none
      had := []
      admitted := []
      replay := none
      cover := coverAfter b.me.cover (stallCount b)
      lease := t.me.lease
      readyAt := b.myCore.cyc + stallCount b + 1 } ∧
    t.me.lease.map (·.lines) = b.me.lease.map (·.lines)

/-- The outcome is a next state in which the issuing slot has gone on to `pc` from `b`. -/
def RunsTo (o : Out) (b : State) (pc : Word) : Prop := ∃ t, o = .next t ∧ GoesOn b pc t

/-- The state with a fixed-latency result of the issuing slot on its way to Rd: it lands `lat` cycles after issue
(R176); a result for x0 goes nowhere (R68). -/
def withResult (s : State) (d : Reg) (lat : Nat) (v : Word) : State :=
  s.setMe { s.me with
    pend := s.me.pend ++ [⟨if d = 0 then none else some (xreg d), v.setWidth 512, s.myCore.cyc + lat, 0⟩]
    cover := if d = 0 then s.me.cover else s.me.cover ++ [(xreg d, lat)] }

/-- No relayout covers any of the `n` bytes from `va` on (R121). -/
def NoConversion (pt : Part) (va n : Nat) : Prop := ∀ x, va ≤ x → x < va + max n 1 → convAt pt x = none

/-- A checked global access of the issuing slot that nothing stops: the checks of R216 give it the place `l`, it is outside
a reconnaissance pass and a lease, no earlier relaxed access of the slot touches its bytes, its granule and line are
open to it, and no relayout or subscription covers it. -/
def ThroughReq (s : State) (r : GReq) (hostOk : Loc → Bool) (l : Loc) : Prop :=
  checkGlobal s r hostOk = .ok l ∧
    inRecon s = false ∧ s.me.lease = none ∧ ownPending s s.cur .global r.ea.toNat r.n = false ∧
    behindHeld s s.myPart r.ea.toNat s.cur = false ∧
    (touch s s.myPart r.ea.toNat l (some s.curCore) r.store).2 = true ∧ lineOpen s s.myPart l.key s.cur = true ∧
    NoConversion (s.part s.myPart) r.ea.toNat r.n ∧ rangeAt s s.myPart r.ea.toNat = none

/-- A plain load or store that nothing stops. -/
def Through (s : State) (ea : Word) (n align : Nat) (store : Bool) (l : Loc) : Prop :=
  ThroughReq s { ea := ea, n := n, align := align, store := store } anyMapping l

/-- A scratch access of the issuing slot that its own core serves at once: the checks of R216 pass, the word lies in the
data window of the slot's core, in a plain segment outside every accumulator in use, and no earlier relaxed access of
the slot touches its bytes. -/
def ThroughScratch (s : State) (ea : Word) (n align : Nat) (kind : ScrKind) : Prop :=
  checkScratch s ea align kind = none ∧ isLocal s ea = true ∧ scrWin ea = 0 ∧
    ownPending s s.cur .scratch ea.toNat n = false ∧ segmentBusy s.myCore (scrOff ea / 4096) = false ∧
    (segOf s.myCore (scrOff ea / 4096)).st = .none

/-- The register value of an integer load from its bytes as a number (R219, R220). -/
def loadedWord (f : LdFn) (v : Nat) : Word :=
  match f with
  | .b => (BitVec.ofNat 8 v).signExtend 64
  | .h => (BitVec.ofNat 16 v).signExtend 64
  | .w => (BitVec.ofNat 32 v).signExtend 64
  | .bz => (BitVec.ofNat 8 v).setWidth 64
  | .hz => (BitVec.ofNat 16 v).setWidth 64
  | .wz => (BitVec.ofNat 32 v).setWidth 64
  | .d => BitVec.ofNat 64 v

/-- Nothing but the issuing slot's own state, its partition's bookkeeping of classes and lines, and the agenda differs:
the slot keeps its registers, every other slot, every core and both memories are as before. -/
def OnlyWaits (s t : State) : Prop :=
  t.me.x = s.me.x ∧ t.me.f = s.me.f ∧ t.me.h = s.me.h ∧ t.me.csr = s.me.csr ∧ t.me.pc = s.me.pc ∧
    t.me.level = s.me.level ∧ (∀ k, k ≠ s.cur → t.slot k = s.slot k) ∧ t.cores = s.cores ∧
    t.devMem = s.devMem ∧ t.hostMem = s.hostMem ∧ t.txs = s.txs ∧ t.hub = s.hub

/-- The issuing slot has gone on to the next PC with its registers as they were; every other slot, every core, both
memories, the transactions and the hub are as before. -/
def OnlyGoesOn (s t : State) : Prop :=
  t.me.x = s.me.x ∧ t.me.f = s.me.f ∧ t.me.h = s.me.h ∧ t.me.csr = s.me.csr ∧ t.me.pc = nextPc s ∧
    t.me.st = .ready ∧ t.me.wait = none ∧ t.me.level = s.me.level ∧ (∀ k, k ≠ s.cur → t.slot k = s.slot k) ∧
    t.cores = s.cores ∧ t.devMem = s.devMem ∧ t.hostMem = s.hostMem ∧ t.txs = s.txs ∧ t.hub = s.hub

/-- The issuing slot waits in WAIT for the acknowledgement of its access, whose results are `ans`, and that is on its
way (R127). -/
def AwaitsAccess (s t : State) (ans : List (RegId × Vec)) : Prop :=
  t.me.st = .wait ∧ t.me.wait = some .access ∧ t.me.answer = some ans ∧
    .accessComplete s.curCore s.curSlot ∈ t.agenda

/-- The memory of a place. -/
def memoryOf (s : State) : Loc → Memory
  | .dev _ => s.devMem
  | .host _ _ => s.hostMem

/-- The physical address of a place. -/
def Loc.addr : Loc → Nat
  | .dev pa => pa
  | .host pa _ => pa

/-- The bytes from place `l` on hold `bs`, and every other byte of both memories is as before. -/
def StoredAt (s t : State) (l : Loc) (bs : List Byte) : Prop :=
  readBytes (memoryOf t l) l.addr bs.length = bs ∧
    (∀ a, a < l.addr ∨ l.addr + bs.length ≤ a → readByte (memoryOf t l) a = readByte (memoryOf s l) a) ∧
    (match l with
     | .dev _ => t.hostMem = s.hostMem
     | .host _ _ => t.devMem = s.devMem)

/-- Does the home serve an access of partition `p`: host memory, or a SHARED page (R87, R107)? Else the first-level cache of
the core does. -/
def servedHome (s : State) (p va : Nat) (l : Loc) : Bool := l.isHost || classOf (classEntry (s.part p) va) == 3

/-- The line of an address as core `c` has it: in its first-level cache, or in memory (R87). -/
def lineSeen (s : State) (c va : Nat) (l : Loc) : BitVec 1024 :=
  match l1At s c va with
  | some x => x.data
  | none => memLine s l.addr

/-- The value of the `n` bytes at an address as core `c` reads them, at their home or in its first-level cache (R87). -/
def valueSeen (s : State) (c va : Nat) (l : Loc) (n : Nat) : Nat :=
  if servedHome s (s.partOf c) va l then bytesToNat (readBytes (memoryOf s l) l.addr n)
  else lineValue (lineSeen s c va l) (va % 128) n

/-- Every byte of both memories reads as before. -/
def SameBytes (s t : State) : Prop :=
  (∀ a, readByte t.devMem a = readByte s.devMem a) ∧ ∀ a, readByte t.hostMem a = readByte s.hostMem a

/-- Every core is as before, but for the first-level cache of core `c`, which keeps what it held of other lines than that
of `va`. -/
def SameButLine (s t : State) (c va : Nat) : Prop :=
  (∀ k, k ≠ c → t.core k = s.core k) ∧ t.core c = { s.core c with l1 := (t.core c).l1 } ∧
    ∀ a, a / 128 ≠ va / 128 → l1At t c a = l1At s c a

/-- A load of core `c` changes no byte: memory is as before, and so is every line that its first-level cache held; the
cache may hold the line of `va` now, for a page that its home does not serve (R87). -/
def OnlyLoads (s t : State) (c va : Nat) (l : Loc) : Prop :=
  SameBytes s t ∧ SameButLine s t c va ∧ (∀ x, l1At s c va = some x → l1At t c va = some x) ∧
    lineSeen t c va l = lineSeen s c va l ∧ (servedHome s (s.partOf c) va l = true → t.cores = s.cores)

/-- A store of core `c` to the `n` bytes at `va`: byte j takes the value that `b` gives it, if it gives one, and every other
byte is as before, at the home, or in the core's first-level cache with memory as it was (R87, R221). -/
def StoredIn (s t : State) (c va : Nat) (l : Loc) (n : Nat) (b : Nat → Option Byte) : Prop :=
  if servedHome s (s.partOf c) va l then
    (∀ j, j < n → readByte (memoryOf t l) (l.addr + j) = (b j).getD (readByte (memoryOf s l) (l.addr + j))) ∧
    (∀ a, a < l.addr ∨ l.addr + n ≤ a → readByte (memoryOf t l) a = readByte (memoryOf s l) a) ∧
    (match l with
     | .dev _ => t.hostMem = s.hostMem
     | .host _ _ => t.devMem = s.devMem) ∧ t.cores = s.cores
  else
    SameBytes s t ∧ SameButLine s t c va ∧
    (∀ j, j < n → lineValue (lineSeen t c va l) (va % 128 + j) 1 =
      ((b j).map (·.toNat)).getD (lineValue (lineSeen s c va l) (va % 128 + j) 1)) ∧
    (∀ a, a < va % 128 ∨ va % 128 + n ≤ a → lineValue (lineSeen t c va l) a 1 = lineValue (lineSeen s c va l) a 1) ∧
    ∀ j, j < n → (b j).isSome = true → ∃ x, l1At t c va = some x ∧ x.dirty.getLsbD (va % 128 + j) = true

/-- A store of all the bytes `bs` by the issuing slot. -/
def Stores (s t : State) (va : Nat) (l : Loc) (bs : List Byte) : Prop :=
  StoredIn s t s.curCore va l bs.length (fun j => bs[j]?)

/-- The value of a vector field: its register, or with X2 the pair it begins, the first register low (R249). -/
def fieldVal (s : State) (x2 : Bool) (r : Reg) : Nat :=
  if x2 then (readV s r).toNat + (readV s (r + 1)).toNat * 2 ^ 512 else (readV s r).toNat

/-- The registers of a vector instruction with plain fields: vector sources, integer sources, D when it is read. -/
def vecUses (x2 readD : Bool) (d : Reg) (srcs xs : List Reg) : Uses :=
  { reads := (srcs.flatMap (fieldRegs x2)).map vreg ++ xs.map xreg ++ (if readD then (fieldRegs x2 d).map vreg else [])
    writes := (fieldRegs x2 d).map vreg }

/-- Nothing stops a vector instruction: the checks of R183 pass, and every field is a plain register, or with X2 a
plain pair that does not begin at index 15 (R249). -/
def VecClear (s : State) (x2 readD : Bool) (d : Reg) (srcs xs : List Reg) : Prop :=
  Clear false (vecUses x2 readD d srcs xs) s ∧
    ∀ r ∈ d :: srcs, isBound s.me r = false ∧ (x2 = true → isBound s.me (r + 1) = false ∧ r.idx.val ≠ 15)

/-- The state with a fixed-latency result of the issuing slot on its way to a vector field, with the flags it raises
(R80, R176, R249). -/
def withVector (s : State) (x2 : Bool) (d : Reg) (lat : Nat) (v : Nat) (fl : Word) : State :=
  let due := s.myCore.cyc + lat
  s.setMe { s.me with
    pend := s.me.pend ++ ⟨some (vreg d), BitVec.ofNat 512 v, due, fl⟩ ::
      (if x2 then [⟨some (vreg (d + 1)), BitVec.ofNat 512 (v / 2 ^ 512), due, 0⟩] else [])
    cover := s.me.cover ++ (vreg d, lat) :: (if x2 then [(vreg (d + 1), lat)] else []) }

/-- The state with a fixed-latency integer result of the issuing slot on its way, with the flags it raises. -/
def withFlagged (s : State) (d : Reg) (lat : Nat) (v : Word) (fl : Word) : State :=
  s.setMe { s.me with
    pend := s.me.pend ++ [⟨if d = 0 then none else some (xreg d), v.setWidth 512, s.myCore.cyc + lat, fl⟩]
    cover := if d = 0 then s.me.cover else s.me.cover ++ [(xreg d, lat)] }

/-- The flags of the lanes below `n`, ORed together (R80). -/
def laneFlags (f : Nat → Word) : Nat → Word
  | 0 => 0
  | n + 1 => laneFlags f n ||| f n

/-- The bits of an integer lane as a number of the lane type (R247). -/
def laneNum (lt : LaneT) (v : Nat) : Int :=
  let x := BitVec.ofNat lt.bits v
  if lt.isSigned then x.toInt else x.toNat

/-- The format of a floating lane type (R146, R247). -/
def laneFmt (lt : LaneT) : Fmt := match lt with
  | .hf => fp16
  | .bf => bf16
  | _ => fp32

/-- Lane k of the second operand of a lane-wise instruction: of field B, or the low bits of integer register B (R252). -/
def secondLane (s : State) (c : VCtl) (sx : Bool) (b : Reg) (k : Nat) : Nat :=
  if sx then (readX s b).toNat % 2 ^ c.lt.bits else laneAt c.lt.bits k (fieldVal s c.x2 b)

/-- Nothing stops a lane-wise instruction of D, A and B, B an integer register where `sx` says so (R252). -/
def LaneClear (s : State) (c : VCtl) (readD sx : Bool) (d a b : Reg) : Prop :=
  VecClear s c.x2 (readD || c.merge) d (if sx then [a] else [a, b]) (if sx then [b] else [])

/-- The instruction runs with `v` on its way to field D `lat` cycles later: lane k is `f k` with flags `fl k`, or keeps
its old value and raises none where MK is 1 and its `VM` bit 0 (R80, R247, R248, R249). -/
def LanesRun (o : Out) (s : State) (c : VCtl) (lat : Nat) (d : Reg) (n : Nat) (f : Nat → Nat) (fl : Nat → Word) : Prop :=
  let live (k : Nat) : Bool := !c.merge || s.me.csr.vm.getLsbD k
  ∃ v, RunsTo o (withVector s c.x2 d lat v (laneFlags (fun k => if live k then fl k else 0) n)) (nextPc s) ∧
    (∀ k, k < n → laneAt c.lt.bits k v = if live k then f k % 2 ^ c.lt.bits else laneAt c.lt.bits k (fieldVal s c.x2 d)) ∧
    v < 2 ^ (c.lt.bits * n)

/-- Nothing but the issuing slot's control state, its core's matrix port and the agenda differs: registers, other
slots, other cores, scratchpads and both memories are as before, and the slot has gone on. -/
def OnlyIssues (s t : State) : Prop :=
  t.me.x = s.me.x ∧ t.me.f = s.me.f ∧ t.me.h = s.me.h ∧ t.me.csr = s.me.csr ∧ t.me.pc = nextPc s ∧ t.me.st = .ready ∧
    t.me.wait = none ∧ t.myCore.scratch = s.myCore.scratch ∧ t.myCore.tags = s.myCore.tags ∧
    (∀ k, k ≠ s.cur → t.slot k = s.slot k) ∧ (∀ c, c ≠ s.curCore → t.core c = s.core c) ∧
    t.devMem = s.devMem ∧ t.hostMem = s.hostMem

/-- The instruction has entered the matrix port behind the others, with the formats of the slot (R275). -/
def EntersPort (s t : State) (op : PortOp) : Prop :=
  t.myCore.port = s.myCore.port ++ [⟨s.cur, s.me.cont, s.me.tx, s.me.csr.fmt, op, false, 0, [], 0⟩] ∧
    (s.myCore.port = [] → .matrixStart s.curCore ∈ t.agenda) ∧ OnlyIssues s t

/-- The issuing slot may name the operand slot now: its transaction has claimed it, no claim or release of it is still
queued, and the port has room (R271, R275). -/
def MayName (s : State) (os : Nat) : Prop :=
  claimsOs s os = true ∧ claimQueued s.myCore os = false ∧ s.myCore.port.length < 8

/-- The issuing slot may name the accumulator from segment `g` on: five plain segments below 251 that no earlier relaxed
access of the slot touches (R275). -/
def MayAccumulate (s : State) (g : Nat) : Prop :=
  g ≤ 246 ∧ (∀ i, i < 5 → (segOf s.myCore (g + i)).st = .none) ∧
    ownPending s s.cur .scratch (BitVec.ofNat 64 (s.curCore * 2 ^ 20 + g * 4096)).toNat 20480 = false

/-- The head of the matrix port of core `c` has retired, leaving `es`, which begins if it is not empty. -/
def PortPopped (t : State) (c : Nat) (es : List PortEntry) : Prop :=
  (t.core c).port = es ∧ (es ≠ [] → .matrixStart c ∈ t.agenda)

/-- A result of the issuing slot is pending with its value, and the slot has gone on; other slots, cores, and every byte
of both memories are as before. -/
def GivesStatus (s t : State) (d : Reg) (v : Vec) : Prop :=
  (∃ id, t.me.vpend = s.me.vpend ++ [⟨id, [xreg d], some [v], 0, .plain⟩] ∧
    .variableResultArrival s.curCore s.curSlot id ∈ t.agenda) ∧
  t.me.x = s.me.x ∧ t.me.f = s.me.f ∧ t.me.csr = s.me.csr ∧ t.me.pc = nextPc s ∧ t.me.st = .ready

/-- The byte at an address of the issuing slot's partition. -/
def byteHere (s : State) (va : Nat) : Nat :=
  let l := placeAt s s.myPart va .read
  (readByte (memoryOf s l) l.addr).toNat

/-- Nothing holds an access of the issuing slot to the byte at `va`: its home serves it, nobody holds or waits for its line or
its granule, and no relayout or subscription covers it. -/
def OpenAt (s : State) (store : Bool) (va : Nat) : Prop :=
  let p := s.myPart
  let l := placeAt s p va (if store then .write else .read)
  (l.isHost = true ∨ (reclassifying s p va = false ∧ classOf (classEntry (s.part p) va) = 3)) ∧
    lineOpen s p l.key s.cur = true ∧ lineQueue s p l.key = [] ∧ behindHeld s p va s.cur = false ∧
    convAt (s.part p) va = none ∧ rangeAt s p va = none

/-- Nothing stops an access of the issuing slot to elements of a record: each byte passes the checks of R216 and is open,
outside a lease, a reconnaissance pass and every relaxed access of the slot. -/
def ElemsOpen (s : State) (store : Bool) (r : Vec) (es : List (Nat × Nat × Nat)) : Prop :=
  checkBytes s store (elemBytes r es) = .ok (.dev 0) ∧ inRecon s = false ∧ s.me.lease = none ∧
    ∀ va ∈ elemBytes r es, OpenAt s store va ∧ ownPending s s.cur .global va 1 = false

/-- The value of element (m, a, b) of a record as its storage holds it (R112). -/
def rawElem (s : State) (r : Vec) (m a b : Nat) : Nat :=
  let nib := 2 * recBase r + elemOffset r m a b * (recBits r / 4)
  if recBits r = 4 then byteHere s (nib / 2) / 16 ^ (nib % 2) % 16
  else ((List.range (recBits r / 8)).map fun i => byteHere s (nib / 2 + i) * 256 ^ i).sum

/-- An access to elements has left the issuing slot for where it is performed, and the slot has gone on (R222, R287). -/
def ElemsLeave (s t : State) (r : Vec) (es : List (Nat × Nat × Nat)) (vs : Option (List Nat)) : Prop :=
  ∃ q locs n, t.me.relaxed = s.me.relaxed ++ [q] ∧ q.space = .global ∧ q.op = .elems r es vs locs n ∧ q.counts = true ∧
    t.me.pc = nextPc s ∧ t.me.st = .ready ∧ .relaxedAccessComplete s.curCore s.curSlot q.id ∈ t.agenda ∧
    t.me.vpend.map (·.id) = s.me.vpend.map (·.id) ++ (if vs.isSome then [] else [q.id])

/-- The continuation whose pending result has serial number `id` runs in the slot with key `k` and in no other. -/
def AskedBy (s : State) (id k : Nat) : Prop :=
  (∃ v ∈ (s.slot k).vpend, v.id = id) ∧ ∀ e ∈ s.slots, e.1 ≠ k → ∀ v ∈ e.2.vpend, v.id ≠ id

/-- A result for integer register `d` of the slot with key `k` has arrived: it lands in the next cycle of the slot's core
(R70, R176); one for x0 is lost (R68). -/
def Arrives (s t : State) (k : Nat) (d : Reg) (v : Word) : Prop :=
  (t.slot k).pend = (s.slot k).pend ++
      (if d = 0 then [] else [⟨some (xreg d), v.setWidth 512, (s.core (k / 16)).cyc, 0⟩]) ∧
    (t.slot k).x = (s.slot k).x ∧ (t.slot k).f = (s.slot k).f

/-- The status `v` has arrived for Rd of the slot with key `k`, and its pending result is gone (R284). -/
def StatusWritten (s t : State) (k id : Nat) (d : Reg) (v : Word) : Prop :=
  (t.slot k).vpend = (s.slot k).vpend.filter (fun w => w.id != id) ∧ Arrives s t k d v

/-- The spill engine of core `c` has ended its oldest request with status `v`: it has arrived for `d` of the issuing slot, with
key `j`, which goes on behind its instruction (R343, R345, R367). -/
def EngineAnswers (s t : State) (c j : Nat) (d : Reg) (v : Word) : Prop :=
  (t.core c).spillq = (s.core c).spillq.drop 1 ∧ (t.slot j).st = .ready ∧ (t.slot j).wait = none ∧
    (t.slot j).pc = (match (s.slot j).resume with
      | some r => r
      | none => fallThrough (s.slot j)) ∧
    Arrives s t j d v

end Sys2Proof.Machine
end

