-- ==== Sys2Proof/Certificates/Slice0/Obligations.lean ====
section
/-! DEFINITION. The statements about the model, each a `Prop` that the provers prove. -/

open Sys2Proof Sys2Proof.Machine

/-- Words written out from the worked examples and the encoding tables of the spec decode to the instructions they
stand for (R170, R171, R181, R182, R193, R204, R206, R219, R334). -/
def Obligations.DecodedWords : Prop :=
  decodeTableWord 48 0x200210000006 = some (.beq 2 0 6) ∧ decodeTableWord 32 0x10610886 = some (.remZ 3 1 2) ∧
  decodeTableWord 32 0x04211000 = some (.add 1 2 0) ∧ decodeTableWord 32 0x04451800 = some (.add 2 3 0) ∧
  decodeTableWord 48 0x200210010002 = some (.bne 2 0 2) ∧ decodeTableWord 16 0x2400 = some .ret ∧
  decodeTableWord 48 0x1C8208820600 = some (.lea2d 4 1 2 2 0 0x600) ∧ decodeTableWord 16 0xF200 = some .tret ∧
  decodeTableWord 16 0x0000 = some .yield ∧ decodeTableWord 48 0x402208030010 = some (.ldg 1 1 .d false 0x10) ∧
  decodeTableWord 32 0x0421103F = none ∧
  decodeTableWord 16 0x3000 = some (.illegalOpcode (.h 0x0C 0))

/-- Every well-formed instruction that has an encoding decodes from its own head and tail, with every operand and its
stall count (R170, R171, R172, R173, R181, R182). -/
def Obligations.EncodeDecode : Prop :=
  (∀ (i : Instr) (n : BitVec 3) (head : BitVec 16) (tail : BitVec 48), i.wf = true → encode n i = some (head, tail) →
    decode head tail = .ok (match i with
      | .coreUnpark d a => .corePark d a
      | i => i) ∧ stallOf head = n) ∧
  (∀ (head : BitVec 16) (tail : BitVec 48) (i : Instr), decode head tail = .ok i → i.wf = true)

/-- A step runs an event now due, else the scheduled event, else an owed core cycle or a tick; a cycle runs the first
slot that may issue (R4, R33, R168, R174, R181, R183, R336, R413). In a core cycle the results due land first, the
chosen slot runs the instruction decoded at its PC, and the cycle is counted after it. -/
def Obligations.StepRunsDecoded : Prop :=
  let idx (s : State) : Nat := Config.choose s.draws % (s.agenda.length + 1)
  let run (s : State) (n : Nat) (e : Instr) : Out := mapNext advance (exec e { s with agenda := s.agenda.eraseIdx n })
  (∀ (s : State) (n : Nat) (e : Instr), firstDue s s.agenda 0 = some (n, e) → step s = run s n e) ∧
  (∀ (s : State) (e : Instr), firstDue s s.agenda 0 = none → s.agenda[idx s]? = some e → s.agenda ≠ [] →
    step s = run s.draw (idx s) e) ∧
  (∀ s : State, firstDue s s.agenda 0 = none → s.agenda[idx s]? = none →
    let u := if s.agenda = [] then s else s.draw
    ((∀ c, c < 512 → owesCycle u c = false) → step s = .next (advance (passTime u 1))) ∧
    (∀ c, owesCycle u c = true → c < 512 → ∃ d, d < 512 ∧ owesCycle u d = true ∧ step s = mapNext advance (coreCycle d u))) ∧
  (∀ (s : State) (c : Nat),
    let u := cycleStart s c
    (∀ k, k < 16 → resumable u c k = false) →
    ((∀ k ∈ issueOrder u c, mayIssue u c k = false) → coreCycle c s = .next (endCycle c u)) ∧
    (∀ k ks, issueOrder u c = k :: ks → mayIssue u c k = true →
      let v := endYield { u with curCore := c, curSlot := k } (slotKey c k)
      let p := (v.me.pc.extractLsb' 1 5).toNat
      let finishing (o : Out) : Out := mapNext (endCycle c) (bindNext o fun t =>
        if heldBack t (slotKey c k) then issueFrom c ks t else .next (noteIssue t c k))
      ∀ l : Line, takeable v.me = [] → breakpoint v.me = false → badTargetEarly v.me.pc = false →
        v.me.line = some (v.me.pc &&& ~~~63#64, l) →
        (∀ r, Line.reason l = some r →
          coreCycle c s = finishing (.next (trapI v 0x01 ((v.me.pc &&& ~~~63#64) + BitVec.ofNat 64 r)))) ∧
        (Line.reason l = none → Line.count l < p → coreCycle c s = finishing (.next (trapI v 0x05 v.me.xfer))) ∧
        (Line.reason l = none → p ≤ Line.count l →
          let head := (Line.headTail l p).1
          let tail := (Line.headTail l p).2
          let w := v.setMe { v.me with ir := tail ++ head }
          (∀ i, decode head tail = .ok i → coreCycle c s = finishing (exec i w)) ∧
          (∀ e, decode head tail = .error e → coreCycle c s = finishing (.next (trapI w 0x03 (tail ++ head)))))))

/-- Every step keeps the core whose cycle is next one of the 512 logical cores, and the passing of time never turns
the time base back (R4, R7, R9, R413). -/
def Obligations.TurnNamesACore : Prop :=
  (∀ s t : State, s.turn < 512 → step s = .next t → t.turn < 512) ∧
  (∀ s t : State, step s = .next t → ∃ u : State, t = advance u) ∧
  (∀ s : State, s.tick ≤ (advance s).tick ∧ (advance s).draws = s.draws + 1 ∧ (advance s).cores = s.cores ∧
    (advance s).slots = s.slots ∧ (advance s).parts = s.parts ∧ (advance s).txs = s.txs ∧ (advance s).devMem = s.devMem ∧
    (advance s).hostMem = s.hostMem ∧ (advance s).agenda = s.agenda) ∧
  (∀ (s : State) (n : Nat), s.tick ≤ (passTime s n).tick ∧ (passTime s n).ns = s.ns + n ∧ (passTime s n).cores = s.cores ∧
    (passTime s n).slots = s.slots ∧ (passTime s n).devMem = s.devMem ∧ (passTime s n).agenda = s.agenda)

/-- After reset: R351 and R352's CSRs at their initial values, slots FREE, bring-up next; memories canonical and zero,
the model's choices of log entries 4 to 6 (R4, R22, R79, R225, R331, R351, R352, R410). -/
def Obligations.ResetState : Prop :=
  let s := State.reset
  (∀ c, (s.core c).slbi = 4096 ∧ (s.core c).saveb = 0 ∧ (s.core c).smsg = 0 ∧ (s.core c).sevec = 0 ∧ (s.core c).sdovf = 0 ∧
    (s.core c).spark = 0 ∧ (s.core c).mdlg = 0 ∧ (s.core c).events = [] ∧ (s.core c).eventLost = false ∧
    ∀ w, look (s.core c).tags false w = false) ∧
  (∀ p, (s.part p).srgn = 0 ∧ (s.part p).srlog = 0 ∧ (s.part p).srlogn = 0 ∧ (s.part p).slqd = 0 ∧ (s.part p).spasid = 0 ∧
    (s.part p).shwin = 0 ∧ (s.part p).spodw = 0 ∧ (s.part p).sprto = 1000000000) ∧
  (∀ k, (s.slot k).st = .free ∧ (s.slot k).csr.vm = BitVec.allOnes 64 ∧ (s.slot k).csr.waitlim = 1000000 ∧
    (s.slot k).csr.leaselim = 512 ∧ (s.slot k).csr.mxshape = 0x404040 ∧ (s.slot k).csr.fflags = 0 ∧
    (s.slot k).csr.qen = 0 ∧ (s.slot k).csr.sen = 0 ∧ (∀ i : Fin 16, (s.slot k).x[i] = 0 ∧ (s.slot k).f[i] = 0) ∧
    (s.slot k).trapRegs .u = TrapRegs.zero ∧ (s.slot k).trapRegs .s = TrapRegs.zero ∧ (s.slot k).trapRegs .m = TrapRegs.zero) ∧
  s.tick = 0 ∧ s.agenda = [.bringup] ∧ s.turn < 512 ∧ MemoriesWf s ∧ (∀ a, readByte s.devMem a = 0 ∧ readByte s.hostMem a = 0)

/-- shadd writes a + (b << sh) and lea2d the address of an element, wrapped, with their shifts, size and pitch in FN
(R203).

Completes, each with a next state of its own effect: `shadd`, `lea2d`. -/
def Obligations.AddressArithmetic : Prop :=
  (∀ (s : State) (d a b : Reg) (sh : BitVec 3) (esz : BitVec 2) (p : BitVec 3) (pitch : BitVec 16),
    Clear false (usesXX d a b) s →
    RunsTo (exec (.shadd d a b sh) s) (withResult s d 2 (readX s a + (readX s b <<< sh.toNat))) (nextPc s) ∧
    RunsTo (exec (.lea2d d a b esz p pitch) s) (withResult s d 2 (BitVec.ofNat 64 ((readX s a).toNat +
      (readX s b).toNat / 2 ^ 32 * (pitch.toNat * 2 ^ p.toNat) + (readX s b).toNat % 2 ^ 32 * 2 ^ esz.toNat))) (nextPc s)) ∧
  (∀ (n : BitVec 3) (d a b : Reg) (fn : BitVec 6) (imm : BitVec 16),
    decode (pack n (.a 7 d a b fn)).1 (pack n (.a 7 d a b fn)).2 =
      (if fn.toNat < 8 then .ok (.shadd d a b (fn.extractLsb' 0 3)) else .error .illegalFunction) ∧
    decode (pack n (.i 7 d a b fn imm)).1 (pack n (.i 7 d a b fn imm)).2 =
      (if fn.toNat < 32 then .ok (.lea2d d a b (fn.extractLsb' 0 2) (fn.extractLsb' 2 3) imm) else .error .illegalFunction)) ∧
  (0x4000100000 : Nat) + 0x300000005 / 2 ^ 32 * (1536 * 2 ^ 0) + 0x300000005 % 2 ^ 32 * 2 ^ 2 = 0x4000101214

/-- The register-form integer instructions write what R194, R197 and R200 give, at their latency (R176, R183, R194,
R197, R200).

Completes, each with a next state of its own effect: `add`, `sub`, `and`, `or`, `xor`, `sll`, `srl`, `sra`, `min`,
`max`, `minZ`, `maxZ`, `mul`, `mulh`, `mulhZ`, `setEq`, `setNe`, `setLt`, `setGe`, `setLtZ`, `setGeZ`. -/
def Obligations.IntegerRegisterForms : Prop :=
  ∀ (s : State) (d a b : Reg), Clear false (usesXX d a b) s →
    let x := readX s a
    let y := readX s b
    let n := y.toNat % 64
    let gives (i : Instr) (lat : Nat) (v : Word) : Prop := RunsTo (exec i s) (withResult s d lat v) (nextPc s)
    gives (.add d a b) 2 (x + y) ∧ gives (.sub d a b) 2 (x - y) ∧
    gives (.and d a b) 2 (x &&& y) ∧ gives (.or d a b) 2 (x ||| y) ∧ gives (.xor d a b) 2 (x ^^^ y) ∧
    gives (.sll d a b) 2 (x <<< n) ∧ gives (.srl d a b) 2 (x >>> n) ∧ gives (.sra d a b) 2 (x.sshiftRight n) ∧
    gives (.min d a b) 2 (if x.toInt < y.toInt then x else y) ∧
    gives (.max d a b) 2 (if x.toInt < y.toInt then y else x) ∧
    gives (.minZ d a b) 2 (if x.toNat < y.toNat then x else y) ∧
    gives (.maxZ d a b) 2 (if x.toNat < y.toNat then y else x) ∧
    gives (.mul d a b) 4 (BitVec.ofNat 64 (x.toNat * y.toNat)) ∧
    gives (.mulh d a b) 4 (BitVec.ofInt 64 (x.toInt * y.toInt / 2 ^ 64)) ∧
    gives (.mulhZ d a b) 4 (BitVec.ofNat 64 (x.toNat * y.toNat / 2 ^ 64)) ∧
    gives (.setEq d a b) 2 (if x = y then 1 else 0) ∧ gives (.setNe d a b) 2 (if x = y then 0 else 1) ∧
    gives (.setLt d a b) 2 (if x.toInt < y.toInt then 1 else 0) ∧
    gives (.setGe d a b) 2 (if x.toInt < y.toInt then 0 else 1) ∧
    gives (.setLtZ d a b) 2 (if x.toNat < y.toNat then 1 else 0) ∧
    gives (.setGeZ d a b) 2 (if x.toNat < y.toNat then 0 else 1)

/-- The immediate-form integer instructions, li, sel and the bit counts write what R194, R196, R200, R201 and R202
give (R176, R183, R194, R196, R200, R201, R202).

Completes, each with a next state of its own effect: `addImm16`, `subImm16`, `andImm16`, `orImm16`, `xorImm16`,
`sllImm16`, `srlImm16`, `sraImm16`, `minImm16`, `maxImm16`, `minZImm16`, `maxZImm16`, `addImm32`, `subImm32`,
`andImm32`, `orImm32`, `xorImm32`, `minImm32`, `maxImm32`, `minZImm32`, `maxZImm32`, `liImm16`, `liImm32`, `liHigh`,
`setEqImm`, `setNeImm`, `setLtImm`, `setGeImm`, `setLtZImm`, `setGeZImm`, `sel`, `clz`, `ctz`, `pcnt`. -/
def Obligations.IntegerImmediateForms : Prop :=
  (∀ (s : State) (d a : Reg) (i : BitVec 16) (l : BitVec 32) (sh : BitVec 6), Clear false (usesX d a) s →
    let x := readX s a
    let y : Word := BitVec.ofInt 64 i.toInt
    let z : Word := BitVec.ofInt 64 l.toInt
    let gives (i : Instr) (v : Word) : Prop := RunsTo (exec i s) (withResult s d 2 v) (nextPc s)
    gives (.addImm16 d a i) (x + y) ∧ gives (.subImm16 d a i) (x - y) ∧ gives (.andImm16 d a i) (x &&& y) ∧
    gives (.orImm16 d a i) (x ||| y) ∧ gives (.xorImm16 d a i) (x ^^^ y) ∧
    gives (.sllImm16 d a sh) (x <<< sh.toNat) ∧ gives (.srlImm16 d a sh) (x >>> sh.toNat) ∧
    gives (.sraImm16 d a sh) (x.sshiftRight sh.toNat) ∧
    gives (.minImm16 d a i) (if x.toInt < y.toInt then x else y) ∧
    gives (.maxImm16 d a i) (if x.toInt < y.toInt then y else x) ∧
    gives (.minZImm16 d a i) (if x.toNat < y.toNat then x else y) ∧
    gives (.maxZImm16 d a i) (if x.toNat < y.toNat then y else x) ∧
    gives (.addImm32 d a l) (x + z) ∧ gives (.subImm32 d a l) (x - z) ∧ gives (.andImm32 d a l) (x &&& z) ∧
    gives (.orImm32 d a l) (x ||| z) ∧ gives (.xorImm32 d a l) (x ^^^ z) ∧
    gives (.minImm32 d a l) (if x.toInt < z.toInt then x else z) ∧
    gives (.maxImm32 d a l) (if x.toInt < z.toInt then z else x) ∧
    gives (.minZImm32 d a l) (if x.toNat < z.toNat then x else z) ∧
    gives (.maxZImm32 d a l) (if x.toNat < z.toNat then z else x) ∧
    gives (.setEqImm d a i) (if x = y then 1 else 0) ∧ gives (.setNeImm d a i) (if x = y then 0 else 1) ∧
    gives (.setLtImm d a i) (if x.toInt < y.toInt then 1 else 0) ∧
    gives (.setGeImm d a i) (if x.toInt < y.toInt then 0 else 1) ∧
    gives (.setLtZImm d a i) (if x.toNat < y.toNat then 1 else 0) ∧
    gives (.setGeZImm d a i) (if x.toNat < y.toNat then 0 else 1) ∧
    gives (.liHigh d a l) (BitVec.ofNat 64 (l.toNat * 2 ^ 32 + x.toNat % 2 ^ 32)) ∧
    (∃ n : Nat, gives (.clz d a) (BitVec.ofNat 64 n) ∧ n ≤ 64 ∧ x.toNat < 2 ^ (64 - n) ∧ (n < 64 → 2 ^ (63 - n) ≤ x.toNat)) ∧
    (∃ n : Nat, gives (.ctz d a) (BitVec.ofNat 64 n) ∧ n ≤ 64 ∧ 2 ^ n ∣ x.toNat ∧ (n < 64 → ¬ 2 ^ (n + 1) ∣ x.toNat)) ∧
    gives (.pcnt d a) (BitVec.ofNat 64 ((List.range 64).countP fun k => x.toNat.testBit k))) ∧
  (∀ (s : State) (d : Reg) (i : BitVec 16) (l : BitVec 32), Clear false { writes := [xreg d] } s →
    RunsTo (exec (.liImm16 d i) s) (withResult s d 2 (BitVec.ofInt 64 i.toInt)) (nextPc s) ∧
    RunsTo (exec (.liImm32 d l) s) (withResult s d 2 (BitVec.ofInt 64 l.toInt)) (nextPc s)) ∧
  (∀ (s : State) (d a b : Reg), Clear false { reads := [xreg a, xreg b, xreg d], writes := [xreg d] } s →
    RunsTo (exec (.sel d a b) s) (withResult s d 2 (if readX s d ≠ 0 then readX s a else readX s b)) (nextPc s))

/-- div, rem, div.z and rem.z pend on the core's divider with the quotient and remainder of R198, 34 cycles from their
start (R178, R183, R198, R199).

Completes, each with a next state of its own effect: `div`, `divZ`, `rem`, `remZ`. -/
def Obligations.DivisionValues : Prop :=
  ∀ (s : State) (d a b : Reg), Clear false { reads := [xreg a, xreg b], vwrites := [xreg d] } s →
    let x := readX s a
    let y := readX s b
    let start := match s.myCore.divq.getLast? with
      | some j => max j.due s.myCore.cyc
      | none => s.myCore.cyc
    let pends (i : Instr) (v : Word) : Prop := ∃ t, exec i s = .next t ∧
      t.myCore.divq = s.myCore.divq ++ [⟨s.cur, s.nextId, v, start + 34⟩] ∧
      t.me.vpend = s.me.vpend ++ [⟨s.nextId, [xreg d], none, 0, .divide⟩] ∧
      t.agenda = s.agenda ++ [.divisionComplete s.curCore] ∧
      t.me.x = s.me.x ∧ t.me.csr = s.me.csr ∧ t.me.pc = nextPc s ∧ t.me.st = .ready ∧
      (∀ k, k ≠ s.cur → t.slot k = s.slot k) ∧ t.devMem = s.devMem ∧ t.hostMem = s.hostMem
    (y = 0 → pends (.div d a b) (BitVec.allOnes 64) ∧ pends (.divZ d a b) (BitVec.allOnes 64) ∧
      pends (.rem d a b) x ∧ pends (.remZ d a b) x) ∧
    (y ≠ 0 → (∃ q r : Word, pends (.divZ d a b) q ∧ pends (.remZ d a b) r ∧
        x.toNat = q.toNat * y.toNat + r.toNat ∧ r.toNat < y.toNat) ∧
      ((x.toInt ≠ -2 ^ 63 ∨ y.toInt ≠ -1) → ∃ q r : Word, pends (.div d a b) q ∧ pends (.rem d a b) r ∧
        x.toInt = q.toInt * y.toInt + r.toInt ∧ |r.toInt| < |y.toInt| ∧ (r.toInt = 0 ∨ (r.toInt < 0 ↔ x.toInt < 0))) ∧
      (x.toInt = -2 ^ 63 → y.toInt = -1 →
        pends (.div d a b) (BitVec.ofInt 64 (-2 ^ 63)) ∧ pends (.rem d a b) 0))

/-- DIVISION_COMPLETE gives the oldest division's result to the core's next cycle once its 34 cycles have passed, not
before, and then it must come about (R70, R199).

Completes, each with a next state of its own effect: `divisionComplete`. -/
def Obligations.DivisionArrives : Prop :=
  ∀ (s : State) (c : Nat) (j : DivJob) (js : List DivJob) (w : VPend) (r : Reg),
    (s.core c).divq = j :: js →
    (s.slot j.slot).vpend.find? (fun v => v.id == j.id) = some w → w.regs = [xreg r] → r.shared = false → r ≠ 0 →
    (j.due ≤ (s.core c).cyc → ∃ t, exec (.divisionComplete c) s = .next t ∧
      (t.slot j.slot).pend = (s.slot j.slot).pend ++ [⟨some (xreg r), j.value.setWidth 512, (s.core c).cyc, 0⟩] ∧
      (t.slot j.slot).x = (s.slot j.slot).x ∧ (t.slot j.slot).f = (s.slot j.slot).f ∧
      (∀ v ∈ (t.slot j.slot).vpend, v.id ≠ j.id) ∧ (t.core c).divq = js ∧
      (∀ k, k ≠ j.slot → t.slot k = s.slot k) ∧ (∀ e, e ≠ c → t.core e = s.core e) ∧
      t.devMem = s.devMem ∧ t.hostMem = s.hostMem) ∧
    ((s.core c).cyc < j.due → exec (.divisionComplete c) s = .next (s.post (.divisionComplete c))) ∧
    (mustRun s (.divisionComplete c) = true ↔ j.due ≤ (s.core c).cyc)

/-- A fixed-latency result can be read from issue + latency on, the previous value before, and a write of x0 changes
nothing (R68, R176, R179). -/
def Obligations.ResultLandsAfterLatency : Prop :=
  ∀ (s : State) (d : Reg) (lat : Nat) (v : Word), s.me.pend = [] →
    let t (cyc : Nat) : State := (withResult s d lat v).setMyCore { s.myCore with cyc := cyc }
    let after (cyc : Nat) : State := landDue (t cyc) s.curCore s.curSlot
    readX s 0 = 0 ∧
    (d = 0 → ∀ cyc e, readX (after cyc) e = readX s e) ∧
    (d ≠ 0 → d.shared = false →
      (∀ cyc, s.myCore.cyc + lat ≤ cyc → readX (after cyc) d = v) ∧
      (∀ cyc, cyc < s.myCore.cyc + lat → readX (after cyc) d = readX s d) ∧
      (∀ cyc e, e ≠ d → readX (after cyc) e = readX s e))

/-- A branch goes to its code offset exactly when its condition holds; j, jal, jr and ret go to their target and link
(R175, R183, R205, R206, R207).

Completes, each with a next state of its own effect: `beq`, `bne`, `blt`, `bge`, `bltZ`, `bgeZ`, `beqL`, `bneL`,
`bltL`, `bgeL`, `bltZL`, `bgeZL`, `j`, `jL`, `jal`, `jalL`, `jr`, `ret`. -/
def Obligations.BranchesAndJumps : Prop :=
  let target (pc : Word) (delta : Int) (p : Nat) : Word := (pc &&& ~~~63#64) + BitVec.ofInt 64 (64 * delta) + BitVec.ofNat 64 (2 * p)
  let goes (o : Out) (s : State) (pc : Word) : Prop := RunsTo o (if pc.ule s.me.pc then unbound s else s) pc
  (∀ (s : State) (a b : Reg) (o : BitVec 16) (l : BitVec 32), Clear false { reads := [xreg a, xreg b] } s →
    let x := readX s a
    let y := readX s b
    let near := target s.me.pc (o.toInt / 32) (o.toNat % 32)
    let far := target s.me.pc (l.toInt / 32) (l.toNat % 32)
    let branches (i j : Instr) (c : Prop) : Prop :=
      (c → goes (exec i s) s near ∧ goes (exec j s) s far) ∧
      (¬ c → RunsTo (exec i s) s (nextPc s) ∧ RunsTo (exec j s) s (nextPc s))
    branches (.beq a b o) (.beqL a b l) (x = y) ∧ branches (.bne a b o) (.bneL a b l) (x ≠ y) ∧
    branches (.blt a b o) (.bltL a b l) (x.toInt < y.toInt) ∧ branches (.bge a b o) (.bgeL a b l) (y.toInt ≤ x.toInt) ∧
    branches (.bltZ a b o) (.bltZL a b l) (x.toNat < y.toNat) ∧
    branches (.bgeZ a b o) (.bgeZL a b l) (y.toNat ≤ x.toNat)) ∧
  (∀ (s : State) (o : BitVec 16) (l : BitVec 32), Clear false {} s →
    goes (exec (.j o) s) s (target s.me.pc (o.toInt / 32) (o.toNat % 32)) ∧
    goes (exec (.jL l) s) s (target s.me.pc (l.toInt / 32) (l.toNat % 32))) ∧
  (∀ (s : State), Clear false { reads := [xreg 15] } s → goes (exec .ret s) s (readX s 15)) ∧
  (∀ (s : State) (d a : Reg) (o : BitVec 16) (l : BitVec 32),
    let linked := writeVar s (xreg d) ((fallThrough s.me).setWidth 512) 0
    (Clear false { vwrites := [xreg d] } s →
      goes (exec (.jal d o) s) linked (target s.me.pc (o.toInt / 32) (o.toNat % 32)) ∧
      goes (exec (.jalL d l) s) linked (target s.me.pc (l.toInt / 32) (l.toNat % 32))) ∧
    (Clear false { reads := [xreg a], vwrites := [xreg d] } s → goes (exec (.jr d a) s) linked (readX s a)))

/-- A variable-latency result pends in the scoreboard; when it arrives it lands in the next cycle of its core (R70,
R176, R178).

Completes, each with a next state of its own effect: `variableResultArrival`. -/
def Obligations.VariableResults : Prop :=
  (∀ (s : State) (v : Vec), writeVar s (xreg 0) v 0 = unbound s) ∧
  (∀ (s : State) (d : Reg) (v : Vec) (fl : Word), d ≠ 0 →
    let t := writeVar s (xreg d) v fl
    t.me.vpend = s.me.vpend ++ [⟨s.nextId, [xreg d], some [v], fl, .plain⟩] ∧
    t.agenda = s.agenda ++ [.variableResultArrival s.curCore s.curSlot s.nextId] ∧
    t.me.x = s.me.x ∧ t.me.f = s.me.f ∧ t.me.csr = s.me.csr ∧ t.me.pc = s.me.pc ∧ t.cores = s.cores ∧
    (∀ k, k ≠ s.cur → t.slot k = s.slot k) ∧ t.devMem = s.devMem ∧ t.hostMem = s.hostMem) ∧
  (∀ (s : State) (c k id : Nat) (r : Reg) (v : Vec) (w : VPend), r ≠ 0 → r.shared = false →
    (s.slot (slotKey c k)).vpend.find? (fun w => w.id == id) = some w →
    w.regs = [xreg r] → w.values = some [v] → w.flags = 0 → w.source = .plain →
    ∃ t, exec (.variableResultArrival c k id) s = .next t ∧
      (t.slot (slotKey c k)).pend = (s.slot (slotKey c k)).pend ++ [⟨some (xreg r), v, (s.core c).cyc, 0⟩] ∧
      (t.slot (slotKey c k)).x = (s.slot (slotKey c k)).x ∧
      (t.slot (slotKey c k)).f = (s.slot (slotKey c k)).f ∧ (t.slot (slotKey c k)).csr = (s.slot (slotKey c k)).csr ∧
      (∀ x ∈ (t.slot (slotKey c k)).vpend, x.id ≠ id) ∧
      (∀ j, j ≠ slotKey c k → t.slot j = s.slot j) ∧ t.cores = s.cores ∧ t.devMem = s.devMem ∧ t.hostMem = s.hostMem)

/-- Route: the level a trap is taken at is the lowest one at or above both the slot's level and the cause's that is
not busy; none when M is busy (R332). -/
def Obligations.RouteOfATrap : Prop :=
  ∀ (sl : Slot) (mdlg : Word) (c : Nat), c < 256 →
    let first : Nat :=
      if 0xC0 ≤ c ∧ c ≤ 0xEF then (if mdlg.getLsbD (c - 0xC0) then 1 else 2)
      else if sl.level = .u ∧ toU c = true ∧ (sl.sdlg.toList.getD (c / 64) 0).getLsbD (c % 64) = true ∧ sl.tu.tvec ≠ 0 then 0
      else 1
    let start := max first sl.level.rank
    match route sl mdlg c with
    | some t => start ≤ t.rank ∧ sl.busy t = false ∧ ∀ l : Level, start ≤ l.rank → l.rank < t.rank → sl.busy l = true
    | none => ∀ l : Level, start ≤ l.rank → sl.busy l = true

/-- The causes that may be delegated to U are those of R338's "To U" column (R338). -/
def Obligations.DelegableCauses : Prop :=
  ∀ c : Fin 256, toU c.val = true ↔
    c.val ∈ [1, 2, 3, 4, 5, 6, 7, 8, 0x20, 0x21, 0x25, 0x26, 0x27, 0x28, 0x29, 0x40, 0x41, 0x42, 0x43, 0x44, 0x45,
      0x60, 0x61, 0x62, 0x63, 0x64, 0x80, 0x81, 0x82, 0x83, 0x84, 0x85, 0x86, 0x87, 0xA1, 0xA2, 0xA3,
      0xF0, 0xF1, 0xF2, 0xF3, 0xF4, 0xF5, 0xF6, 0xF7, 0xF8, 0xF9, 0xFA, 0xFB, 0xFC, 0xFD, 0xFE, 0xFF]

/-- Trap entry sets the five trap CSRs of its level, the level and the PC, and changes no general register, binding or
memory (R41, R180, R331, R332, R333, R338). It waits for results on their way, and at S level the transaction's Tag
comes with it, in a field of the model (log entry 74). -/
def Obligations.TrapEntry : Prop :=
  (∀ (s : State) (cause : Nat) (tval tpc : Word) (async : Bool) (l : Level),
    mustDrain s s.cur = false → cause < 256 → route s.me s.myCore.mdlg cause = some l →
    let t := takeTrap s cause tval tpc async
    let r := t.me.trapRegs l
    r.tvec = (s.me.trapRegs l).tvec ∧ r.cause.toNat = cause ∧ r.tval = tval ∧ r.tpc = tpc ∧
    (r.tstat.extractLsb' 0 2).toNat = s.me.level.rank ∧ r.tstat.getLsbD 2 = true ∧
    r.tstat.getLsbD 3 = s.me.lease.isSome ∧ r.tstat.getLsbD 4 = async ∧ r.tstat.getLsbD 5 = (l == .u) ∧
    r.tstat.extractLsb' 6 58 = 0 ∧
    t.me.level = l ∧ t.me.pc = (s.me.trapRegs l).tvec ∧ t.me.st = .ready ∧ t.me.wait = none ∧ t.me.lease = none ∧
    (∀ o, o ≠ l → t.me.trapRegs o = s.me.trapRegs o) ∧ t.me.tag = (if l = .s then txTag s s.me.tx else s.me.tag) ∧
    t.me.x = s.me.x ∧ t.me.f = s.me.f ∧ t.me.h = s.me.h ∧ t.me.csr = s.me.csr ∧ t.me.streams = s.me.streams ∧
    t.me.vpend = s.me.vpend ∧ t.me.relaxed = s.me.relaxed ∧
    (∀ k, k ≠ s.cur → t.slot k = s.slot k) ∧ t.cores = s.cores ∧ t.devMem = s.devMem ∧ t.hostMem = s.hostMem) ∧
  (∀ (s : State) (cause : Nat) (tval tpc : Word) (async : Bool), mustDrain s s.cur = true →
    let t := takeTrap s cause tval tpc async
    t.me.x = s.me.x ∧ t.me.f = s.me.f ∧ t.me.csr = s.me.csr ∧ t.me.pc = s.me.pc ∧ t.me.level = s.me.level ∧
    t.me.wait = some .drain ∧ t.me.trapping = some ⟨cause, tval, tpc, async⟩ ∧ t.me.tu = s.me.tu ∧ t.me.ts = s.me.ts ∧ t.me.tm = s.me.tm ∧
    (∀ k, k ≠ s.cur → t.slot k = s.slot k)) ∧
  (∀ (s : State) (h : HeldTrap), s.me.trapping = some h → mustDrain s s.cur = false → s.me.wait = some .drain →
    resumeSlot s = .next (takeTrap (s.setMe { s.me with trapping := none }) h.cause h.tval h.tpc h.async))

/-- A trap that no level can take halts the slot: Starter is told, a continuation of no transaction is discarded, one
of a transaction halts (R332, R335). -/
def Obligations.HaltWhenMIsBusy : Prop :=
  ∀ (s : State) (cause : Nat) (tval tpc : Word) (async : Bool),
    mustDrain s s.cur = false → route s.me s.myCore.mdlg cause = none → s.me.lease = none →
    let t := takeTrap s cause tval tpc async
    t.hub.reports = s.hub.reports ++ [(s.cur, cause)] ∧
    (s.me.tx = none → t.me.st = .free ∧ t.me.resv = s.me.resv ∧ t.me.x = Slot.reset.x) ∧
    (∀ x, s.me.tx = some x → t.me.halted = true ∧ t.me.st = .wait ∧ t.me.x = s.me.x ∧ t.me.f = s.me.f ∧
      t.me.pc = s.me.pc ∧ t.agenda = s.agenda ++ [.txHardwareError x s.curCore])

/-- trap n takes cause 0xF0 + n with TPC the next instruction; an unassigned major takes ILLEGAL_OPCODE with TPC
itself (R182, R293, R333, R338).

Completes, each with a next state of its own effect: `trap`, `illegalOpcode`. -/
def Obligations.TrapInstructions : Prop :=
  ∀ (s : State) (n : BitVec 4) (raw : Raw) (l : Level), mustDrain s s.cur = false → s.me.lease = none →
    let takes (i : Instr) (cause : Nat) (tval tpc : Word) : Prop := ∃ t, exec i s = .next t ∧
      t.me.level = l ∧ t.me.pc = (s.me.trapRegs l).tvec ∧
      (t.me.trapRegs l).cause = BitVec.ofNat 64 cause ∧ (t.me.trapRegs l).tval = tval ∧ (t.me.trapRegs l).tpc = tpc ∧
      t.me.x = s.me.x ∧ t.me.f = s.me.f ∧ t.me.csr = s.me.csr ∧ (∀ k, k ≠ s.cur → t.slot k = s.slot k) ∧
      t.cores = s.cores ∧ t.devMem = s.devMem ∧ t.hostMem = s.hostMem
    (Clear false {} s → route s.me s.myCore.mdlg (0xF0 + n.toNat) = some l →
      takes (.trap n) (0xF0 + n.toNat) 0 (fallThrough s.me)) ∧
    (route s.me s.myCore.mdlg 2 = some l → takes (.illegalOpcode raw) 2 s.me.ir s.me.pc)

/-- tret returns to xTPC at the saved level but never a higher one, clears BUSY, and frees the slot of a core event
(R334, R340).

Completes, each with a next state of its own effect: `tret`. -/
def Obligations.ReturnFromTrap : Prop :=
  ∀ (s : State), Clear false {} s →
    let l := s.me.level
    let r := s.me.trapRegs l
    (r.tstat.getLsbD 6 = true → ∃ t, exec .tret s = .next t ∧ t.me.st = .free ∧ t.me.resv = s.me.resv ∧
      (t.core (s.cur / 16)).qiSlot ≠ some s.cur ∧ t.devMem = s.devMem ∧ t.hostMem = s.hostMem ∧
      (s.me.away = none → ∀ k, k ≠ s.cur → t.slot k = s.slot k) ∧
      (s.me.place = none → s.me.wait = none → (s.core (s.cur / 16)).qiSlot ≠ some s.cur → t.cores = s.cores)) ∧
    (r.tstat.getLsbD 6 = false → ∃ t, exec .tret s = .next t ∧ t.me.pc = r.tpc ∧ t.me.st = .ready ∧
      t.me.level.rank = min (min (r.tstat.extractLsb' 0 2).toNat 2) l.rank ∧
      (t.me.trapRegs l).tstat = r.tstat &&& ~~~4#64 ∧ t.me.busy l = false ∧
      (t.me.trapRegs l).tvec = r.tvec ∧ (t.me.trapRegs l).cause = r.cause ∧ (t.me.trapRegs l).tval = r.tval ∧
      (t.me.trapRegs l).tpc = r.tpc ∧ t.me.brkSkip = true ∧ t.me.cover = [] ∧ t.me.line = none ∧
      (∀ o, o ≠ l → t.me.trapRegs o = s.me.trapRegs o) ∧
      t.me.x = s.me.x ∧ t.me.f = s.me.f ∧ t.me.h = s.me.h ∧ t.me.csr = s.me.csr ∧
      (∀ k, k ≠ s.cur → t.slot k = s.slot k) ∧ t.cores = s.cores ∧ t.devMem = s.devMem ∧ t.hostMem = s.hostMem)

/-- The checks of R183 come in order and leave no effect: PRIVILEGED, BAD_REGISTER, STALL_UNDERSIZED, then the wait
for pending results (R67, R69, R70, R178, R179, R183). -/
def Obligations.ChecksBeforeEffects : Prop :=
  ∀ (priv : Bool) (u : Uses) (s : State) (act : State → Out),
    (priv = true → s.me.level = .u → gate priv u s act = .next (trapI s 0x04 s.me.ir)) ∧
    ((priv = false ∨ s.me.level ≠ .u) →
      (∀ r, badField s u = some r → gate priv u s act = .next (trapI s 0x07 (r.setWidth 64))) ∧
      (badField s u = none →
        (∀ r, s.me.csr.schk.getLsbD 0 = true → uncovered s u = some r → gate priv u s act = .next (trapI s 0x06 (r.setWidth 64))) ∧
        ((s.me.csr.schk.getLsbD 0 = true → uncovered s u = none) →
          (pendingRegs s u = [] → gate priv u s act = act s) ∧
          (pendingRegs s u ≠ [] → ∃ t, gate priv u s act = .next t ∧ t.me.st = .wait ∧ t.me.pc = s.me.pc ∧
            t.me.x = s.me.x ∧ t.me.f = s.me.f ∧ t.me.vpend = s.me.vpend ∧ t.cores = s.cores ∧ t.devMem = s.devMem ∧
            ∀ k, k ≠ s.cur → t.slot k = s.slot k)))) ∧
    (u.bad = none → (∀ r ∈ u.all, r.r.shared = false) → badField s u = none) ∧
    (u.bad = none → s.me.level = .u → s.me.tx = none → (∃ r ∈ u.all, r.r.shared = true) → ∃ r, badField s u = some r)

/-- csrr, csrw, csrs and csrc read and write the CSR they name, or take PRIVILEGED or BAD_REGISTER as R78 says (R71,
R78, R81, R183, R209, R210, R329, R351).

Completes, each with a next state of its own effect: `csrr`, `csrw`, `csrs`, `csrc`, `fflagsAccess`. -/
def Obligations.CsrInstructions : Prop :=
  (∀ (s : State) (n : BitVec 12) (d : Reg), csrPrivileged s.me.level n.toNat = true →
    let traps (i : Instr) : Prop := exec i s = .next (trapI s 0x04 (n.setWidth 64))
    traps (.csrr d n) ∧ traps (.csrw d n) ∧ traps (.csrs d n) ∧ traps (.csrc d n)) ∧
  (∀ (s : State) (n : BitVec 12) (d : Reg), csrPrivileged s.me.level n.toNat = false → Clear false { writes := [xreg d] } s →
    match readCsr s n.toNat with
    | none => exec (.csrr d n) s = .next (trapI s 0x07 (n.setWidth 64))
    | some v => RunsTo (exec (.csrr d n) s) (withResult s d 2 v) (nextPc s)) ∧
  (∀ (s : State) (n : BitVec 12) (a : Reg), csrPrivileged s.me.level n.toNat = false → Clear false { reads := [xreg a] } s →
    match readCsr s n.toNat with
    | none => ∀ i ∈ [Instr.csrw a n, .csrs a n, .csrc a n], exec i s = .next (trapI s 0x07 (n.setWidth 64))
    | some old =>
      (a = 0 → RunsTo (exec (.csrs a n) s) s (nextPc s) ∧ RunsTo (exec (.csrc a n) s) s (nextPc s)) ∧
      (csrReadOnly n.toNat = true → exec (.csrw a n) s = .next (trapI s 0x07 (n.setWidth 64)) ∧
        (a ≠ 0 → exec (.csrs a n) s = .next (trapI s 0x07 (n.setWidth 64)) ∧
          exec (.csrc a n) s = .next (trapI s 0x07 (n.setWidth 64)))) ∧
      (csrReadOnly n.toNat = false → n ≠ 0x534 →
        let runs (i : Instr) (v : Word) : Prop := exec i s = .next (finish (writeCsr s n.toNat v))
        runs (.csrw a n) (readX s a) ∧
        (a ≠ 0 → runs (.csrs a n) (old ||| readX s a) ∧ runs (.csrc a n) (old &&& ~~~readX s a))) ∧
      (n = 0x534 →
        let cleared := s.setMyCore { s.myCore with eventLost := s.myCore.eventLost && !(readX s a).getLsbD 0 }
        RunsTo (exec (.csrw a n) s) cleared (nextPc s) ∧
        (a ≠ 0 → RunsTo (exec (.csrs a n) s) cleared (nextPc s) ∧ RunsTo (exec (.csrc a n) s) cleared (nextPc s)))) ∧
  (∀ (s : State) (a : Reg) (k : BitVec 3),
    exec (.qenWrite a) s = exec (.csrw a 0x30) s ∧ exec (.senWrite a) s = exec (.csrw a 0x31) s ∧
    exec (.vtabWrite a k) s = exec (.csrw a (0x50 + k.setWidth 12)) s ∧ exec (.slqdWrite a) s = exec (.csrw a 0x543) s ∧
    exec (.spasidWrite a) s = exec (.csrw a 0x544) s ∧ exec (.shwinWrite a) s = exec (.csrw a 0x545) s ∧
    exec (.spodwWrite a) s = exec (.csrw a 0x547) s ∧ exec (.smsgWrite a) s = exec (.csrw a 0x532) s ∧
    exec (.sdovfWrite a) s = exec (.csrw a 0x535) s ∧ exec (.sevstWrite a) s = exec (.csrw a 0x534) s ∧
    exec (.mpartWrite a) s = exec (.csrw a 0x920) s) ∧
  (∀ (s : State) (x : Reg), Clear false { reads := [xreg x] } s → flagsSettled s = true →
    exec (.fflagsAccess .w x) s = exec (.csrw x 0x21) s ∧ exec (.fflagsAccess .s x) s = exec (.csrs x 0x21) s ∧
    exec (.fflagsAccess .c x) s = exec (.csrc x 0x21) s) ∧
  (∀ (s : State) (x : Reg), Clear false { writes := [xreg x] } s → flagsSettled s = true →
    exec (.fflagsAccess .r x) s = exec (.csrr x 0x21) s)

/-- The CSR writes with rules of their own complete at S or M level: what QEN, SEN, VTAB, SLQD, SPASID, SHWIN, SPODW,
SMSG, SDOVF, SEVST, MPART hold then (R71, R80, R81, R351, R352, R354, R366, R368, R380, R383).

Completes, each with a next state of its own effect: `qenWrite`, `senWrite`, `vtabWrite`, `slqdWrite`, `spasidWrite`,
`shwinWrite`, `spodwWrite`, `smsgWrite`, `sdovfWrite`, `sevstWrite`, `mpartWrite`. -/
def Obligations.SpecialWritesComplete : Prop :=
  ∀ (s : State) (a : Reg) (k : BitVec 3), s.me.level = .m → Clear false { reads := [xreg a] } s →
    let v := readX s a
    let p := s.myPart
    let done (i : Instr) (q : State → Prop) : Prop :=
      ∃ t, exec i s = .next t ∧ t.me.pc = nextPc s ∧ t.me.st = .ready ∧ t.me.x = s.me.x ∧ q t
    (s.myCore.qiSlot = none → done (.qenWrite a) fun t => t.me.csr.qen = v &&& 0xF ∧
      ∀ i : Fin 16, t.me.f[i] = if 12 ≤ i.val ∧ s.me.csr.qen.getLsbD (i.val - 12) ≠ (v &&& 0xF).getLsbD (i.val - 12) then 0 else s.me.f[i]) ∧
    done (.senWrite a) (fun t => t.me.csr.sen = v &&& 0xF ∧
      ∀ i : Fin 16, t.me.f[i] = if i.val < 4 ∧ s.me.csr.sen.getLsbD i.val ≠ (v &&& 0xF).getLsbD i.val then 0 else s.me.f[i]) ∧
    (s.me.tx = none → done (.vtabWrite a k) fun t => t.myCore.vtab = s.myCore.vtab ∧ t.myCore.vtabHeld.isSome = true) ∧
    (ownsVtab s = false → done (.vtabWrite a k) fun t => t.cores = s.cores) ∧
    ((s.part p).roundAt = none → done (.slqdWrite a) fun t =>
      ((t.part p).slqd.extractLsb' 0 9).toNat = min (v.extractLsb' 0 9).toNat 256 ∧
      (t.part p).slqd.extractLsb' 12 45 = v.extractLsb' 12 45 ∧ t.agenda = s.agenda ++ [.pick p]) ∧
    (pagingPages (s.part p) = [] → done (.spasidWrite a) fun t =>
      (t.part p).spasid = v &&& 0x80000000000FFFFF#64 ∧ (t.part p).xlat = [] ∧ (t.part p).pagesOff = false) ∧
    done (.shwinWrite a) (fun t => (t.part p).shwin = v &&& 0x01FFFFFFFFFFFF00#64 ∧ (t.part p).xlat = []) ∧
    done (.spodwWrite a) (fun t => (t.part p).xlat = [] ∧
      (t.part p).spodw &&& ~~~0x3F#64 = v &&& 0x81FFFFFFC0000000#64 ∧
      (30 ≤ v.toNat % 64 → v.toNat % 64 ≤ 40 → (t.part p).spodw.toNat % 64 = v.toNat % 64)) ∧
    ((detLanes s s.curCore).contains 15 = false → done (.smsgWrite a) fun t => t.myCore.smsg = v &&& 1) ∧
    (overflowUsed s.myCore = 0 → done (.sdovfWrite a) fun t => t.myCore.sdovf = v &&& 0x01FFFFFFFFFFF0FF#64) ∧
    done (.sevstWrite a) (fun t => t.myCore.eventLost = (s.myCore.eventLost && !v.getLsbD 0) ∧ t.myCore.events = s.myCore.events) ∧
    done (.mpartWrite a) (fun t => t.myCore.mpart = v &&& 7 ∧ t.myCore.rq = Vector.replicate 4 [])

/-- A CSR that is written reads back its fields by R80, R331, R351 and R352: reserved bits zero, held ranges held
(R80, R331, R351, R352). -/
def Obligations.CsrFieldRules : Prop :=
  ∀ (s : State) (v : Word),
    let back (n : Nat) (w : Word) : Prop := readCsr (writeCsr s n v) n = some w
    back 0x20 (if v.toNat % 8 ≤ 4 then v &&& 7 else s.me.csr.rmode) ∧ back 0x21 (v &&& 0xFF) ∧ back 0x22 v ∧
    back 0x42 (v &&& 0xFFFFFFFFFF) ∧ back 0x43 (BitVec.ofNat 64 (max 16 (min 4096 (v.toNat % 2 ^ 13)))) ∧
    back 0x44 (v &&& 1) ∧
    back 0x60 (BitVec.ofNat 64 (max 1 (min 64 (v.toNat % 2 ^ 7)) + 2 ^ 8 * max 1 (min 64 (v.toNat / 2 ^ 8 % 2 ^ 7)) +
      2 ^ 16 * max 1 (min 128 (v.toNat / 2 ^ 16 % 2 ^ 8)))) ∧
    back 0x100 v ∧ back 0x101 (v &&& 0xFF) ∧ back 0x102 v ∧ back 0x103 v ∧
    back 0x500 v ∧ back 0x501 (v &&& 0xFF) ∧ back 0x502 v ∧ back 0x503 v ∧
    back 0x900 v ∧ back 0x901 (v &&& 0xFF) ∧ back 0x902 v ∧ back 0x903 v ∧
    back 0x104 (if v.toNat % 4 = 3 then (v &&& 0x7C) ||| (s.me.tu.tstat &&& 3) else v &&& 0x7F) ∧
    back 0x504 (if v.toNat % 4 = 3 then (v &&& 0x7C) ||| (s.me.ts.tstat &&& 3) else v &&& 0x7F) ∧
    back 0x904 (if v.toNat % 4 = 3 then (v &&& 0x7C) ||| (s.me.tm.tstat &&& 3) else v &&& 0x7F) ∧
    back 0x520 (v &&& 0xFF) ∧ back 0x521 (v &&& 0x01FFFFFFFFFFFFFF) ∧ back 0x522 v ∧
    (∀ i : Fin 4, ∃ w, back (0x510 + i.val) w ∧
      ∀ j : Fin 64, w.getLsbD j.val = (v.getLsbD j.val && toU (64 * i.val + j.val))) ∧
    back 0x530 (v &&& 0x01FFFFFFFFFE0000) ∧ back 0x531 (v &&& 0xFFFFFFFF) ∧ back 0x910 (v &&& 0xFFFFFFFFFFFF)

/-- Flags that an instruction raises are ORed into FFLAGS, and the lowest enabled one becomes a pending cause (R80,
R339). -/
def Obligations.ArithmeticCauses : Prop :=
  ∀ (sl : Slot) (f : Word), f.toNat < 256 →
    (sl.orFlags f).csr.fflags = sl.csr.fflags ||| f ∧ (sl.orFlags f).x = sl.x ∧ (sl.orFlags f).f = sl.f ∧
    (f &&& sl.sftrap = 0 → (sl.orFlags f).causes = sl.causes) ∧
    (∀ i, i < 8 → (f &&& sl.sftrap).getLsbD i = true → (∀ j, j < i → (f &&& sl.sftrap).getLsbD j = false) →
      (sl.orFlags f).causes = sl.causes ++ [⟨0x80 + i, f, true⟩])

/-- ldg and vldg read the bytes at EA, extended by the function, from their home or the core's first-level cache, and
change no byte (R87, R126, R127, R215, R216, R219, R220, R221, R222).

Completes, each with a next state of its own effect: `ldg`, `ldgL`, `vldg`, `vldgL`. -/
def Obligations.GlobalLoads : Prop :=
  let frame (s t : State) : Prop := t.me.x = s.me.x ∧ t.me.f = s.me.f ∧ t.me.h = s.me.h ∧ t.me.csr = s.me.csr ∧
    t.me.level = s.me.level ∧ (∀ k, k ≠ s.cur → t.slot k = s.slot k)
  let loads (i rx : Instr) (s : State) (ea : Word) (n : Nat) (d : RegId) (v : Nat → Vec) : Prop :=
    ∀ l, Through s ea n n false l →
      (∃ t, exec i s = .next t ∧ frame s t ∧ t.me.pc = s.me.pc ∧ OnlyLoads s t s.curCore ea.toNat l ∧
        AwaitsAccess s t [(d, v (valueSeen s s.curCore ea.toNat l n))]) ∧
      ((s.me.relaxed.filter (·.counts)).length < 16 → ∃ t r, exec rx s = .next t ∧ frame s t ∧ t.me.pc = nextPc s ∧
        t.cores = s.cores ∧ t.devMem = s.devMem ∧ t.hostMem = s.hostMem ∧
        t.me.relaxed = s.me.relaxed ++ [r] ∧ r.addr = ea ∧ r.loc = some l ∧ r.op = .load n ∧
        t.me.vpend = s.me.vpend ++ [⟨r.id, [d], none, 0, .plain⟩] ∧
        .relaxedAccessComplete s.curCore s.curSlot r.id ∈ t.agenda)
  (∀ (s : State) (d a : Reg) (f : LdFn) (o : BitVec 16) (p : BitVec 32), Clear false { reads := [xreg a], vwrites := [xreg d] } s →
    let v (n : Nat) : Vec := (loadedWord f n).setWidth 512
    loads (.ldg d a f false o) (.ldg d a f true o) s (readX s a + o.signExtend 64) (ldBytes f) (xreg d) v ∧
    loads (.ldgL d a f false p) (.ldgL d a f true p) s (readX s a + p.signExtend 64) (ldBytes f) (xreg d) v) ∧
  (∀ (s : State) (d a : Reg) (o : BitVec 16) (p : BitVec 32), Clear false { reads := [xreg a], vwrites := [vreg d] } s →
    isBound s.me d = false →
    loads (.vldg d a false o) (.vldg d a true o) s (readX s a + o.signExtend 64) 64 (vreg d) (BitVec.ofNat 512) ∧
    loads (.vldgL d a false p) (.vldgL d a true p) s (readX s a + p.signExtend 64) 64 (vreg d) (BitVec.ofNat 512)) ∧
  (∀ f : LdFn, ldBytes f = match f with | .b | .bz => 1 | .h | .hz => 2 | .w | .wz => 4 | .d => 8)

/-- stg and vstg store exactly their data's bytes at EA, at its home or in the first-level cache, vstg by VM;
non-coherent stores are posted (R2, R87, R107, R127, R139, R215, R216, R219, R220, R221, R222).

Completes, each with a next state of its own effect: `stg`, `stgL`, `vstg`, `vstgL`. -/
def Obligations.GlobalStores : Prop :=
  let frame (s t : State) : Prop := t.me.x = s.me.x ∧ t.me.f = s.me.f ∧ t.me.h = s.me.h ∧ t.me.csr = s.me.csr ∧
    t.me.level = s.me.level ∧ (∀ k, k ≠ s.cur → t.slot k = s.slot k)
  let leaves (s t : State) (ea : Word) (l : Loc) (bs : List (Nat × Byte)) : Prop :=
    ∃ r, t.me.relaxed = s.me.relaxed ++ [r] ∧ r.addr = ea ∧ r.loc = some l ∧ r.op = .store bs ∧ t.cores = s.cores ∧
      t.devMem = s.devMem ∧ t.hostMem = s.hostMem ∧ .relaxedAccessComplete s.curCore s.curSlot r.id ∈ t.agenda
  let stores (i rx : Instr) (s : State) (ea : Word) (n : Nat) (bs : List (Nat × Byte)) (b : Nat → Option Byte) : Prop :=
    ∀ l, Through s ea n n true l →
      (∃ t, exec i s = .next t ∧ frame s t ∧ t.me.pc = s.me.pc ∧ AwaitsAccess s t [] ∧
        (postedWrite l (.store bs) = true → leaves s t ea l bs) ∧
        (postedWrite l (.store bs) = false → StoredIn s t s.curCore ea.toNat l n b)) ∧
      ((s.me.relaxed.filter (·.counts)).length < 16 → ∃ t, exec rx s = .next t ∧ frame s t ∧ t.me.pc = nextPc s ∧
        leaves s t ea l bs)
  (∀ (s : State) (a b : Reg) (wd : MemW) (o : BitVec 16) (p : BitVec 32), Clear false { reads := [xreg a, xreg b] } s →
    let n := widthBytes wd
    let bs := natToBytes n (readX s b).toNat
    let byte (j : Nat) : Option Byte := some ((readX s b).extractLsb' (8 * j) 8)
    stores (.stg a b wd false o) (.stg a b wd true o) s (readX s a + o.signExtend 64) n (offsets 0 bs) byte ∧
    stores (.stgL a b wd false p) (.stgL a b wd true p) s (readX s a + p.signExtend 64) n (offsets 0 bs) byte) ∧
  (∀ (s : State) (a b : Reg) (wd : MemW) (o : BitVec 16) (p : BitVec 32), Clear false { reads := [xreg a, vreg b] } s →
    isBound s.me b = false →
    let bs := laneBytes s.me.csr.vm (widthBytes wd) (readV s b)
    let byte (j : Nat) : Option Byte :=
      if s.me.csr.vm.getLsbD (j / widthBytes wd) then some ((readV s b).extractLsb' (8 * j) 8) else none
    stores (.vstg a b wd false o) (.vstg a b wd true o) s (readX s a + o.signExtend 64) 64 bs byte ∧
    stores (.vstgL a b wd false p) (.vstgL a b wd true p) s (readX s a + p.signExtend 64) 64 bs byte) ∧
  (∀ wd : MemW, widthBytes wd = match wd with | .b => 1 | .h => 2 | .w => 4 | .d => 8) ∧
  (∀ (l : Loc) (bs : List (Nat × Byte)), postedWrite l (.store bs) = true ↔ (∃ pa, l = .host pa false) ∧ bs ≠ [])

/-- lds, sts, vlds and vsts of the own core read and write exactly the bytes at their offset, tags stay; pf brings a
line, changing no byte (R92, R97, R127, R215, R216, R219, R220, R221, R223).

Completes, each with a next state of its own effect: `pf`, `pfL`, `lds`, `ldsL`, `sts`, `stsL`, `vlds`, `vldsL`,
`vsts`, `vstsL`. -/
def Obligations.ScratchAccesses : Prop :=
  let frame (s t : State) : Prop := t.me.x = s.me.x ∧ t.me.f = s.me.f ∧ t.me.h = s.me.h ∧ t.me.csr = s.me.csr ∧
    t.me.pc = s.me.pc ∧ t.me.level = s.me.level ∧ (∀ k, k ≠ s.cur → t.slot k = s.slot k) ∧ t.devMem = s.devMem ∧ t.hostMem = s.hostMem
  let loads (i : Instr) (s : State) (ea : Word) (n : Nat) (d : RegId) (v : Nat → Vec) : Prop :=
    ThroughScratch s ea n n .load → ∃ t, exec i s = .next t ∧ frame s t ∧ t.cores = s.cores ∧
      AwaitsAccess s t [(d, v (bytesToNat (readBytes s.myCore.scratch (scrOff ea) n)))]
  let stores (i : Instr) (s : State) (ea : Word) (n : Nat) (b : Nat → Option Byte) : Prop :=
    ThroughScratch s ea n n .store → ∃ t, exec i s = .next t ∧ frame s t ∧ AwaitsAccess s t [] ∧
      (∀ c, c ≠ s.curCore → t.core c = s.core c) ∧ t.myCore.tags = s.myCore.tags ∧ t.myCore.bars = s.myCore.bars ∧
      t.myCore.segs = s.myCore.segs ∧ t.myCore.y = s.myCore.y ∧ t.myCore.g = s.myCore.g ∧
      (∀ j, j < n → readByte t.myCore.scratch (scrOff ea + j) = (b j).getD (readByte s.myCore.scratch (scrOff ea + j))) ∧
      (∀ a, a < scrOff ea ∨ scrOff ea + n ≤ a → readByte t.myCore.scratch a = readByte s.myCore.scratch a)
  (∀ (s : State) (d a : Reg) (f : LdFn) (o : BitVec 16) (p : BitVec 32), Clear false { reads := [xreg a], vwrites := [xreg d] } s →
    let v (n : Nat) : Vec := (loadedWord f n).setWidth 512
    loads (.lds d a f false o) s (readX s a + o.signExtend 64) (ldBytes f) (xreg d) v ∧
    loads (.ldsL d a f false p) s (readX s a + p.signExtend 64) (ldBytes f) (xreg d) v) ∧
  (∀ (s : State) (d a : Reg) (o : BitVec 16) (p : BitVec 32), Clear false { reads := [xreg a], vwrites := [vreg d] } s →
    isBound s.me d = false →
    loads (.vlds d a false o) s (readX s a + o.signExtend 64) 64 (vreg d) (BitVec.ofNat 512) ∧
    loads (.vldsL d a false p) s (readX s a + p.signExtend 64) 64 (vreg d) (BitVec.ofNat 512)) ∧
  (∀ (s : State) (a b : Reg) (wd : MemW) (o : BitVec 16) (p : BitVec 32), Clear false { reads := [xreg a, xreg b] } s →
    let byte (j : Nat) : Option Byte := some ((readX s b).extractLsb' (8 * j) 8)
    stores (.sts a b wd false o) s (readX s a + o.signExtend 64) (widthBytes wd) byte ∧
    stores (.stsL a b wd false p) s (readX s a + p.signExtend 64) (widthBytes wd) byte) ∧
  (∀ (s : State) (a b : Reg) (wd : MemW) (o : BitVec 16) (p : BitVec 32), Clear false { reads := [xreg a, vreg b] } s →
    isBound s.me b = false →
    let byte (j : Nat) : Option Byte :=
      if s.me.csr.vm.getLsbD (j / widthBytes wd) then some ((readV s b).extractLsb' (8 * j) 8) else none
    stores (.vsts a b wd false o) s (readX s a + o.signExtend 64) 64 byte ∧
    stores (.vstsL a b wd false p) s (readX s a + p.signExtend 64) 64 byte) ∧
  (∀ (s : State) (a : Reg) (o : BitVec 16) (p : BitVec 32), Clear false { reads := [xreg a] } s →
    let brings (i : Instr) (ea : Word) : Prop :=
      ∃ b, RunsTo (exec i s) b (nextPc s) ∧ b.me = (unbound s).me ∧ (∀ k, k ≠ s.cur → b.slot k = s.slot k) ∧
        b.parts = s.parts ∧ b.txs = s.txs ∧ b.fabric = s.fabric ∧ SameBytes s b ∧ SameButLine s b s.curCore ea.toNat ∧
        (∀ x, l1At s s.curCore ea.toNat = some x → l1At b s.curCore ea.toNat = some x) ∧
        let e := classEntry (s.part s.myPart) ea.toNat
        ∀ pa, checkGlobal s { ea := ea, n := 1, align := 1, store := false } anyMapping = .ok (.dev pa) →
          reclassifying s s.myPart ea.toNat = false → (classOf e = 2 ∨ classOf e = 1 ∧ ownerOf e = s.curCore) →
          ∃ x, l1At b s.curCore ea.toNat = some x ∧ x.data = lineSeen s s.curCore ea.toNat (.dev pa)
    brings (.pf a o) (readX s a + o.signExtend 64) ∧ brings (.pfL a p) (readX s a + p.signExtend 64))

/-- A global or scratch access takes the first failing check of R216 with EA as TVAL, and memory is as before (R83,
R92, R93, R216, R217, R218, R329). -/
def Obligations.AccessChecksInOrder : Prop :=
  (∀ (s : State) (r : GReq) (h : Loc → Bool), 0 < r.align →
    (r.ea.toNat / 2 ^ 57 ≠ 0 → checkGlobal s r h = .trap 0x25 r.ea) ∧
    (r.ea.toNat / 2 ^ 57 = 0 → r.ea.toNat % r.align ≠ 0 → checkGlobal s r h = .trap (if r.atomic then 0x21 else 0x20) r.ea) ∧
    (r.ea.toNat / 2 ^ 57 = 0 → r.ea.toNat % r.align = 0 → podOf s s.myPart r.ea.toNat = .here →
      convAt (s.part s.myPart) r.ea.toNat = none → s.me.xfault = none →
      (translate (s.part s.myPart) r.ea.toNat r.need = .final → checkGlobal s r h = .trap (if r.store then 0x23 else 0x22) r.ea) ∧
      (translate (s.part s.myPart) r.ea.toNat r.need = .miss → checkGlobal s r h = .miss (r.ea.toNat / 4096 * 4096)) ∧
      (translate (s.part s.myPart) r.ea.toNat r.need = .nowhere → checkGlobal s r h = .trap 0x25 r.ea))) ∧
  (∀ (s : State) (ea : Word) (align : Nat) (kind : ScrKind), 0 < align →
    let c := ea.toNat / 2 ^ 20 % 2 ^ 10
    let win := ea.toNat / 2 ^ 30 % 4
    let off := ea.toNat % 2 ^ 20
    (2 ^ 32 ≤ ea.toNat ∨ 2 ≤ win ∨ s.present c = false → checkScratch s ea align kind = some (0x26, ea)) ∧
    (ea.toNat < 2 ^ 32 → win < 2 → s.present c = true →
      (ea.toNat % align ≠ 0 → checkScratch s ea align kind = some (0x20, ea)) ∧
      (ea.toNat % align = 0 →
        (s.me.level ≠ .m → s.partOf c ≠ s.myPart → checkScratch s ea align kind = some (0x25, ea)) ∧
        ((s.me.level = .m ∨ s.partOf c = s.myPart) →
          (win = 1 → kind = .store → checkScratch s ea align kind =
            some (if off < 0x2000 ∧ (look (s.core c).bars Barrier.off (off / 8)).live = true then 0x44 else 0x25, ea)) ∧
          (win = 0 → s.me.level = .u → 251 ≤ off / 4096 → checkScratch s ea align kind = some (0x25, ea)) ∧
          (win = 0 → s.me.level ≠ .u → kind = .feRead → (segOf (s.core c) (off / 4096)).st ≠ .none →
            checkScratch s ea align kind = some (0x27, ea)) ∧
          (win = 0 → s.me.level ≠ .u → kind = .load → checkScratch s ea align kind = none))))) ∧
  (∀ (s : State) (d a : Reg) (f : LdFn) (o : BitVec 16) (cause : Nat) (v : Word),
    Clear false { reads := [xreg a], vwrites := [xreg d] } s →
    checkGlobal s ⟨readX s a + o.signExtend 64, ldBytes f, ldBytes f, false, false, false, false, true⟩ anyMapping = .trap cause v →
    exec (.ldg d a f false o) s = .next (trapI s cause v))

/-- ACCESS_COMPLETE sends the results on to their registers; a relaxed access is performed when it completes, a load
perhaps on its die's copy (R87, R90, R125, R127, R129, R130, R178, R222). Copies of a line go before a write to it
completes, and which copies a die keeps is log entry 17.

Completes, each with a next state of its own effect: `accessComplete`, `relaxedAccessComplete`. -/
def Obligations.AccessEvents : Prop :=
  (∀ (s : State) (c k : Nat) (ans : List (RegId × Vec)),
    let u : State := { s with curCore := c, curSlot := k }
    u.me.wait = some .access → u.me.answer = some ans → u.me.acks ≤ 1 →
    (∀ e ∈ ans, e.1.vec = true → isBound u.me e.1.r = false) →
    ∃ t, exec (.accessComplete c k) s = .next t ∧ t.me.x = u.me.x ∧ t.me.f = u.me.f ∧ t.me.csr = u.me.csr ∧
      t.me.pend = u.me.pend ++ (ans.filter fun e => !e.1.isX0).map (fun e => ⟨some e.1, e.2, (s.core c).cyc, 0⟩) ∧
      t.me.st = .ready ∧ t.me.wait = none ∧ t.me.pc = nextPc u ∧ t.me.answer = none ∧
      (∀ j, j ≠ u.cur → t.slot j = s.slot j) ∧ t.cores = s.cores ∧ t.devMem = s.devMem ∧ t.hostMem = s.hostMem) ∧
  (∀ (s : State) (c k : Nat), let u : State := { s with curCore := c, curSlot := k }
    u.me.wait = some .access → u.me.answer.isSome = true → 1 < u.me.acks →
    exec (.accessComplete c k) s = .next (u.setMe { u.me with acks := u.me.acks - 1 })) ∧
  (∀ (s : State) (c k id : Nat) (r : Relaxed) (l : Loc), let j := slotKey c k
    let p := s.partOf (j / 16)
    (s.slot j).relaxed = [r] → r.id = id → r.space = .global → r.loc = some l →
    behindHeld s p r.addr.toNat (ticket id) = false →
    (touch s p r.addr.toNat l (some (j / 16)) r.op.isStore).2 = true → lineOpen s p l.key (ticket id) = true →
    NoConversion (s.part p) r.addr.toNat r.op.extent → rangeAt s p r.addr.toNat = none →
    (servedHome s p r.addr.toNat l = false → r.addr.toNat % 128 + r.op.extent ≤ 128) →
    (∀ bs, bs ≠ [] → r.op = .store (offsets 0 bs) → r.kind = .none → ∃ t, exec (.relaxedAccessComplete c k id) s = .next t ∧
      StoredIn s t (j / 16) r.addr.toNat l bs.length (fun i => bs[i]?) ∧ (t.slot j).x = (s.slot j).x ∧
      (∀ i, i ≠ j → t.slot i = s.slot i) ∧
      (otherCopies s (j / 16) l = [] ∨ servedHome s p r.addr.toNat l = false → (t.slot j).relaxed = []) ∧
      (otherCopies s (j / 16) l ≠ [] → servedHome s p r.addr.toNat l = true → (t.slot j).relaxed = [{ r with op := .store [] }] ∧
        (rising s.rdc = true → ∀ e ∈ otherCopies s (j / 16) l, look t.rdc 0 e.1 = e.2) ∧ ⟨j, some id, l.addr / 128⟩ ∈ t.purges ∧
        .relaxedAccessComplete c k id ∈ t.agenda)) ∧
    (∀ n kd w, r.op = .load n → r.kind = kd → kd ≠ .none → (s.slot j).vpend = [w] → w.id = id →
      ∃ t v, exec (.relaxedAccessComplete c k id) s = .next t ∧ OnlyLoads s t (j / 16) r.addr.toNat l ∧
      (t.slot j).relaxed = [] ∧ (t.slot j).x = (s.slot j).x ∧
      (v = valueSeen s (j / 16) r.addr.toNat l n ∨ servedHome s p r.addr.toNat l = true ∧
        ∃ x, copyAt s (j / 16 / 128) l = some x ∧ v = x.toNat / 256 ^ (l.addr % 128) % 256 ^ n) ∧
      (t.slot j).vpend = [{ w with values := some [loadValue kd v], flags := 0 }] ∧
      .variableResultArrival (j / 16) (j % 16) id ∈ t.agenda)) ∧
  (∀ (s : State) (k line : Nat) (id : Option Nat) (die : Nat), ⟨k, id, line⟩ ∈ s.purges → line < 2 ^ 32 →
    copyAt (purge s k id) die (.dev (128 * line)) = none ∧ (purge s k id).devMem = s.devMem) ∧
  (∀ (s : State) (c k id : Nat), (s.slot (slotKey c k)).relaxed = [] → exec (.relaxedAccessComplete c k id) s = .next s)

/-- A load of another core's word migrates or is read there: departure, landing, refusal, and the bank's answer (R75,
R97, R98, R99, R100, R102).

Completes, each with a next state of its own effect: `migrationDeparture`, `landing`, `landingFromPlace`,
`migrationRefused`, `bankAccessArrive`. -/
def Obligations.MigrationAndBanks : Prop :=
  (∀ (s : State) (c k : Nat) (d : Reg) (ea : Word) (op : AccessOp) (kd : LoadKind) (fe em : Bool),
    let u : State := { s with curCore := c, curSlot := k }
    u.me.wait = some (.migrate d ea op kd fe em) → u.me.st = .save →
    (drainedAll u u.cur = false → exec (.migrationDeparture c k) s = .next (u.post (.migrationDeparture c k))) ∧
    (drainedAll u u.cur = true → ∃ t x, exec (.migrationDeparture c k) s = .next t ∧
      t.fabric = s.fabric ++ [⟨s.nextId, c, k, scrCore ea, .context x, u.me.tx⟩] ∧ x.slot.x = u.me.x ∧ x.slot.pc = u.me.pc ∧
      x.slot.csr = u.me.csr ∧ x.slot.level = u.me.level ∧ (∀ i : Fin 16, x.slot.f[i] = if 4 ≤ i.val ∧ i.val < 12 then u.me.f[i] else 0) ∧
      x.addr = ea ∧ x.op = op ∧ .landing s.nextId ∈ t.agenda ∧ t.slots = s.slots ∧ t.cores = s.cores)) ∧
  (∀ (s : State) (m : Msg) (x : Context), findMsg s m.id = some m → behind s m = false → m.body = .context x →
    x.homeSlot = none → (s.slot x.src).st = .save → takesNoLandings s m.dst = false →
    (∀ i, (s.core m.dst).landing = [] → freeUnreserved s m.dst = some i → let y := { x with slot := travelling (s.slot x.src) }
      exec (.landing m.id) s = .next (landIn (leaveSource (dropMsg s m.id) y) m.dst i y)) ∧
    ((s.core m.dst).landing ≠ [] ∨ freeUnreserved s m.dst = none → ∃ t, exec (.landing m.id) s = .next t ∧
      (((s.core m.dst).landing.length < 4) → (t.core m.dst).landing.length = (s.core m.dst).landing.length + 1 ∧
        (t.slot x.src).st = .free ∧ .landingFromPlace m.dst ∈ t.agenda) ∧
      (4 ≤ (s.core m.dst).landing.length → t.slot x.src = s.slot x.src ∧ t.cores = s.cores ∧
        ∃ id, (∃ n ∈ t.fabric, n.id = id ∧ n.dst = x.src / 16) ∧ .migrationRefused id ∈ t.agenda))) ∧
  (∀ (s : State) (c i n : Nat) (x : Context), x.fe = false → x.op = .load n → x.homeSlot = none → scrWin x.addr = 0 →
    segmentBusy (s.core c) (scrOff x.addr / 4096) = false → (segOf (s.core c) (scrOff x.addr / 4096)).st = .none →
    let t := landIn s c i x
    t.me.x = x.slot.x ∧ t.me.f = x.slot.f ∧ t.me.pc = x.slot.pc ∧ t.me.csr = x.slot.csr ∧ t.me.level = x.slot.level ∧
    t.me.resv = (s.slot (slotKey c i)).resv ∧ t.curCore = c ∧ t.curSlot = i ∧ t.cores = s.cores ∧ t.devMem = s.devMem ∧
    t.me.wait = some .access ∧ t.me.answer = some (loadAnswer x.kind x.d (bytesToNat (readBytes (s.core c).scratch (scrOff x.addr) n)))) ∧
  (∀ (s : State) (c i : Nat) (x : Context) (xs : List Context), (s.core c).landing = x :: xs → freeUnreserved s c = some i →
    exec (.landingFromPlace c) s = .next (landIn (s.setCore c { s.core c with landing := xs }) c i x)) ∧
  (∀ (s : State) (c : Nat), (s.core c).landing = [] → exec (.landingFromPlace c) s = .next s) ∧
  (∀ (s : State) (m : Msg) (x : Context), findMsg s m.id = some m → behind s m = false → m.body = .refusal x →
    (s.slot (slotKey (x.src / 16) (x.src % 16))).st = .save → x.fe = false →
    ∃ t, exec (.migrationRefused m.id) s = .next t ∧ t.me.wait = some .access ∧ t.me.st = .wait ∧ t.cores = s.cores ∧
      ∃ id, ⟨id, x.src / 16, x.src % 16, scrCore x.addr, .bank x.addr x.op x.kind x.d .ack,
        (s.slot (slotKey (x.src / 16) (x.src % 16))).tx⟩ ∈ t.fabric ∧ .bankAccessArrive id ∈ t.agenda) ∧
  (∀ (s : State) (m : Msg) (ea : Word) (op : AccessOp) (kd : LoadKind) (d : Reg) (p : Perf),
    findMsg s m.id = some m → behind s m = false → m.body = .bank ea op kd d .ack →
    performScratch s m.dst ea op (some (slotKey m.src m.srcSlot, .ack)) = some p → p.deferred = false →
    ∃ t, exec (.bankAccessArrive m.id) s = .next t ∧ (t.slot (slotKey m.src m.srcSlot)).answer = some (loadAnswer kd d p.old) ∧
      .accessComplete m.src m.srcSlot ∈ t.agenda ∧ t.cores = p.s.cores) ∧
  (∀ (s : State) (m : Msg) (ea : Word) (op : AccessOp) (kd : LoadKind) (d : Reg) (r : Reply),
    findMsg s m.id = some m → behind s m = false → m.body = .bank ea op kd d r → r ≠ .none →
    performScratch s m.dst ea op (some (slotKey m.src m.srcSlot, r)) = none →
    exec (.bankAccessArrive m.id) s = .next (s.post (.bankAccessArrive m.id)))

/-- Page classes step by R85, a reclassification ends with its granule's lines flushed and its entry written, and a
probe that times out ends the access (R84, R85, R86, R91, R105, R108, R348, R404).

Completes, each with a next state of its own effect: `reclassifyComplete`, `streamDetectorTimeout`,
`homeProbeTimeout`. -/
def Obligations.PageClassesAndProbes : Prop :=
  (∀ (e : BitVec 16) (c : Nat), c < 512 →
    (classOf e = 0 → classStep e none true = .set shared ∧ classStep e none false = .set shared ∧
      classStep e (some c) true = .set (privateTo c) ∧ classStep e (some c) false = .set readonly) ∧
    (classOf e = 1 → (∀ st, classStep e none st = .reclassify) ∧
      (ownerOf e = c → ∀ st, classStep e (some c) st = .keep) ∧ (ownerOf e ≠ c → ∀ st, classStep e (some c) st = .reclassify)) ∧
    (classOf e = 2 → ∀ w, classStep e w true = .reclassify ∧ classStep e w false = .keep) ∧
    (classOf e = 3 → ∀ w st, classStep e w st = .keep) ∧
    classOf (privateTo c) = 1 ∧ ownerOf (privateTo c) = c ∧ classOf readonly = 2 ∧ classOf shared = 3) ∧
  (∀ (s : State) (p : Nat) (pt : Part) (r : Reclass), s.parts = [(p, pt)] → pt.reclass = [r] →
    (granuleHeld s p r.gran = true → exec (.reclassifyComplete r.id) s = .next (s.post (.reclassifyComplete r.id))) ∧
    (∀ c, granuleHeld s p r.gran = false → (flushCores s p r).find? (fun c => (islandAt s (islandOf c)).gated) = some c →
      exec (.reclassifyComplete r.id) s = .next ((wakeIsland s (islandOf c)).post (.reclassifyComplete r.id))) ∧
    (granuleHeld s p r.gran = false → (∀ c ∈ flushCores s p r, (islandAt s (islandOf c)).gated = false) →
      ∃ t, exec (.reclassifyComplete r.id) s = .next t ∧
      look (t.part p).cls 0 r.gran = r.entry ∧ (t.part p).reclass = (if r.held = [] then [] else [{ r with ready := true }]) ∧
      (∀ g, g ≠ r.gran → look (t.part p).cls 0 g = look pt.cls 0 g) ∧ t.slots = s.slots ∧ t.hostMem = s.hostMem ∧
      t.devMem = (flushGranule s p r.gran (flushCores s p r)).devMem ∧
      (∀ c ∈ flushCores s p r, s.partOf c = p → ∀ va, va / 4096 = r.gran → l1At t c va = none) ∧
      (flushCores s p r = [] → t.devMem = s.devMem ∧ t.cores = s.cores))) ∧
  (∀ (s : State) (c pa : Nat) (sel : Nat → Bool) (e : Nat × L1Line), (s.core c).l1.filter (fun x => sel x.1) = [e] → e.2.loc = .dev pa →
    let t := flushLines s c sel
    t.core c = { s.core c with l1 := (s.core c).l1.filter fun x => !sel x.1 } ∧ (∀ k, k ≠ c → t.core k = s.core k) ∧
      (∀ i, i < 128 → readByte t.devMem (pa + i) =
        if e.2.dirty.getLsbD i = true then e.2.data.extractLsb' (8 * i) 8 else readByte s.devMem (pa + i)) ∧
      (∀ a, a < pa ∨ pa + 128 ≤ a → readByte t.devMem a = readByte s.devMem a) ∧ t.hostMem = s.hostMem ∧ t.slots = s.slots) ∧
  (∀ (s : State) (c k a p l : Nat) (ea : Word),
    let j := slotKey c k
    let u := s.slot j
    u.wait = some (.line p l ea) →
    (s.tick < u.waitSince + (if a < 512 ∧ (islandAt s (islandOf a)).gated = true then 50000 else 10000) →
      exec (.homeProbeTimeout c k a) s = .next (s.post (.homeProbeTimeout c k a))) ∧
    (u.waitSince + (if a < 512 ∧ (islandAt s (islandOf a)).gated = true then 50000 else 10000) ≤ s.tick →
      ∃ t, exec (.homeProbeTimeout c k a) s = .next t ∧ (t.slot j).wait = none ∧ (t.slot j).st = .ready ∧
        (t.slot j).pc = u.pc ∧ (t.slot j).x = u.x ∧ ⟨0xC0, ea, false⟩ ∈ (t.slot j).causes ∧
        t.hub.reports = s.hub.reports ++ [(a, 0xC0)] ∧ l ∈ (t.part p).stuck ∧ t.devMem = s.devMem)) ∧
  (∀ (d : Nat × Nat × Nat) (l : Loc) (miss : Bool) (tick : Nat),
    (d.1 = 7 → d.2.1 = l.pa / 128 → detect d l true tick = (8, nextOfSlice l, tick)) ∧
    (d.1 = 8 → d.2.1 = l.pa / 128 → tick < d.2.2 + 64 → detect d l miss tick = (8, nextOfSlice l, tick)) ∧
    (d.1 ≤ 8 → d.2.1 ≠ l.pa / 128 ∨ miss = false ∧ d.1 ≠ 8 → (detect d l miss tick).1 ≤ 1)) ∧
  (∀ (s : State) (x y : Nat), let d := look s.hub.detectors (0, 0, 0) (detectorKey x y)
    (d.1 ≠ 8 → exec (.streamDetectorTimeout x y) s = .next s) ∧
    (d.1 = 8 → s.tick < d.2.2 + 64 → exec (.streamDetectorTimeout x y) s = .next (s.post (.streamDetectorTimeout x y))) ∧
    (d.1 = 8 → d.2.2 + 64 ≤ s.tick → ∃ t, exec (.streamDetectorTimeout x y) s = .next t ∧
      look t.hub.detectors (0, 0, 0) (detectorKey x y) = (0, 0, 0) ∧
      (∀ k, k ≠ detectorKey x y → look t.hub.detectors (0, 0, 0) k = look s.hub.detectors (0, 0, 0) k) ∧
      t.slots = s.slots ∧ t.cores = s.cores ∧ t.devMem = s.devMem ∧ t.parts = s.parts))

/-- take, peek, put, fe.clr and fe.set act on a word and its tag as R225 gives, one waiter served per put (R97, R137,
R215, R217, R224, R225, R226).

Completes, each with a next state of its own effect: `take`, `put`, `peek`, `feClr`, `feSet`. -/
def Obligations.FullEmptyWords : Prop :=
  let word (s : State) (w : Nat) : Word := BitVec.ofNat 64 (bytesToNat (readBytes s.myCore.scratch (8 * w) 8))
  let frame (s t : State) (w : Nat) : Prop := t.me.x = s.me.x ∧ t.me.csr = s.me.csr ∧ t.me.pc = s.me.pc ∧
    (∀ c, c ≠ s.curCore → t.core c = s.core c) ∧ t.devMem = s.devMem ∧ t.hostMem = s.hostMem ∧
    (∀ v, v ≠ w → look t.myCore.tags false v = look s.myCore.tags false v ∧ look t.myCore.deferred [] v = look s.myCore.deferred [] v) ∧
    (∀ a, a < 8 * w ∨ 8 * w + 8 ≤ a → readByte t.myCore.scratch a = readByte s.myCore.scratch a)
  let tag (s : State) (w : Nat) : Bool := look s.myCore.tags false w
  let list (s : State) (w : Nat) : List Deferred := look s.myCore.deferred [] w
  (∀ (s : State) (d a : Reg) (o : BitVec 16), Clear false { reads := [xreg a], vwrites := [xreg d] } s →
    let ea := readX s a + o.signExtend 64
    let w := scrOff ea / 8
    ThroughScratch s ea 8 8 .feRead →
    (tag s w = true → (∃ t, exec (.take d a o) s = .next t ∧ frame s t w ∧ AwaitsAccess s t [(xreg d, (word s w).setWidth 512)] ∧
        tag t w = false ∧ word t w = word s w) ∧
      (∃ t, exec (.peek d a o) s = .next t ∧ frame s t w ∧ AwaitsAccess s t [(xreg d, (word s w).setWidth 512)] ∧
        tag t w = true ∧ word t w = word s w)) ∧
    (tag s w = false → mayList s.myCore w = false → ∀ i ∈ [Instr.take d a o, .peek d a o], exec i s =
      .next (trapI (unbound s) 0x40 (ea ||| 0x8000000000000000#64))) ∧
    (tag s w = false → 32 ≤ bankEntries s.myCore (w % 16) → mayList s.myCore w = true →
      ∃ t, exec (.take d a o) s = .next t ∧ t.me.x = s.me.x ∧ t.me.wait = some (.deferred ea.toNat) ∧
        list t w = list s w ++ [⟨s.cur, true, d, true⟩] ∧ tag t w = false ∧ word t w = word s w) ∧
    (tag s w = false → bankEntries s.myCore (w % 16) < 32 →
      (∃ t, exec (.take d a o) s = .next t ∧ frame s t w ∧ t.me.wait = some (.deferred ea.toNat) ∧ t.me.st = .wait ∧
        list t w = list s w ++ [⟨s.cur, true, d, false⟩] ∧ tag t w = false) ∧
      (∃ t, exec (.peek d a o) s = .next t ∧ frame s t w ∧ t.me.wait = some (.deferred ea.toNat) ∧
        list t w = list s w ++ [⟨s.cur, false, d, false⟩] ∧ tag t w = false))) ∧
  (∀ (s : State) (d a b : Reg) (o : BitVec 16), Clear false { reads := [xreg a, xreg b], vwrites := [xreg d] } s →
    let ea := readX s a + o.signExtend 64
    let w := scrOff ea / 8
    ThroughScratch s ea 8 8 .feWrite → fenced s s.cur 4 = true →
    (tag s w = true → ∃ t, exec (.put d a b o) s = .next t ∧ frame s t w ∧ AwaitsAccess s t [(xreg d, 1)] ∧
      tag t w = true ∧ word t w = word s w) ∧
    (tag s w = false → list s w = [] → ∃ t, exec (.put d a b o) s = .next t ∧ frame s t w ∧
      AwaitsAccess s t [(xreg d, 0)] ∧ tag t w = true ∧ word t w = readX s b) ∧
    (∀ e es, tag s w = false → list s w = e :: es → e.take = true → e.slot ≠ s.cur →
      ∃ t, exec (.put d a b o) s = .next t ∧ AwaitsAccess s t [(xreg d, 0)] ∧ tag t w = false ∧ list t w = es ∧
        word t w = readX s b ∧ (t.slot e.slot).answer = some [(xreg e.d, (readX s b).setWidth 512)] ∧
        .accessComplete (e.slot / 16) (e.slot % 16) ∈ t.agenda)) ∧
  (∀ (s : State) (a : Reg) (o : BitVec 16), Clear false { reads := [xreg a] } s →
    let ea := readX s a + o.signExtend 64
    let w := scrOff ea / 8
    ThroughScratch s ea 8 8 .feWrite →
    (∃ t, exec (.feClr a o) s = .next t ∧ frame s t w ∧ AwaitsAccess s t [] ∧ tag t w = false ∧ list t w = list s w) ∧
    (list s w = [] → ∃ t, exec (.feSet a o) s = .next t ∧ frame s t w ∧ AwaitsAccess s t [] ∧ tag t w = true ∧ word t w = word s w)) ∧
  (∀ (s : State) (m : Msg) (addr : Nat) (d : Reg), findMsg s m.id = some m → behind s m = false → m.body = .fe addr .take d →
    segmentBusy (s.core m.dst) (addr / 4096) = false → look (s.core m.dst).tags false (addr / 8) = true →
    ∃ t, exec (.bankAccessArrive m.id) s = .next t ∧ look (t.core m.dst).tags false (addr / 8) = false ∧
      (t.slot (slotKey m.src m.srcSlot)).answer = some [(xreg d, (dataWord s m.dst (addr / 8)).setWidth 512)] ∧
      .accessComplete m.src m.srcSlot ∈ t.agenda)

/-- The atomics give the old value to Rd and store R234's new value at EA, exactly their width, at the home or in the
first-level cache (R87, R215, R217, R234, R235, R236, R238). cas stores only on equality.

Completes, each with a next state of its own effect: `amoAdd`, `amoAnd`, `amoOr`, `amoXor`, `amoSwap`, `amoMin`,
`amoMax`, `amoMinZ`, `amoMaxZ`, `amoCas`, `amoFadd`, `faddC`. -/
def Obligations.Atomics : Prop :=
  let frame (s t : State) : Prop := t.me.x = s.me.x ∧ t.me.f = s.me.f ∧ t.me.csr = s.me.csr ∧ t.me.pc = s.me.pc ∧
    (∀ k, k ≠ s.cur → t.slot k = s.slot k)
  let int (n v : Nat) : Int := (BitVec.ofNat (8 * n) v).toInt
  let ext (n : Nat) (signed : Bool) (v : Nat) : Vec :=
    (if signed then (BitVec.ofNat (8 * n) v).signExtend 64 else (BitVec.ofNat 64 v)).setWidth 512
  let req (s : State) (a : Reg) (n : Nat) : GReq := { ea := readX s a, n := n, align := n, store := true, atomic := true }
  let does (i : Instr) (s : State) (ea : Word) (l : Loc) (n : Nat) (ans : List (RegId × Vec)) (new : Nat) : Prop :=
    ∃ t, exec i s = .next t ∧ frame s t ∧ AwaitsAccess s t ans ∧ Stores s t ea.toNat l (natToBytes n new)
  (∀ (s : State) (d a b : Reg) (wd : AtomW) (l : Loc), Clear false { reads := [xreg a, xreg b], vwrites := [xreg d] } s →
    let n := atomBytes wd
    let x := valueSeen s s.curCore (readX s a).toNat l n
    let y := (readX s b).toNat % 2 ^ (8 * n)
    let ans := [(xreg d, ext n (n == 4) x)]
    let amo (sent : Bool) (i : Instr) (new : Nat) : Prop := ThroughReq s (req s a n) (mappingPermits sent) l →
      does i s (readX s a) l n ans new
    amo true (.amoAdd d a b wd) ((x + y) % 2 ^ (8 * n)) ∧ amo false (.amoAnd d a b wd) (x &&& y) ∧
    amo false (.amoOr d a b wd) (x ||| y) ∧ amo false (.amoXor d a b wd) (x ^^^ y) ∧ amo true (.amoSwap d a b wd) y ∧
    amo false (.amoMin d a b wd) (if int n y < int n x then y else x) ∧
    amo false (.amoMax d a b wd) (if int n x < int n y then y else x) ∧
    amo false (.amoMinZ d a b wd) (min x y) ∧ amo false (.amoMaxZ d a b wd) (max x y)) ∧
  (∀ (s : State) (d a b : Reg) (wd : CasW) (l : Loc), wd ≠ .q → Clear false { reads := [xreg a, xreg b, xreg d], vwrites := [xreg d] } s →
    let n := if wd = .w then 4 else 8
    let x := valueSeen s s.curCore (readX s a).toNat l n
    ThroughReq s (req s a n) (mappingPermits true) l →
    ∃ t, exec (.amoCas d a b wd) s = .next t ∧ frame s t ∧ AwaitsAccess s t [(xreg d, ext n (n == 4) x)] ∧
      (x = (readX s d).toNat % 2 ^ (8 * n) →
        Stores s t (readX s a).toNat l (natToBytes n ((readX s b).toNat % 2 ^ (8 * n)))) ∧
      (x ≠ (readX s d).toNat % 2 ^ (8 * n) → OnlyLoads s t s.curCore (readX s a).toNat l)) ∧
  (∀ (s : State) (d a b : Reg) (l : Loc),
    Clear false { reads := [xreg a] ++ runX b 2 ++ runX d 2, vwrites := runX d 2, bad := orBad (badRun b 2) (badRun d 2) } s →
    let x := valueSeen s s.curCore (readX s a).toNat l 16
    let pair (r : Reg) : Nat := (readX s r).toNat + 2 ^ 64 * (readX s (r + 1)).toNat
    ThroughReq s (req s a 16) (mappingPermits true) l →
    ∃ t, exec (.amoCas d a b .q) s = .next t ∧ frame s t ∧
      AwaitsAccess s t [(xreg d, BitVec.ofNat 512 (x % 2 ^ 64)), (xreg (d + 1), BitVec.ofNat 512 (x / 2 ^ 64))] ∧
      (x = pair d → Stores s t (readX s a).toNat l (natToBytes 16 (pair b))) ∧
      (x ≠ pair d → OnlyLoads s t s.curCore (readX s a).toNat l)) ∧
  (∀ (s : State) (d a b : Reg) (l : Loc), Clear false { reads := [xreg a, xreg b], vwrites := [xreg d] } s →
    let old (n : Nat) : Nat := valueSeen s s.curCore (readX s a).toNat l n
    (ThroughReq s (req s a 4) (mappingPermits false) l →
      does (.amoFadd d a b) s (readX s a) l 4 [(xreg d, ext 4 false (old 4))]
        (fpAdd fp32 (rndOfCode (s.me.csr.rmode.toNat % 8)) (old 4) ((readX s b).toNat % 2 ^ 32)).1) ∧
    (ThroughReq s (req s a 8) (fun l => !l.isHost) l →
      does (.faddC d a b) s (readX s a) l 8 [(xreg d, ext 8 false (old 8))] ((old 8 + (readX s b).toNat) % 2 ^ 64)))

/-- A reduction leaves the slot at once, counted as pending, and is applied where it completes; at eight pending it
waits (R216, R217, R222, R234, R237).

Completes, each with a next state of its own effect: `redAdd`, `redAnd`, `redOr`, `redXor`, `redMin`, `redMax`,
`redMinZ`, `redMaxZ`, `redFadd`, `relaxedAccessComplete`. -/
def Obligations.Reductions : Prop :=
  (∀ (s : State) (a b : Reg) (wd : AtomW) (l : Loc), Clear false { reads := [xreg a, xreg b] } s →
    let sends (i : Instr) (op : AtomOp) (n : Nat) (sent : Bool) : Prop :=
      checkGlobal s { ea := readX s a, n := n, align := n, store := true, red := true } (mappingPermits sent) = .ok l →
      inRecon s = false → logged (s.part s.myPart) s.me (readX s a).toNat = false → s.me.lease = none →
      ((s.me.relaxed.filter (·.red)).length < 8 → ∃ t r, exec i s = .next t ∧ OnlyGoesOn s t ∧
        t.me.relaxed = s.me.relaxed ++ [r] ∧ r.addr = readX s a ∧ r.loc = some l ∧ r.red = true ∧
        r.op = .atomic op n (BitVec.ofNat 128 ((readX s b).toNat % 2 ^ (8 * n))) 0 (s.me.csr.rmode.toNat % 8) ∧
        .relaxedAccessComplete s.curCore s.curSlot r.id ∈ t.agenda) ∧
      (8 ≤ (s.me.relaxed.filter (·.red)).length → ∃ t, exec i s = .next t ∧ OnlyWaits s t ∧ t.me.wait = some .pending)
    let n := match wd with | .w => 4 | .d => 8
    sends (.redAdd a b wd) .add n true ∧ sends (.redAnd a b wd) .and n false ∧ sends (.redOr a b wd) .or n false ∧
    sends (.redXor a b wd) .xor n false ∧ sends (.redMin a b wd) .min n false ∧ sends (.redMax a b wd) .max n false ∧
    sends (.redMinZ a b wd) .minZ n false ∧ sends (.redMaxZ a b wd) .maxZ n false ∧ sends (.redFadd a b) .fadd 4 false) ∧
  (∀ (s : State) (c k : Nat) (r : Relaxed) (l : Loc) (op : AtomOp) (n rm : Nat) (v : BitVec 128), let j := slotKey c k
    let p := s.partOf (j / 16)
    let x := valueSeen s (j / 16) r.addr.toNat l n
    (s.slot j).relaxed = [r] → r.space = .global → r.loc = some l → r.op = .atomic op n v 0 rm → r.kind = .none → 0 < n →
    op ≠ .cas → behindHeld s p r.addr.toNat (ticket r.id) = false →
    (touch s p r.addr.toNat l (some (j / 16)) true).2 = true → lineOpen s p l.key (ticket r.id) = true →
    NoConversion (s.part p) r.addr.toNat r.op.extent → rangeAt s p r.addr.toNat = none →
    (servedHome s p r.addr.toNat l = false → r.addr.toNat % 128 + n ≤ 128) →
    ∃ t, exec (.relaxedAccessComplete c k r.id) s = .next t ∧
      (let bs := natToBytes n (newValue op n x v.toNat 0 rm)
       StoredIn s t (j / 16) r.addr.toNat l n (fun i => bs[i]?)) ∧
      (otherCopies s (j / 16) l = [] → (t.slot j).relaxed = []))

/-- lease holds its line from then on, release commits its stores together and frees it, expiry abandons it (R133,
R227, R228, R229, R230, R232, R233).

Completes, each with a next state of its own effect: `lease`, `release`, `leaseHeld`, `leaseExpired`. -/
def Obligations.Leases : Prop :=
  (∀ (s : State) (d a : Reg) (l : Loc), Clear false { reads := [xreg a], vwrites := [xreg d] } s →
    let ea := readX s a
    let va := ea.toNat / 128 * 128
    checkGlobal s { ea := ea &&& ~~~127#64, n := 128, align := 1, store := true, atomic := true, lease := true }
      (fun l => match l with | .host _ c => c | .dev _ => true) = .ok l → l.isHost = false → s.me.lease = none →
    missingCode s (codeLines s.me) = none → (touch s s.myPart va l (some s.curCore) true).2 = true →
    behindHeld s s.myPart va s.cur = false → ownPending s s.cur .global va 128 = false →
    lineOpen s s.myPart l.key s.cur = true →
    ∃ t e, exec (.lease d a) s = .next t ∧ t.me.lease = some e ∧
      e.lines = [⟨l.key, va, false, lineSeen s s.curCore va l, 0⟩] ∧
      e.limit = (s.me.csr.leaselim.extractLsb' 0 13).toNat ∧ e.bounded = true ∧
      (lineQueue t s.myPart l.key).head? = some s.cur ∧ t.me.pc = nextPc s ∧ t.me.st = .ready ∧ t.me.x = s.me.x ∧
      (d ≠ 0 → t.me.vpend = s.me.vpend ++ [⟨s.nextId, [xreg d], some [0], 0, .plain⟩]) ∧
      .leaseExpired (s.cur / 16) (s.cur % 16) ∈ t.agenda ∧ t.devMem = s.devMem ∧ t.hostMem = s.hostMem ∧ t.cores = s.cores) ∧
  (∀ (s : State) (d : Reg), Clear false { vwrites := [xreg d] } s →
    (s.me.lease = none → RunsTo (exec (.release d) s) (writeVar s (xreg d) 1 0) (nextPc s)) ∧
    (∀ e x pa, s.me.lease = some e → e.lines = [x] → x.host = false → x.line = 2 * pa → x.va % 128 = 0 → inRecon s = false →
      rangeAt s s.myPart x.va = none → convAt (s.part s.myPart) x.va = none →
      classOf (classEntry (s.part s.myPart) x.va) ≠ 0 →
      ∃ t, exec (.release d) s = .next t ∧ t.me.lease = none ∧ AwaitsAccess s t [(xreg d, 0)] ∧ t.me.x = s.me.x ∧
        StoredIn s t s.curCore x.va (.dev (128 * pa)) 128
          (fun j => if x.mask.getLsbD j then some (x.data.extractLsb' (8 * j) 8) else none) ∧
        s.cur ∉ lineQueue t s.myPart x.line)) ∧
  (∀ (s : State) (c k : Nat) (e : Lease) (x : LeaseLine) (xs : List LeaseLine),
    (s.slot (slotKey c k)).lease = some e → e.lines = x :: xs →
    (e.bounded = true ∨ (s.core c).cyc < e.start + e.limit → exec (.leaseExpired c k) s = .next (s.post (.leaseExpired c k))) ∧
    (e.bounded = false → e.start + e.limit ≤ (s.core c).cyc → ∃ t, exec (.leaseExpired c k) s = .next t ∧
      (t.slot (slotKey c k)).lease = none ∧ (t.slot (slotKey c k)).x = (s.slot (slotKey c k)).x ∧
      (t.slot (slotKey c k)).causes = (s.slot (slotKey c k)).causes ++ [⟨0x41, BitVec.ofNat 64 x.va, true⟩] ∧
      t.devMem = s.devMem ∧ t.hostMem = s.hostMem)) ∧
  (∀ (s : State) (c k : Nat), (s.slot (slotKey c k)).lease = none → exec (.leaseExpired c k) s = .next s) ∧
  (∀ (s : State) (c k key : Nat) (d : Reg) (r : RegId) (va : Vec), let u : State := { s with curCore := c, curSlot := k }
    u.me.wait = some (.leaseLine key d) → u.me.answer = some [(r, va)] → key % 2 = 0 → u.me.lease = none → k < 16 →
    lineOpen u u.myPart key u.cur = true → d ≠ 0 →
    ∃ t e, exec (.leaseHeld c k) s = .next t ∧ t.me.lease = some e ∧ e.lines.map (·.line) = [key] ∧ e.lines.map (·.va) = [va.toNat] ∧
      t.me.wait = none ∧ t.me.st = .ready ∧ t.me.x = u.me.x ∧
      t.me.pend = u.me.pend ++ [⟨some (xreg d), 0, (s.core c).cyc, 0⟩] ∧ t.devMem = s.devMem)

/-- A fence completes exactly when the earlier accesses in its scope and the stores the slot has read have; after dev
scope no old copy is served (R125, R130, R131, R132, R239). Otherwise it waits and nothing changes.

Completes, each with a next state of its own effect: `fenceSlot`, `fenceCore`, `fenceTray`, `fenceDie`, `fenceDev`,
`fencePod`, `fenceSys`. -/
def Obligations.Fences : Prop :=
  ∀ (s : State), Clear false {} s →
    let fences : List (Instr × Nat) := [(.fenceSlot, 0), (.fenceCore, 1), (.fenceTray, 2), (.fenceDie, 3), (.fenceDev, 4),
      (.fencePod, 5), (.fenceSys, 6)]
    let b (scope : Nat) : State := if 4 ≤ scope then noneStale s s.cur else s
    (∀ e ∈ fences, (fenced s s.cur e.2 = true → RunsTo (exec e.1 s) (b e.2) (nextPc s)) ∧
      (fenced s s.cur e.2 = false → ∃ t, exec e.1 s = .next t ∧ OnlyWaits s t ∧ t.me.wait = some (.fence e.2) ∧ t.agenda = s.agenda)) ∧
    RunsTo (exec .fenceSlot s) s (nextPc s) ∧
    (fenced s s.cur 6 = true → ∀ e ∈ fences, RunsTo (exec e.1 s) (b e.2) (nextPc s)) ∧
    ∀ pa, pa < 2 ^ 39 → copyAt s (s.cur / 16 / 128) (.dev pa) ≠ none → pa / 128 ∈ (noneStale s s.cur).me.oldCopies

/-- bar.init, bar.arr, bar.wait, bar.sync and bar.inv act on the barrier's word as R242 gives, locally or when they
arrive (R95, R137, R240, R241, R242, R243).

Completes, each with a next state of its own effect: `barInit`, `barArr`, `barWait`, `barSync`, `barInv`,
`barrierOpArrive`. -/
def Obligations.Barriers : Prop :=
  let frame (s t : State) : Prop := t.me.x = s.me.x ∧ t.me.f = s.me.f ∧ t.me.csr = s.me.csr ∧ t.me.pc = s.me.pc ∧
    (∀ k, k ≠ s.cur → t.slot k = s.slot k) ∧ (∀ c, c ≠ s.curCore → t.core c = s.core c) ∧ t.devMem = s.devMem ∧ t.hostMem = s.hostMem
  (∀ (s : State) (a b : Reg), Clear false { reads := [xreg a, xreg b] } s →
    let n := readX s a
    let spec := readX s b
    (goodName s s.myPart n = false ∨ spec.toNat % 2 ^ 16 = 0 → exec (.barInit a b) s = .next (trapI s 0x45 n)) ∧
    (goodName s s.myPart n = true → n.toNat / 2 ^ 16 = s.curCore → spec.toNat < 2 ^ 17 → spec.toNat % 2 ^ 16 ≠ 0 →
      mayUse s s.cur s.curCore (spec.getLsbD 16) = true → (barOf s n.toNat).live = false →
      ∃ t, exec (.barInit a b) s = .next t ∧ frame s t ∧ AwaitsAccess s t [] ∧
        barOf t n.toNat = ⟨true, spec.getLsbD 16, 0, spec.toNat % 2 ^ 16, 0, []⟩)) ∧
  (∀ (s : State) (d a : Reg), Clear false { reads := [xreg a], vwrites := [xreg d] } s →
    let n := readX s a
    let b := barOf s n.toNat
    (barRefused s n true = true → exec (.barArr d a) s = .next (trapI s 0x45 n) ∧ exec (.barSync d a) s = .next (trapI s 0x45 n)) ∧
    (barRefused s n true = false → fenced s s.cur 4 = true → n.toNat / 2 ^ 16 = s.curCore → b.arrived + 1 < 2 ^ 16 →
      (b.arrived + 1 ≠ b.expect → (∃ t, exec (.barArr d a) s = .next t ∧ frame s t ∧
          AwaitsAccess s t [(xreg d, (BitVec.ofNat 64 b.gen).setWidth 512)] ∧ barOf t n.toNat = { b with arrived := b.arrived + 1 }) ∧
        (∃ t, exec (.barSync d a) s = .next t ∧ frame s t ∧ t.me.wait = some (.barrier n.toNat b.gen d true) ∧ t.me.st = .wait ∧
          barOf t n.toNat = { b with arrived := b.arrived + 1, waiters := b.waiters ++ [(s.cur, b.gen)] })) ∧
      (b.arrived + 1 = b.expect → b.waiters = [] → b.gen + 1 < 2 ^ 16 → b.tray = true → s.saved = [] →
        (∃ t, exec (.barArr d a) s = .next t ∧ frame s t ∧ AwaitsAccess s t [(xreg d, (BitVec.ofNat 64 b.gen).setWidth 512)] ∧
          barOf t n.toNat = { b with gen := b.gen + 1, arrived := 0 }) ∧
        (∃ t, exec (.barSync d a) s = .next t ∧ frame s t ∧ AwaitsAccess s t [(xreg d, 0)] ∧
          barOf t n.toNat = { b with gen := b.gen + 1, arrived := 0 })))) ∧
  (∀ (s : State) (d a b : Reg), Clear false { reads := [xreg a, xreg b], vwrites := [xreg d] } s →
    let n := readX s a
    let g := readX s b
    barRefused s n true = false → g.toNat < 2 ^ 16 → n.toNat / 2 ^ 16 = s.curCore →
    ((barOf s n.toNat).gen ≠ g.toNat → ∃ t, exec (.barWait d a b) s = .next t ∧ frame s t ∧ AwaitsAccess s t [(xreg d, 0)] ∧
      t.cores = s.cores) ∧
    ((barOf s n.toNat).gen = g.toNat → ∃ t, exec (.barWait d a b) s = .next t ∧ frame s t ∧ t.me.st = .wait ∧
      t.me.wait = some (.barrier n.toNat g.toNat d false) ∧
      barOf t n.toNat = { barOf s n.toNat with waiters := (barOf s n.toNat).waiters ++ [(s.cur, g.toNat)] })) ∧
  (∀ (s : State) (a : Reg), Clear false { reads := [xreg a] } s → let n := readX s a
    barRefused s n false = false → n.toNat / 2 ^ 16 = s.curCore → (barOf s n.toNat).live = true → (barOf s n.toNat).waiters = [] →
    s.saved = [] → ∃ t, exec (.barInv a) s = .next t ∧ frame s t ∧ AwaitsAccess s t [] ∧ (barOf t n.toNat).live = false) ∧
  (∀ (s : State) (m : Msg) (name : Nat) (d : Reg), findMsg s m.id = some m → behind s m = false → m.body = .bar name .arr d →
    (s.slot (slotKey m.src m.srcSlot)).wait = some .access → let b := barOf s name
    b.live = true → b.arrived + 1 ≠ b.expect → b.arrived + 1 < 2 ^ 16 →
    ∃ t, exec (.barrierOpArrive m.id) s = .next t ∧ barOf t name = { b with arrived := b.arrived + 1 } ∧
      (t.slot (slotKey m.src m.srcSlot)).answer = some [(xreg d, (BitVec.ofNat 64 b.gen).setWidth 512)] ∧
      .accessComplete m.src m.srcSlot ∈ t.agenda) ∧
  (∀ (s : State) (m : Msg) (name : Nat) (op : BarOp) (d : Reg), findMsg s m.id = some m → behind s m = false → m.body = .bar name op d →
    let k := slotKey m.src m.srcSlot
    let b := barOf s name
    (∀ u v, barOp (dropMsg s m.id) name op k = .done u v →
      (∀ n g e sync, (u.slot k).wait = some (.barrier n g e sync) → exec (.barrierOpArrive m.id) s = .next (wakeWaiter u k v)) ∧
      ((u.slot k).wait = some .access → ∃ t, exec (.barrierOpArrive m.id) s = .next t ∧ t.cores = u.cores ∧
        (t.slot k).answer = some (if op = .arr then statusIn d v else []) ∧ .accessComplete m.src m.srcSlot ∈ t.agenda)) ∧
    (∀ g n h e sync, b.live = true → op = .wait g → b.gen = g → (s.slot k).wait = some (.barrier n h e sync) →
      ∃ t, exec (.barrierOpArrive m.id) s = .next t ∧ barOf t name = { b with waiters := b.waiters ++ [(k, g)] } ∧
        (t.slot k).wait = some (.barrier n g e sync) ∧ (t.slot k).x = (s.slot k).x ∧ ∀ j, j ≠ k → t.slot j = s.slot j))

/-- msg.send reaches the core's queue of 32 or is refused; sub.on, sub.own and sub.off move a segment through the
states of R102 (R98, R101, R102, R103, R137, R244, R245).

Completes, each with a next state of its own effect: `msgSend`, `msgDeliver`, `subOn`, `subOwn`, `subOff`,
`subscriptionUpdate`, `initialCopy`, `intransitDone`. -/
def Obligations.MessagesAndSubscriptions : Prop :=
  (∀ (s : State) (d a b : Reg), Clear false { reads := xreg a :: plainV s [b], vwrites := [xreg d] } s → isBound s.me b = false →
    let n := readX s a
    (1024 ≤ n.toNat ∨ s.present n.toNat = false → exec (.msgSend d a b) s = .next (trapI s 0x25 n)) ∧
    (n.toNat < 1024 → s.present n.toNat = true → s.partOf n.toNat = s.myPart → (s.me.level = .u → inTray s s.cur n.toNat = true) →
      fenced s s.cur 4 = true → ∃ t m, exec (.msgSend d a b) s = .next t ∧ OnlyWaits s t ∧ t.me.wait = some .access ∧
        t.me.answer = some [(xreg d, 0)] ∧ t.fabric = s.fabric ++ [m] ∧ m.dst = n.toNat ∧ m.body = .mail (readV s b) 0 ∧
        .msgDeliver m.id ∈ t.agenda)) ∧
  (∀ (s : State) (m : Msg) (v : Vec) (i : Nat) (r : RegId) (w : Vec), findMsg s m.id = some m → behind s m = false →
    m.body = .mail v i → let k := slotKey m.src m.srcSlot
    (s.slot k).answer = some [(r, w)] → (s.slot k).wait = some .access →
    ∃ t, exec (.msgDeliver m.id) s = .next t ∧ .accessComplete m.src m.srcSlot ∈ t.agenda ∧
      (if (s.core m.dst).qi.length < 32 then (t.core m.dst).qi = (s.core m.dst).qi ++ [v] ∧ (t.slot k).answer = some [(r, 0)]
       else t.cores = s.cores ∧ (t.slot k).answer = some [(r, 1)])) ∧
  (∀ (s : State) (d a b : Reg) (pa : Nat), Clear false { reads := [xreg a, xreg b], vwrites := [xreg d] } s →
    let g := readX s a
    let r := readX s b
    g.toNat ≤ 250 → r.toNat < 2 ^ 57 → r.toNat % 4096 = 0 → (segOf s.myCore g.toNat).st = .none →
    subscribes s.myCore r.toNat = false →
    checkGlobal s { ea := r, n := 4096, align := 4096, store := false } (fun l => match l with | .dev _ => true | .host _ _ => false) = .ok (.dev pa) →
    reclassifying s s.myPart r.toNat = false → behindHeld s s.myPart r.toNat s.cur = false → classOf (classEntry (s.part s.myPart) r.toNat) = 3 → rangeAt s s.myPart r.toNat = none →
    rangesAtBank (s.part s.myPart) (.dev pa) < 256 →
    ∃ t, exec (.subOn d a b) s = .next t ∧ AwaitsAccess s t [(xreg d, 0)] ∧ segOf t.myCore g.toNat = ⟨r.toNat, .invalid, 0, none⟩ ∧
      rangeAt t s.myPart r.toNat = some ⟨.dev pa, 0, [(s.curCore, g.toNat)], []⟩ ∧ .initialCopy s.curCore g.toNat ∈ t.agenda ∧
      t.devMem = s.devMem ∧ t.me.x = s.me.x) ∧
  (∀ (s : State) (c g : Nat) (r : Range), (segOf (s.core c) g).st = .invalid →
    rangeAt s (s.partOf c) (segOf (s.core c) g).range = some r →
    ∃ t, exec (.initialCopy c g) s = .next t ∧ (segOf (t.core c) g).st = .shared ∧ (segOf (t.core c) g).seq = r.seq ∧
      readBytes (t.core c).scratch (4096 * g) 4096 = readBytes (memoryOf s r.loc) r.loc.addr 4096 ∧ t.devMem = s.devMem ∧ t.slots = s.slots) ∧
  (∀ (s : State) (d a : Reg) (r : Range), Clear false { reads := [xreg a], vwrites := [xreg d] } s → let g := readX s a
    g.toNat ≤ 250 → (segOf s.myCore g.toNat).st = .shared → rangeAt s s.myPart (segOf s.myCore g.toNat).range = some r →
    (r.subs.length = 1 → r.unacked = [] → ∃ t, exec (.subOwn d a) s = .next t ∧ AwaitsAccess s t [(xreg d, 0)] ∧
      segOf t.myCore g.toNat = { segOf s.myCore g.toNat with st := .owned } ∧ t.devMem = s.devMem) ∧
    (r.subs.length = 1 → pendingElsewhere r s.curCore = false → r.unacked ≠ [] →
      ∃ t, exec (.subOwn d a) s = .next t ∧ OnlyWaits s t ∧ t.me.wait = some .answered) ∧
    (r.subs.length ≠ 1 ∨ pendingElsewhere r s.curCore = true → ∃ t, exec (.subOwn d a) s = .next t ∧ AwaitsAccess s t [(xreg d, 1)] ∧ t.cores = s.cores)) ∧
  (∀ (s : State) (a : Reg), Clear false { reads := [xreg a] } s → let g := readX s a
    g.toNat ≤ 250 → (segOf s.myCore g.toNat).st = .shared → ∃ t, exec (.subOff a) s = .next t ∧ t.me.wait = some .access ∧
      (segOf t.myCore g.toNat).st = .intransit ∧ (segOf t.myCore g.toNat).leaving = some s.cur ∧
      .intransitDone s.curCore g.toNat ∈ t.agenda ∧ t.me.x = s.me.x) ∧
  (∀ (s : State) (c g k : Nat), (segOf (s.core c) g).st = .intransit → (segOf (s.core c) g).leaving = some k →
    updatesDue s (segOf (s.core c) g).range c = false →
    ∃ t, exec (.intransitDone c g) s = .next t ∧ segOf (t.core c) g = Seg.plain ∧ .accessComplete (k / 16) (k % 16) ∈ t.agenda) ∧
  (∀ (s : State) (m : Msg) (p range seq o g : Nat) (bs : List Byte) (w : Option (Nat × Reply)) (sg : Seg),
    findMsg s m.id = some m → behind s m = false → leasedUpdate s p range (offsets 0 bs) = false →
    m.body = .update p range seq o (offsets 0 bs) w → segmentOf (s.core m.dst) range = some (g, sg) →
    sg.st = .shared → seq = (sg.seq + 1) % 2 ^ 32 → sg.seq < 2 ^ 32 →
    ∃ t, exec (.subscriptionUpdate m.id) s = .next t ∧ readBytes (t.core m.dst).scratch (4096 * g) bs.length = bs ∧
      segOf (t.core m.dst) g = { sg with seq := seq } ∧ t.devMem = s.devMem)

/-- Vector integer instructions compute every lane as R252 says; with MK a lane whose VM bit is 0 keeps its value
(R80, R176, R183, R247, R248, R249, R252).

Completes, each with a next state of its own effect: `vaddInt`, `vsubInt`, `vmulInt`, `vmulh`, `vand`, `vor`, `vxor`,
`vsll`, `vsrl`, `vsra`, `vminInt`, `vmaxInt`, `vaddSat`, `vsubSat`, `vabsInt`. -/
def Obligations.VectorIntegers : Prop :=
  ∀ (s : State) (d a b : Reg) (sx : Bool) (c : VCtl), c.lt.isFloat = false →
    let w := c.lt.bits
    let n := (if c.x2 then 2 else 1) * (512 / w)
    let A (k : Nat) : Nat := laneAt w k (fieldVal s c.x2 a)
    let B (k : Nat) : Nat := secondLane s c sx b k
    let sh (k : Nat) : Nat := B k % w
    let lo : Int := if c.lt.isSigned then -2 ^ (w - 1) else 0
    let hi : Int := if c.lt.isSigned then 2 ^ (w - 1) - 1 else 2 ^ w - 1
    let runs (i : Instr) (f : Nat → Nat) : Prop := LanesRun (exec i s) s c 2 d n f (fun _ => 0)
    let ints (i : Instr) (f : Int → Int → Int) : Prop :=
      runs i fun k => (f (laneNum c.lt (A k)) (laneNum c.lt (B k)) % 2 ^ w).toNat
    (LaneClear s c false sx d a b →
      ints (.vaddInt d a b sx c) (fun x y => x + y) ∧ ints (.vsubInt d a b sx c) (fun x y => x - y) ∧
      ints (.vmulInt d a b sx c) (fun x y => x * y) ∧ ints (.vmulh d a b sx c) (fun x y => x * y / 2 ^ w) ∧
      ints (.vminInt d a b sx c) (fun x y => if x < y then x else y) ∧
      ints (.vmaxInt d a b sx c) (fun x y => if x < y then y else x) ∧
      ints (.vaddSat d a b sx c) (fun x y => max lo (min hi (x + y))) ∧
      ints (.vsubSat d a b sx c) (fun x y => max lo (min hi (x - y))) ∧
      runs (.vand d a b sx c) (fun k => A k &&& B k) ∧ runs (.vor d a b sx c) (fun k => A k ||| B k) ∧
      runs (.vxor d a b sx c) (fun k => A k ^^^ B k) ∧ runs (.vsll d a b sx c) (fun k => A k * 2 ^ sh k) ∧
      runs (.vsrl d a b sx c) (fun k => A k / 2 ^ sh k) ∧
      runs (.vsra d a b sx c) (fun k => ((BitVec.ofNat w (A k)).sshiftRight (sh k)).toNat)) ∧
    (VecClear s c.x2 c.merge d [a] [] →
      runs (.vabsInt d a c) (fun k => (|laneNum c.lt (A k)| % 2 ^ w).toNat))

/-- Vector floating-point instructions and FMA compute every lane in the lane format and OR the lanes' flags into the
result's (R80, R146, R147, R148, R149, R176, R183, R248, R253, R254).

Completes, each with a next state of its own effect: `vaddFp`, `vsubFp`, `vmulFp`, `vminFp`, `vmaxFp`, `vabsFp`,
`vneg`, `vfma`, `vfms`, `vfnma`, `vfnms`. -/
def Obligations.VectorFloats : Prop :=
  (∀ (s : State) (d a b : Reg) (sx : Bool) (c : VCtl), c.lt.isFloat = true →
    let w := c.lt.bits
    let n := (if c.x2 then 2 else 1) * (512 / w)
    let fm := laneFmt c.lt
    let mode := rndOf s.me.csr.rmode c.rm
    let A (k : Nat) : Nat := laneAt w k (fieldVal s c.x2 a)
    let B (k : Nat) : Nat := secondLane s c sx b k
    let D (k : Nat) : Nat := laneAt w k (fieldVal s c.x2 d)
    let runs (i : Instr) (f : Nat → Nat × Word) : Prop := LanesRun (exec i s) s c 6 d n (fun k => (f k).1) (fun k => (f k).2)
    (LaneClear s c false sx d a b →
      runs (.vaddFp d a b sx c) (fun k => fpAdd fm mode (A k) (B k)) ∧ runs (.vsubFp d a b sx c) (fun k => fpSub fm mode (A k) (B k)) ∧
      runs (.vmulFp d a b sx c) (fun k => fpMul fm mode (A k) (B k)) ∧
      runs (.vminFp d a b sx c) (fun k => fpMinMax false fm (A k) (B k)) ∧
      runs (.vmaxFp d a b sx c) (fun k => fpMinMax true fm (A k) (B k))) ∧
    (LaneClear s c true sx d a b →
      runs (.vfma d a b sx c) (fun k => fpFma false false fm mode (A k) (B k) (D k)) ∧
      runs (.vfms d a b sx c) (fun k => fpFma false true fm mode (A k) (B k) (D k)) ∧
      runs (.vfnma d a b sx c) (fun k => fpFma true false fm mode (A k) (B k) (D k)) ∧
      runs (.vfnms d a b sx c) (fun k => fpFma true true fm mode (A k) (B k) (D k))) ∧
    (VecClear s c.x2 c.merge d [a] [] →
      runs (.vabsFp d a c) (fun k => fpSign fm false (A k)) ∧ runs (.vneg d a c) (fun k => fpSign fm true (A k)))) ∧
  (∀ (fm : Fmt) (mode : Rnd) (x y : Nat), fm ∈ [fp16, bf16, fp32] →
    let u := decodeFmt fm x
    let v := decodeFmt fm y
    let nv : Word := if signalling fm x || signalling fm y then flagNV else 0
    (u = .nan ∨ v = .nan → fpAdd fm mode x y = (fm.nan, nv) ∧ fpSub fm mode x y = (fm.nan, nv) ∧ fpMul fm mode x y = (fm.nan, nv)) ∧
    (∀ p, u = .inf p → v = .inf (!p) → fpAdd fm mode x y = (fm.nan, flagNV)) ∧
    (∀ p q e, u = .inf p → v = .fin q 0 e → fpMul fm mode x y = (fm.nan, flagNV)) ∧
    (∀ p m e q l f, u = .fin p m e → v = .fin q l f → 0 < e → 0 < f → let sum : Int := signedNum p m * f + signedNum q l * e
      (sum ≠ 0 → fpAdd fm mode x y = roundFixed fm mode (.fin (decide (sum < 0)) sum.natAbs (e * f))) ∧
      (sum = 0 → m ≠ 0 → fpAdd fm mode x y = (fm.withSign (mode == .rdn) 0, 0)) ∧
      fpMul fm mode x y = roundFixed fm mode (.fin (p != q) (m * l) (e * f))))

/-- A value that a lane format holds rounds to its own code with no flag in every mode; overflow and underflow raise
what R150 says (R146, R148, R149, R150). -/
def Obligations.ExactValuesRoundToThemselves : Prop :=
  ∀ fm ∈ [fp16, bf16, fp32], ∀ mode : Rnd,
    (∀ (p : Bool) (m e c : Nat), c < 2 ^ (fm.e + fm.m) → decodeFmt fm c = .fin false m e → 0 < m →
      roundFixed fm mode (.fin p m e) = (fm.withSign p c, 0)) ∧
    (∀ (p : Bool) (m e : Nat), 0 < e → e * 2 ^ (2 ^ (fm.e - 1)) ≤ m →
      roundFixed fm mode (.fin p m e) = (if mode = .rne ∨ mode = .rna ∨ mode = (if p then .rdn else .rup) then fm.inf p
        else fm.withSign p (fm.maxCode), flagNX ||| flagOF)) ∧
    (∀ (p : Bool) (m e : Nat), 0 < m → m * 2 ^ (2 ^ (fm.e - 1) - 2 + fm.m + 1) < e →
      roundFixed fm .rne (.fin p m e) = (fm.withSign p 0, flagNX ||| flagUF))

/-- vcmp gives one bit a lane and NaN makes every condition but ne false; vsel and the permutes move lanes as R255 and
R256 say (R147, R176, R183, R247, R248, R255, R256).

Completes, each with a next state of its own effect: `vcmpEq`, `vcmpNe`, `vcmpLt`, `vcmpGe`, `vcmpLe`, `vcmpGt`,
`vsel`, `vperm`, `vperm2`, `vbcast`, `vbcastl`, `vslup`, `vsldn`, `vins`, `vext`. -/
def Obligations.ComparesAndPermutes : Prop :=
  ∀ (s : State) (d a b : Reg) (idx : BitVec 8) (c : VCtl), c.x2 = false →
    let w := c.lt.bits
    let n := 512 / w
    let A (k : Nat) : Nat := laneAt w k (readV s a).toNat
    let B (k : Nat) : Nat := laneAt w k (readV s b).toNat
    let D (k : Nat) : Nat := laneAt w k (readV s d).toNat
    let live (k : Nat) : Bool := decide (k < n) && (!c.merge || s.me.csr.vm.getLsbD k)
    let u (k : Nat) : XVal := decodeFmt (laneFmt c.lt) (A k)
    let v (k : Nat) : XVal := decodeFmt (laneFmt c.lt) (B k)
    let nan (k : Nat) : Bool := u k == .nan || v k == .nan
    let nv (k : Nat) : Word :=
      if live k && c.lt.isFloat && (signalling (laneFmt c.lt) (A k) || signalling (laneFmt c.lt) (B k)) then flagNV else 0
    let bits (i : Instr) (f : Int → Int → Bool) (g : XVal → XVal → Bool) (ne : Bool) : Prop := ∃ r : Word,
      RunsTo (exec i s) (withFlagged s d 2 r (laneFlags nv n)) (nextPc s) ∧
      ∀ k, k < 64 → r.getLsbD k = (live k && (if c.lt.isFloat then (if nan k then ne else g (u k) (v k))
        else f (laneNum c.lt (A k)) (laneNum c.lt (B k))))
    (Clear false { reads := [vreg a, vreg b], writes := [xreg d] } s → isBound s.me a = false → isBound s.me b = false →
      bits (.vcmpEq d a b c) (fun x y => x == y) xequal false ∧ bits (.vcmpNe d a b c) (fun x y => x != y) (fun x y => !xequal x y) true ∧
      bits (.vcmpLt d a b c) (fun x y => decide (x < y)) xless false ∧ bits (.vcmpGe d a b c) (fun x y => decide (y ≤ x)) (fun x y => !xless x y) false ∧
      bits (.vcmpLe d a b c) (fun x y => decide (x ≤ y)) (fun x y => !xless y x) false ∧ bits (.vcmpGt d a b c) (fun x y => decide (y < x)) (fun x y => xless y x) false) ∧
    (VecClear s false false d [a, b] [] → ∃ r, RunsTo (exec (.vsel d a b c) s) (withVector s false d 2 r 0) (nextPc s) ∧
      ∀ k, k < n → laneAt w k r = if s.me.csr.vm.getLsbD k then A k else B k) ∧
    (let runs (i : Instr) (f : Nat → Nat) : Prop := LanesRun (exec i s) s c 2 d n f (fun _ => 0)
    (VecClear s false c.merge d [a, b] [] → runs (.vperm d a b c) (fun k => A (B k % n)) ∧
      runs (.vslup d a b idx c) (fun k => if idx.toNat ≤ k then A (k - idx.toNat) else B (n - idx.toNat + k)) ∧
      runs (.vsldn d a b idx c) (fun k => if k + idx.toNat < n then A (k + idx.toNat) else B (k + idx.toNat - n))) ∧
    (VecClear s false true d [a, b] [] → runs (.vperm2 d a b c) (fun k => let j := B k % (2 * n); if j < n then A j else D (j - n))) ∧
    (VecClear s false c.merge d [] [a] → runs (.vbcast d a c) (fun _ => (readX s a).toNat)) ∧
    (VecClear s false c.merge d [a] [] → runs (.vbcastl d a idx c) (fun _ => A idx.toNat)) ∧
    (VecClear s false true d [] [a] → runs (.vins d a idx c) (fun k => if k = idx.toNat then (readX s a).toNat else D k))) ∧
    (Clear false { reads := [vreg a], writes := [xreg d] } s → isBound s.me a = false →
      RunsTo (exec (.vext d a idx c) s) (withFlagged s d 2 (if c.lt.isSigned then BitVec.ofInt 64 (laneNum c.lt (A idx.toNat))
        else BitVec.ofNat 64 (A idx.toNat)) 0) (nextPc s))

/-- vred folds the lanes that VM enables; vcvt, vcvt.n and vcvt.w convert every element and leave the other groups
(R155, R156, R159, R162, R165, R176, R183, R247, R257, R258, R259, R260).

Completes, each with a next state of its own effect: `vredAdd`, `vredMin`, `vredMax`, `vredAnd`, `vredOr`, `vredXor`,
`vcvt`, `vcvtN`, `vcvtW`. -/
def Obligations.ReductionsAndConversions : Prop :=
  (∀ (s : State) (d a : Reg) (c : VCtl), Clear false { reads := [vreg a], vwrites := [xreg d] } s → isBound s.me a = false →
    let w := c.lt.bits
    let lanes : List Nat := ((List.range (512 / w)).filter fun k => s.me.csr.vm.getLsbD k).map fun k => laneAt w k (readV s a).toNat
    let ext (v : Nat) : Vec := if c.lt.isSigned then (BitVec.ofInt 64 (laneNum c.lt v)).setWidth 512 else BitVec.ofNat 512 v
    let gives (i : Instr) (v : Nat) (fl : Word) : Prop := RunsTo (exec i s) (writeVar s (xreg d) (ext v) fl) (nextPc s)
    let tree (f : Nat → Nat → Nat × Word) (e : Nat) : Nat × Word := reduceReg f c.lt e s.me.csr.vm (readV s a).toNat
    (c.lt.isFloat = false →
      gives (.vredAdd d a c) (lanes.sum % 2 ^ w) 0 ∧
      (∃ v : Nat, v < 2 ^ w ∧ gives (.vredMin d a c) v 0 ∧ (∀ x ∈ lanes, laneNum c.lt v ≤ laneNum c.lt x) ∧ (lanes ≠ [] → v ∈ lanes)) ∧
      (∃ v : Nat, v < 2 ^ w ∧ gives (.vredMax d a c) v 0 ∧ (∀ x ∈ lanes, laneNum c.lt x ≤ laneNum c.lt v) ∧ (lanes ≠ [] → v ∈ lanes)) ∧
      (∃ v : Nat, v < 2 ^ w ∧ gives (.vredAnd d a c) v 0 ∧ ∀ j, j < w → v.testBit j = lanes.all fun x => x.testBit j) ∧
      (∃ v : Nat, v < 2 ^ w ∧ gives (.vredOr d a c) v 0 ∧ ∀ j, j < w → v.testBit j = lanes.any fun x => x.testBit j) ∧
      (∃ v : Nat, v < 2 ^ w ∧ gives (.vredXor d a c) v 0 ∧ ∀ j, j < w → v.testBit j = decide ((lanes.countP fun x => x.testBit j) % 2 = 1))) ∧
    (c.lt.isFloat = true → let fm := laneFmt c.lt
      (let r := tree (fpAdd fm (rndOf s.me.csr.rmode c.rm)) (fm.withSign true 0); gives (.vredAdd d a c) r.1 r.2) ∧
      (let r := tree (fpMinMax false fm) (fm.inf false); gives (.vredMin d a c) r.1 r.2) ∧
      (let r := tree (fpMinMax true fm) (fm.inf true); gives (.vredMax d a c) r.1 r.2))) ∧
  (∀ (s : State) (d a : Reg) (g : BitVec 3) (st lt : LaneT) (rm : RmSel), VecClear s false (decide (lt.bits < st.bits)) d [a] [] →
    g.toNat * min st.bits lt.bits < max st.bits lt.bits →
    let n := 512 / max st.bits lt.bits
    let from_ := if st.bits < lt.bits then g.toNat * n else 0
    let to_ := if lt.bits < st.bits then g.toNat * n else 0
    let r (k : Nat) : Nat × Word := cvtLane st lt (rndOf s.me.csr.rmode rm) (laneAt st.bits (from_ + k) (readV s a).toNat)
    ∃ v, RunsTo (exec (.vcvt d a g st lt rm) s) (withVector s false d 4 v (laneFlags (fun k => (r k).2) n)) (nextPc s) ∧
      (∀ k, k < n → laneAt lt.bits (to_ + k) v = (r k).1 % 2 ^ lt.bits) ∧
      (∀ k, k < 512 / lt.bits → k < to_ ∨ to_ + n ≤ k → laneAt lt.bits k v = laneAt lt.bits k (readV s d).toNat)) ∧
  (∀ (s : State) (d a : Reg) (g : BitVec 3) (st : LaneT) (k : BitVec 2) (rm : RmSel), s.me.csr.scl[k.toFin] = 0 →
    let desc := s.me.csr.fmt[k.toFin]
    let fm := descFmt desc
    let es := if (desc.extractLsb' 0 4).toNat ≤ 4 then 4 else 8
    let n := 512 / st.bits
    let mode := rndOf s.me.csr.rmode rm
    es * n * g.toNat < 512 →
    (badDesc desc = true → Clear false (vecUses false true d [a] []) s → isBound s.me a = false → isBound s.me d = false →
      exec (.vcvtN d a 0 g st k rm) s = .next (trapI s 0x07 (k.setWidth 64))) ∧
    (badDesc desc = false → VecClear s false true d [a] [] →
      let x (i : Nat) : Nat := laneAt st.bits i (readV s a).toNat
      let r (i : Nat) : Nat × Word := match roundNarrow fm mode (decodeFmt (laneFmt st) (x i)) with
        | (some c, fl) => (c, (if signalling (laneFmt st) (x i) then flagNV else 0) ||| fl)
        | (none, _) => (saturate fm (decodeFmt (laneFmt st) (x i)), (if signalling (laneFmt st) (x i) then flagNV else 0) ||| flagOLOV ||| flagNX)
      ∃ v, RunsTo (exec (.vcvtN d a 0 g st k rm) s) (withVector s false d 4 v (laneFlags (fun i => (r i).2) n)) (nextPc s) ∧
        (∀ i, i < n → laneAt es (n * g.toNat + i) v = (r i).1 % 2 ^ es) ∧
        (∀ i, i < 512 / es → i < n * g.toNat ∨ n * g.toNat + n ≤ i → laneAt es i v = laneAt es i (readV s d).toNat)) ∧
    (badDesc desc = false → VecClear s false false d [a] [] →
      let c (i : Nat) : Nat := laneAt es (n * g.toNat + i) (readV s a).toNat
      let r (i : Nat) : Nat × Word := let y := roundFixed (laneFmt st) mode (decodeFmt fm (c i))
        (y.1, (if signalling fm (c i) then flagNV else 0) ||| y.2)
      ∃ v, RunsTo (exec (.vcvtW d a 0 g st k rm) s) (withVector s false d 4 v (laneFlags (fun i => (r i).2) n)) (nextPc s) ∧
        ∀ i, i < n → laneAt st.bits i v = (r i).1 % 2 ^ st.bits))

/-- Special functions compute every lane by R264; streams are configured, read ahead, branched on and stopped; top-k
sessions follow R266 to R268 (R71, R183, R261, R262, R263, R264, R265, R266, R267, R268).

Completes, each with a next state of its own effect: `strCfg`, `strStop`, `bstr`, `streamChunkArrive`, `vexp`,
`vexp2`, `vlog2`, `vrcp`, `vrsqrt`, `vsqrt`, `vsin`, `vcos`, `vtanh`, `vsigm`, `topkCfg`, `topkIn`, `topkOut`,
`topkMerge`, `topkChunk`. -/
def Obligations.SpecialFunctionsStreamsAndTopK : Prop :=
  (∀ (s : State) (d a : Reg) (c : VCtl), isBound s.me a = false → isBound s.me d = false →
    Clear false { reads := vreg a :: (if c.merge then [vreg d] else []), vwrites := [vreg d] } s →
    let w := c.lt.bits
    let live (k : Nat) : Bool := !c.merge || s.me.csr.vm.getLsbD k
    let runs (i : Instr) (fn : Nat) : Prop :=
      let y (k : Nat) : Nat × Word := sfLane fn (laneFmt c.lt) (rndOf s.me.csr.rmode c.rm) (laneAt w k (readV s a).toNat)
      ∃ t r, exec i s = .next t ∧ t.me.vpend = s.me.vpend ++ [⟨s.nextId, [vreg d], some [r],
          laneFlags (fun k => if live k then (y k).2 else 0) (512 / w),
          .special (s.myCore.cyc + if w = 32 then 12 else 13)⟩] ∧
        (∀ k, k < 512 / w → laneAt w k r.toNat = if live k then (y k).1 % 2 ^ w else laneAt w k (readV s d).toNat) ∧
        t.agenda = s.agenda ++ [.variableResultArrival s.curCore s.curSlot s.nextId] ∧ t.me.pc = nextPc s ∧ t.me.st = .ready ∧
        t.me.x = s.me.x ∧ t.me.f = s.me.f ∧ t.me.csr = s.me.csr ∧ (w = 16 → t.myCore.sfClosed = some (s.myCore.cyc + 1)) ∧
        (∀ k, k ≠ s.cur → t.slot k = s.slot k) ∧ t.devMem = s.devMem ∧ t.hostMem = s.hostMem
    runs (.vexp d a c) 0 ∧ runs (.vexp2 d a c) 1 ∧ runs (.vlog2 d a c) 2 ∧ runs (.vrcp d a c) 3 ∧ runs (.vrsqrt d a c) 4 ∧
    runs (.vsqrt d a c) 5 ∧ runs (.vsin d a c) 6 ∧ runs (.vcos d a c) 7 ∧ runs (.vtanh d a c) 8 ∧ runs (.vsigm d a c) 9) ∧
  (∀ fm ∈ [fp16, bf16, fp32], ∀ (mode : Rnd) (a : Nat),
    let f (fn : Nat) : Nat × Word := sfLane fn fm mode a
    let bad : Nat × Word := (fm.nan, flagNV)
    (decodeFmt fm a = .nan → ∀ fn, f fn = (fm.nan, if signalling fm a then flagNV else 0)) ∧
    (decodeFmt fm a = .inf true → [f 0, f 1, f 2, f 3, f 4, f 5, f 6, f 7, f 9] = [(0, 0), (0, 0), bad, (fm.withSign true 0, 0), bad, bad, bad, bad, (0, 0)]) ∧
    (decodeFmt fm a = .inf false → [f 0, f 1, f 2, f 3, f 4, f 5, f 6, f 7] =
      [(fm.inf false, 0), (fm.inf false, 0), (fm.inf false, 0), (0, 0), (0, 0), (fm.inf false, 0), bad, bad]) ∧
    (∀ p e, decodeFmt fm a = .fin p 0 e → [f 2, f 3, f 4, f 5, f 6, f 8] =
      [(fm.inf true, flagDZ), (fm.inf p, flagDZ), (fm.inf p, flagDZ), (a, 0), (a, 0), (a, 0)]) ∧
    (∀ m e, 0 < m → decodeFmt fm a = .fin true m e → [f 2, f 4, f 5] = [bad, bad, bad]) ∧
    (∀ p m e, 0 < m → decodeFmt fm a = .fin p m e → f 3 = roundFixed fm mode (.fin p e m) ∧
      (2 ^ 20 * e < m → f 6 = (fm.nan, flagSR) ∧ f 7 = (fm.nan, flagSR)))) ∧
  (∀ (s : State) (k : BitVec 2) (a : Reg), Clear false { reads := runX a 4, bad := badPrivateRun a 4 } s →
    let base := readX s a
    let len := readX s (a + 1)
    let stride := readX s (a + 2)
    let ctl := readX s (a + 3)
    let ew := 2 ^ (ctl.toNat / 16 % 4)
    let cleared := s.setMe { s.me with streams := s.me.streams.set k.toFin Stream.off }
    let good := ctl.toNat / 4 % 4 = 0 ∧ ctl.toNat < 64 ∧ len.toNat % ew = 0
    (base.toNat % 64 ≠ 0 → exec (.strCfg k a) s = .next (trapI cleared 0x20 base)) ∧
    (base.toNat % 64 = 0 → stride.toNat % 64 ≠ 0 → exec (.strCfg k a) s = .next (trapI cleared 0x20 stride)) ∧
    (base.toNat % 64 = 0 → stride.toNat % 64 = 0 → ¬ good → exec (.strCfg k a) s = .next (trapI cleared 0x64 ctl)) ∧
    (base.toNat % 64 = 0 → stride.toNat % 64 = 0 → good → ∃ t, exec (.strCfg k a) s = .next t ∧ t.me.pc = nextPc s ∧
      t.me.streams = s.me.streams.set k.toFin ⟨true, ctl.getLsbD 0, ctl.getLsbD 1, ew, base, len.toNat,
        if stride = 0 then 64 else stride.toNat, 0, 0, []⟩ ∧ t.me.x = s.me.x ∧ t.me.f = s.me.f ∧ t.me.st = .ready ∧
      (ctl.getLsbD 0 = false → t.agenda = s.agenda ++ [.streamChunkArrive s.curCore s.curSlot k.toNat]) ∧
      (∀ j, j ≠ s.cur → t.slot j = s.slot j) ∧ t.cores = s.cores ∧ t.devMem = s.devMem)) ∧
  (∀ (s : State) (k : BitVec 2) (off : BitVec 16), Clear false {} s →
    let tgt := (s.me.pc &&& ~~~63#64) + BitVec.ofInt 64 (64 * (off.toInt / 32)) + BitVec.ofNat 64 (2 * (off.toNat % 32))
    let st := s.me.streams[k.toFin]
    RunsTo (exec (.strStop k) s) (s.setMe { s.me with streams := s.me.streams.set k.toFin Stream.off }) (nextPc s) ∧
    (st.on = true → st.pos < (st.len + 63) / 64 → RunsTo (exec (.bstr k off) s) (if tgt.ule s.me.pc then unbound s else s) tgt) ∧
    (st.on = false ∨ (st.len + 63) / 64 ≤ st.pos → RunsTo (exec (.bstr k off) s) s (nextPc s))) ∧
  (∀ (s : State) (c n : Nat) (k : Fin 4) (l : Loc), let u : State := { s with curCore := c, curSlot := n }
    let st := u.me.streams[k]
    let ea := st.base + BitVec.ofNat 64 (st.fetched * st.stride)
    let len := min 64 (st.len - 64 * st.fetched)
    st.on = true → st.write = false → st.scratch = false → st.fetched < (st.len + 63) / 64 → st.ahead = [] → ea.toNat % 64 = 0 →
    ThroughReq u { ea := ea, n := len, align := 1, store := false } anyMapping l → n < 16 → copyAt s (c / 128) l = none →
    ∃ t, exec (.streamChunkArrive c n k) s = .next t ∧
      t.me.streams = u.me.streams.set k { st with fetched := st.fetched + 1, ahead := [.data (BitVec.ofNat 512 (valueSeen u c ea.toNat l len))] } ∧
      t.me.x = u.me.x ∧ t.me.f = u.me.f ∧ OnlyLoads u t c ea.toNat l) ∧
  (∀ (s : State) (a : Reg) (lt : LaneT) (smallest : Bool), Clear false { reads := [xreg a] } s →
    let v := readX s a
    let good := 0 < v.toNat % 512 ∧ v.toNat % 512 ≤ 256 ∧ v.toNat / 512 % 2 ^ 23 = 0
    (good → RunsTo (exec (.topkCfg a lt smallest) s) (s.setMe { s.me with
      topk := some ⟨lt, smallest, v.toNat % 512, BitVec.ofNat 32 (v.toNat / 2 ^ 32), [], true, []⟩, qk := [] }) (nextPc s)) ∧
    (¬ good → exec (.topkCfg a lt smallest) s = .next (trapI s 0x64 v))) ∧
  (∀ (s : State) (a : Reg) (t : TopK), isBound s.me a = false → Clear false { reads := [vreg a] } s → s.me.topk = some t →
    (t.isOpen = false → exec (.topkIn a) s = .next (trapI s 0x64 0) ∧ exec (.topkMerge a) s = .next (trapI s 0x64 0)) ∧
    (t.isOpen = true →
      (∃ u : TopK, RunsTo (exec (.topkIn a) s) (s.setMe { s.me with topk := some u }) (nextPc s) ∧ u.isOpen = true ∧ u.k = t.k ∧
        u.counter = t.counter + BitVec.ofNat 32 (512 / t.lt.bits) ∧ (s.me.csr.vm = 0 → u.held = t.held) ∧
        (∀ j, j < 512 / t.lt.bits → s.me.csr.vm = BitVec.ofNat 64 (2 ^ j) →
          u.held = (enterPair t ⟨BitVec.ofNat 32 (laneAt t.lt.bits j (readV s a).toNat), t.counter + BitVec.ofNat 32 j⟩).held)) ∧
      (∃ u : TopK, RunsTo (exec (.topkMerge a) s) (s.setMe { s.me with topk := some u }) (nextPc s) ∧ u.isOpen = true ∧
        u.counter = t.counter ∧ ((∀ j, j < 8 → laneAt 64 j (readV s a).toNat / 2 ^ 32 = 0xFFFFFFFF) → u.held = t.held)))) ∧
  (∀ (t : TopK) (p : KPair),
    (p.idx = 0xFFFFFFFF ∨ keyVal t.lt p.key = .nan → enterPair t p = t) ∧
    (p.idx ≠ 0xFFFFFFFF → keyVal t.lt p.key ≠ .nan → ∃ better worse, t.held = better ++ worse ∧
      enterPair t p = { t with held := (better ++ p :: worse).take t.k } ∧ (∀ b ∈ better, ranksBefore t p b = false) ∧
      ∀ b ∈ worse.head?, ranksBefore t p b = true)) ∧
  (∀ (s : State) (d : Reg) (t : TopK), Clear false { vwrites := [xreg d] } s → d ≠ 0 → s.me.topk = some t → t.out = [] →
    let n := t.held.length
    let pair (p : KPair) : Nat := p.key.toNat + p.idx.toNat * 2 ^ 32
    ∃ u q, exec (.topkOut d) s = .next u ∧ u.me.topk = some q ∧ q.isOpen = false ∧ q.out.length = max 1 ((n + 7) / 8) ∧
      (∀ j i, j < q.out.length → i < 8 → laneAt 64 i (q.out.getD j 0).toNat =
        match t.held[8 * j + i]? with | some p => pair p | none => 0xFFFFFFFF * 2 ^ 32) ∧
      u.me.vpend = s.me.vpend ++ [⟨s.nextId, [xreg d], some [BitVec.ofNat 512 n], 0, .plain⟩] ∧ u.me.pc = nextPc s ∧
      .topkChunk s.curCore s.curSlot ∈ u.agenda ∧ u.me.x = s.me.x ∧ u.cores = s.cores ∧ u.devMem = s.devMem) ∧
  (∀ (s : State) (c k : Nat) (t : TopK) (v : Vec) (vs : List Vec), (s.slot (slotKey c k)).topk = some t → t.out = v :: vs →
    ((s.slot (slotKey c k)).qk.length < 4 → ∃ u, exec (.topkChunk c k) s = .next u ∧
      (u.slot (slotKey c k)).qk = (s.slot (slotKey c k)).qk ++ [v] ∧ (u.slot (slotKey c k)).topk = some { t with out := vs } ∧
      (∀ j, j ≠ slotKey c k → u.slot j = s.slot j) ∧ u.cores = s.cores ∧ u.devMem = s.devMem) ∧
    (4 ≤ (s.slot (slotKey c k)).qk.length → exec (.topkChunk c k) s = .next s))

/-- os.claim to mx.drain enter the port in issue order with the holds and traps of R271 to R280; an unclaimed operand
slot is SLOT_STATE (R77, R183, R216, R270, R271, R273, R274, R275, R276, R278, R279, R280).

Completes, each with a next state of its own effect: `osClaim`, `osRel`, `osLdG`, `osLdS`, `osLdHr`, `osLdHc`,
`osStG`, `osStS`, `mxMul`, `mxMrot`, `mxZero`, `mxDrain`. -/
def Obligations.MatrixPort : Prop :=
  (∀ (s : State) (d : Reg) (os : BitVec 6), Clear false { vwrites := [xreg d] } s →
    (s.me.tx = none → exec (.osClaim d os) s = .next (trapI s 0x63 (os.setWidth 64))) ∧
    (s.me.tx ≠ none → s.myCore.port.length < 8 → ∃ t, exec (.osClaim d os) s = .next t ∧
      EntersPort s t (.claim os.toNat s.nextId) ∧ t.me.vpend = s.me.vpend ++ [⟨s.nextId, [xreg d], none, 0, .plain⟩]) ∧
    (s.me.tx ≠ none → 8 ≤ s.myCore.port.length → exec (.osClaim d os) s = .next (hold s .portRoom))) ∧
  (∀ (s : State) (a : Reg) (os : BitVec 6), claimsOs s os.toNat = false → Clear false { reads := [xreg a] } s →
    Clear false { reads := [xreg a, xreg 0] } s →
    ∀ i ∈ [Instr.osRel os, .osLdG a 0 os false, .osLdS a 0 os false, .osStG a os, .osStS a os],
      exec i s = .next (trapI s 0x63 (os.setWidth 64))) ∧
  (∀ (s : State) (os : BitVec 6), Clear false {} s → MayName s os.toNat →
    ∃ t, exec (.osRel os) s = .next t ∧ EntersPort s t (.release os.toNat)) ∧
  (∀ (s : State) (a : Reg) (os : BitVec 6) (n4 : Bool), Clear false { reads := [xreg a, xreg 0] } s → MayName s os.toNat →
    let ea := readX s a
    let o := osOf s.myCore os.toNat
    let loads (i : Instr) (src : OsSrc) : Prop := ∃ t, exec i s = .next t ∧ EntersPort s t (.load os.toNat src 0 [] [s.nextId]) ∧
      osOf t.myCore os.toNat = { o with st := .filling }
    o.st ≠ .filling → o.st ≠ .shipping →
    (∀ l, checkGlobal s { ea := ea, n := 4096, align := 4096, store := false } anyMapping = .ok l →
      loads (.osLdG a 0 os n4) (.bytes .global ea (some l) 0 0)) ∧
    (checkScratch s ea 4096 .load = none → scrWin ea ≠ 1 → loads (.osLdS a 0 os n4) (.bytes .scratch ea none 0 0))) ∧
  (∀ (s : State) (a b : Reg) (os : BitVec 6) (cols : Bool), Clear false { reads := [xreg b, xreg (b + 1)], bad := orBad (badHandle a) (badRun b 2) } s →
    MayName s os.toNat →
    let h := handleAt s.me a
    let r := h.record
    let o := osOf s.myCore os.toNat
    let kmax := 512 / recBits r
    let (c0, c1, c2, c3) := coordsOf s b
    let (m, i, j) := coordElem r c0 c1 c2 c3
    let vas := elemBytes r ((blockElems r m i j cols).map fun x => x.2.2)
    h.valid = true → h.reload = false → recEtype r ∈ [0, 2, 3, 4, 8] → recOutl r = false →
    (if cols then c0 % 64 = 0 ∧ c1 % kmax = 0 else c1 % 64 = 0 ∧ c0 % kmax = 0) → badCoord r c0 c1 c2 c3 = none →
    checkBytes s false vas = .ok (.dev 0) →
    o.st ≠ .filling → o.st ≠ .shipping →
    ∃ t, exec (if cols then .osLdHc a b os else .osLdHr a b os) s = .next t ∧
      EntersPort s t (.load os.toNat (.block r m i j cols) 0 [] [s.nextId]) ∧ osOf t.myCore os.toNat = { o with st := .filling }) ∧
  (∀ (s : State) (a : Reg) (os : BitVec 6), Clear false { reads := [xreg a] } s → MayName s os.toNat →
    let ea := readX s a
    let o := osOf s.myCore os.toNat
    o.st ≠ .empty → o.st ≠ .shipping →
    let ids := (List.range 64).map fun i => s.nextId + i
    (∀ l, checkGlobal s { ea := ea, n := 4096, align := 4096, store := true } anyMapping = .ok l →
      ∃ t, exec (.osStG a os) s = .next t ∧ EntersPort s t (.store os.toNat .global ea (some l) ids) ∧ t.myCore.os = s.myCore.os) ∧
    (checkScratch s ea 4096 .store = none → scrWin ea ≠ 1 →
      ∃ t, exec (.osStS a os) s = .next t ∧ EntersPort s t (.store os.toNat .scratch ea none ids) ∧ t.myCore.os = s.myCore.os)) ∧
  (∀ (s : State) (f : MxFields), Clear false {} s → badShadow s f.fa = none → badShadow s f.fb = none →
    let shape := s.me.csr.mxshape.toNat
    let op (rot : Bool) : PortOp := .multiply f (shape % 128) (shape / 256 % 128) (shape / 65536 % 256) rot (placeCsr s 2)
    let bits := codeBits s.me.csr.fmt
    let good := bits f.fa = bits f.fb ∧ (f.i40 = true → integral s f.fa = true ∧ integral s f.fb = true)
    (¬ good → ∀ i ∈ [Instr.mxMul f, .mxMrot f], exec i s = .next (trapI s 0x07 ((s.me.ir.extractLsb' 16 32).setWidth 64))) ∧
    (good → MayName s f.oa.toNat → MayName s f.ob.toNat →
      (246 < f.seg.toNat → ∀ i ∈ [Instr.mxMul f, .mxMrot f], exec i s = .next (trapI s 0x25 (BitVec.ofNat 64 (4096 * f.seg.toNat)))) ∧
      (MayAccumulate s f.seg.toNat →
        (operandsReady s s.curCore [f.oa.toNat, f.ob.toNat] = false →
          exec (.mxMul f) s = .next (hold s (.operands [f.oa.toNat, f.ob.toNat] true))) ∧
        (operandsReady s s.curCore [f.oa.toNat, f.ob.toNat] = true →
          (∃ t, exec (.mxMul f) s = .next t ∧ EntersPort s t (op false) ∧ t.myCore.os = s.myCore.os) ∧
          (s.myCore.outgoing = [] → (∀ e ∈ s.myCore.port, ∀ g m n k tr, e.op ≠ .multiply g m n k true tr) →
            ∃ t, exec (.mxMrot f) s = .next t ∧ EntersPort s t (op true) ∧
              (osOf t.myCore f.oa.toNat).st = .shipping ∧ (osOf t.myCore f.ob.toNat).st = .shipping ∧
              ∀ o, o ≠ f.oa.toNat → o ≠ f.ob.toNat → osOf t.myCore o = osOf s.myCore o))))) ∧
  (∀ (s : State) (seg : BitVec 8) (f : DrainFields), Clear false {} s → s.myCore.port.length < 8 →
    let m := s.me.csr.mxshape.toNat % 128
    let n := s.me.csr.mxshape.toNat / 256 % 128
    (MayAccumulate s seg.toNat → ∃ t, exec (.mxZero seg) s = .next t ∧ EntersPort s t (.zero seg.toNat m n)) ∧
    (MayAccumulate s f.seg.toNat → f.i40 = false → 4 ≤ f.sa.toNat → 4 ≤ f.sb.toNat →
      ∃ t, exec (.mxDrain f) s = .next t ∧
        EntersPort s t (.drain f m n (rndCode (rndOf s.me.csr.rmode f.rm)) 0x3F800000 0x3F800000)))

/-- The head of the port claims, frees, fills, stores, multiplies, zeroes, drains and ships as R273 to R280 say, in
order (R154, R164, R271, R272, R273, R274, R275, R276, R277, R278, R279, R280).

Completes, each with a next state of its own effect: `osFillComplete`, `matrixStart`, `matrixRetire`,
`mrotShipmentLand`, `drainChunk`. -/
def Obligations.MatrixEvents : Prop :=
  let frame (s t : State) (c : Nat) : Prop := (∀ d, d ≠ c → t.core d = s.core d) ∧ t.devMem = s.devMem ∧ t.hostMem = s.hostMem ∧ t.txs = s.txs
  (∀ (s : State) (c : Nat) (e : PortEntry) (es : List PortEntry), (s.core c).port = e :: es → e.started = false →
    (∀ os vid v, e.op = .claim os vid → (s.slot e.slot).vpend = [v] → v.id = vid →
      ((osOf (s.core c) os).tx = none → ∃ t, exec (.matrixStart c) s = .next t ∧ frame s t c ∧ PortPopped t c es ∧
        osOf (t.core c) os = ⟨.empty, e.tx, 0, []⟩ ∧ (t.slot e.slot).vpend = [{ v with values := some [0], flags := 0 }]) ∧
      (∀ x, (osOf (s.core c) os).tx = some x → e.tx ≠ some x → ∃ t, exec (.matrixStart c) s = .next t ∧ frame s t c ∧
        PortPopped t c es ∧ (t.core c).os = (s.core c).os ∧ (t.slot e.slot).vpend = [{ v with values := some [1], flags := 0 }])) ∧
    (∀ os, e.op = .release os → (osOf (s.core c) os).tx = e.tx → ∃ t, exec (.matrixStart c) s = .next t ∧ frame s t c ∧
      PortPopped t c es ∧ osOf (t.core c) os = OpSlot.free ∧ ∀ o, o ≠ os → osOf (t.core c) o = osOf (s.core c) o) ∧
    (∀ os ea a tile list ids, e.op = .load os (.bytes .scratch ea none a 0) tile list ids → scrWin ea = 0 →
      (∀ r ∈ (s.slot e.slot).relaxed, ∀ q ∈ (s.slot e.slot).relaxed, r.id ∈ ids → q.id < r.id → relaxedOrder s e.slot q r = false) →
      segmentBusy (s.core (scrCore ea)) (scrOff ea / 4096) = false → (segOf (s.core (scrCore ea)) (scrOff ea / 4096)).st = .none →
      let data := BitVec.ofNat 32768 (bytesToNat (readBytes (s.core (scrCore ea)).scratch (scrOff ea) 4096))
      ∃ t, exec (.matrixStart c) s = .next t ∧ frame s t c ∧ .osFillComplete c os ∈ t.agenda ∧ t.slots = s.slots ∧
        (t.core c).port = { e with started := true, op := .load os (.bytes .scratch ea none a 0) data [] ids } :: es) ∧
    (∀ f m n k rot tr, e.op = .multiply f m n k rot tr → portReady (s.core c) [f.oa.toNat, f.ob.toNat] = false →
      exec (.matrixStart c) s = .next (s.post (.matrixStart c))) ∧
    (∀ f m n k rot tr, e.op = .multiply f m n k rot tr → portReady (s.core c) [f.oa.toNat, f.ob.toNat] = true → ∃ t, exec (.matrixStart c) s = .next t ∧ frame s t c ∧
      (t.core c).port = { e with started := true, due := (s.core c).cyc + multiplyCycles (s.core c) e f m n k + 8 } :: es ∧
      (t.core c).scratch = (s.core c).scratch ∧ t.slots = s.slots ∧ .matrixRetire c ∈ t.agenda) ∧
    (∀ g m n, e.op = .zero g m n → ∃ t, exec (.matrixStart c) s = .next t ∧ frame s t c ∧ t.slots = s.slots ∧
      (t.core c).port = { e with started := true, due := (s.core c).cyc + (m * n + 127) / 128 + 8 } :: es ∧ .matrixRetire c ∈ t.agenda)) ∧
  (∀ (s : State) (c os : Nat) (e : PortEntry) (es : List PortEntry) (src : OsSrc) (tile : Tile) (list : List Outlier) (ids : List Nat),
    (s.core c).port = e :: es → e.started = true → e.op = .load os src tile list ids → (osOf (s.core c) os).tx = e.tx →
    (osOf (s.core c) os).st = .filling →
    ∃ t, exec (.osFillComplete c os) s = .next t ∧ frame s t c ∧ PortPopped t c es ∧ osOf (t.core c) os = ⟨.full, e.tx, tile, list⟩ ∧
      (t.slot e.slot).relaxed = (s.slot e.slot).relaxed.filter (fun r => !ids.contains r.id) ∧ (t.slot e.slot).x = (s.slot e.slot).x) ∧
  (∀ (s : State) (c : Nat) (e : PortEntry) (es : List PortEntry), (s.core c).port = e :: es → e.started = true →
    ((s.core c).cyc < e.due → exec (.matrixRetire c) s = .next (s.post (.matrixRetire c))) ∧
    (e.due ≤ (s.core c).cyc →
      (∀ g m n, e.op = .zero g m n → m ≤ 64 → n ≤ 64 → ∃ t, exec (.matrixRetire c) s = .next t ∧ frame s t c ∧ PortPopped t c es ∧
        t.slots = s.slots ∧ (∀ i j, i < m → j < n → accRead (t.core c) g i j = 0) ∧
        (∀ a, (∀ i j, i < m → j < n → a < accOffset g i j ∨ accOffset g i j + 5 ≤ a) →
          readByte (t.core c).scratch a = readByte (s.core c).scratch a)) ∧
      (∀ f m n k tr, e.op = .multiply f m n k false tr → m ≤ 64 → n ≤ 64 → ∃ t, exec (.matrixRetire c) s = .next t ∧ frame s t c ∧
        PortPopped t c es ∧ (t.core c).os = (s.core c).os ∧
        (∀ i j, i < m → j < n → accRead (t.core c) f.seg.toNat i j =
          (productAt e f (osOf (s.core c) f.oa.toNat) (osOf (s.core c) f.ob.toNat) (kExtent e.fmt f.fa k) i j
            (accRead (s.core c) f.seg.toNat i j)).1 % 2 ^ 40) ∧
        (∀ a, (∀ i j, i < m → j < n → a < accOffset f.seg.toNat i j ∨ accOffset f.seg.toNat i j + 5 ≤ a) →
          readByte (t.core c).scratch a = readByte (s.core c).scratch a)))) ∧
  (∀ (fmt : Vector (BitVec 32) 4) (e : PortEntry) (f : MxFields) (oa ob : OpSlot) (k i j v : Nat), e.fmt = fmt → f.i40 = true → f.fa = 6 → f.fb = 7 →
    oa.list = [] → ob.list = [] → 0 < k → k ≤ 32 → v < 2 ^ 40 →
    let a (x : Nat) : Int := (oa.tile.extractLsb' (512 * i + 8 * x) 8).toInt
    let b (x : Nat) : Int := (ob.tile.extractLsb' (512 * j + 8 * x) 8).toNat
    let sum : Int := i40Value v + ((List.range k).map fun x => a x * b x).sum
    i40Value (productAt e f oa ob k i j v).1 = max (-(2 ^ 39 - 1)) (min (2 ^ 39 - 1) sum)) ∧
  (∀ (s : State) (c : Nat) (e : PortEntry) (es : List PortEntry) (f : DrainFields) (m n rm : Nat) (sa sb : BitVec 32),
    (s.core c).port = e :: es → e.op = .drain f m n rm sa sb →
    (e.started = false → ∃ t, exec (.matrixStart c) s = .next t ∧ frame s t c ∧ t.slots = s.slots ∧ .drainChunk c ∈ t.agenda ∧
      ∃ e', (t.core c).port = e' :: es ∧ e'.started = true ∧ e'.op = e.op ∧ e'.out = (drainAll (s.core c) e f m n rm sa sb).1) ∧
    (e.started = true → (s.core c).cyc < e.due → exec (.drainChunk c) s = .next (s.post (.drainChunk c))) ∧
    (e.started = true → e.due ≤ (s.core c).cyc →
      (∀ v vs, e.out = v :: vs → (s.slot e.slot).cont = e.serial →
        ((s.slot e.slot).qm.length < 8 → ∃ t, exec (.drainChunk c) s = .next t ∧ frame s t c ∧
          (t.slot e.slot).qm = (s.slot e.slot).qm ++ [v] ∧
          (vs ≠ [] → (t.core c).port = { e with out := vs, due := (s.core c).cyc + 1 } :: es ∧ (t.core c).scratch = (s.core c).scratch ∧
            .drainChunk c ∈ t.agenda) ∧
          (vs = [] → f.zr = false → PortPopped t c es ∧ (t.core c).scratch = (s.core c).scratch)) ∧
        (8 ≤ (s.slot e.slot).qm.length → exec (.drainChunk c) s = .next (s.post (.drainChunk c)))) ∧
      (e.out = [] → f.zr = false → e.flags = 0 → ∃ t, exec (.drainChunk c) s = .next t ∧ frame s t c ∧ PortPopped t c es ∧
        (t.core c).scratch = (s.core c).scratch ∧ t.slots = s.slots))) ∧
  (∀ (s : State) (m : Msg) (x : Shipment), findMsg s m.id = some m → behind s m = false → m.body = .tile x → (∀ y, x.tx = some y → (s.tx? y).isSome = true) → x.tx ≠ none →
    (osOf (s.core x.core) x.os).tx = x.tx →
    ((osOf (s.core x.core) x.os).st = .empty → ∃ t, exec (.mrotShipmentLand m.id) s = .next t ∧
      osOf (t.core x.core) x.os = ⟨.full, x.tx, x.tile, x.list⟩ ∧ findMsg t m.id = none ∧ t.slots = s.slots ∧ t.devMem = s.devMem) ∧
    ((osOf (s.core x.core) x.os).st ≠ .empty → exec (.mrotShipmentLand m.id) s = .next (s.post (.mrotShipmentLand m.id))))

/-- th.ld, th.seal, th.wait and th.relay read, check, seal, wait for and convert the record of a handle as R111 and
R117 say (R76, R109, R111, R117, R118, R183, R216, R285, R286).

Completes, each with a next state of its own effect: `thLd`, `thSeal`, `thRelay`, `thWait`. -/
def Obligations.TensorHandles : Prop :=
  let rd (ea : Word) (n : Nat) (sets : Bool) : GReq := { ea := ea, n := n, align := n, store := false, sets := sets }
  let value (s : State) (ea : Word) (l : Loc) (n : Nat) : Nat := valueSeen s s.curCore ea.toNat l n
  let rec_ (s : State) (ea : Word) (l : Loc) : Vec := BitVec.ofNat 512 (value s ea l 64)
  let keeps (s t : State) : Prop := t.me.x = s.me.x ∧ t.me.f = s.me.f ∧ t.me.csr = s.me.csr ∧ ∀ k, k ≠ s.cur → t.slot k = s.slot k
  let read (s : State) (ea : Word) (n : Nat) (sets : Bool) (l : Loc) : Prop :=
    ThroughReq s (rd ea n sets) anyMapping l ∧ translate (s.part s.myPart) ea.toNat .read = .hit l
  (∀ (s : State) (d a : Reg) (l : Loc), Clear false { reads := [xreg a], bad := badHandle d } s →
    let ea := readX s a
    let r := rec_ s ea l
    read s ea 64 true l → recConv r = false →
    (recordFault r false = none → ∃ t, exec (.thLd d a) s = .next t ∧ AwaitsAccess s t [] ∧ keeps s t ∧
      OnlyLoads s t s.curCore ea.toNat l ∧
      handleAt t.me d = ⟨true, ea, r, false⟩ ∧ ∀ e, e ≠ d → handleAt t.me e = handleAt s.me e) ∧
    (∀ n, recordFault r false = some n → ∃ u, exec (.thLd d a) s = .next (trapI u 0x62 (ea + BitVec.ofNat 64 n)) ∧
      keeps s u ∧ OnlyLoads s u s.curCore ea.toNat l ∧ u.me.pc = s.me.pc ∧ handleAt u.me d = Handle.invalid)) ∧
  (∀ (r : Vec) (b : Bool), recordFault (resealed r) b ≠ some 1) ∧
  (∀ (s : State) (a : Reg) (l : Loc), Clear false { reads := [xreg a] } s → let ea := readX s a
    ThroughReq s { ea := ea, n := 64, align := 64, store := true } anyMapping l → (∀ pa, l ≠ .host pa false) →
    ∃ t, exec (.thSeal a) s = .next t ∧ AwaitsAccess s t [] ∧ t.me.x = s.me.x ∧ t.me.h = s.me.h ∧
      StoredIn s t s.curCore ea.toNat l 64
        (fun j => if 36 ≤ j then (natToBytes 4 (sealOf (rec_ s ea l)))[j - 36]? else none)) ∧
  (∀ (s : State) (d a b : Reg) (tag : BitVec 8), (handleAt s.me a).valid = false → a.toNat < 8 →
    (Clear false { vwrites := [xreg d] } s → exec (.thWait d a) s = .next (trapI s 0x07 (a.setWidth 64))) ∧
    (Clear false { reads := [xreg b, xreg (b + 1)], vwrites := [xreg d], bad := badRun b 2 } s →
      exec (.thRelay d a b tag) s = .next (trapI s 0x07 (a.setWidth 64)))) ∧
  (∀ (s : State) (d a : Reg) (l : Loc), Clear false { vwrites := [xreg d], bad := badHandle a } s → d ≠ 0 →
    let h := handleAt s.me a
    let r := rec_ s h.addr l
    h.valid = true → read s h.addr 64 true l →
    (recConv r = false → ∃ t, exec (.thWait d a) s = .next t ∧ GivesStatus s t d 1 ∧ OnlyLoads s t s.curCore h.addr.toNat l) ∧
    (∀ k, let b := BitVec.ofNat 64 (recAux r + 80)
      recConv r = true → recAux r % 128 = 0 → recAux r < 2 ^ 56 →
      (∀ va, va = h.addr.toNat ∨ va = recAux r + 80 → OpenAt s false va) → read s b 8 true k →
      let st := value s b k 8 % 256
      (st ≠ 0 → ∃ t, exec (.thWait d a) s = .next t ∧ GivesStatus s t d (BitVec.ofNat 512 st) ∧ SameBytes s t) ∧
      (st = 0 → ∃ t, exec (.thWait d a) s = .next t ∧ t.me.wait = some (.conversion s.myPart (recAux r)) ∧ t.me.st = .wait ∧
        t.me.pc = s.me.pc ∧ t.me.x = s.me.x ∧ SameBytes s t))) ∧
  (∀ (s : State) (d a b : Reg) (tag : BitVec 8) (l : Loc), d ≠ 0 →
    Clear false { reads := [xreg b, xreg (b + 1)], vwrites := [xreg d], bad := orBad (badHandle a) (badRun b 2) } s →
    let h := handleAt s.me a
    let r := rec_ s h.addr l
    let base := (readX s b).toNat
    let blk := (readX s (b + 1)).toNat
    let new := newVersion r tag.toNat base blk
    let size := storageBytes r
    let newSize := storageBytes new
    let n := unitCount r
    let gives (v : Nat) : Prop := ∃ t, exec (.thRelay d a b tag) s = .next t ∧ GivesStatus s t d (BitVec.ofNat 512 v) ∧ SameBytes s t ∧
      ∀ p, (t.part p).convs = (s.part p).convs
    let bad := 8 ≤ tag.toNat ∨ base % 4096 ≠ 0 ∨ blk % 128 ≠ 0
    let clash := 2 ^ 57 < base + newSize ∨ 2 ^ 57 < blk + blockSize n ∨ overlap base newSize (recBase r) size = true ∨
      overlap blk (blockSize n) base newSize = true ∨ overlap blk (blockSize n) (recBase r) size = true
    h.valid = true → OpenAt s true h.addr.toNat → OpenAt s false h.addr.toNat → read s h.addr 64 false l →
    ThroughReq s { ea := h.addr, n := 64, align := 64, store := true, sets := false } anyMapping l →
    translate (s.part s.myPart) h.addr.toNat .write = .hit l → recConv r = false →
    (recordFault r false ≠ none → gives 3) ∧
    (recordFault r false = none → (bad → gives 6) ∧ (¬ bad → clash → gives 4) ∧
      (¬ bad → ¬ clash → s.me.tx = none → firstClosed (s.part s.myPart) .write (relayPages s s.myPart base blk (blockSize n)) = none →
        (usesRecord s s.myPart r = true → ∃ t, exec (.thRelay d a b tag) s = .next t ∧
          t.me.wait = some (.oldVersion s.myPart r) ∧ t.me.pc = s.me.pc ∧ SameBytes s t ∧ ∀ p, (t.part p).convs = (s.part p).convs) ∧
        (usesRecord s s.myPart r = false → (∀ va ∈ chunkAddrs blk (blockSize n), OpenAt s true va) →
          NoConversion (s.part s.myPart) blk (blockSize n + 64) →
        ∃ t c, exec (.thRelay d a b tag) s = .next t ∧ GivesStatus s t d 0 ∧
          (t.part s.myPart).convs = (s.part s.myPart).convs ++ [c] ∧ c.addr = h.addr.toNat ∧ c.block = blk ∧ c.oldRec = r ∧
          c.newRec = new ∧ c.units = List.replicate n .old ∧ c.failed = false ∧ .kneadUnit c.id ∈ t.agenda ∧
          readBytes (memoryOf t l) l.addr 64 = natToBytes 64 new.toNat ∧ handleAt t.me a = ⟨true, h.addr, new, true⟩))))

/-- tld and tst read and write exactly the element or the row of elements their coordinates name, in its layout;
others trap or stay; relaxed ones leave the slot (R76, R109, R110, R112, R113, R183, R216, R222, R270, R287).

Completes, each with a next state of its own effect: `tldE`, `tldV`, `tstE`, `tstV`. -/
def Obligations.TensorElements : Prop :=
  let keeps (s t : State) : Prop := t.me.x = s.me.x ∧ t.me.f = s.me.f ∧ t.me.h = s.me.h ∧ t.me.csr = s.me.csr ∧ t.cores = s.cores ∧
    ∀ k, k ≠ s.cur → t.slot k = s.slot k
  let ready (s : State) (a : Reg) : Prop := (handleAt s.me a).valid = true ∧ (handleAt s.me a).reload = false
  (∀ (s : State) (d a b : Reg) (rx : Bool), ready s a →
    let r := (handleAt s.me a).record
    let (c0, c1, c2, c3) := coordsOf s b
    let (m, i, j) := coordElem r c0 c1 c2 c3
    let w := recBits r
    let ext (v : Nat) : Word := if (recEtype r ∈ [4, 5, 6, 7, 13]) ∧ 2 ^ (w - 1) ≤ v then BitVec.ofInt 64 ((v : Int) - 2 ^ w) else BitVec.ofNat 64 v
    let us : Uses := { reads := [xreg b, xreg (b + 1)], vwrites := [xreg d], bad := orBad (badHandle a) (badRun b 2) }
    Clear false us s →
    (∀ v, badCoord r c0 c1 c2 c3 = some v → exec (.tldE d a b rx) s = .next (trapI s 0x25 v)) ∧
    (badCoord r c0 c1 c2 c3 = none → ElemsOpen s false r [(m, i, j)] →
      (∃ t, exec (.tldE d a b false) s = .next t ∧ keeps s t ∧ SameBytes s t ∧ t.me.pc = s.me.pc ∧
        AwaitsAccess s t [(xreg d, (ext (rawElem s r m i j)).setWidth 512)]) ∧
      ((s.me.relaxed.filter (·.counts)).length < 16 → ∃ t, exec (.tldE d a b true) s = .next t ∧ keeps s t ∧ SameBytes s t ∧
        ElemsLeave s t r [(m, i, j)] none))) ∧
  (∀ (s : State) (d a b : Reg), ready s a → isBound s.me d = false →
    let r := (handleAt s.me a).record
    let (c0, c1, c2, c3) := coordsOf s b
    let (m, i, j) := coordElem r c0 c1 c2 c3
    let w := recBits r
    let n := min (512 / w) (recD r 0 - j)
    let es := (List.range n).map fun k => (m, i, j + k)
    Clear false { reads := [xreg b, xreg (b + 1)], vwrites := [vreg d], bad := orBad (badHandle a) (badRun b 2) } s →
    badCoord r c0 c1 c2 c3 = none → ElemsOpen s false r es →
    (∃ t v, exec (.tldV d a b false) s = .next t ∧ keeps s t ∧ SameBytes s t ∧ AwaitsAccess s t [(vreg d, v)] ∧
      ∀ k, k < 512 / w → laneAt w k v.toNat = if k < n then rawElem s r m i (j + k) else 0) ∧
    ((s.me.relaxed.filter (·.counts)).length < 16 → ∃ t, exec (.tldV d a b true) s = .next t ∧ keeps s t ∧ SameBytes s t ∧
      ElemsLeave s t r es none)) ∧
  (∀ (s : State) (d a b : Reg), ready s a →
    let r := (handleAt s.me a).record
    let (c0, c1, c2, c3) := coordsOf s b
    let (m, i, j) := coordElem r c0 c1 c2 c3
    let nib := 2 * recBase r + elemOffset r m i j * (recBits r / 4)
    let va := nib / 2
    let l := placeAt s s.myPart va .write
    let v := (readX s d).toNat % 2 ^ recBits r
    let old := (readByte (memoryOf s l) l.addr).toNat
    let bs : List Byte := if recBits r = 4 then [BitVec.ofNat 8 (if nib % 2 = 0 then old / 16 * 16 + v else old % 16 + 16 * v)]
      else natToBytes (recBits r / 8) v
    Clear false { reads := [xreg b, xreg (b + 1), xreg d], bad := orBad (badHandle a) (badRun b 2) } s →
    badCoord r c0 c1 c2 c3 = none → ElemsOpen s true r [(m, i, j)] → va % 4096 + bs.length ≤ 4096 →
    (∃ t, exec (.tstE d a b false) s = .next t ∧ keeps s t ∧ AwaitsAccess s t [] ∧ t.me.pc = s.me.pc ∧ StoredAt s t l bs) ∧
    ((s.me.relaxed.filter (·.counts)).length < 16 → ∃ t, exec (.tstE d a b true) s = .next t ∧ keeps s t ∧ SameBytes s t ∧
      ElemsLeave s t r [(m, i, j)] (some [v]))) ∧
  (∀ (s : State) (d a b : Reg), ready s a → isBound s.me d = false →
    let r := (handleAt s.me a).record
    let (c0, c1, c2, c3) := coordsOf s b
    let (m, i, j) := coordElem r c0 c1 c2 c3
    let w := recBits r
    let n := min (512 / w) (recD r 0 - j)
    let va (k : Nat) : Nat := recBase r + elemOffset r m i (j + k) * (w / 8)
    let at_ (k o : Nat) : Loc := (placeAt s s.myPart (va k) .write).plus o
    let pos : List (Nat × Nat) := (List.range n).flatMap fun k => (List.range (w / 8)).map fun o => (k, o)
    Clear false { reads := [xreg b, xreg (b + 1), vreg d], bad := orBad (badHandle a) (badRun b 2) } s →
    badCoord r c0 c1 c2 c3 = none → w ≠ 4 → ElemsOpen s true r ((List.range n).map fun k => (m, i, j + k)) →
    (∀ k, k < n → va k % 4096 + w / 8 ≤ 4096) →
    (∀ e ∈ pos, ∀ g ∈ pos, e ≠ g → (at_ e.1 e.2).addr ≠ (at_ g.1 g.2).addr) →
    ∃ t, exec (.tstV d a b false) s = .next t ∧ keeps s t ∧ AwaitsAccess s t [] ∧
      (∀ e ∈ pos, (readByte (memoryOf t (at_ e.1 e.2)) (at_ e.1 e.2).addr).toNat = laneAt 8 e.2 (laneAt w e.1 (readV s d).toNat)) ∧
      (∀ x, (∀ e ∈ pos, (at_ e.1 e.2).addr ≠ x) → readByte t.devMem x = readByte s.devMem x ∧ readByte t.hostMem x = readByte s.hostMem x))

/-- The Knead engine sets the next unit BUSY, converts it, completes after the last, stops at a fault or in a foreign
region and moves after a hardware error (R114, R116, R118, R119, R120, R123, R143).

Completes, each with a next state of its own effect: `kneadUnit`, `kneadFault`, `kneadHardwareError`. -/
def Obligations.KneadEngine : Prop :=
  let holds (s : State) (p id : Nat) (c : Conv) : Prop := (s.part p).convs.find? (fun x => x.id == id) = some c
  let ready (s : State) (p : Nat) (writes : List Nat) : Prop := (agentLines p true writes s).2 = .ready
  (∀ (s : State) (id pg : Nat), convOf s id = none → exec (.kneadUnit id) s = .next s ∧ exec (.kneadFault id pg) s = .next s ∧
    exec (.kneadHardwareError id) s = .next s) ∧
  (∀ (s : State) (id p : Nat) (c : Conv), convOf s id = some (p, c) → holds s p id c → c.failed = false → aheadOn s c < 8 → busyUnit c = none →
    (∀ u, nextUnit c = some u → ready s p (chunkAddrs c.block (blockBytes c)) → ∃ t, exec (.kneadUnit id) s = .next t ∧
      holds t p id ({ c with units := setAt c.units u .busy, forced := c.forced.filter (· ≠ u) }) ∧
      t.slots = s.slots ∧ .kneadUnit id ∈ t.agenda) ∧
    (nextUnit c = none → ready s p (chunkAddrs c.block (blockBytes c) ++ chunkAddrs c.addr 64) →
      ∃ t, exec (.kneadUnit id) s = .next t ∧ (∀ x ∈ (t.part p).convs, x.id ≠ id) ∧
      (∀ k, s.partOf (k / 16) = p → (t.slot k).h = (s.slot k).h.map (markHandle c.addr) ∧ (t.slot k).x = (s.slot k).x ∧ (t.slot k).f = (s.slot k).f))) ∧
  (∀ (s : State) (id p u page : Nat) (c : Conv), convOf s id = some (p, c) → holds s p id c → c.failed = false → aheadOn s c < 8 →
    busyUnit c = some u → foreignPage (s.part p) (pagesOf (unitWrites c u)) = some page → ∃ t, exec (.kneadUnit id) s = .next t ∧
      holds t p id ({ c with units := c.units.map (fun u => if u = .busy then .old else u), failed := true, page := none }) ∧
      t.slots = s.slots) ∧
  (∀ c : Conv, (∀ u, c.forced = [] → nextUnit c = some u → c.units.getD u .new = .old ∧ ∀ v, v < u → c.units.getD v .new ≠ .old) ∧
    (∀ u us, c.forced = u :: us → c.units.getD u .new = .old → nextUnit c = some u)) ∧
  (∀ (s : State) (id p : Nat) (c : Conv) (a b : Loc), convOf s id = some (p, c) → holds s p id c → c.failed = false → aheadOn s c < 8 → c.units = [.busy, .old] →
    (∀ r ∈ [c.oldRec, c.newRec], recLayout r = 0 ∧ recD r 0 = 1 ∧ recD r 1 = 1 ∧ recBits r = 8) →
    translate (s.part p) (recBase c.oldRec) .read = .hit a → translate (s.part p) (recBase c.newRec) .read = .hit b →
    translate (s.part p) (recBase c.newRec) .write = .hit b →
    foreignPage (s.part p) (pagesOf (unitWrites c 0)) = none →
    (agentLines p false (piecesOf (unitReads c 0)) s).2 = .ready →
    ready (agentLines p false (piecesOf (unitReads c 0)) s).1 p
      (piecesOf (unitWrites c 0) ++ chunkAddrs c.block (blockBytes c) ++ chunkAddrs c.addr 64) →
    (∀ i l, translate (s.part p) (c.block + i) .write = .hit l → l.addr ≠ b.addr) →
    rangeAt s p (recBase c.newRec) = none →
    (∀ va ∈ chunkAddrs c.block (blockBytes c), rangeAt s p va = none ∧ classOf (classEntry (s.part p) va) = 3) →
    ∃ t, exec (.kneadUnit id) s = .next t ∧ holds t p id ({ c with units := [.new, .old], page := none }) ∧
      readByte (memoryOf t b) b.addr = readByte (memoryOf s a) a.addr ∧ t.slots = s.slots ∧ .kneadUnit id ∈ t.agenda) ∧
  (∀ (s : State) (id pg p : Nat) (c : Conv), convOf s id = some (p, c) → holds s p id c → c.failed = false →
    let back := c.units.map fun u => if u = .busy then .old else u
    (∃ t, exec (.kneadFault id pg) s = .next t ∧ holds t p id ({ c with units := back, failed := true, page := none }) ∧
      t.slots = s.slots ∧ ((s.part p).ranges = [] → t.agenda = s.agenda)) ∧
    (∃ t, exec (.kneadHardwareError id) s = .next t ∧ holds t p id ({ c with units := back, die := (c.die + 1) % 4 }) ∧
      t.slots = s.slots ∧ ((s.part p).ranges = [] → t.agenda = s.agenda)))

/-- Copies are asked for, accepted with a promise, moved and answered as R281 to R284 say (R67, R111, R125, R135,
R281, R282, R283, R284).

Completes, each with a next state of its own effect: `cpy`, `cpyNb`, `copyAccept`, `copyComplete`, `promiseMissed`,
`copyEngineHardwareError`. -/
def Obligations.Copies : Prop :=
  (∀ (s : State) (d a : Reg), Clear false { reads := runX a 4, vwrites := [xreg d], bad := badPrivateRun a 4 } s →
    let r := copyRequest s d a
    let takes (i : Instr) : Prop := ∃ t, exec i s = .next t ∧ OnlyGoesOn s t ∧ t.me.copies = s.me.copies ++ [{ r with id := s.nextId }] ∧
      t.me.vpend = s.me.vpend ++ [⟨s.nextId, [xreg d], none, 0, .copy⟩] ∧ .copyAccept s.curCore ∈ t.agenda
    (r.malformed = true → ∀ i ∈ [Instr.cpy d a, .cpyNb d a], exec i s = .next (trapI s 0x61 (readX s (a + 3)))) ∧
    (r.malformed = false → (∀ n, r.handle = some n → (handleAt s.me (BitVec.ofNat 5 n)).valid = false →
      ∀ i ∈ [Instr.cpy d a, .cpyNb d a], exec i s = .next (trapI s 0x07 (BitVec.ofNat 64 n))) ∧
      ((∀ n, r.handle = some n → (handleAt s.me (BitVec.ofNat 5 n)).valid = true) →
        (inRecon s = true → ∀ i ∈ [Instr.cpy d a, .cpyNb d a],
          RunsTo (exec i s) (writeVar (s.setMe { s.me with csr := { s.me.csr with promise := BitVec.ofNat 64 (s.tick % 2 ^ 64) } }) (xreg d) 0 0) (nextPc s)) ∧
        (inRecon s = false → (s.me.copies.length < 4 → takes (.cpy d a) ∧ takes (.cpyNb d a)) ∧
          (4 ≤ s.me.copies.length → RunsTo (exec (.cpyNb d a) s) (writeVar s (xreg d) 1 0) (nextPc s) ∧
            ∃ t, exec (.cpy d a) s = .next t ∧ OnlyWaits s t ∧ t.me.wait = some .copyFifo ∧ t.me.copies = s.me.copies))))) ∧
  (∀ (s : State) (c k : Nat) (r : CopyReq), nextCopy s (copyOrder s c) = some (k, r) →
    (s.slot k).copies.head? = some r ∧ copyMayStart s k r = true ∧
    (∀ j q, j ∈ copyOrder s c → (s.slot j).copies.head? = some q → copyMayStart s j q = true → q.prio ≤ r.prio)) ∧
  (∀ (s : State) (c : Nat), nextCopy s (copyOrder s c) = none → (∀ k ∈ copyOrder s c, (s.slot k).copies = []) →
    exec (.copyAccept c) s = .next s) ∧
  (∀ (s : State) (c k : Nat) (r : CopyReq), nextCopy s (copyOrder s c) = some (k, r) → AskedBy s r.id k →
    let u := (s.setSlot k { s.slot k with copies := (s.slot k).copies.drop 1 }).setCore c { s.core c with copyRobin := k % 16 }
    let p := s.partOf (k / 16)
    let rec_ := if r.kind = 2 then copyRecord u p r.h else (0, false)
    let n := copyCheck u p k r rec_.1 rec_.2
    let b := r.size rec_.1
    let promise := Nat.max s.tick (lastPromise s (k / 16)) + 200 + (b + 63) / 64
    (n ≠ 0 → ∃ t, exec (.copyAccept c) s = .next t ∧ StatusWritten s t k r.id r.d (BitVec.ofNat 64 n) ∧
      t.copies = s.copies ∧ t.devMem = s.devMem ∧ t.hostMem = s.hostMem ∧ (t.slot k).copies = (s.slot k).copies.drop 1) ∧
    (n = 0 → b = 0 → r.baren = false → ∃ t, exec (.copyAccept c) s = .next t ∧ StatusWritten s t k r.id r.d 0 ∧
      t.copies = s.copies ∧ t.devMem = s.devMem ∧ t.hostMem = s.hostMem) ∧
    (n = 0 → b ≠ 0 → ∃ t, exec (.copyAccept c) s = .next t ∧
      t.copies = s.copies ++ [⟨r, k, p, rec_.1, promise, false, false, [], none, [], [], 0, none⟩] ∧
      (t.slot k).csr = { (s.slot k).csr with promise := BitVec.ofNat 64 promise } ∧ (t.slot k).x = (s.slot k).x ∧
      (t.slot k).copies = (s.slot k).copies.drop 1 ∧ (∀ j, j ≠ k → t.slot j = s.slot j) ∧ t.devMem = s.devMem ∧ t.hostMem = s.hostMem ∧
      .copyComplete r.id ∈ t.agenda ∧ .promiseMissed (k / 16) (k % 16) r.id ∈ t.agenda)) ∧
  (∀ (s : State) (id : Nat), (∀ x ∈ s.copies, x.req.id ≠ id) → exec (.copyComplete id) s = .next s) ∧
  (∀ (s : State) (j : CopyJob), s.copies.find? (fun x => x.req.id == j.req.id) = some j →
    let ms := j.numbered
    let keys := copyKeys s j.part j.record (ms.map (·.2))
    jobClosed s j = none →
    (j.granted = false → copyTouch s j.part true (ms.flatMap fun e => copyVas s j.part true (e.2.dst.bytes j.record)) = (s, true) →
      (∀ k ∈ keys, copyBlocked s j.part j.req.id k = false) → listsBad s j (ms.flatMap fun e => [e.2.src, e.2.dst]) = false →
      ∃ t, exec (.copyComplete j.req.id) s = .next t ∧ (∀ k ∈ keys, look (t.part j.part).copyLines 0 k = j.req.id ∧ copyHolds t j.part k = true) ∧
        t.devMem = s.devMem ∧ t.hostMem = s.hostMem ∧ t.slots = s.slots ∧ t.cores = s.cores ∧ .copyComplete j.req.id ∈ t.agenda) ∧
    (∀ va pa n, let known (i : Nat) : Bool := (look (j.data.map fun d => (d.1, some d.2)) none i).isSome
      j.granted = true → j.req.kind = 0 → j.req.ssp = false → j.req.dsp = false → n = (j.req.w2.extractLsb' 0 32).toNat →
      0 < n → va % 128 + n ≤ 128 → pa % 128 = va % 128 → (s.part j.part).convs = [] → rangeAt s j.part va = none →
      (∀ i, i < n → copyAway s j.part (va + i) = false) → copyBlocked s j.part j.req.id (2 * (pa / 128)) = false →
      (va = j.req.w0.toNat → placeAt s j.part va .read = .dev pa → (∀ i, i < n → known i = false) →
        copyTouch s.draw j.part false ((List.range n).map (va + ·)) = (s.draw, true) →
        ∃ t, exec (.copyComplete j.req.id) s = .next t ∧ t.devMem = s.devMem ∧ t.hostMem = s.hostMem ∧ t.slots = s.slots ∧
          .copyComplete j.req.id ∈ t.agenda ∧ ∃ m, t.copies.find? (fun x => x.req.id == j.req.id) = some { j with data := m } ∧
            ∀ i, i < n → look m 0 i = (readByte s.devMem (pa + i)).toNat) ∧
      (va = j.req.w1.toNat → placeAt s j.part va .write = .dev pa → j.written = [] → (∀ i, i < n → known i = true) →
        copyTouch s.draw j.part true ((List.range n).map (va + ·)) = (s.draw, true) →
        ∃ t, exec (.copyComplete j.req.id) s = .next t ∧
          StoredAt s t (.dev pa) ((List.range n).map fun i => BitVec.ofNat 8 (look j.data 0 i)) ∧ t.slots = s.slots ∧
          t.copies.find? (fun x => x.req.id == j.req.id) = some { j with written := [2 * (va / 128)], lines := [] } ∧
          (∀ e ∈ (t.part j.part).copyLines, e.2 ≠ j.req.id) ∧ .copyComplete j.req.id ∈ t.agenda)) ∧
    (j.granted = true → (s.part j.part).convs = [] → copyScale j.req j.record = none ∨ j.scale.isSome = true →
      (∀ e ∈ ms, (look (j.data.map fun d => (d.1, some d.2)) none e.1).isSome = true ∧
        (e.2.dst = .none ∨ e.2.dst.group j.record ∈ j.written)) → copyApplied s j ms = true →
      j.req.baren = false → j.flags = 0 → AskedBy s j.req.id j.slot →
      ∃ t, exec (.copyComplete j.req.id) s = .next t ∧
        StatusWritten s t j.slot j.req.id j.req.d (BitVec.ofNat 64 (256 * j.req.size j.record)) ∧ t.devMem = s.devMem ∧
        t.copies = s.copies.filter (fun x => x.req.id != j.req.id) ∧ ∀ e ∈ (t.part j.part).copyLines, e.2 ≠ j.req.id)) ∧
  (∀ (s : State) (j : CopyJob) (page n : Nat) (need : Need) (r : XRes), s.copies.find? (fun x => x.req.id == j.req.id) = some j →
    jobClosed s j = some (page, need, r, n) → j.page = some (page, true) → copyWork s j n = none →
    j.req.kind = 0 → j.flags = 0 → j.req.baren = false → AskedBy s j.req.id j.slot →
    ∃ t, exec (.copyComplete j.req.id) s = .next t ∧ t.copies = s.copies.filter (fun x => x.req.id != j.req.id) ∧
      StatusWritten s t j.slot j.req.id j.req.d (BitVec.ofNat 64 (2 + page % 2 ^ 57 / 4096 * 256))) ∧
  (∀ (s : State) (c k id : Nat), let q := slotKey c k
    ((∀ j ∈ s.copies, j.req.id ≠ id) → exec (.promiseMissed c k id) s = .next s) ∧
    (∀ j, s.copies.find? (fun x => x.req.id == id) = some j →
      (s.tick ≤ j.promise → exec (.promiseMissed c k id) s = .next (s.post (.promiseMissed c k id))) ∧
      (j.promise < s.tick → j.missed = true ∨ j.req.d = 0 ∨ (∀ v ∈ (s.slot q).vpend, v.id ≠ id) → exec (.promiseMissed c k id) s = .next s) ∧
      (j.promise < s.tick → j.missed = false → j.req.d ≠ 0 → (∃ v ∈ (s.slot q).vpend, v.id = id) →
        ∃ t, exec (.promiseMissed c k id) s = .next t ∧
          t.slot q = { s.slot q with causes := (s.slot q).causes ++ [⟨0x60, BitVec.ofNat 64 j.promise, true⟩] } ∧
          (∀ i, i ≠ q → t.slot i = s.slot i) ∧ t.cores = s.cores ∧ t.devMem = s.devMem ∧ t.hostMem = s.hostMem ∧
          t.copies.find? (fun x => x.req.id == id) = some { j with missed := true }))) ∧
  (∀ (s : State) (c : Nat), (∀ j ∈ s.copies, j.slot / 16 ≠ c) → exec (.copyEngineHardwareError c) s = .next s) ∧
  (∀ (s : State) (j : CopyJob), s.copies = [j] → j.req.kind = 0 → j.flags = 0 → j.req.baren = false → AskedBy s j.req.id j.slot →
    ∃ t, exec (.copyEngineHardwareError (j.slot / 16)) s = .next t ∧ t.copies = [] ∧ StatusWritten s t j.slot j.req.id j.req.d 5)

/-- tx.sub submits, tx.addr and tx.note record, tx.chk compares and tx.end ends a continuation as R288 to R290 say
(R28, R34, R44, R56, R59, R60, R61, R288, R289, R290, R330, R356).

Completes, each with a next state of its own effect: `txSub`, `txAddr`, `txNote`, `txChk`, `txEnd`. -/
def Obligations.TransactionInstructions : Prop :=
  (∀ (s : State) (d a b : Reg), Clear false { reads := [xreg a, xreg b], vwrites := [xreg d] } s →
    let ea := readX s a
    let q := readX s b
    let p := s.myPart
    let u := unbound s
    let gives (v : Word) : Prop := ∃ t, exec (.txSub d a b) s = .next t ∧ AwaitsAccess s t (statusIn d v)
    (2 ^ 57 ≤ ea.toNat → exec (.txSub d a b) s = .next (trapI s 0x25 ea)) ∧
    (ea.toNat < 2 ^ 57 → ea.toNat % 128 ≠ 0 → exec (.txSub d a b) s = .next (trapI s 0x20 ea)) ∧
    (ea.toNat < 2 ^ 57 → ea.toNat % 128 = 0 →
      (2 ^ 16 ≤ q.toNat → exec (.txSub d a b) s = .next (trapI s 0x25 q)) ∧
      (q.toNat < 2 ^ 16 → (inRecon s = true → RunsTo (exec (.txSub d a b) s) (writeVar u (xreg d) 0 0) (nextPc s)) ∧
        (inRecon s = false → s.hub.ready.getLsbD 1 = true →
          (∀ v, readHeader u p q.toNat = (v, .absent) → gives 2) ∧
          (∀ v hva bad ws, readHeader u p q.toNat = (v, .found hva bad ws) →
            ((v.me.level = .u ∧ hdrUsub ws = false) ∨ (queueSt v p q.toNat).state = 4 ∨ hdrMalformed bad ws = true → gives 2) ∧
            (¬ ((v.me.level = .u ∧ hdrUsub ws = false) ∨ (queueSt v p q.toNat).state = 4 ∨ hdrMalformed bad ws = true) →
              fenced v v.cur 6 = true → ∀ w k, fetchDesc v p ea.toNat = (w, .desc k) →
              (∀ n, k.refusal w p = some n → ∃ t id tx, exec (.txSub d a b) s = .next t ∧ AwaitsAccess s t (statusIn d (BitVec.ofNat 64 n)) ∧
                t.tx? id = some tx ∧ tx.st = .closing ∧ tx.status = n ∧ tx.desc = k.words ∧ tx.key = none ∧ .transactionRetire id ∈ t.agenda) ∧
              (k.refusal w p = none → ((hdrResv ws + 2 ^ 64 - hdrHead ws) % 2 ^ 64 = hdrSize ws → gives 6) ∧
                (∀ x i e, (hdrResv ws + 2 ^ 64 - hdrHead ws) % 2 ^ 64 ≠ hdrSize ws → agentOpen w p true [hva, hdrEntry ws (hdrResv ws)] = (x, .ready) →
                  placeAt x p (hva + 24) .write = .dev i → placeAt x p (hdrEntry ws (hdrResv ws)) .write = .dev e → i + 8 ≤ e ∨ e + 8 ≤ i →
                  (∀ va ∈ [hva + 24, hdrEntry ws (hdrResv ws)], NoConversion (x.part p) va 8 ∧ rangeAt x p va = none) →
                  ∃ t, exec (.txSub d a b) s = .next t ∧ AwaitsAccess s t (statusIn d 0) ∧
                    readBytes t.devMem i 8 = natToBytes 8 ((hdrResv ws + 1) % 2 ^ 64) ∧ readBytes t.devMem e 8 = natToBytes 8 (ea.toNat + 1) ∧
                    (∀ y, (y < i ∨ i + 8 ≤ y) → (y < e ∨ e + 8 ≤ y) → readByte t.devMem y = readByte s.devMem y) ∧ t.hostMem = s.hostMem ∧
                    .watchedLineWrite p q.toNat ∈ t.agenda)))))))) ∧
  (∀ (s : State) (a : Reg), Clear false { reads := [xreg a] } s →
    (inRecon s = false → RunsTo (exec (.txAddr a) s) s (nextPc s)) ∧
    (∀ id tx, inRecon s = true → myTx s = some (id, tx) →
      let va := (tx.word 2).toNat + 8 * tx.nEntries
      (128 ≤ tx.nEntries → exec (.txAddr a) s = .next (trapI s 0xA2 0)) ∧
      (∀ u l, tx.nEntries < 128 → agentOpen s s.myPart true [va] = (u, .ready) → placeAt u s.myPart va .write = l →
        NoConversion (u.part s.myPart) va 8 → rangeAt u s.myPart va = none →
        ∃ t, exec (.txAddr a) s = .next t ∧ StoredAt s t l (natToBytes 8 (readX s a).toNat) ∧
          t.tx? id = some { tx with nEntries := tx.nEntries + 1 } ∧ t.me.pc = nextPc s ∧ t.me.st = .ready ∧ t.me.x = s.me.x))) ∧
  (∀ (s : State) (d a : Reg) (l : Loc), Clear false { reads := [xreg a], vwrites := [xreg d] } s →
    let ea := readX s a
    let req : GReq := { ea := ea, n := 8, align := 8, store := false, sets := false }
    let v := valueSeen s s.curCore ea.toNat l 8
    let ans : List (RegId × Vec) := [(xreg d, BitVec.ofNat 512 v)]
    (ThroughReq s req anyMapping l → ∃ t, exec (.txNote d a) s = .next t ∧ AwaitsAccess s t ans ∧ OnlyLoads s t s.curCore ea.toNat l ∧ t.txs = s.txs ∧ t.me.x = s.me.x) ∧
    (∀ id tx, inRecon s = true → myTx s = some (id, tx) →
      let va := (tx.word 2).toNat + 1024 + 16 * tx.nNotes
      (32 ≤ tx.nNotes → exec (.txNote d a) s = .next (trapI s 0xA2 0)) ∧
      (∀ i, tx.nNotes < 32 → agentOpen s s.myPart true [va, va + 8] = (s, .ready) → checkGlobal s req anyMapping = .ok l →
        s.me.lease = none → ownPending s s.cur .global ea.toNat 8 = false → behindHeld s s.myPart ea.toNat s.cur = false → (touch s s.myPart ea.toNat l (some s.curCore) false).2 = true →
        lineOpen s s.myPart l.key s.cur = true → NoConversion (s.part s.myPart) ea.toNat 8 → NoConversion (s.part s.myPart) va 16 →
        rangeAt s s.myPart va = none → rangeAt s s.myPart (va + 8) = none →
        placeAt s s.myPart va .write = .dev i → placeAt s s.myPart (va + 8) .write = .dev (i + 8) →
        ∃ t, exec (.txNote d a) s = .next t ∧ AwaitsAccess s t ans ∧ StoredAt s t (.dev i) (natToBytes 8 ea.toNat ++ natToBytes 8 v) ∧
          t.tx? id = some { tx with nNotes := tx.nNotes + 1 }))) ∧
  (∀ (s : State), Clear false {} s →
    (inRecon s = true ∨ myTx s = none ∨ (∃ e, myTx s = some e ∧ descRecon e.2.desc = false) → RunsTo (exec .txChk s) s (nextPc s)) ∧
    (∀ id tx, inRecon s = false → myTx s = some (id, tx) → descRecon tx.desc = true →
      (tx.nNotes = 0 → ∃ t, exec .txChk s = .next t ∧ AwaitsAccess s t []) ∧
      (∀ u v l, tx.nNotes = 1 → agentRead s s.myPart ((tx.word 2).toNat + 1024) 16 = (u, .val v) →
        let w := unbound u
        ThroughReq w { ea := BitVec.ofNat 64 v, n := 8, align := 8, store := false, sets := false } anyMapping l →
        let now := valueSeen w w.curCore (BitVec.ofNat 64 v).toNat l 8
        (now = v / 2 ^ 64 % 2 ^ 64 → ∃ t, exec .txChk s = .next t ∧ AwaitsAccess s t [] ∧ t.txs = s.txs) ∧
        (now ≠ v / 2 ^ 64 % 2 ^ 64 → tx.checks < 8 → ∃ t, exec .txChk s = .next t ∧
          t.tx? id = some { tx with st := .recon, checks := tx.checks + 1, ended := false } ∧ (∀ k, (t.slot k).tx ≠ some id) ∧
          .reconNumbering id ∈ t.agenda) ∧
        (now ≠ v / 2 ^ 64 % 2 ^ 64 → 8 ≤ tx.checks → ∃ x, exec .txChk s = .next (trapI x 0xA1 0) ∧ x.me.pc = s.me.pc ∧ x.txs = s.txs)))) ∧
  (∀ (s : State), Clear false {} s →
    let u := abandonLease s s.cur
    (s.me.level = .m → exec .txEnd s = .next (trapI s.draw 0x63 (Config.freeWord s.draws))) ∧
    (s.me.level ≠ .m →
      (settled u s.cur = false → exec .txEnd s = .next (hold u .ending)) ∧
      (settled u s.cur = true → ∃ t, exec .txEnd s = .next t ∧ t.slot s.cur = freeSlot s.me ∧ t.devMem = s.devMem ∧ t.hostMem = s.hostMem ∧
        (myTx s = none → t.txs = s.txs) ∧
        (∀ id tx, myTx s = some (id, tx) →
          (tx.st = .recon → t.tx? id = some { tx with ended := true } ∧ .reconNumbering id ∈ t.agenda) ∧
          (tx.st ≠ .recon → let e := tx.ended || s.me.ctx.getLsbD 28
            t.tx? id = some { tx with live := tx.live - 1, ended := e } ∧
            (tx.live ≤ 1 → e = true → tx.st = .running → .transactionRetire id ∈ t.agenda))))))

/-- Spawns, suspension, pick-up and load-levelling move records as R18 to R30, R291 and R292 say, and lose none (R14,
R18, R19, R20, R25, R26, R27, R29, R30, R34, R291, R292).

Completes, each with a next state of its own effect: `spawn`, `spawnL`, `spawnArrive`, `suspend`, `pickUp`,
`loadLevel`, `shipArrive`, `shipAnswer`. -/
def Obligations.SpawnsAndWorkLists : Prop :=
  let noPlace : Place := ⟨none, false, 0, false, 0⟩
  let fromRunning (s : State) (k : Nat) : Prop := ∀ y ty, (s.slot k).tx = some y → s.tx? y = some ty → ty.st ≠ .recon
  let live (s : State) (t : Nat) : Option Nat := (s.tx? t).map fun x => x.live
  (∀ (s : State) (a : Word) (t : Nat) (tx : Tx) (r w h : Nat), s.me.tx = some t → s.tx? t = some tx → tx.root = some (r, w, h) →
    a ≠ BitVec.allOnes 64 → spawnTarget s a = if a.toNat < w * h then some (r + 16 * (a.toNat / w) + a.toNat % w) else none) ∧
  (∀ w : Word, (childContext w).extractLsb' 48 16 = w.extractLsb' 48 16 ∧ (childContext w).extractLsb' 24 4 = w.extractLsb' 24 4 ∧
    (childContext w).extractLsb' 0 24 = 0x010000 ∧ (childContext w).extractLsb' 28 20 = 0) ∧
  (∀ (s : State) (d a b : Reg) (o : BitVec 16) (q : BitVec 32),
    Clear false { reads := xreg a :: runX b 6, vwrites := [xreg d], bad := badPrivateRun b 6 } s →
    let u := unbound s
    let rec_ (target : Word) : List Word := [target, childContext s.me.ctx, readX s b, readX s (b + 1), readX s (b + 2), readX s (b + 3), readX s (b + 4), readX s (b + 5)]
    ∀ e ∈ [(Instr.spawn d a b o, codeTarget s.me.pc o), (.spawnL d a b q, codeTarget s.me.pc q)],
      (s.me.level = .m → exec e.1 s = .next (trapI s.draw 0x63 (Config.freeWord s.draws))) ∧
      (s.me.level ≠ .m → (spawnTarget s (readX s a) = none → exec e.1 s = .next (trapI s 0x25 (readX s a))) ∧
        (∀ c, spawnTarget s (readX s a) = some c →
          (inDet s = true ∨ inRecon s = true ∨ s.me.tx = none → RunsTo (exec e.1 s) (writeVar u (xreg d) 1 0) (nextPc s)) ∧
          (inDet s = false → inRecon s = false → s.me.tx ≠ none → (fenced s s.cur 4 = false → exec e.1 s = .next (hold u (.fence 4))) ∧
            (fenced s s.cur 4 = true → ∃ t, exec e.1 s = .next t ∧ OnlyGoesOn s t ∧
              t.fabric = s.fabric ++ [⟨s.nextId + 1, s.curCore, s.curSlot, c, .spawn s.me.tx (rec_ e.2) s.nextId, s.me.tx⟩] ∧
              t.me.vpend = s.me.vpend ++ [⟨s.nextId, [xreg d], none, 0, .spawn⟩] ∧ .spawnArrive (s.nextId + 1) ∈ t.agenda))))) ∧
  (∀ (s : State) (m : Msg) (t vid : Nat) (ws : List Word) (tx : Tx), findMsg s m.id = some m → behind s m = false →
    m.body = .spawn (some t) ws vid → s.tx? t = some tx → (∃ v ∈ (s.slot (slotKey m.src m.srcSlot)).vpend, v.id = vid) →
    let k := slotKey m.src m.srcSlot
    let answered (u : State) (x : Vec) : Prop := (∀ v ∈ (u.slot k).vpend, v.id = vid → v.values = some [x]) ∧
      .variableResultArrival (k / 16) (k % 16) vid ∈ u.agenda
    let open_ := tx.st = .running ∧ hasCrew tx m.dst = true ∧ (s.core m.dst).isParked = false
    (∀ i, open_ → freePlaceOf (s.core m.dst) = some i → ws.length = 8 → ∃ u, exec (.spawnArrive m.id) s = .next u ∧ answered u 0 ∧
      live u t = some (tx.live + 1) ∧ placeWords u m.dst i = ws ∧
      (let q := look (u.core m.dst).places noPlace i; q.tx = some t ∧ q.queued = true ∧ q.transit = false) ∧
      (∀ j, j ≠ i → look (u.core m.dst).places noPlace j = look (s.core m.dst).places noPlace j)) ∧
    (¬ open_ ∨ freePlaceOf (s.core m.dst) = none → ∃ u, exec (.spawnArrive m.id) s = .next u ∧ answered u 1 ∧ u.txs = s.txs ∧ u.cores = s.cores)) ∧
  (∀ (s : State), Clear false {} s →
    (s.me.level = .m → exec .suspend s = .next (trapI s.draw 0x63 (Config.freeWord s.draws))) ∧
    (s.me.level ≠ .m → (s.me.csr.qen ≠ 0 ∨ s.me.csr.sen ≠ 0 → exec .suspend s = .next (trapI s 0x64 0)) ∧
      (s.me.csr.qen = 0 → s.me.csr.sen = 0 → (inRecon s = true → RunsTo (exec .suspend s) (unbound s) (nextPc s)) ∧
        (inRecon s = false → (∀ v ∈ s.me.vpend, ∀ r ∈ v.regs, r.isX0 = true) → settled s s.cur = true →
          s.me.relaxed.any (·.red) = false → fenced s s.cur 4 = true →
          ∃ t, exec .suspend s = .next t ∧ t.me.st = .save ∧ t.me.wait = some .saving ∧ t.me.pc = s.me.pc ∧ t.me.ctx = s.me.ctx ∧
            t.me.place = s.me.place ∧ t.me.x = s.me.x ∧ t.cores = s.cores ∧ t.txs = s.txs ∧ t.devMem = s.devMem ∧ t.hostMem = s.hostMem)))) ∧
  (∀ (s : State) (i : Nat), s.me.trapping = none → s.me.wait = some .saving → s.me.place = some (s.curCore, i) → i < 256 →
    ∃ t, resumeSlot s = .next t ∧ t.slot s.cur = freeSlot s.me ∧ t.txs = s.txs ∧ t.devMem = s.devMem ∧ t.hostMem = s.hostMem ∧
      (let q := look (t.core s.curCore).places noPlace i; q.tx = s.me.tx ∧ q.queued = true ∧ q.transit = false) ∧
      placeWords t s.curCore i = [fallThrough s.me, (s.me.ctx &&& ~~~0x30000#64) ||| 0x20000#64, s.me.x[1], s.me.x[2], s.me.x[3], s.me.x[4], s.me.x[5], s.me.x[6]]) ∧
  (∀ (s : State) (c i n : Nat) (key : Nat × Nat), pickRecord s c i (s.core c).places = some (n, key) →
    let ready (e : Nat × Place) : Prop := e.2.queued = true ∧ e.2.transit = false ∧ mayTake s c i (placeWords s c e.1) = true
    let rank (e : Nat × Place) : Nat × Nat := (ctxPrio ((placeWords s c e.1).getD 1 0), e.2.order)
    (∃ pl, (n, pl) ∈ (s.core c).places ∧ ready (n, pl) ∧ rank (n, pl) = key) ∧
      ∀ e ∈ (s.core c).places, ready e → ¬ (key.1 < (rank e).1 ∨ (key.1 = (rank e).1 ∧ (rank e).2 < key.2))) ∧
  (∀ (s : State) (c i : Nat), let k := slotKey c i
    (∀ n key, (s.slot k).st = SlotSt.free → laterThan s c i = false → pickRecord s c i (s.core c).places = some (n, key) →
      ∃ t, exec (.pickUp c i) s = .next t ∧ .pickUp c i ∈ t.agenda ∧ (look (t.core c).places noPlace n).queued = false ∧
        let ws := placeWords s c n
        let sl := t.slot k
        sl.st = .load ∧ sl.pc = ws.getD 0 0 ∧ sl.ctx = ws.getD 1 0 ∧ sl.place = some (c, n) ∧ sl.resv = (s.slot k).resv ∧
          (∀ j : Fin 16, sl.x[j] = if 1 ≤ j.val ∧ j.val ≤ 6 then ws.getD (j.val + 1) 0 else 0) ∧ sl.f = Vector.replicate 16 0) ∧
    (∀ t tx, (s.slot k).st = .load → fromRunning s k → txOfHandle s (s.partOf c) (ctxTxh (s.slot k).ctx) = some (t, tx) →
      recordRefused s c (s.slot k).ctx = false →
      ∃ u, exec (.pickUp c i) s = .next u ∧ u.slot k = { s.slot k with
        st := .ready, tx := some t, home := c, readyAt := (s.core c).cyc, level := if ctxLvl (s.slot k).ctx then .s else .u
        csr := txCsrs tx c, sdlg := tx.sdlg, sftrap := tx.sftrap }) ∧
    (∀ n, (s.slot k).st = .load → fromRunning s k → recordRefused s c (s.slot k).ctx = true → (s.slot k).place = some (c, n) →
      (s.core c).events.length < 8 → ∃ u, exec (.pickUp c i) s = .next u ∧ u.slot k = freeSlot (s.slot k) ∧
        (u.core c).events = (s.core c).events ++ [(0x63, BitVec.ofNat 64 (c * 2 ^ 20 + placeOffset n),
          txTag s (look (s.core c).places noPlace n).tx)] ∧
        ∀ e ∈ (u.core c).places, e.1 ≠ n)) ∧
  (∀ (s : State) (t : Nat) (ns : List Nat) (b : Nat), bestNeighbour s t ns = some b → b ∈ ns ∧
    ∀ n ∈ ns, sampled s b t < sampled s n t ∨ (sampled s b t = sampled s n t ∧ b ≤ n)) ∧
  (∀ (s : State) (c : Nat), let n := ((s.core c).slbi.extractLsb' 0 32).toNat
    (n = 0 ∨ s.tick / n ≤ (s.core c).lastBalance / n → ∃ a, exec (.loadLevel c) s = .next { s with agenda := a }) ∧
    (∀ t tx b, n ≠ 0 → (s.core c).lastBalance / n < s.tick / n → s.txs = [(t, tx)] → tx.st = .running → descDet tx.desc = false → hasCrew tx c = true →
      bestNeighbour s t (crewNeighbours tx c) = some b →
      let mine := byOrder (waiting s c t)
      let gap := sampled s c t - sampled s b t
      let go := mine.drop (mine.length - Nat.min 16 (gap / 2))
      (gap < 2 → ∃ u, exec (.loadLevel c) s = .next u ∧ u.fabric = s.fabric) ∧
      (2 ≤ gap → ∃ u, exec (.loadLevel c) s = .next u ∧ .shipArrive s.nextId ∈ u.agenda ∧
        u.fabric = s.fabric ++ [⟨s.nextId, c, 0, b, .records (go.map fun r => (r.1, placeWords s c r.1)) t, none⟩] ∧
        ∀ r ∈ go, (look (u.core c).places noPlace r.1).transit = true))) ∧
  (∀ (s : State) (m : Msg) (rs : List (Nat × List Word)) (t : Nat), findMsg s m.id = some m → behind s m = false → m.body = .records rs t →
    ∃ u yes no, exec (.shipArrive m.id) s = .next u ∧ (∃ id, (⟨id, m.dst, 0, m.src, .shipAnswer yes no, none⟩ : Msg) ∈ u.fabric ∧ .shipAnswer id ∈ u.agenda) ∧
      (∀ n, n ∈ rs.map (·.1) ↔ n ∈ yes ∨ n ∈ no) ∧ (crewOn s t m.dst = false → no = [] ∧ u.cores = s.cores) ∧
      (∀ n ws i, crewOn s t m.dst = true → rs = [(n, ws)] → ws.length = 8 → freePlaceOf (s.core m.dst) = some i →
        yes = [n] ∧ no = [] ∧ placeWords u m.dst i = ws ∧ (look (u.core m.dst).places noPlace i).queued = true) ∧
      (crewOn s t m.dst = true → freePlaceOf (s.core m.dst) = none → yes = [] ∧ u.cores = s.cores)) ∧
  (∀ (s : State) (m : Msg) (yes no : List Nat), findMsg s m.id = some m → behind s m = false → m.body = .shipAnswer yes no →
    (∀ n, n ∈ yes → n ∉ no) → ∃ u, exec (.shipAnswer m.id) s = .next u ∧
      (∀ e ∈ (s.core m.dst).places, (e.1 ∈ no → (e.1, { e.2 with transit := false, marked := 0 }) ∈ (u.core m.dst).places) ∧
        (e.1 ∉ no → (e.1 ∈ yes ∧ e.2.transit = true) ∨ e ∈ (u.core m.dst).places)) ∧
      ∀ e ∈ (u.core m.dst).places, e.1 ∈ yes → e.2.transit = false)

/-- spill, fill, rq.push, rq.pop, wfe, cls.set, cls.flush, xinv, core.park and core.unpark act at S level as R342 to
R350 say (R116, R131, R342, R343, R344, R345, R346, R347, R348, R349, R350, R367).

Completes, each with a next state of its own effect: `spill`, `fill`, `spillEngineDone`, `rqPush`, `rqPop`, `clsSet`,
`clsFlush`, `xinv`, `corePark`, `coreUnpark`, `wfe`, `wfeDeadline`. -/
def Obligations.PrivilegedInstructions : Prop :=
  (∀ (s : State) (d a b : Reg), Clear true { reads := [xreg a, xreg b], vwrites := [xreg d] } s →
    let asks (i : Instr) (isFill : Bool) (k area : Word) : Prop :=
      (16 ≤ k.toNat → exec i s = .next (trapI s 0x25 k)) ∧
      (k.toNat < 16 → (2 ^ 57 ≤ area.toNat → exec i s = .next (trapI s 0x25 area)) ∧
        (area.toNat < 2 ^ 57 → area.toNat % 8192 ≠ 0 → exec i s = .next (trapI s 0x20 area)) ∧
        (area.toNat < 2 ^ 57 → area.toNat % 8192 = 0 → ∃ t, exec i s = .next t ∧ t.me.st = .wait ∧ t.me.wait = some .spillEngine ∧
          t.me.x = s.me.x ∧ t.me.pc = s.me.pc ∧ t.myCore = { s.myCore with spillq := s.myCore.spillq ++ [⟨isFill, some s.cur, k.toNat, area.toNat, d, none⟩] } ∧
          .spillEngineDone s.curCore ∈ t.agenda ∧ t.devMem = s.devMem ∧ t.hostMem = s.hostMem ∧ ∀ j, j ≠ s.cur → t.slot j = s.slot j))
    asks (.spill d a b) false (readX s a) (if b = 0 then s.myCore.saveb + 0x2000 * readX s a else readX s b) ∧
    asks (.fill d a b) true (readX s b) (readX s a)) ∧
  (∀ (s : State) (c : Nat), (s.core c).spillq = [] → exec (.spillEngineDone c) s = .next s) ∧
  (∀ (s : State) (c j : Nat) (r : SpillReq) (rs : List SpillReq), (s.core c).spillq = r :: rs → r.issuer = some j → r.isFill = false →
    j / 16 = c → r.target < 16 → (s.slot j).wait = some .spillEngine →
    let k := slotKey c r.target
    let sl := s.slot k
    let p := s.partOf c
    let ends (v : Word) : Prop := ∃ t, exec (.spillEngineDone c) s = .next t ∧ EngineAnswers s t c j r.d v
    (k = j → ends 2) ∧
    (k ≠ j → (sl.st = SlotSt.free → ends 1) ∧ (sl.st = .load ∨ sl.st = .away → ends 2) ∧
      (sl.st = .ready ∨ sl.st = .wait → sl.level ≠ .u ∨ sl.halted = true → ends 2) ∧
      (∀ pa, sl.st = .ready → sl.level = .u → sl.halted = false → sl.wait = none → sl.away = none → spillWaits s k = false → drainedAll s k = true → r.fault = none →
        (∀ i, i < 8192 → translate (s.part p) (r.area + i) .write = .hit (.dev (pa + i))) →
        r.area % 4096 = 0 → (∀ va ∈ [r.area, r.area + 4096], reclassifying s p va = false ∧ classOf (classEntry (s.part p) va) = 3 ∧
          rangeAt s p va = none) →
        ∃ t, exec (.spillEngineDone c) s = .next t ∧ EngineAnswers s t c j r.d 0 ∧ t.slot k = freeSlot sl ∧
          readBytes t.devMem pa 4096 = areaImage sl ∧ (∀ a, a < pa ∨ pa + 8192 ≤ a → readByte t.devMem a = readByte s.devMem a) ∧
          t.hostMem = s.hostMem ∧ t.txs = s.txs))) ∧
  (∀ (s : State) (c j pa : Nat) (r : SpillReq) (rs : List SpillReq) (bs : List Byte), (s.core c).spillq = r :: rs → r.issuer = some j →
    r.isFill = true → j / 16 = c → r.target < 16 → (s.slot j).wait = some .spillEngine → r.fault = none →
    let k := slotKey c r.target
    let p := s.partOf c
    let ends (v : Word) : Prop := ∃ t, exec (.spillEngineDone c) s = .next t ∧ EngineAnswers s t c j r.d v
    ((s.slot k).st ≠ SlotSt.free → ends 1) ∧
    ((s.slot k).st = SlotSt.free → k ≠ j → areaPages s p c r.area false = (s, .ready) → readSpace s p r.area 8192 = some bs →
      (∀ i, i < 8192 → translate (s.part p) (r.area + i) .read = .hit (.dev (pa + i)) ∧ classOf (classEntry (s.part p) (r.area + i)) = 3) →
      bs = readBytes s.devMem pa 8192 ∧
      (txOfHandle s p (ctxTxh (areaWord bs 8)) = none → ends 2) ∧
      (∀ t tx, txOfHandle s p (ctxTxh (areaWord bs 8)) = some (t, tx) →
        let good := (s.slot k).resv = some t ∧ tx.st = .running ∧ areaRefused bs = false
        (¬ good → ends 2) ∧
        (good → areaField bs 8184 8 ≠ crc32c ((bs.drop 4096).take 4088) → ends 3) ∧
        (good → areaField bs 8184 8 = crc32c ((bs.drop 4096).take 4088) → areaField bs 16 1 = 0 →
          ∃ u, exec (.spillEngineDone c) s = .next u ∧ EngineAnswers s u c j r.d 0 ∧ let sl := u.slot k
            sl.st = .ready ∧ sl.wait = none ∧ sl.level = .u ∧ sl.tx = some t ∧ sl.resv = some t ∧ sl.home = c ∧ sl.pc = areaWord bs 0 ∧ sl.ctx = areaWord bs 8 ∧
            (∀ i : Fin 16, sl.x[i] = if i.val = 0 then 0 else areaWord bs (24 + 8 * i.val)) ∧ (∀ i : Fin 16, sl.f[i] = BitVec.ofNat 512 (areaField bs (512 + 64 * i.val) 64)) ∧
            sl.csr.rmode = (if areaField bs 152 1 % 8 ≤ 4 then areaWord bs 152 &&& 7 else 0) ∧ sl.csr.promise = areaWord bs 376 ∧ sl.sftrap = areaWord bs 296 &&& 0xFF ∧ sl.pctb = areaWord bs 312 ∧
            sl.csr.txn = (txCsrs tx c).txn ∧ sl.csr.tray = (txCsrs tx c).tray ∧
            ∀ h ∈ sl.h.toList, h.reload = h.valid)))) ∧
  (∀ (sl base : Slot) (rest : List Byte), sl.wait = none → sl.csr.sen = 0 → sl.csr.qen = 0 → sl.x[0] = 0 →
    let r := restore base (areaImage sl ++ rest)
    let mode := sl.csr.rmode &&& 7
    (areaImage sl).length = 4096 ∧ r.pc = sl.pc ∧ r.ctx = sl.ctx ∧ r.x = sl.x ∧ r.f = sl.f ∧
      r.tu = { sl.tu with cause := sl.tu.cause &&& 0xFF, tstat := statusWritten 0 sl.tu.tstat } ∧
      (∀ i : Fin 4, r.sdlg[i] = sl.sdlg[i] &&& delegable i.val) ∧ r.sftrap = sl.sftrap &&& 0xFF ∧
      r.sbpc = sl.sbpc &&& 0x01FFFFFFFFFFFFFF#64 ∧ r.pctb = sl.pctb ∧
      r.csr = { sl.csr with
        rmode := if mode.toNat ≤ 4 then mode else 0, fflags := sl.csr.fflags &&& 0xFF, waitlim := sl.csr.waitlim &&& 0xFFFFFFFFFF,
        leaselim := leaseLimit sl.csr.leaselim, schk := sl.csr.schk &&& 1, mxshape := shapeWritten sl.csr.mxshape,
        tray := base.csr.tray, txn := base.csr.txn } ∧
      ∀ i : Fin 8, r.h[i].valid = sl.h[i].valid ∧ r.h[i].addr = sl.h[i].addr ∧ r.h[i].record = sl.h[i].record) ∧
  (∀ (s : State) (d a b : Reg), Clear true { reads := [xreg a, xreg b], vwrites := [xreg d] } s →
    let v := readX s a
    (2 ^ 48 ≤ v.toNat → exec (.rqPush d a b) s = .next (trapI s 0x25 v)) ∧
    (v.toNat < 2 ^ 48 → (4 ≤ (readX s b).toNat → exec (.rqPush d a b) s = .next (trapI s 0x25 (readX s b))) ∧
      (∀ n : Fin 4, (readX s b).toNat = n.val → let q := s.myCore.rq
        (64 ≤ q[n].length → RunsTo (exec (.rqPush d a b) s) (writeVar s (xreg d) 1 0) (nextPc s)) ∧
        (q[n].length < 64 → (∀ i, i < 16 → ∀ m t e, (s.slot (slotKey s.curCore i)).wait = some (.wfe m t e) → slotKey s.curCore i = s.cur) →
          RunsTo (exec (.rqPush d a b) s) (writeVar (s.setMyCore { s.myCore with rq := q.set n (q[n] ++ [v.setWidth 48]) }) (xreg d) 0 0) (nextPc s))))) ∧
  (∀ (s : State) (d : Reg), Clear true { vwrites := [xreg d] } s → let q := s.myCore.rq
    ((∀ n : Fin 4, q[n] = []) → RunsTo (exec (.rqPop d) s) (writeVar s (xreg d) 0 0) (nextPc s)) ∧
    (∀ (n : Fin 4) v vs, q[n] = v :: vs → (∀ m : Fin 4, n < m → q[m] = []) →
      RunsTo (exec (.rqPop d) s) (writeVar (s.setMyCore { s.myCore with rq := q.set n vs }) (xreg d)
        (BitVec.ofNat 512 (2 ^ 63 + n.val * 2 ^ 48 + v.toNat)) 0) (nextPc s))) ∧
  (∀ (s : State) (d a b : Reg), Clear true { reads := [xreg a, xreg b], vwrites := [xreg d] } s →
    let mask := (readX s a).toNat
    let till := (readX s b).toNat
    let e := (if mask % 2 = 1 ∧ s.myCore.qi ≠ [] then 1 else 0) + (if mask / 2 % 2 = 1 ∧ (∃ q ∈ s.myCore.rq.toList, q ≠ []) then 2 else 0) +
      (if mask / 4 % 2 = 1 ∧ till ≤ s.tick then 4 else 0)
    (8 ≤ mask → exec (.wfe d a b) s = .next (trapI s 0x25 (readX s a))) ∧
    (mask < 8 → (mask = 0 ∨ e ≠ 0 → RunsTo (exec (.wfe d a b) s) (writeVar s (xreg d) (BitVec.ofNat 512 e) 0) (nextPc s)) ∧
      (mask ≠ 0 → e = 0 → ∃ t, exec (.wfe d a b) s = .next t ∧ OnlyWaits s t ∧ t.me.wait = some (.wfe mask till d) ∧
        (4 ≤ mask → .wfeDeadline s.curCore s.curSlot ∈ t.agenda)))) ∧
  (∀ (s : State) (c i m till : Nat) (d : Reg), let k := slotKey c i
    i < 16 → (s.slot k).wait = some (.wfe m till d) → m / 4 % 2 = 1 →
    (s.tick < till → ∃ a, exec (.wfeDeadline c i) s = .next { s with agenda := a } ∧ .wfeDeadline c i ∈ a) ∧
    (till ≤ s.tick → ∃ t, exec (.wfeDeadline c i) s = .next t ∧ (t.slot k).st = .ready ∧ (t.slot k).wait = none ∧
      Arrives s t k d (BitVec.ofNat 64 (wfeConditions s c m till)))) ∧
  (∀ (s : State) (a b : Reg), Clear true { reads := [xreg a, xreg b] } s →
    let ea := readX s a
    let e := readX s b
    let p := s.myPart
    let g := ea.toNat / 4096
    let cls := e.toNat / 2 ^ 14
    let owner := e.toNat % 2 ^ 10
    let good := e.toNat < 2 ^ 16 ∧ e.toNat / 2 ^ 10 % 16 = 0 ∧ (cls ≠ 1 → owner = 0) ∧ (cls = 1 → s.present owner = true ∧ s.partOf owner = p)
    (2 ^ 57 ≤ ea.toNat → exec (.clsSet a b) s = .next (trapI s 0x25 ea)) ∧
    (ea.toNat < 2 ^ 57 → (¬ good → exec (.clsSet a b) s = .next (trapI s 0x25 e)) ∧
      (good → reclassifying s p ea.toNat = false →
        (s.me.wait ≠ some (classWait p ea.toNat) → behindHeld s p ea.toNat s.cur = false →
          ∃ t, exec (.clsSet a b) s = .next t ∧ OnlyWaits s t ∧ t.me.wait = some (classWait p ea.toNat) ∧
            ∃ r ∈ (t.part p).reclass, r.gran = g ∧ r.entry = e.setWidth 16 ∧ r.ready = false ∧ .reclassifyComplete r.id ∈ t.agenda) ∧
        (s.me.wait = some (classWait p ea.toNat) → ∃ t, exec (.clsSet a b) s = .next t ∧ AwaitsAccess s t [] ∧ OnlyWaits s t ∧
          (t.part p).cls = (s.part p).cls)))) ∧
  (∀ (s : State) (a : Reg), Clear true { reads := [xreg a] } s →
    let ea := readX s a
    let p := s.myPart
    let g := ea.toNat / 4096
    (2 ^ 57 ≤ ea.toNat → exec (.clsFlush a) s = .next (trapI s 0x25 ea)) ∧
    (ea.toNat < 2 ^ 57 → (reclassifying s s.myPart ea.toNat = false → granuleHeld s s.myPart (ea.toNat / 4096) = false →
        ∃ t, exec (.clsFlush a) s = .next t ∧ AwaitsAccess s t [] ∧ t.me.x = s.me.x ∧ t.me.pc = s.me.pc ∧ (∀ k, k ≠ s.cur → t.slot k = s.slot k) ∧
          t.hostMem = s.hostMem ∧ t.devMem = (flushGranule s p g (coresOf s p)).devMem ∧ (t.part p).cls = (s.part p).cls ∧
          (∀ c ∈ coresOf s p, (∀ va, va / 4096 = g → l1At t c va = none) ∧ (∀ va, va / 4096 ≠ g → l1At t c va = l1At s c va) ∧
            (islandAt t (islandOf c)).gated = false) ∧
          ((∀ c ∈ coresOf s p, (s.core c).l1 = []) → t.devMem = s.devMem ∧ t.cores = s.cores) ∧
          ∀ l, translate (s.part p) (ea.toNat / 4096 * 4096) .read = .hit l →
            ∀ k ∈ (t.part p).stuck, ¬ (k % 2 = l.key % 2 ∧ l.key ≤ k ∧ k ≤ (l.plus 4095).key)) ∧
      (reclassifying s s.myPart ea.toNat = true ∨ granuleHeld s s.myPart (ea.toNat / 4096) = true →
        exec (.clsFlush a) s = .next (hold (unbound s) (.granule s.myPart (ea.toNat / 4096) ea))))) ∧
  (∀ (s : State) (a b : Reg), Clear true { reads := [xreg a, xreg b] } s →
    let lo := (readX s a).toNat
    let n := (readX s b).toNat
    (fenced s s.cur 6 = false → exec (.xinv a b) s = .next (hold s (.fence 6))) ∧
    (fenced s s.cur 6 = true → ∃ t, exec (.xinv a b) s = .next t ∧ AwaitsAccess s t [] ∧ t.me.x = s.me.x ∧ t.me.line = s.me.line ∧ t.devMem = s.devMem ∧ t.hostMem = s.hostMem ∧
      (n = 0 → t.cores = s.cores) ∧
      ∀ c, t.core c = if n ≠ 0 ∧ c < 512 ∧ s.present c = true ∧ s.partOf c = s.myPart then
          { s.core c with icache := (s.core c).icache.filter fun e => !(decide (lo < e.1 + 64) && decide (e.1 < lo + n)) } else s.core c)) ∧
  (∀ (s : State) (d a : Reg), Clear true { reads := [xreg a], vwrites := [xreg d] } s →
    let v := readX s a
    let c := v.toNat % 1024
    let good := v.toNat / 1024 % 64 = 0 ∧ v.toNat < 2 ^ 17 ∧ s.present c = true ∧ (s.me.level = .m ∨ s.partOf c = s.myPart)
    let idle := ∀ i, i < 16 → (s.slot (slotKey c i)).st = SlotSt.free ∧ (s.slot (slotKey c i)).resv = none
    ∀ i ∈ [Instr.corePark d a, .coreUnpark d a], (¬ good → exec i s = .next (trapI s 0x25 v)) ∧
      (good → (2 ^ 16 ≤ v.toNat → RunsTo (exec i s) (writeVar (setParked s c false) (xreg d) 0 0) (nextPc s)) ∧
        (v.toNat < 2 ^ 16 → (c = s.curCore ∨ ¬ idle → RunsTo (exec i s) (writeVar s (xreg d) 1 0) (nextPc s)) ∧
          (c ≠ s.curCore → idle → RunsTo (exec i s) (writeVar (setParked s c true) (xreg d) 0 0) (nextPc s))))) ∧
  (∀ (s : State) (c k : Nat) (v : Bool), (setParked s c v).core k = if k = c then { s.core c with isParked := v } else s.core k)

/-- rdtb, sleep, slp.until and yield, and the events that end waits: sleep end, wait limit, TIMER, core events and
code lines (R20, R31, R32, R168, R208, R211, R212, R213, R336, R337, R341, R374).

Completes, each with a next state of its own effect: `yield`, `rdtb`, `sleep`, `sleepImm`, `slpUntil`, `sleepEnd`,
`waitLimit`, `timer`, `coreEvent`, `instructionLineArrival`. -/
def Obligations.TimeAndWaits : Prop :=
  let later (s : State) (e : Instr) : Prop := ∃ a, exec e s = .next { s with agenda := a } ∧ e ∈ a
  (∀ (s : State) (d : Reg), Clear false { vwrites := [xreg d] } s →
    RunsTo (exec (.rdtb d) s) (writeVar s (xreg d) (BitVec.ofNat 512 (s.tick % 2 ^ 64)) 0) (nextPc s)) ∧
  (∀ (s : State) (a : Reg) (imm : BitVec 16),
    let sleeps (i : Instr) (till : Nat) : Prop :=
      (till ≤ s.tick → RunsTo (exec i s) (unbound s) (nextPc s)) ∧
      (s.tick < till → ∃ t, exec i s = .next t ∧ OnlyWaits s t ∧ t.me.st = .wait ∧ t.me.wait = some (.sleep till) ∧
        .sleepEnd s.curCore s.curSlot ∈ t.agenda)
    (Clear false { reads := [xreg a] } s → sleeps (.sleep a) (min (s.tick + (readX s a).toNat) (2 ^ 64 - 1)) ∧
      sleeps (.slpUntil a) (readX s a).toNat) ∧
    (Clear false {} s → sleeps (.sleepImm imm) (min (s.tick + imm.toNat) (2 ^ 64 - 1)))) ∧
  (∀ (s : State) (c i till : Nat), let k := slotKey c i
    i < 16 → (s.slot k).wait = some (.sleep till) →
    (s.tick < till → later s (.sleepEnd c i)) ∧
    (till ≤ s.tick → ∃ t, exec (.sleepEnd c i) s = .next t ∧ (t.slot k).st = .ready ∧ (t.slot k).wait = none ∧ (t.slot k).x = (s.slot k).x ∧
      (t.slot k).pc = (match (s.slot k).resume with
        | some r => r
        | none => fallThrough (s.slot k)) ∧ (∀ j, j ≠ k → t.slot j = s.slot j) ∧ t.cores = s.cores)) ∧
  (∀ (s : State) (c i : Nat), (∀ till, (s.slot (slotKey c i)).wait ≠ some (.sleep till)) → exec (.sleepEnd c i) s = .next s) ∧
  (∀ (s : State), Clear false {} s →
    let others := (List.range 16).filter fun i => i ≠ s.curSlot ∧ (s.slot (slotKey s.curCore i)).st = SlotSt.ready ∧
      (s.slot (slotKey s.curCore i)).halted = false ∧ (s.slot (slotKey s.curCore i)).readyAt ≤ s.myCore.cyc
    (inDet s = true ∨ others = [] → RunsTo (exec .yield s) s (nextPc s)) ∧
    (inDet s = false → others ≠ [] → RunsTo (exec .yield s) (s.setMe { s.me with yieldTo := some (others, s.myCore.cyc + 17) }) (nextPc s))) ∧
  (∀ (s : State) (c k till : Nat) (os : List Nat), (s.slot (slotKey c k)).yieldTo = some (os, till) → os ≠ [] → (s.core c).cyc < till →
    eligible s c k = false) ∧
  (∀ (s : State) (c i : Nat) (w : Wait), let k := slotKey c i
    let lim := (s.slot k).csr.waitlim.toNat
    (s.slot k).wait = some w →
    (w.limited = false ∨ lim = 0 → exec (.waitLimit c i) s = .next s) ∧
    (w.limited = true → lim ≠ 0 → (s.tick < (s.slot k).waitSince + lim → later s (.waitLimit c i)) ∧
      ((s.slot k).waitSince + lim ≤ s.tick → mayRetry s k w = false → ∃ t, exec (.waitLimit c i) s = .next t ∧
        t.slot k = { s.slot k with st := .ready, wait := none, causes := (s.slot k).causes ++ [⟨0x40, limitValue w, false⟩] } ∧
        (∀ j, j ≠ k → t.slot j = s.slot j) ∧ t.devMem = s.devMem ∧ t.hostMem = s.hostMem ∧
        (∀ a, w = .deferred a → ∀ e ∈ look (t.core (a / 2 ^ 20 % 1024)).deferred [] (a % 2 ^ 20 / 8), e.slot ≠ k)))) ∧
  (∀ (s : State) (c i : Nat), let k := slotKey c i
    ((s.slot k).pctb = 0 → exec (.timer c i) s = .next s) ∧
    ((s.slot k).pctb ≠ 0 → (s.tick < (s.slot k).pctb.toNat → later s (.timer c i)) ∧
      ((s.slot k).pctb.toNat ≤ s.tick → exec (.timer c i) s =
        .next (s.setSlot k { s.slot k with pctb := 0, causes := (s.slot k).causes ++ [⟨0x46, (s.slot k).pctb, true⟩] })))) ∧
  (∀ (sl : Slot) (c : Cause), c ∈ takeable sl ↔ c ∈ sl.causes ∧ (c.code = 0x46 → sl.level = .u ∧ sl.lease = none)) ∧
  (∀ (s : State) (c : Nat), ((s.core c).events = [] ∨ (s.core c).sevec = 0 → exec (.coreEvent c) s = .next s) ∧
    (∀ code tval tag rest, (s.core c).events = (code, tval, tag) :: rest → (s.core c).sevec ≠ 0 →
      (freeUnreserved s c = none → later s (.coreEvent c)) ∧
      (∀ i, freeUnreserved s c = some i → ∃ t, exec (.coreEvent c) s = .next t ∧ (t.core c).events = rest ∧ let sl := t.slot (slotKey c i)
        sl.st = .ready ∧ sl.level = .s ∧ sl.pc = (s.core c).sevec ∧ sl.ts = ⟨0, BitVec.ofNat 64 code, tval, 0, 0x45⟩ ∧ sl.tx = none ∧ sl.tag = tag ∧
        sl.x = Vector.replicate 16 0 ∧ (∀ j, j ≠ slotKey c i → t.slot j = s.slot j)))) ∧
  (∀ (s : State) (c : Nat) (i : Nat), freeUnreserved s c = some i → i < 16 ∧ (s.slot (slotKey c i)).st = .free ∧ (s.slot (slotKey c i)).resv = none ∧
    (i = 15 → (s.core c).smsg.getLsbD 0 = false) ∧
    ∀ j, j < i → (s.slot (slotKey c j)).st ≠ .free ∨ (s.slot (slotKey c j)).resv ≠ none) ∧
  (∀ (s : State) (c i line : Nat), let k := slotKey c i
    let p := s.partOf c
    i < 16 → (s.slot k).wait = some (.fetch line) →
    (cached s c line = true → ∃ t, exec (.instructionLineArrival c i) s = .next t ∧ t.cores = s.cores ∧ t.slots = s.slots) ∧
    (∀ l, cached s c line = false → translate (s.part p) line .exec = .hit l → placeReady s l 0 = none →
      (s.core c).icache.length + 2 ≤ icacheSize →
      ∃ t, exec (.instructionLineArrival c i) s = .next t ∧ t.slots = s.slots ∧ t.devMem = s.devMem ∧ t.hostMem = s.hostMem ∧
        look (t.core c).icache 0 line = BitVec.ofNat 512 (bytesToNat (readBytes (memoryOf s l) l.addr 64)) ∧ cached t c line = true) ∧
    (cached s c line = false → translate (s.part p) line .exec = .miss → ∃ t, exec (.instructionLineArrival c i) s = .next t ∧
      t.slots = s.slots ∧ (∃ r ∈ (t.part p).xreqs, r.page = pageOf line ∧ r.need = .exec ∧ r.paging = false) ∧
      .instructionLineArrival c i ∈ t.agenda) ∧
    (cached s c line = false → translate (s.part p) line .exec = .final ∨ translate (s.part p) line .exec = .nowhere →
      ∃ t, exec (.instructionLineArrival c i) s = .next t ∧ t.slot k = { s.slot k with wait := none } ∧ t.cores = s.cores))

/-- Answers, timeouts, page responses, invalidations and replays change translations and waiters as R372 to R381 say
(R58, R371, R372, R373, R374, R375, R376, R377, R378, R380, R381).

Completes, each with a next state of its own effect: `atsResponse`, `atsTimeout`, `prgResponseSuccess`,
`prgResponseFailure`, `pageRequestTimeout`, `replay`, `atsInvalidate`. -/
def Obligations.TranslationAndFaults : Prop :=
  let later (s : State) (e : Instr) : Prop := ∃ a, exec e s = .next { s with agenda := a } ∧ e ∈ a
  let base (e : Nat × XEntry) : Nat := e.1 % 2 ^ 64 / 2 ^ e.2.log2 * 2 ^ e.2.log2
  let covers (e : Nat × XEntry) (slice va : Nat) : Prop := e.1 / 2 ^ 64 = slice ∧ base e ≤ va ∧ va < base e + 2 ^ e.2.log2
  let held (pt : Part) (slice : Nat) : Nat := (pt.xlat.filter fun e => e.1 / 2 ^ 64 == slice).length
  let sameMemory (s t : State) : Prop := t.devMem = s.devMem ∧ t.hostMem = s.hostMem
  let marked (s t : State) (p page status : Nat) : Prop := ∀ c, c < 512 → s.present c = true → s.partOf c = p →
    (t.core c).parked = (s.core c).parked.map (fun e => if e.2.1 = page ∧ e.2.2 = 0 then (e.1, page, status) else e) ∧
    ((∃ e ∈ (s.core c).parked, e.2.1 = page ∧ e.2.2 = 0) → .replay c ∈ t.agenda)
  let final (s t : State) (p page : Nat) : Prop := marked s t p page 2 ∧ sameMemory s t ∧
    ∀ k, t.slot k = if s.partOf (k / 16) = p then finalSlot p page (s.slot k) else s.slot k
  (∀ (r : PartRecord) (va : Nat), sliceOf r va < 128 ∧
    (r.extractLsb' 32 32 = BitVec.allOnes 32 → sliceOf r va = 32 * ((va / 2 ^ 12 ^^^ va / 2 ^ 22) % 4) +
      (va / 2 ^ 14 ^^^ va / 2 ^ 24 ^^^ va / 2 ^ 34 ^^^ va / 2 ^ 44) % 32)) ∧
  (∀ (p page : Nat) (sl : Slot), (sl.wait = some (.xlat p page) ∨ sl.wait = some (.xlatHeld p page) → finalSlot p page sl = { sl with xfault := some page }) ∧
    (∀ line, sl.wait = some (.fetch line) → pageOf line = page → finalSlot p page sl = { sl with xfault := some page, wait := none }) ∧
    (sl.wait = none → finalSlot p page sl = sl)) ∧
  (∀ (s : State) (id pasid : Nat) (a : AtsAnswer) (b : Bool), (requestOf s id = none ∨ ∃ e, requestOf s id = some e ∧ e.2.queued = true) → exec (.atsResponse id a) s = .next s ∧
    exec (.atsTimeout id) s = .next s ∧ exec (.prgResponseSuccess id) s = .next s ∧ exec (.prgResponseFailure id b) s = .next s ∧
    exec (.pageRequestTimeout id) s = .next s) ∧
  (∀ n, storedSize n ∈ pageSizes ∧ storedSize n ≤ max n 12 ∧ ∀ l ∈ pageSizes, l ≤ max n 12 → l ≤ storedSize n) ∧
  (∀ (s : State) (id p : Nat) (r : XReq) (a : AtsAnswer), requestOf s id = some (p, r) → r.paging = false → r.queued = false →
    let l := storedSize a.log2
    let lo := r.page / 2 ^ l * 2 ^ l
    let e : XEntry := ⟨l, a.read, a.write, a.exec, a.pa + (lo - r.page / 2 ^ max a.log2 12 * 2 ^ max a.log2 12)⟩
    (heldByInvalidate (s.part p) r.page = true → exec (.atsResponse id a) s = .next (s.post (.atsResponse id a))) ∧
    (heldByInvalidate (s.part p) r.page = false → ∃ t, exec (.atsResponse id a) s = .next t ∧ t.slots = s.slots ∧ sameMemory s t ∧
      xentryAt (t.part p).xlat r.slice r.page l = some e ∧
      (∀ x ∈ (t.part p).xlat, covers x r.slice r.page → x = (xkey r.slice lo l, e)) ∧
      (held (s.part p) r.slice < 4096 → ∀ x ∈ (s.part p).xlat, ¬ covers x r.slice r.page → x.1 ≠ xkey r.slice lo l → x ∈ (t.part p).xlat) ∧
      (held (s.part p) r.slice ≤ 4096 → held (t.part p) r.slice ≤ 4096) ∧ (∀ q ∈ (t.part p).xreqs, q.id ≠ id) ∧
      ((∀ q ∈ (s.part p).xreqs, q.page = r.page → q.paging = false) → marked s t p r.page 1))) ∧
  (∀ (s : State) (id p : Nat) (r : XReq), requestOf s id = some (p, r) → r.paging = false → r.queued = false →
    (s.tick < r.sent + 50000 → exec (.atsTimeout id) s = .next (s.post (.atsTimeout id))) ∧
    (r.sent + 50000 ≤ s.tick → (r.again = false → ∃ t, exec (.atsTimeout id) s = .next t ∧ t.slots = s.slots ∧ sameMemory s t ∧ .atsTimeout id ∈ t.agenda ∧
        (t.part p).xreqs = (s.part p).xreqs.map fun q => if q.id = id then { q with again := true, sent := s.tick } else q) ∧
      (r.again = true → ∃ t, exec (.atsTimeout id) s = .next t ∧ final s t p r.page ∧ ∀ q ∈ (t.part p).xreqs, q.id ≠ id))) ∧
  (∀ (s : State) (id p : Nat) (r : XReq), requestOf s id = some (p, r) → r.paging = true → r.queued = false →
    let limit := ((s.part p).sprto.extractLsb' 0 40).toNat
    (∃ t, exec (.prgResponseSuccess id) s = .next t ∧ t.slots = s.slots ∧ t.cores = s.cores ∧ sameMemory s t ∧
      (∃ q ∈ (t.part p).xreqs, q.page = r.page ∧ q.paging = false) ∧ ∀ x ∈ (t.part p).xlat, ¬ covers x r.slice r.page) ∧
    (∃ t, exec (.prgResponseFailure id true) s = .next t ∧ final s t p r.page ∧ (t.part p).pagesOff = (s.part p).pagesOff ∧ ∀ q ∈ (t.part p).xreqs, q.id ≠ id) ∧
    (∃ t, exec (.prgResponseFailure id false) s = .next t ∧ (t.part p).pagesOff = true ∧ (∀ q ∈ (t.part p).xreqs, q.paging = false) ∧ sameMemory s t ∧
      ∀ q ∈ (s.part p).xreqs, q.paging = true → ∀ k, s.partOf (k / 16) = p → (s.slot k).wait = some (.xlat p q.page) → (t.slot k).xfault = some q.page) ∧
    (limit = 0 ∨ s.tick < r.sent + limit → exec (.pageRequestTimeout id) s = .next (s.post (.pageRequestTimeout id))) ∧
    (limit ≠ 0 → r.sent + limit ≤ s.tick → ∃ t, exec (.pageRequestTimeout id) s = .next t ∧ final s t p r.page ∧ ∀ q ∈ (t.part p).xreqs, q.id ≠ id)) ∧
  (∀ (s : State) (pasid va len : Nat), let ps := pasidParts s pasid
    (∀ p ∈ ps, p < 8 ∧ (s.part p).spasid.getLsbD 63 = true ∧ ((s.part p).spasid.extractLsb' 0 20).toNat = pasid) ∧
    ∃ t, exec (.atsInvalidate pasid va len) s = .next t ∧ t.slots = s.slots ∧ t.hostMem = s.hostMem ∧
      ((∀ c, (s.core c).l1 = []) → t.devMem = s.devMem) ∧
      (∀ p ∈ ps, ∀ c ∈ coresOf s p, ∀ x, x < 2 ^ 57 → va < x / 4096 * 4096 + 4096 → x / 4096 * 4096 < va + len → l1At t c x = none) ∧
      (∀ p ∈ ps, (t.part p).xlat = (s.part p).xlat.filter fun e => !(decide (va < base e + 2 ^ e.2.log2) && decide (base e < va + len))) ∧
      (∀ p ∈ ps, ∀ c, c < 512 → s.present c = true → s.partOf c = p →
        (t.core c).icache = (s.core c).icache.filter fun e => !(decide (va < e.1 + 64) && decide (e.1 < va + len))) ∧
      ((∃ p ∈ ps, rangeBusy s p va len = true) → .atsInvalidate pasid va len ∈ t.agenda) ∧
      (∀ p ∈ ps, rangeBusy s p va len = true → (va, len) ∈ (t.part p).invalidating) ∧
      ((∀ p ∈ ps, rangeBusy s p va len = false) → t.agenda = s.agenda)) ∧
  (∀ (s : State) (c : Nat), ((s.core c).parked = [] ∧ (s.core c).spillq = [] → exec (.replay c) s = .next s) ∧
    (∀ n page status i sl bs, (s.core c).spillq = [] → nextReplay s c (s.core c).parked = some ((n, page, status), i, sl) →
      let p := s.partOf c
      let area := parkBase (s.core c) + 8192 * n
      areaPages s p c area false = (s, .ready) → readSpace s p area 8192 = some bs → areaField bs 16 1 = 0 → (s.slot (slotKey c i)).st = SlotSt.free → i < 16 →
      status ≠ 0 ∧ (n, page, status) ∈ (s.core c).parked ∧ parkedCont s c n = some sl ∧
      ∃ t, exec (.replay c) s = .next t ∧ (t.core c).parked = (s.core c).parked.filter (fun e => e.1 != n) ∧ sameMemory s t ∧
        let x := t.slot (slotKey c i)
        x.st = .ready ∧ x.wait = none ∧ x.pc = areaWord bs 0 ∧ x.ctx = areaWord bs 8 ∧ x.level = sl.level ∧ x.home = sl.home ∧
        (∀ j : Fin 16, x.x[j] = if j.val = 0 then 0 else areaWord bs (24 + 8 * j.val)) ∧
        x.xfault = (if status = 2 then some page else none) ∧ x.replay = (if status = 1 then some page else none)))

/-- The sequencer enables, watches, picks and pins queues, numbers transactions and closes rounds as R45 to R48, R60
and R354 to R361 say (R45, R46, R48, R50, R54, R60, R354, R355, R357, R358, R359, R361).

Completes, each with a next state of its own effect: `watchedLineWrite`, `queueEnable`, `pick`, `reconNumbering`,
`roundCloseWindow`, `roundCloseIdle`, `podCloseMarkerSend`, `closeMarker`, `headPin`. -/
def Obligations.QueuesAndRounds : Prop :=
  let later (s : State) (e : Instr) : Prop := ∃ a, exec e s = .next { s with agenda := a } ∧ e ∈ a
  let closes (s t : State) (p : Nat) : Prop := (t.part p).round = (s.part p).round + 1 ∧ (t.part p).pos = 0 ∧ (t.part p).roundAt = none ∧
    (t.part p).slqd = (s.part p).slqdHeld.getD (s.part p).slqd ∧ t.slots = s.slots ∧ t.txs = s.txs ∧ t.devMem = s.devMem ∧
    (∀ n, n < managers s p → .closeMarker p n (ownDev s p) (s.part p).round ∈ t.agenda)
  let numbered (s t : State) (p id : Nat) (tiles : List SetTile) : Prop := (∃ tx, t.tx? id = some tx ∧ tx.st = .waiting ∧ tx.tiles = tiles ∧
      tx.key = some ((s.part p).round * 2 ^ 16 + ownDev s p * 256 + (s.part p).pos)) ∧ .dispatch id ∈ t.agenda ∧
    ∀ e ∈ tiles, ∃ m ∈ t.fabric, m.body = .lockReq id e.tile ∧ m.dst = managerOf s p e.tile ∧ .lockRequest m.id ∈ t.agenda
  (∀ (s v : State) (p q : Nat), readHeader s p q = (v, .absent) → exec (.queueEnable p q) s = .next v ∧
    exec (.watchedLineWrite p q) s = .next (v.setPart p { v.part p with queues := remove (v.part p).queues q })) ∧
  (∀ (s v : State) (p q hva : Nat) (bad : Bool) (ws : List Word), readHeader s p q = (v, .found hva bad ws) →
    let old := queueSt v p q
    let writes (u : State) (n : QueueSt) : Prop := (agentWrite u p (hva + 72) (natToBytes 8 (statWord u n))).2 = true
    (hdrEn ws = false → bad = false → exec (.queueEnable p q) s = .next v) ∧
    (hdrEn ws = true ∨ bad = true → hdrMalformed bad ws = true → let n : QueueSt := { old with state := 4, reason := 1, watched := false, header := hva }
      writes v n → ∃ t, exec (.queueEnable p q) s = .next t ∧ queueSt t p q = n) ∧
    (hdrEn ws = true → hdrMalformed bad ws = false → locate v p (queueGranules hva ws) = .elsewhere →
      let n : QueueSt := { old with state := 4, reason := 2, watched := false, header := hva }
      writes v n → ∃ t, exec (.queueEnable p q) s = .next t ∧ queueSt t p q = n) ∧
    (hdrEn ws = true → hdrMalformed bad ws = false → locate v p (queueGranules hva ws) = .device →
      let u := shareQueue v p (queueGranules hva ws)
      let n : QueueSt := { queueSt u p q with state := 0, reason := if old.state = 4 then 0 else old.reason, watched := true, header := hva }
      (∀ va ∈ queueGranules hva ws, classOf (classEntry (u.part p) va) = 3 ∨ reclassifying u p va = true) ∧
      (writes u n → ∃ t, exec (.queueEnable p q) s = .next t ∧ (queueSt t p q).state = 0 ∧ (queueSt t p q).watched = true ∧
        (queueSt t p q).header = hva ∧ .watchedLineWrite p q ∈ t.agenda)) ∧
    (∀ w e, hdrEn ws = true → bad = false → old.watched = true → agentRead v p (hdrEntry ws (hdrHead ws)) 8 = (w, .val e) → queueSt w p q = old →
      (e % 2 = 1 → hdrHold ws = false → old.state = 0 → writes w { old with state := 1, since := w.tick } →
        ∃ t, exec (.watchedLineWrite p q) s = .next t ∧ queueSt t p q = { old with state := 1, since := s.tick }) ∧
      (e % 2 = 0 ∨ hdrHold ws = true → old.state ≠ 0 → writes w { old with state := 0, pinned := [], parkedOn := none } →
        ∃ t, exec (.watchedLineWrite p q) s = .next t ∧ queueSt t p q = { old with state := 0, pinned := [], parkedOn := none }))) ∧
  (∀ (s : State) (p : Nat), (queueCount s p = 0 → exec (.pick p) s = .next s) ∧
    (queueCount s p ≠ 0 → s.hub.ready.getLsbD 1 = false ∨ s.hub.ready.getLsbD 2 = false → later s (.pick p)) ∧
    (queueCount s p ≠ 0 → s.hub.ready.getLsbD 1 = true → s.hub.ready.getLsbD 2 = true →
      ∃ t, exec (.pick p) s = .next t ∧ .pick p ∈ t.agenda ∧ t = postOnce (pickOnce (examineAll s p (queueCount s p)) p) (.pick p))) ∧
  (∀ (s : State) (p q e : Nat) (cs : List (Nat × Nat)), chooseQueue s p cs = some (q, e) → (q, e) ∈ cs ∧ (∀ x ∈ cs, x.2 ≤ e) ∧
    (∀ h : e < 4, let start := (s.part p).lastPick[e]
      ∀ x ∈ cs, x.2 = e → x.1 < 256 → (q + 256 - start % 256) % 256 ≤ (x.1 + 256 - start % 256) % 256)) ∧
  (∀ (s u v : State) (p hva i a b : Nat) (ws : List Word), agentOpen s p true [hdrEntry ws i, hva] = (u, .ready) →
    agentWrite u p (hdrEntry ws i) (natToBytes 8 0) = (v, true) → agentOpen v p true (chunkAddrs (hva + 16) 8) = (v, .ready) →
    agentOpen u p true (chunkAddrs (hdrEntry ws i) 8) = (u, .ready) → hdrEntry ws i % 8 = 0 → hva % 128 = 0 →
    placeAt u p (hdrEntry ws i) .write = .dev a → placeAt u p (hva + 16) .write = .dev b → a + 8 ≤ b ∨ b + 8 ≤ a →
    (∀ x ∈ [hdrEntry ws i, hva + 16], NoConversion (u.part p) x 8 ∧ rangeAt u p x = none) →
    ∃ t, takeEntry s p hva ws i = (t, true) ∧ readBytes t.devMem a 8 = natToBytes 8 0 ∧ readBytes t.devMem b 8 = natToBytes 8 ((i + 1) % 2 ^ 64)) ∧
  (∀ (s : State) (p q r batch : Nat) (d : Desc) (ws : List Word), descRecon d.words = false → descDet d.words = false → rectFits (descW d.words) (descH d.words) r = true →
    let t := startTx s p q d ws (some r) batch
    let id := s.nextId
    let n := descSlots d.words
    numbered s t p id d.tiles ∧ (∀ tx, t.tx? id = some tx → tx.root = some (r, descW d.words, descH d.words) ∧ tx.desc = d.words ∧ tx.queue = some q ∧
      ∀ c ∈ trayCores r (descW d.words) (descH d.words), (c, (unreservedSlots s c).take n) ∈ tx.crews ∧
        ∀ i ∈ (unreservedSlots s c).take n, (t.slot (slotKey c i)).resv = some id)) ∧
  (∀ (s : State) (p q : Nat), let v := queueSt s p q
    (v.state ≠ 3 ∨ v.pinned ≠ [] → exec (.headPin p q) s = .next s) ∧
    (v.state = 3 → v.pinned = [] → (s.tick < v.blockedAt + 65536 → later s (.headPin p q)) ∧
      (∀ w u hva bad ws d r, v.blockedAt + 65536 ≤ s.tick → readHeader s p q = (u, .found hva bad ws) → readHead u p q ws (hdrHead ws) = (w, .blocked d 3) →
        descRecon d.words = false → bestOf w (descW d.words) (descH d.words) ((List.range 512).filter
          (originPinnable w p (descW d.words) (descH d.words) (descSlots d.words) (pinnedCores w p (some q)))) = some r →
        ∃ t, exec (.headPin p q) s = .next t ∧ (queueSt t p q).pinned = trayCores r (descW d.words) (descH d.words) ∧ t.slots = w.slots))) ∧
  (∀ (s : State) (p : Nat), ((s.part p).roundAt = none ∨ inPod s p = true → exec (.roundCloseWindow p) s = .next s ∧ exec (.roundCloseIdle p) s = .next s) ∧
    (∀ a, (s.part p).roundAt = some a → inPod s p = false →
      (a + 2048 ≤ s.tick → ∃ t, exec (.roundCloseWindow p) s = .next t ∧ closes s t p) ∧
      (s.tick < a + 2048 → later s (.roundCloseWindow p)) ∧
      (let u := examineAll s p (queueCount s p)
       ((∀ e ∈ (u.part p).queues, queueReady e.2 = false) → ∃ t, exec (.roundCloseIdle p) s = .next t ∧ closes u t p) ∧
       ((∃ e ∈ (u.part p).queues, queueReady e.2 = true) → ∃ b, exec (.roundCloseIdle p) s = .next { u with agenda := b } ∧ .roundCloseIdle p ∈ b))) ∧
    (inPod s p = false → exec (.podCloseMarkerSend p) s = .next s) ∧
    (inPod s p = true → (s.tick + 1 < ((s.part p).round + 1) * 2048 → later s (.podCloseMarkerSend p)) ∧
      (((s.part p).round + 1) * 2048 ≤ s.tick + 1 → ∃ t, exec (.podCloseMarkerSend p) s = .next t ∧ closes s t p ∧ .podCloseMarkerSend p ∈ t.agenda))) ∧
  (∀ (s : State) (p mgr dev round : Nat),
    (dev = ownDev s p → requestBehind s p mgr round = true → exec (.closeMarker p mgr dev round) s = .next (s.post (.closeMarker p mgr dev round))) ∧
    (dev ≠ ownDev s p ∨ requestBehind s p mgr round = false → ∃ t, exec (.closeMarker p mgr dev round) s = .next t ∧
      closeSeen t p mgr dev round = true ∧ t.slots = s.slots ∧ t.devMem = s.devMem ∧ t.hostMem = s.hostMem ∧
      ∀ j, j ≠ mgr * 256 + dev → look (t.part p).closed 0 j = look (s.part p).closed 0 j)) ∧
  (∀ (s : State) (t : Nat), s.tx? t = none → exec (.reconNumbering t) s = .next s) ∧
  (∀ (s : State) (t : Nat) (tx : Tx), s.tx? t = some tx →
    (∀ c, tx.st = .recon → tx.key = none → tx.crews = [] → replacing s tx.part = false →
      bestOrigin s tx.part 1 1 1 [] (tx.failedCores ++ pinnedCores s tx.part tx.queue) = some c →
      ∃ u, exec (.reconNumbering t) s = .next u ∧ u.tx? t = some { tx with crews := [(c, (unreservedSlots s c).take 1)] } ∧
        (∀ i ∈ (unreservedSlots s c).take 1, (u.slot (slotKey c i)).resv = some t) ∧ .reconNumbering t ∈ u.agenda) ∧
    (∀ c i is rest, tx.st = .recon → tx.key = none → tx.crews = (c, i :: is) :: rest → tx.ended = false → tx.live = 0 → (s.slot (slotKey c i)).st = SlotSt.free →
      ∃ u, exec (.reconNumbering t) s = .next u ∧ u.tx? t = some { tx with live := 1, nEntries := 0, nNotes := 0 } ∧ .pickUp c i ∈ u.agenda ∧
        let sl := u.slot (slotKey c i)
        sl.st = .load ∧ sl.tx = some t ∧ sl.pc = tx.word 0 ∧ ∀ j : Fin 6, sl.x[j.val + 1] = tx.word (5 + j.val)) ∧
    (∀ r, tx.st = .unnumbered → descDet tx.desc = false → canNumber s tx.part = true → replacing s tx.part = false →
      bestOrigin s tx.part (descW tx.desc) (descH tx.desc) (descSlots tx.desc) (pushesOf tx) (pinnedCores s tx.part none) = some r →
      ∃ u, exec (.reconNumbering t) s = .next u ∧ numbered s u tx.part t tx.tiles))

/-- Locks are queued and granted in number order, and transactions are dispatched, retired, restarted and reserved as
R51 to R63 and R362 say (R39, R51, R52, R54, R55, R57, R58, R61, R63, R141, R362, R364).

Completes, each with a next state of its own effect: `lockRequest`, `setTileTranslationDone`, `lockRelease`,
`pushLanded`, `dispatch`, `transactionRetire`, `txHardwareError`, `detReplace`, `detReservationComplete`. -/
def Obligations.LocksAndTransactions : Prop :=
  let later (s : State) (e : Instr) : Prop := exec e s = .next (s.post e)
  let ident (q : List LockReq) : List (Nat × Nat × Bool) := q.map fun r => (r.tx, r.key, r.excl)
  let fair (q : List LockReq) : Prop := ∀ (i j : Nat) (x y : LockReq), i < j → q[i]? = some x → q[j]? = some y → y.granted = true → x.excl = false ∧ y.excl = false
  let locks (s : State) (p tile : Nat) : List LockReq := look (s.part p).locks [] tile
  let fails (s t : State) (id : Nat) (tx : Tx) (v : Nat) : Prop := t.tx? id = some { tx with st := .closing, status := v } ∧
    .transactionRetire id ∈ t.agenda ∧ t.devMem = s.devMem ∧ t.hostMem = s.hostMem
  let entry (t : State) (id : Nat) (tx : Tx) (c i : Nat) : Prop := let sl := t.slot (slotKey c i)
    sl.st = .load ∧ sl.tx = some id ∧ sl.pc = tx.word 0 ∧ sl.ctx = entryContext tx ∧ ∀ j : Fin 6, sl.x[j.val + 1] = tx.word (5 + j.val)
  (∀ (s : State) (p tile : Nat) (q : List LockReq), fair q → let r := (grantLoop s p tile [] q).2
    fair r ∧ ident r = ident q ∧ ∀ (i : Nat) (x y : LockReq), q[i]? = some x → r[i]? = some y → y.xdone = x.xdone ∧ (x.granted = true → y.granted = true) ∧
      (y.granted = true → x.granted = true ∨ (closedFor (grantLoop s p tile [] (q.take i)).1 p (managerOf s p tile) x.key = true ∧ x.xdone = true))) ∧
  (∀ (r : LockReq) (q : List LockReq), (q.Pairwise fun x y => x.key ≤ y.key) → (insertLock r q).Pairwise fun x y => x.key ≤ y.key) ∧
  (∀ (s : State) (m : Msg) (id tile : Nat) (tx : Tx) (e : SetTile), findMsg s m.id = some m → behind s m = false → m.body = .lockReq id tile →
    s.tx? id = some tx → setTileOf s id tile = some e → awayDev s tx.part tile = none → (∀ x ∈ locks s tx.part tile, x.tx ≠ id) → id < 2 ^ 64 → tx.st ≠ .closing →
    let x := translate (s.part tx.part) tile (needOf e.excl)
    (x = .final ∨ x = .nowhere → ∃ t, exec (.lockRequest m.id) s = .next t ∧ fails s t id tx 4) ∧
    (x ≠ .final → x ≠ .nowhere → ∃ t, exec (.lockRequest m.id) s = .next t ∧ t.slots = s.slots ∧
      ident (locks t tx.part tile) = ident (insertLock ⟨id, tx.key.getD 0, e.excl, false, false⟩ (locks s tx.part tile)) ∧
      (∀ l y, x = .hit l → y ∈ locks t tx.part tile → y.tx = id → y.xdone = true))) ∧
  (∀ (s : State) (id tile : Nat) (fault : Bool), s.tx? id = none → id < 2 ^ 64 → exec (.setTileTranslationDone id tile fault) s = .next s) ∧
  (∀ (s : State) (id tile : Nat) (tx : Tx) (r : LockReq), s.tx? id = some tx → id < 2 ^ 64 → (locks s tx.part tile).find? (fun x => x.tx == id) = some r → r.xdone = false →
    (tx.st ≠ .closing → ∃ t, exec (.setTileTranslationDone id tile true) s = .next t ∧ fails s t id tx 4) ∧
    (∀ l, translate (s.part tx.part) tile (needOf r.excl) = .hit l → ∃ t, exec (.setTileTranslationDone id tile false) s = .next t ∧
      ident (locks t tx.part tile) = ident (locks s tx.part tile) ∧ ∀ y ∈ locks t tx.part tile, y.tx = id → y.xdone = true)) ∧
  (∀ (s : State) (m : Msg) (id tile : Nat), findMsg s m.id = some m → behind s m = false → m.body = .lockRel id tile → awayDev s (m.src - 1025) tile = none →
    ∃ t, exec (.lockRelease m.id) s = .next t ∧ t.slots = s.slots ∧ t.devMem = s.devMem ∧
      ident (locks t (m.src - 1025) tile) = (ident (locks s (m.src - 1025) tile)).filter fun x => x.1 != id) ∧
  (∀ (s : State) (m : Msg) (x : Shipment) (id : Nat) (tx : Tx), findMsg s m.id = some m → m.body = .tile x → x.tx = some id → s.tx? id = some tx →
    let o := osOf (s.core x.core) x.os
    (o.tx = some id → o.st = .empty → ∃ t, exec (.pushLanded m.id) s = .next t ∧ osOf (t.core x.core) x.os = ⟨.full, some id, x.tile, []⟩ ∧ t.slots = s.slots ∧
      (∀ k, k ≠ x.os → osOf (t.core x.core) k = osOf (s.core x.core) k) ∧ findMsg t m.id = none ∧
      (∀ i e, e ∈ tx.tiles → e.push = some (i, x.os) → pushCore tx i = some x.core → ∀ y, t.tx? id = some y → { e with landed := true } ∈ y.tiles)) ∧
    (o.tx ≠ some id ∨ o.st ≠ .empty → later s (.pushLanded m.id))) ∧
  (∀ (s : State) (id : Nat), s.tx? id = none → exec (.dispatch id) s = .next s ∧ exec (.transactionRetire id) s = .next s ∧ exec (.detReplace id) s = .next s ∧
    exec (.detReservationComplete id) s = .next s ∧ ∀ c, exec (.txHardwareError id c) s = .next s) ∧
  (∀ (s : State) (id : Nat) (tx : Tx), s.tx? id = some tx → tx.st = .waiting →
    (dispatchable s tx = true ↔ (∀ e ∈ tx.tiles, e.granted = true ∧ (e.landed = true ∨ e.push = none)) ∧ (∀ e ∈ tx.crews, e.2 ≠ [] ∧
      ∀ i ∈ e.2, (s.slot (slotKey e.1 i)).st = SlotSt.free) ∧ afterMet s tx = true) ∧
    (dispatchable s tx = false → ∃ a, exec (.dispatch id) s = .next { s with agenda := a } ∧ .dispatch id ∈ a) ∧
    (∀ r w h i is rest, dispatchable s tx = true → descDet tx.desc = false → tx.root = some (r, w, h) → tx.crews = (r, i :: is) :: rest →
      ∃ t, exec (.dispatch id) s = .next t ∧ t.tx? id = some { tx with st := .running, live := 1, ended := false, order := s.nextId } ∧
        entry t id tx r i ∧ (t.slot (slotKey r i)).resv = (s.slot (slotKey r i)).resv ∧ .pickUp r i ∈ t.agenda ∧ t.devMem = s.devMem ∧
        ∀ k, k ≠ slotKey r i → t.slot k = s.slot k)) ∧
  (∀ (tx : Tx) (lost : Bool), tx.status < 256 → let v := completionWord tx lost
    v % 2 ^ 8 = tx.status ∧ v / 2 ^ 8 % 2 = (if lost then 1 else 0) ∧ v / 2 ^ 9 % 2 ^ 7 = 0 ∧ v / 2 ^ 16 % 16 = tx.checks % 16 ∧
      v / 2 ^ 20 % 16 = tx.reexec % 16 ∧ v / 2 ^ 24 = tx.key.getD 0 % 2 ^ 40) ∧
  (∀ (s : State) (id : Nat) (tx : Tx), s.tx? id = some tx →
    (tx.st = .running → tx.ended = true → tx.live = 0 → ∃ t, exec (.transactionRetire id) s = .next t ∧ fails s t id tx 1) ∧
    (tx.st = .running → tx.ended = false ∨ tx.live ≠ 0 → exec (.transactionRetire id) s = .next s) ∧
    (tx.st = .closing → tx.root ≠ none → (txQuiet s id = false → later s (.transactionRetire id)) ∧
      (txQuiet s id = true → tx.status ≠ 5 ∨ descRestart tx.desc = false → descDet tx.desc = false → ∃ t, exec (.transactionRetire id) s = .next t ∧
        t.tx? id = some { tx with tiles := [], crews := [], root := none } ∧ .transactionRetire id ∈ t.agenda ∧ t.devMem = s.devMem ∧
        (∀ e ∈ tx.crews, ∀ i ∈ e.2, (t.slot (slotKey e.1 i)).resv ≠ some id) ∧ (∀ e ∈ tx.crews, ∀ k, (osOf (t.core e.1) k).tx ≠ some id) ∧
        (tx.key ≠ none → ∀ e ∈ tx.tiles, ∃ m ∈ t.fabric, m.body = .lockRel id e.tile ∧ .lockRelease m.id ∈ t.agenda))) ∧
    (tx.st = .closing → tx.root = none → descBaren tx.desc = false →
      (tx.word 14 = 0 → ∃ t, exec (.transactionRetire id) s = .next t ∧ t.tx? id = none ∧ t.devMem = s.devMem ∧ t.slots = s.slots) ∧
      (∀ u a, let va := (tx.word 14).toNat
        va ≠ 0 → agentOpen s tx.part true (chunkAddrs va 8) = (u, .ready) → placeAt u tx.part va .write = .dev a →
        NoConversion (u.part tx.part) va 8 → rangeAt u tx.part va = none →
        ∃ t, exec (.transactionRetire id) s = .next t ∧ t.tx? id = none ∧ StoredAt s t (.dev a) (natToBytes 8 (completionWord tx false)) ∧ t.slots = s.slots))) ∧
  (∀ (s : State) (id c : Nat) (tx : Tx), s.tx? id = some tx →
    (runsOn s id tx c = false → exec (.txHardwareError id c) s = .next s) ∧
    (runsOn s id tx c = true → (tx.st = .closing ∨ tx.st = .unnumbered ∨ tx.st = .replacing → exec (.txHardwareError id c) s = .next s) ∧
      (tx.st = .running → descRestart tx.desc = false ∨ 3 ≤ tx.reexec → ∃ t, exec (.txHardwareError id c) s = .next t ∧
        t.tx? id = some { tx with st := .closing, status := 5 } ∧ (∀ k, (t.slot k).tx ≠ some id) ∧ .transactionRetire id ∈ t.agenda) ∧
      (∀ y, tx.st = .running → descRestart tx.desc = true → tx.reexec < 3 → y = { tx with
          st := .replacing, reexec := tx.reexec + 1, live := max 1 tx.live, ended := false, crews := [], failedCores := tx.failedCores ++ [c]
          tiles := tx.tiles.map fun e => { e with landed := e.granted && e.push.isNone } } →
        ∃ t, exec (.txHardwareError id c) s = .next t ∧ t.tx? id = some y ∧ (∀ k, (t.slot k).tx ≠ some id) ∧
          (if descDet tx.desc then .detReplace id else .dispatch id) ∈ t.agenda) ∧
      (tx.st = .waiting → ∃ t, exec (.txHardwareError id c) s = .next t ∧ (∃ y, t.tx? id = some y ∧ y.st = .replacing ∧ y.crews = [] ∧ y.key = tx.key ∧
        y.reexec = tx.reexec ∧ y.failedCores = tx.failedCores ++ [c])) ∧
      (tx.st = .recon → ∃ t, exec (.txHardwareError id c) s = .next t ∧ (∀ k, (t.slot k).tx ≠ some id) ∧ .reconNumbering id ∈ t.agenda ∧
        t.tx? id = some { tx with crews := [], live := 0, ended := false, failedCores := tx.failedCores ++ [c] }))) ∧
  (∀ (s : State) (id : Nat) (tx : Tx), s.tx? id = some tx →
    (tx.st ≠ .replacing ∨ descDet tx.desc = false → exec (.detReplace id) s = .next s) ∧
    (tx.st = .replacing → descDet tx.desc = true → (txQuiet s id = false → later s (.detReplace id)) ∧
      (∀ r, txQuiet s id = true → tx.live = 0 → tx.failedCores = [] → (∀ e ∈ tx.tiles, e.granted = false ∨ e.push = none) →
        detOrigin s tx.part (descW tx.desc) (descH tx.desc) (tx.key.getD 0) = some r →
        ∃ t, exec (.detReplace id) s = .next t ∧ .detReservationComplete id ∈ t.agenda ∧ .dispatch id ∈ t.agenda ∧ t.tx? id = some { tx with
          st := .waiting, root := some (r, descW tx.desc, descH tx.desc), crews := (trayCores r (descW tx.desc) (descH tx.desc)).map fun c => (c, []) }))) ∧
  (∀ (s : State) (id r w h : Nat) (tx : Tx), s.tx? id = some tx → tx.root = some (r, w, h) → tx.st = .waiting → descDet tx.desc = true →
    (∀ e ∈ tx.crews, e.2 = []) → let cs := trayCores r w h
    let n := descSlots tx.desc
    let handler := ∃ c ∈ cs, (s.core c).smsg.getLsbD 0 = true
    (earlierPhase s id tx = true ∨ (∃ c ∈ cs, coreFreeFor s id tx c = false) → later s (.detReservationComplete id)) ∧
    (earlierPhase s id tx = false → (∀ c ∈ cs, coreFreeFor s id tx c = true) →
      (n = 16 → handler → ∃ t, exec (.detReservationComplete id) s = .next t ∧ fails s t id tx 3) ∧
      (∀ i, ¬ (n = 16 ∧ handler) → rectFits w h r = true → freePlaceOf (s.core r) = some i → (∀ q ∈ pushesOf tx, ∃ c, cs[q.1]? = some c ∧ osFree s c q.2 = true) →
        ∃ t, exec (.detReservationComplete id) s = .next t ∧ ∃ y, t.tx? id = some y ∧ y.st = .waiting ∧ y.root = some (r, w, h) ∧ y.key = tx.key ∧
          ∀ c ∈ cs, (c, (unreservedSlots s c).take n) ∈ y.crews ∧ ∀ k ∈ (unreservedSlots s c).take n, (t.slot (slotKey c k)).resv = some id)))

/-- Host accesses, snoops, flits, planes, the pod's time base and membership do what R382 and R385 to R388 say (R11,
R64, R338, R382, R385, R386, R387, R388, R409).

Completes, each with a next state of its own effect: `hostSnoop`, `hostDeviceAccess`, `stenteFlitReceive`,
`planeDown`, `linkTimeout`, `timeSyncSend`, `membershipChange`, `stentePlaneUp`. -/
def Obligations.LinksAndTheHost : Prop :=
  let later (s : State) (e : Instr) : Prop := exec e s = .next (s.post e)
  let plain (u : State) (p a n : Nat) : Prop := ∀ x va, a ≤ x → x < a + n → (virtualsOf (u.part p) x).head? = some va →
    convAt (u.part p) va = none ∧ rangeAt u p va = none ∧ onRunningBlock (u.part p) va 1 = false
  (∀ (s : State) (a : Nat) (k : SnoopKind), s.hub.ready.getLsbD 8 = true →
    (sectorHeld s (2 * (a / 64) + 1) = true → later s (.hostSnoop a k)) ∧
    (sectorHeld s (2 * (a / 64) + 1) = false → (k = .read → exec (.hostSnoop a k) s = .next s) ∧
      ∀ v, k = .write v → ∃ t, exec (.hostSnoop a k) s = .next t ∧ StoredAt s t (.host (a / 64 * 64) true) (vecBytes v) ∧ t.slots = s.slots)) ∧
  (∀ (s : State) (a n p : Nat) (u : State), s.hub.ready.getLsbD 7 = true → partOfPa s a = some p → s.hub.lostStacks.contains (stackOf a) = false →
    plain u p a n →
    (hostReady s p a false n = (u, true) → exec (.hostDeviceAccess a (.read n)) s = .next { u with hub := { u.hub with answer := readBytes u.devMem a n } }) ∧
    (∀ bs, bs.length = n → hostReady s p a true n = (u, true) →
      ∃ t, exec (.hostDeviceAccess a (.write bs)) s = .next t ∧ StoredAt s t (.dev a) bs ∧ t.slots = s.slots)) ∧
  (∀ (s u : State) (a p va : Nat) (b : Byte), s.hub.ready.getLsbD 7 = true → partOfPa s a = some p → s.hub.lostStacks.contains (stackOf a) = false →
    hostReady s p a true 1 = (u, true) → (virtualsOf (u.part p) a).head? = some va → onRunningBlock (u.part p) va 1 = true →
    exec (.hostDeviceAccess a (.write [b])) s = .next u) ∧
  (∀ (s : State) (a : Nat) (d : HostData), s.hub.ready.getLsbD 7 = true → partOfPa s a = none ∨ s.hub.lostStacks.contains (stackOf a) = true →
    exec (.hostDeviceAccess a d) s = .next s) ∧
  (∀ (s : State) (f : Flit), flitGood f = false ∨ 5 < flitClass f ∨ flitDst f ≠ myDev s → exec (.stenteFlitReceive f) s = .next s) ∧
  (∀ (s : State) (f : Flit), flitGood f = true → flitClass f ≤ 5 → flitDst f = myDev s → let dev := flitSrc f
    let cls := flitClass f
    let l := linkOf s dev cls
    let ahead := (flitSeq f + 65536 - l.received) % 65536
    let taken := setLink s dev cls { l with unacked := acknowledged l.unacked (flitAck f) }
    (ahead = 0 ∨ 32768 ≤ ahead → exec (.stenteFlitReceive f) s = .next taken) ∧
    (1 < ahead → ahead < 32768 → exec (.stenteFlitReceive f) s = .next (taken.post (.stenteFlitReceive f))) ∧
    (ahead = 1 → cls = 4 → timeMaster (podMembers s) = some dev → ∃ t, exec (.stenteFlitReceive f) s = .next t ∧
      t.hub.offset = (Config.payload f 0 : Int) - s.tick ∧ (linkOf t dev cls).received = flitSeq f ∧ t.hub.delivered = s.hub.delivered ++ [f] ∧
      t.tick = s.tick ∧ t.slots = s.slots ∧ (t.hub.offset.natAbs ≤ 2048 → t.agenda = s.agenda) ∧
      (2048 < t.hub.offset.natAbs → ∃ c, t.agenda = s.agenda ++ [.membershipChange c] ∧ c.members = (podMembers s).filter (· ≠ myDev s) ∧
        (s.part (podPart s)).round < c.round)) ∧
    (ahead = 1 → cls = 5 → ∃ t, exec (.stenteFlitReceive f) s = .next t ∧ linkOf t dev cls = { l with
        received := flitSeq f, unacked := acknowledged l.unacked (flitAck f) } ∧
      t.hub.delivered = s.hub.delivered ++ [f] ∧ t.slots = s.slots ∧ t.txs = s.txs ∧ t.devMem = s.devMem ∧ t.agenda = s.agenda)) ∧
  (∀ (downs : List (Nat × Nat)) (src dst cls peer : Nat), let q := planeOf downs src dst cls peer
    (downs.contains (peer, (src + dst + cls) % 16) = false → q = (src + dst + cls) % 16) ∧
    ((∃ r < 16, downs.contains (peer, r) = false) → q < 16 ∧ downs.contains (peer, q) = false ∧
      ∀ i < (q + 16 - (src + dst + cls) % 16) % 16, downs.contains (peer, ((src + dst + cls) % 16 + i) % 16) = true)) ∧
  (∀ (s : State) (dev plane : Nat), let downs := s.hub.planesDown
    (downs.contains (dev, plane) = true → exec (.planeDown dev plane) s = .next s) ∧
    (downs.contains (dev, plane) = false → ∃ t, exec (.planeDown dev plane) s = .next t ∧ t.hub.planesDown = downs ++ [(dev, plane)] ∧
      t.hub.links = s.hub.links ∧ t.slots = s.slots ∧ (linkDown t dev = true → t.hub.outFlits = s.hub.outFlits) ∧
      (linkDown t dev = false → t.hub.outFlits = s.hub.outFlits ++ (List.range 16).flatMap fun c =>
        (linkOf s dev c).unacked.filter fun f => planeOf downs (flitSrc f) (flitDst f) c dev == plane)) ∧
    (∃ t, exec (.stentePlaneUp dev plane) s = .next t ∧ t.hub.planesDown = downs.filter (· ≠ (dev, plane)) ∧ t.hub.links = s.hub.links ∧
      t.slots = s.slots ∧ t.hub.outFlits = s.hub.outFlits ++ (if linkDown s dev = true ∧ linkDown t dev = false then
        (List.range 16).flatMap fun c => (linkOf s dev c).unacked else []))) ∧
  (∀ (s : State) (c i : Nat), let k := slotKey c i
    let sl := s.slot k
    (∀ d ea r q, sl.wait = some (.remote d ea r q) →
      (s.tick < sl.waitSince + 50000 → ∃ a, exec (.linkTimeout c i) s = .next { s with agenda := a } ∧ .linkTimeout c i ∈ a) ∧
      (sl.waitSince + 50000 ≤ s.tick → exec (.linkTimeout c i) s =
        .next (s.setSlot k { sl with st := .ready, wait := none, causes := sl.causes ++ [⟨0xE1, ea, false⟩] }))) ∧
    ((∀ d ea r q, sl.wait ≠ some (.remote d ea r q)) → exec (.linkTimeout c i) s = .next s)) ∧
  (∀ (s : State), (s.tick < s.hub.lastSync + 65536 → later s .timeSyncSend) ∧
    (s.hub.lastSync + 65536 ≤ s.tick → ∃ t, exec .timeSyncSend s = .next t ∧ t.hub.lastSync = s.tick ∧ .timeSyncSend ∈ t.agenda ∧ t.tick = s.tick ∧
      t.slots = s.slots ∧
      (if inPod s (podPart s) = true ∧ timeMaster (podMembers s) = some (myDev s) then (podMembers s).Nodup → ∀ d ∈ podMembers s, d ≠ myDev s →
          (linkOf t d 4).sent = ((linkOf s d 4).sent + 1) % 65536 else t.hub.links = s.hub.links ∧ t.hub.outFlits = s.hub.outFlits))) ∧
  (∀ (s : State) (ch : Membership), let p := podPart s
    let inside := inPod s p
    let mine := ch.members.contains (myDev s)
    let now := if inside then (s.part p).round else s.tick / 2048
    let closed (t : State) : Prop := (t.part p).members = ch.members ∧ (t.part p).newMembers = none ∧ t.slots = s.slots ∧
      ∀ d ∈ ch.members, d ∉ (s.part p).members → look (t.part p).closed 0 (2 ^ 20 + d) = ch.round
    let waits (t : State) : Prop := .membershipChange ch ∈ t.agenda ∧ (t.part p).members = (s.part p).members ∧ (t.part p).newMembers = some ch ∧
      t.slots = s.slots ∧ t.hub.mpod = s.hub.mpod
    (now < ch.round → ∃ t, exec (.membershipChange ch) s = .next t ∧ waits t ∧ t.hub.hold = s.hub.hold) ∧
    (ch.round ≤ now → inside = true → ∃ t, exec (.membershipChange ch) s = .next t ∧ closed t ∧ t.tick = s.tick ∧
      t.hub.mpod = (if mine then s.hub.mpod else s.hub.mpod &&& ~~~0x8000#64)) ∧
    (ch.round ≤ now → inside = false → mine = true →
      (s.hub.hold ≠ 0 → ∃ t, exec (.membershipChange ch) s = .next t ∧ waits t) ∧
      (s.hub.hold = 0 → s.hub.offset < 0 → ∃ t, exec (.membershipChange ch) s = .next t ∧ waits t ∧ t.hub.hold = s.hub.offset.natAbs ∧ t.hub.offset = 0) ∧
      (s.hub.hold = 0 → 0 ≤ s.hub.offset → ∃ t, exec (.membershipChange ch) s = .next t ∧ closed t ∧ t.tick = s.tick + s.hub.offset.toNat ∧
        t.hub.offset = 0 ∧ t.hub.mpod = s.hub.mpod ||| 0x8000 ∧ (t.part p).round = t.tick / 2048 ∧ (t.part p).pos = 0)) ∧
    (ch.round ≤ now → inside = false → mine = false → ∃ t, exec (.membershipChange ch) s = .next t ∧ closed t ∧ t.hub.mpod = s.hub.mpod))

/-- The mailbox, partitions, island power, the cap, thermal trips and the resets do what R11, R380, R400 and R402 to
R410 say (R11, R366, R378, R380, R400, R402, R403, R405, R406, R407, R409, R410).

Completes, each with a next state of its own effect: `powerOnReset`, `fundamentalReset`, `functionLevelReset`,
`partSet`, `partClear`, `ivfSet`, `capSet`, `powerCapCheck`, `thermalTrip`, `thermalRecover`. -/
def Obligations.PartitionsPowerAndResets : Prop :=
  let mail (e : Instr) : Prop := (∃ k r, e = .partSet k r) ∨ (∃ k, e = .partClear k) ∨ (∃ i f, e = .ivfSet i f) ∨ (∃ w, e = .capSet w) ∨
    (∃ i, e = .fwStage i) ∨ e = .fwActivate ∨ e = .fwCommit ∨ (∃ n, e = .attest n) ∨ e = .journalClear ∨ ∃ u, e = .retire u
  let up (s : State) : Prop := s.hub.activating = none ∧ s.hub.ready.getLsbD 0 = true
  let gone (old new : PartRecord) : List Nat := coresIn (recordIslands old &&& ~~~recordIslands new)
  let retuned (s t : State) (i : Nat) (v : Island) (f : Nat) : Prop := let u := islandAt t i
    u = { v with freq := f, mv := minVoltage f, since := u.since, base := u.base } ∧ (v.freq = f → u.since = v.since ∧ u.base = v.base) ∧
      (v.freq ≠ f → u.base = v.phase s.ns ∧ s.ns ≤ u.since ∧ u.since ≤ s.ns + 5000)
  let tuned (s t : State) (g : List Nat) : Prop := ∀ i, (i ∈ g → retuned s t i (islandAt s i) (islandPoint t i)) ∧
    (i ∉ g → islandAt t i = islandAt s i)
  let others (s t : State) : Prop := t.slots = s.slots ∧ t.cores = s.cores ∧ t.parts = s.parts ∧ t.devMem = s.devMem ∧ t.hostMem = s.hostMem ∧ t.tick = s.tick
  (∀ (s : State) (e : Instr), mail e →
    (s.hub.activating ≠ none → exec e s = .next { s with hub := { s.hub with waitingCmds := s.hub.waitingCmds ++ [e] } }) ∧
    (s.hub.activating = none → s.hub.ready.getLsbD 0 = false →
      exec e s = .next (if stepEnded s 32 then { s with hub := { s.hub with status := .refused } } else s.post e))) ∧
  (∀ (s : State) (k : Nat) (r : PartRecord), (partRefused s k r = true ↔ 8 ≤ k ∨ recordReserved r = true ∨
      (partValid r = true ∧ (recordIslands r = 0 ∨ recordExtents r = 0)) ∨
      (∃ q < 8, q ≠ k ∧ (recordIslands r &&& recordIslands (s.part q).record ≠ 0 ∨ recordExtents r &&& recordExtents (s.part q).record ≠ 0)) ∨
      ∃ e < 288, holdsExtent r e = true ∧ isReserved s e = true)) ∧
  (∀ (s : State) (k : Nat) (r : PartRecord), up s → let old := (s.part k).record
    exec (.partClear k) s = exec (.partSet k 0) s ∧
    (partRefused s k r = true → exec (.partSet k r) s = .next { s with hub := { s.hub with status := .refused } }) ∧
    (partRefused s k r = false → (∃ c ∈ gone old r, coreBusy s c = true) →
      exec (.partSet k r) s = .next { s with hub := { s.hub with status := .busy } }) ∧
    (partRefused s k r = false → (∀ c ∈ gone old r, coreBusy s c = false) → ∃ t, exec (.partSet k r) s = .next t ∧ t.hub = { s.hub with status := .done } ∧
      (∀ q, q ≠ k → t.part q = s.part q) ∧ t.slots = s.slots ∧ ((∀ c, (s.core c).l1 = []) → t.devMem = s.devMem) ∧ t.tick = s.tick ∧
      (partValid old = true → partValid r = true → t.part k = { s.part k with record := r }) ∧
      (partValid old = false ∨ partValid r = false → t.part k = { Part.reset k with record := r }) ∧
      (∀ c, t.core c = (if c ∈ gone r old then { s.core c with mpart := BitVec.ofNat 64 k, rq := Vector.replicate 4 [], l1 := [] }
        else if c ∈ gone old r then { s.core c with mpart := (t.core c).mpart, rq := Vector.replicate 4 [], l1 := [] } else s.core c)))) ∧
  (∀ (s : State) (i f : Nat), up s → let bad := 32 ≤ i ∨ ∃ k < 8, k ≠ 0 ∧ holdsIsland (s.part k).record i = true
    (bad → exec (.ivfSet i f) s = .next { s with hub := { s.hub with status := .refused } }) ∧
    (¬ bad → ∃ t, exec (.ivfSet i f) s = .next t ∧ t.hub.status = .done ∧ others s t ∧ (∀ j, j ≠ i → islandAt t j = islandAt s j) ∧
      let a := min 160 (max 50 f)
      let p := islandPoint t i
      retuned s t i { islandAt s i with asked := a } p ∧
        ((islandAt s i).tripped = true → p = 50) ∧ ((islandAt s i).tripped = false → (∀ g ∈ s.hub.lowered, i ∉ g) → p = a))) ∧
  (minVoltage 50 = 300 ∧ minVoltage 80 = 320 ∧ minVoltage 110 = 350 ∧ minVoltage 140 = 440 ∧ minVoltage 160 = 520 ∧
    (∀ f g, 50 ≤ f → f ≤ g → g ≤ 160 → minVoltage f ≤ minVoltage g) ∧ ∀ f, minVoltage f % 5 = 0) ∧
  (∀ (s : State) (w : Nat), up s → (w < 700 ∨ 1400 < w → exec (.capSet w) s = .next { s with hub := { s.hub with status := .refused } }) ∧
    (700 ≤ w → w ≤ 1400 → exec (.capSet w) s = .next { s with hub := { s.hub with cap := w, status := .done } })) ∧
  (∀ (s : State), s.tick < s.hub.lastCap + 1000000 ∨ s.hub.activating ≠ none → exec .powerCapCheck s = .next (s.post .powerCapCheck)) ∧
  (∀ (s : State), s.hub.lastCap + 1000000 ≤ s.tick → s.hub.activating = none → ∃ t, exec .powerCapCheck s = .next t ∧ .powerCapCheck ∈ t.agenda ∧
    others s t ∧ t.hub.lastCap = s.tick ∧ t.hub.cap = s.hub.cap ∧ let w := Config.power s.draws
    let top := ∃ i < 32, 50 < (islandAt s i).freq
    (s.hub.cap < w → top → ∃ g, t.hub.lowered = s.hub.lowered ++ [g] ∧ tuned s t g ∧
      (∀ i, i ∈ g ↔ i < 32 ∧ ∀ j < 32, (islandAt s j).freq ≤ (islandAt s i).freq) ∧
      ∀ i ∈ g, (islandAt s i).freq = islandPoint s i → (islandAt t i).freq = max 50 ((islandAt s i).freq - 5)) ∧
    (s.hub.cap < w → ¬ top → t.hub.lowered = s.hub.lowered ∧ t.hub.islands = s.hub.islands) ∧
    (w ≤ s.hub.cap → 100 * w < 95 * s.hub.cap → ∀ g l, s.hub.lowered = l ++ [g] → t.hub.lowered = l ∧ tuned s t g) ∧
    (w ≤ s.hub.cap → 95 * s.hub.cap ≤ 100 * w ∨ s.hub.lowered = [] → t.hub.lowered = s.hub.lowered ∧ t.hub.islands = s.hub.islands)) ∧
  (∀ (s : State) (i : Nat), (∃ t, exec (.thermalTrip i) s = .next t ∧ others s t ∧ t.hub.lowered = s.hub.lowered ∧
      retuned s t i { islandAt s i with tripped := true } 50 ∧ ∀ j, j ≠ i → islandAt t j = islandAt s j) ∧
    ∃ t, exec (.thermalRecover i) s = .next t ∧ others s t ∧ t.hub.lowered = s.hub.lowered ∧ (∀ j, j ≠ i → islandAt t j = islandAt s j) ∧
      let f := max 50 ((islandAt s i).asked - 5 * (s.hub.lowered.filter fun g => g.contains i).length)
      retuned s t i { islandAt s i with tripped := false } f) ∧
  (∀ (s : State) (e : Instr), e = .powerOnReset ∨ e = .fundamentalReset → ∃ t, exec e s = .next t ∧ t.tick = 0 ∧ t.agenda = [.bringup] ∧ t.slots = [] ∧
    t.txs = [] ∧ t.copies = [] ∧ t.fabric = [] ∧ t.saved = [] ∧ t.hostMem = s.hostMem ∧ (e = .powerOnReset → t.devMem = []) ∧
    (e = .fundamentalReset → t.devMem = s.devMem) ∧ t.hub.ready = 0 ∧ t.hub.mpod = 0 ∧ t.hub.cap = 1400 ∧ t.hub.islands = [] ∧
    t.hub.step = some (0, true, 0) ∧ t.hub.journal = s.hub.journal ∧ t.hub.svn = s.hub.svn ∧ t.hub.activeB = s.hub.activeB ∧
    (s.hub.lostStacks = [] → t.parts = []) ∧ ((∀ c ∈ s.cores, c.2.physOver = none ∧ c.2.absent = false) → t.cores = [])) ∧
  (∀ (s : State) (p : Nat), ∃ t, exec (.functionLevelReset p) s = .next t ∧ (t.part p).spasid = 0 ∧ (t.part p).xlat = [] ∧ (t.part p).xreqs = [] ∧
    (∀ q, q ≠ p → t.part q = s.part q) ∧ t.tick = s.tick ∧ ((∀ c, (s.core c).l1 = []) → t.devMem = s.devMem) ∧ t.hostMem = s.hostMem ∧ t.hub = s.hub ∧
    (∀ c ∈ coresOf s p, ∀ e ∈ (t.core c).l1, ¬ (l1Tag (s.part p) 0 ≤ e.1 ∧ e.1 < l1Tag (s.part p) 0 + 2 ^ 50)) ∧
    (∀ va need, translate (t.part p) va need = .final) ∧ ((∀ r ∈ (s.part p).xreqs, r.paging = false) → t.slots = s.slots ∧ t.agenda = s.agenda))

/-- Repair in service, firmware activation, attestation and bring-up do what R405 to R411 say (R9, R63, R338, R405,
R406, R407, R408, R409, R410, R411).

Completes, each with a next state of its own effect: `softError`, `uncorrectableError`, `retire`, `fwStage`,
`fwActivate`, `fwActivateTimeout`, `fwCommit`, `attest`, `journalClear`, `bringup`, `bringupStepTimeout`,
`bringupStepDone`, `starterReady`. -/
def Obligations.RepairFirmwareAndBringUp : Prop :=
  let up (s : State) : Prop := s.hub.activating = none ∧ s.hub.ready.getLsbD 0 = true
  let frame (s t : State) : Prop := t.slots = s.slots ∧ t.cores = s.cores ∧ t.parts = s.parts ∧ t.txs = s.txs ∧ t.devMem = s.devMem ∧ t.tick = s.tick
  let coreOut (s t : State) (c : Nat) : Prop :=
    (s.present c = false → frame s t ∧ t.hub.retiring = s.hub.retiring ∧ t.agenda = s.agenda) ∧
    (s.present c = true → s.hub.retiring.contains c = false → (t.core c).isParked = true ∧ t.hub.retiring = s.hub.retiring ++ [c] ∧
      .retire (.core c) ∈ t.agenda ∧ (∀ i < 16, let sl := s.slot (slotKey c i)
        t.slot (slotKey c i) = (if sl.st = .free ∨ sl.st = .away then sl else { sl with causes := sl.causes ++ [⟨0xC2, BitVec.ofNat 64 c, false⟩] })) ∧
      ∀ x ∈ workingOn s c, .txHardwareError x c ∈ t.agenda) ∧
    (s.present c = true → s.hub.retiring.contains c = true → workingOn s c ≠ [] → frame s t ∧ .retire (.core c) ∈ t.agenda ∧ t.hub.retiring = s.hub.retiring) ∧
    (s.present c = true → s.hub.retiring.contains c = true → workingOn s c = [] → t.hub.retiring = s.hub.retiring.filter (· ≠ c) ∧ t.slots = s.slots ∧
      let co := { s.core c with os := [], icache := [], isParked := false, l1 := [] }
      let n := sparesUsed s (c / 128)
      (∀ k, k ≠ c → t.core k = s.core k) ∧ (n < 8 → (∃ x, t.core c = { co with physOver := some x } ∧ x / 256 = c / 128) ∧ sparesUsed t (c / 128) = n + 1) ∧
      (8 ≤ n → t.core c = { co with absent := true }))
  let effect (s t : State) (u : HwUnit) : Prop := match u with
    | .core c => coreOut s t c
    | .slice n => frame s t ∧ ∀ b, b ∈ t.hub.absentBanks ↔ b ∈ s.hub.absentBanks ∨ b / 4 = n
    | .hbmRow j r => frame s t ∧ t.hub.repairs = s.hub.repairs ++ [(j, r)]
    | .hbmChannel j _ => sparesUsed t (16 + j) = sparesUsed s (16 + j) + 1 ∧ (sparesUsed s (16 + j) = 0 → frame s t ∧ t.hub.lostStacks = s.hub.lostStacks) ∧
        (sparesUsed s (16 + j) ≠ 0 → j ∉ s.hub.lostStacks → t.hub.lostStacks = s.hub.lostStacks ++ [j] ∧
          ∀ p < 8, ∀ e < 288, holdsExtent (t.part p).record e = (holdsExtent (s.part p).record e && stackOf (e * 2 ^ 30) != j))
    | .lane l n => frame s t ∧ t.hub.deadLanes = s.hub.deadLanes ++ [(l, n)]
    | .consumed _ _ _ => frame s t
  let kept (j : List JournalEntry) : List JournalEntry := j.drop (j.length - 64)
  let failed (s t : State) (c : Nat) (pr : Bool) : Prop := t.hub.journal = kept (s.hub.journal ++ [⟨c, pr, false⟩]) ∧ t.hub.ready = 0 ∧
    t.hub.step = some (0, true, 0) ∧ t.agenda = [.bringup] ∧ t.slots = [] ∧ t.txs = [] ∧ t.tick = s.tick ∧ t.devMem = s.devMem ∧ t.hostMem = s.hostMem
  let goes (s t : State) (j : List JournalEntry) (cs : List Nat) : Prop := t.slots = s.slots ∧ ((∀ c, (s.core c).l1 = []) → t.devMem = s.devMem) ∧ t.tick = s.tick ∧
    match cs.find? fun c => (stepPath j c).isSome with
    | none => t.hub.step = none ∧ .powerCapCheck ∈ t.agenda
    | some c => t.hub.step = some (c, (stepPath j c).getD true, s.tick) ∧ (∃ ok, .bringupStepDone c ok ∈ t.agenda) ∧ .bringupStepTimeout c ∈ t.agenda
  let bits (c : Nat) (pr : Bool) : List Nat := (match c / 32 with
    | 1 => [0] | 2 => [14 + c % 32] | 3 => [10 + c % 32] | 5 => if pr then [7, 8, 9] else [7] | 6 => [22 + c % 32]
    | 7 => if pr then [38] else [] | 8 => [39] | _ => []) ++ if c = 131 then [1, 2] else []
  (∀ (s : State) (u : HwUnit), let es := ((look s.hub.errors [] (unitKey u)).filter fun t => decide (s.tick < t + 86400000000000)) ++ [s.tick]
    (s.hub.activating ≠ none → exec (.softError u) s = .next (if queuedErrors s < 64 then
      { s with hub := { s.hub with waitingCmds := s.hub.waitingCmds ++ [.softError u] } } else s)) ∧
    (s.hub.activating = none → ∃ t, exec (.softError u) s = .next t ∧ look t.hub.errors [] (unitKey u) = es ∧
      (es.length ≤ 16 → frame s t ∧ t.agenda = s.agenda) ∧ (16 < es.length → effect s t u))) ∧
  (∀ (s : State) (c k a : Nat), let key := slotKey c k
    let sl := s.slot key
    (sl.st = .free ∨ sl.st = .away → exec (.uncorrectableError (.consumed c k a)) s = .next s) ∧
    (sl.st ≠ .free → sl.st ≠ .away → ∃ t, exec (.uncorrectableError (.consumed c k a)) s = .next t ∧ t.devMem = s.devMem ∧
      (∀ x, x ≠ key → t.slot x = s.slot x) ∧ t.slot key = { (if sl.wait = some .access then { sl with wait := none, st := .ready, answer := none } else sl) with
        causes := sl.causes ++ [⟨0xC1, BitVec.ofNat 64 a, false⟩] } ∧
      ∀ x, sl.tx = some x → .txHardwareError x (key / 16) ∈ t.agenda)) ∧
  (∀ (s : State) (u : HwUnit), (∀ c k a, u ≠ .consumed c k a) →
    (s.hub.activating ≠ none → exec (.uncorrectableError u) s = .next { s with hub := { s.hub with waitingCmds := s.hub.waitingCmds ++ [.retire u] } }) ∧
    (s.hub.activating = none → ∃ t, exec (.uncorrectableError u) s = .next t ∧ effect s t u)) ∧
  (∀ (s : State) (u : HwUnit), up s → ∃ t, exec (.retire u) s = .next t ∧ t.hub.status = .done ∧ effect s t u) ∧
  (∀ (i : FwImage) (n : Nat), imageOk i n = true ↔ Config.signatureOk i.header = true ∧ n ≤ (i.header.extractLsb' 128 32).toNat ∧
    Config.sha3 (i.body.take (i.header.extractLsb' 192 64).toNat) = i.header.extractLsb' 256 256 ∧ i.header.extractLsb' 20128 12640 = 0) ∧
  (∀ (s : State), up s →
    (∀ i, ∃ t, exec (.fwStage i) s = .next t ∧ inactiveImage t.hub = i ∧ activeImage t.hub = activeImage s.hub ∧ t.hub.staged = imageOk i s.hub.svn ∧
      t.hub.status = (if imageOk i s.hub.svn then .done else .refused) ∧ frame s t) ∧
    (s.hub.staged = false → exec .fwActivate s = .next { s with hub := { s.hub with status := .refused } }) ∧
    (s.hub.staged = true → ∃ t, exec .fwActivate s = .next t ∧ t.hub = { s.hub with
        status := .done, activeB := !s.hub.activeB, activating := some s.tick, ready := s.hub.ready &&& ~~~1#64 } ∧
      .starterReady ∈ t.agenda ∧ .fwActivateTimeout ∈ t.agenda ∧ frame s t) ∧
    exec .fwCommit s = .next { s with hub := { s.hub with svn := max s.hub.svn (imageSvn (activeImage s.hub)), status := .done } } ∧
    exec .journalClear s = .next { s with hub := { s.hub with journal := [], status := .done } } ∧
    (∀ n, ∃ b sig, exec (.attest n) s = .next { s with hub := { s.hub with answer := b ++ sig, status := .done } } ∧ sig = Config.sign b ∧ b.length = 184 ∧
      let field (o k : Nat) : Nat := bytesToNat ((b.drop o).take k)
      field 0 32 = n % 2 ^ 256 ∧ field 32 32 = (Config.sha3 (imageBytes (activeImage s.hub))).toNat ∧
      field 64 32 = (Config.sha3 (imageBytes (inactiveImage s.hub))).toNat ∧
      field 96 32 = (Config.sha3 ((List.range 8).flatMap fun k => natToBytes 64 (s.part k).record.toNat)).toNat ∧
      field 160 4 = imageSvn (activeImage s.hub) ∧ field 164 4 = s.hub.svn % 2 ^ 32 ∧ field 168 16 = Config.serial.toNat)) ∧
  (∀ (s : State), (s.hub.activating = none → exec .starterReady s = .next s ∧ exec .fwActivateTimeout s = .next s) ∧
    ∀ a, s.hub.activating = some a → let h := { s.hub with activating := none, ready := s.hub.ready ||| 1, waitingCmds := [] }
      exec .starterReady s = .next { s with agenda := s.agenda ++ s.hub.waitingCmds, hub := h } ∧
      (s.tick < a + 2000000000 → ∃ g, exec .fwActivateTimeout s = .next { s with agenda := g } ∧ .fwActivateTimeout ∈ g) ∧
      (a + 2000000000 ≤ s.tick → exec .fwActivateTimeout s = .next { s with
        agenda := s.agenda ++ s.hub.waitingCmds, hub := { h with activeB := !s.hub.activeB } })) ∧
  (∀ (s : State), (∀ pr a, s.hub.step = some (0, pr, a) → ∃ t, exec .bringup s = .next t ∧ goes s t s.hub.journal bringupSteps) ∧
    ((∀ pr a, s.hub.step ≠ some (0, pr, a)) → exec .bringup s = .next s)) ∧
  (∀ (s : State) (c : Nat) (ok : Bool), c = 0 ∨ (∀ pr a, s.hub.step ≠ some (c, pr, a)) →
    exec (.bringupStepDone c ok) s = .next s ∧ exec (.bringupStepTimeout c) s = .next s) ∧
  (∀ (s : State) (c a : Nat) (pr : Bool), s.hub.step = some (c, pr, a) → c ∈ bringupSteps → let j := kept (s.hub.journal ++ [⟨c, pr, true⟩])
    (∃ t, exec (.bringupStepDone c false) s = .next t ∧ failed s t c pr) ∧
    (s.tick < a + stepLimit c → ∃ g, exec (.bringupStepTimeout c) s = .next { s with agenda := g } ∧ .bringupStepTimeout c ∈ g) ∧
    (a + stepLimit c ≤ s.tick → ∃ t, exec (.bringupStepTimeout c) s = .next t ∧ failed s t c pr) ∧
    ∃ t, exec (.bringupStepDone c true) s = .next t ∧ t.hub.journal = j ∧ goes s t j (bringupSteps.filter fun x => decide (c < x)) ∧
      (∀ b, b ∈ bits c pr → t.hub.ready.getLsbD b = true) ∧
      (∀ b, b ∉ bits c pr → b ≠ 1 → b ≠ 2 → t.hub.ready.getLsbD b = s.hub.ready.getLsbD b) ∧
      t.hub.activeB = (if c = 32 ∧ pr = false then !s.hub.activeB else s.hub.activeB) ∧
      t.hub.deadLanes = s.hub.deadLanes ++ (if c / 32 = 6 ∧ pr = false then [(c % 32, 3)] else []) ∧
      t.hub.mpod = (if c = 224 ∧ pr = false then s.hub.mpod &&& ~~~0x8000#64 else s.hub.mpod)) ∧
  (stepLimit 32 = 1000000000 ∧ (∀ i < 8, stepLimit (64 + i) = 2000000000) ∧ (∀ i < 4, stepLimit (96 + i) = 5000000000 ∧ stepLimit (128 + i) = 1000000000) ∧
    stepLimit 160 = 3000000000 ∧ (∀ i < 16, stepLimit (192 + i) = 2000000000) ∧ stepLimit 224 = 1000000000 ∧ stepLimit 256 = 500000000)
end

