-- ==== Sys2Proof/Laws/Maps.lean ====
section
/-! SUPPORT. Maps and byte memories: reading after writing, and the canonical form that every operation keeps. -/

namespace Sys2Proof.Machine

@[simp] theorem look_nil {α : Type} (d : α) (k : Nat) : look [] d k = d := rfl

@[simp] theorem look_remove_same {α : Type} (m : SMap α) (d : α) (k : Nat) : look (remove m k) d k = d := by
  induction m with
  | nil => rfl
  | cons e m ih =>
    obtain ⟨j, v⟩ := e
    by_cases h : j = k <;> simp [remove, look, h, ih]

theorem look_remove_ne {α : Type} (m : SMap α) (d : α) {j k : Nat} (h : j ≠ k) : look (remove m k) d j = look m d j := by
  induction m with
  | nil => rfl
  | cons e m ih =>
    obtain ⟨i, v⟩ := e
    by_cases hi : i = k
    · have : i ≠ j := fun e => h (e ▸ hi)
      simp only [remove, hi, if_true, ih, look, Ne.symm h, if_false]
    · simp [remove, look, hi, ih]

theorem look_place_same {α : Type} (m : SMap α) (d v : α) (k : Nat) (h : ∀ e ∈ m, e.1 ≠ k) :
    look (place m k v) d k = v := by
  induction m with
  | nil => simp [place, look]
  | cons e m ih =>
    obtain ⟨j, w⟩ := e
    have hj : j ≠ k := h (j, w) (by simp)
    by_cases hk : k < j
    · simp [place, look, hk]
    · simp [place, look, hk, hj, ih fun e he => h e (by simp [he])]

theorem look_place_ne {α : Type} (m : SMap α) (d v : α) {j k : Nat} (h : j ≠ k) : look (place m k v) d j = look m d j := by
  induction m with
  | nil => simp [place, look, Ne.symm h]
  | cons e m ih =>
    obtain ⟨i, w⟩ := e
    by_cases hk : k < i
    · simp [place, look, hk, Ne.symm h]
    · simp only [place, hk, if_false, look, ih]

theorem not_mem_remove {α : Type} (m : SMap α) (k : Nat) : ∀ e ∈ remove m k, e.1 ≠ k := by
  induction m with
  | nil => simp [remove]
  | cons e m ih =>
    obtain ⟨j, v⟩ := e
    by_cases h : j = k
    · simpa [remove, h] using ih
    · intro e he
      simp only [remove, h, if_false, List.mem_cons] at he
      rcases he with rfl | he
      · exact h
      · exact ih e he

@[simp] theorem look_put_same {α : Type} (m : SMap α) (d v : α) (k : Nat) : look (put m k v) d k = v :=
  look_place_same _ _ _ _ (not_mem_remove m k)

theorem look_put_ne {α : Type} (m : SMap α) (d v : α) {j k : Nat} (h : j ≠ k) : look (put m k v) d j = look m d j := by
  rw [put, look_place_ne _ _ _ h, look_remove_ne _ _ h]

/-! ## Strictly rising keys -/

/-- Every key of a map is above `k`. -/
def Above {α : Type} (k : Nat) (m : SMap α) : Prop := ∀ e ∈ m, k < e.1

theorem rising_cons {α : Type} (k : Nat) (v : α) (m : SMap α) :
    rising ((k, v) :: m) = true ↔ Above k m ∧ rising m = true := by
  induction m generalizing k v with
  | nil => simp [rising, Above]
  | cons e m ih =>
    obtain ⟨j, w⟩ := e
    simp only [rising, Bool.and_eq_true, decide_eq_true_eq, ih]
    constructor
    · rintro ⟨h, ha, hr⟩
      refine ⟨?_, ha, hr⟩
      intro e he
      rcases List.mem_cons.mp he with rfl | he
      · exact h
      · exact lt_trans h (ha e he)
    · rintro ⟨h, ha, hr⟩
      exact ⟨h (j, w) (by simp), ha, hr⟩

theorem above_remove {α : Type} {j : Nat} (m : SMap α) (k : Nat) (h : Above j m) : Above j (remove m k) := by
  induction m with
  | nil => exact h
  | cons e m ih =>
    obtain ⟨i, v⟩ := e
    have hm : Above j m := fun e he => h e (by simp [he])
    by_cases hi : i = k
    · simpa [remove, hi] using ih hm
    · intro e he
      simp only [remove, hi, if_false, List.mem_cons] at he
      rcases he with rfl | he
      · exact h _ (by simp)
      · exact ih hm e he

theorem rising_remove {α : Type} (m : SMap α) (k : Nat) (h : rising m = true) : rising (remove m k) = true := by
  induction m with
  | nil => rfl
  | cons e m ih =>
    obtain ⟨j, v⟩ := e
    obtain ⟨ha, hr⟩ := (rising_cons j v m).mp h
    by_cases hj : j = k
    · simpa [remove, hj] using ih hr
    · simpa [remove, hj, rising_cons] using ⟨above_remove m k ha, ih hr⟩

theorem above_place {α : Type} {j k : Nat} (m : SMap α) (v : α) (h : Above j m) (hk : j < k) : Above j (place m k v) := by
  induction m with
  | nil => intro e he; simp [place] at he; subst he; exact hk
  | cons e m ih =>
    obtain ⟨i, w⟩ := e
    have hm : Above j m := fun e he => h e (by simp [he])
    have hi : j < i := h (i, w) (by simp)
    by_cases hki : k < i
    · intro e he
      simp only [place, hki, if_true, List.mem_cons] at he
      rcases he with rfl | rfl | he
      · exact hk
      · exact hi
      · exact hm e he
    · intro e he
      simp only [place, hki, if_false, List.mem_cons] at he
      rcases he with rfl | he
      · exact hi
      · exact ih hm e he

theorem rising_place {α : Type} (m : SMap α) (k : Nat) (v : α) (h : rising m = true) (hn : ∀ e ∈ m, e.1 ≠ k) :
    rising (place m k v) = true := by
  induction m with
  | nil => rfl
  | cons e m ih =>
    obtain ⟨j, w⟩ := e
    obtain ⟨ha, hr⟩ := (rising_cons j w m).mp h
    by_cases hkj : k < j
    · have : Above k m := fun e he => lt_trans hkj (ha e he)
      simp only [place, hkj, if_true, rising_cons]
      refine ⟨?_, ha, hr⟩
      intro e he
      rcases List.mem_cons.mp he with rfl | he
      · exact hkj
      · exact this e he
    · have hjk : j < k := lt_of_le_of_ne (not_lt.mp hkj) (hn (j, w) (by simp))
      simp only [place, hkj, if_false, rising_cons]
      exact ⟨above_place m v ha hjk, ih hr fun e he => hn e (by simp [he])⟩

theorem rising_put {α : Type} (m : SMap α) (k : Nat) (v : α) (h : rising m = true) : rising (put m k v) = true :=
  rising_place _ _ _ (rising_remove m k h) (not_mem_remove m k)

/-! ## Byte memories -/

theorem mem_remove {α : Type} (m : SMap α) (k : Nat) {e : Nat × α} (h : e ∈ remove m k) : e ∈ m := by
  induction m with
  | nil => exact h
  | cons i m ih =>
    obtain ⟨j, v⟩ := i
    by_cases hj : j = k
    · exact List.mem_cons_of_mem _ (ih (by simpa [remove, hj] using h))
    · simp only [remove, hj, if_false, List.mem_cons] at h
      rcases h with rfl | h
      · exact List.mem_cons_self ..
      · exact List.mem_cons_of_mem _ (ih h)

theorem mem_place {α : Type} (m : SMap α) (k : Nat) (v : α) {e : Nat × α} (h : e ∈ place m k v) : e = (k, v) ∨ e ∈ m := by
  induction m with
  | nil => left; simpa [place] using h
  | cons i m ih =>
    obtain ⟨j, w⟩ := i
    by_cases hk : k < j
    · simp only [place, hk, if_true, List.mem_cons] at h
      rcases h with h | h | h
      · exact .inl h
      · exact .inr (by simp [h])
      · exact .inr (by simp [h])
    · simp only [place, hk, if_false, List.mem_cons] at h
      rcases h with h | h
      · exact .inr (by simp [h])
      · rcases ih h with h | h
        · exact .inl h
        · exact .inr (by simp [h])

theorem wf_nil : Memory.wf [] = true := rfl

/-- Writing a byte keeps the canonical form. -/
theorem wf_writeByte (m : Memory) (a : Nat) (b : Byte) (h : Memory.wf m = true) : Memory.wf (writeByte m a b) = true := by
  simp only [Memory.wf, Bool.and_eq_true, List.all_eq_true, bne_iff_ne] at h ⊢
  obtain ⟨hr, hz⟩ := h
  by_cases hb : b = 0
  · simp only [writeByte, hb, if_true]
    exact ⟨rising_remove m a hr, fun e he => hz e (mem_remove m a he)⟩
  · simp only [writeByte, hb, if_false]
    refine ⟨rising_put m a b hr, fun e he => ?_⟩
    rcases mem_place _ _ _ he with rfl | he
    · exact hb
    · exact hz e (mem_remove m a he)

/-- Writing bytes keeps the canonical form. -/
theorem wf_writeBytes (bs : List Byte) (m : Memory) (a : Nat) (h : Memory.wf m = true) :
    Memory.wf (writeBytes m a bs) = true := by
  induction bs generalizing m a with
  | nil => exact h
  | cons b bs ih => exact ih _ _ (wf_writeByte m a b h)

/-- A byte reads as it was written. -/
@[simp] theorem readByte_writeByte_same (m : Memory) (a : Nat) (b : Byte) : readByte (writeByte m a b) a = b := by
  unfold readByte writeByte
  split
  · next hb => rw [look_remove_same, hb]
  · exact look_put_same ..

/-- Writing a byte leaves every other one alone. -/
theorem readByte_writeByte_ne (m : Memory) {a c : Nat} (b : Byte) (h : c ≠ a) :
    readByte (writeByte m a b) c = readByte m c := by
  unfold readByte writeByte
  split
  · exact look_remove_ne m 0 h
  · exact look_put_ne m 0 b h

/-- Writing bytes leaves every byte outside them alone. -/
theorem readByte_writeBytes_out (bs : List Byte) (m : Memory) (a c : Nat) (h : c < a ∨ a + bs.length ≤ c) :
    readByte (writeBytes m a bs) c = readByte m c := by
  induction bs generalizing m a with
  | nil => rfl
  | cons b bs ih =>
    simp only [List.length_cons] at h
    have h1 : c ≠ a := by omega
    rw [writeBytes, ih _ _ (by omega), readByte_writeByte_ne m b h1]

end Sys2Proof.Machine
end

