-- ==== Sys2Proof/Laws/State.lean ====
section
/-! SUPPORT. One lemma per field of the state per named update, so that no proof unfolds a record update. -/

namespace Sys2Proof.Machine

/-! ## `setCore` -/

@[simp] theorem setCore_tick (s : State) (c : Nat) (v : Core) : (s.setCore c v).tick = s.tick := rfl
@[simp] theorem setCore_draws (s : State) (c : Nat) (v : Core) : (s.setCore c v).draws = s.draws := rfl
@[simp] theorem setCore_nextId (s : State) (c : Nat) (v : Core) : (s.setCore c v).nextId = s.nextId := rfl
@[simp] theorem setCore_agenda (s : State) (c : Nat) (v : Core) : (s.setCore c v).agenda = s.agenda := rfl
@[simp] theorem setCore_turn (s : State) (c : Nat) (v : Core) : (s.setCore c v).turn = s.turn := rfl
@[simp] theorem setCore_curCore (s : State) (c : Nat) (v : Core) : (s.setCore c v).curCore = s.curCore := rfl
@[simp] theorem setCore_curSlot (s : State) (c : Nat) (v : Core) : (s.setCore c v).curSlot = s.curSlot := rfl
@[simp] theorem setCore_slots (s : State) (c : Nat) (v : Core) : (s.setCore c v).slots = s.slots := rfl
@[simp] theorem setCore_parts (s : State) (c : Nat) (v : Core) : (s.setCore c v).parts = s.parts := rfl
@[simp] theorem setCore_txs (s : State) (c : Nat) (v : Core) : (s.setCore c v).txs = s.txs := rfl
@[simp] theorem setCore_copies (s : State) (c : Nat) (v : Core) : (s.setCore c v).copies = s.copies := rfl
@[simp] theorem setCore_fabric (s : State) (c : Nat) (v : Core) : (s.setCore c v).fabric = s.fabric := rfl
@[simp] theorem setCore_devMem (s : State) (c : Nat) (v : Core) : (s.setCore c v).devMem = s.devMem := rfl
@[simp] theorem setCore_hostMem (s : State) (c : Nat) (v : Core) : (s.setCore c v).hostMem = s.hostMem := rfl
@[simp] theorem setCore_saved (s : State) (c : Nat) (v : Core) : (s.setCore c v).saved = s.saved := rfl
@[simp] theorem setCore_hub (s : State) (c : Nat) (v : Core) : (s.setCore c v).hub = s.hub := rfl
@[simp] theorem setCore_ns (s : State) (c : Nat) (v : Core) : (s.setCore c v).ns = s.ns := rfl
@[simp] theorem setCore_rdc (s : State) (c : Nat) (v : Core) : (s.setCore c v).rdc = s.rdc := rfl
@[simp] theorem setCore_purges (s : State) (c : Nat) (v : Core) : (s.setCore c v).purges = s.purges := rfl
@[simp] theorem setCore_hostWait (s : State) (c : Nat) (v : Core) : (s.setCore c v).hostWait = s.hostWait := rfl

/-! ## `setSlot` -/

@[simp] theorem setSlot_tick (s : State) (k : Nat) (v : Slot) : (s.setSlot k v).tick = s.tick := rfl
@[simp] theorem setSlot_draws (s : State) (k : Nat) (v : Slot) : (s.setSlot k v).draws = s.draws := rfl
@[simp] theorem setSlot_nextId (s : State) (k : Nat) (v : Slot) : (s.setSlot k v).nextId = s.nextId := rfl
@[simp] theorem setSlot_agenda (s : State) (k : Nat) (v : Slot) : (s.setSlot k v).agenda = s.agenda := rfl
@[simp] theorem setSlot_turn (s : State) (k : Nat) (v : Slot) : (s.setSlot k v).turn = s.turn := rfl
@[simp] theorem setSlot_curCore (s : State) (k : Nat) (v : Slot) : (s.setSlot k v).curCore = s.curCore := rfl
@[simp] theorem setSlot_curSlot (s : State) (k : Nat) (v : Slot) : (s.setSlot k v).curSlot = s.curSlot := rfl
@[simp] theorem setSlot_cores (s : State) (k : Nat) (v : Slot) : (s.setSlot k v).cores = s.cores := rfl
@[simp] theorem setSlot_parts (s : State) (k : Nat) (v : Slot) : (s.setSlot k v).parts = s.parts := rfl
@[simp] theorem setSlot_txs (s : State) (k : Nat) (v : Slot) : (s.setSlot k v).txs = s.txs := rfl
@[simp] theorem setSlot_copies (s : State) (k : Nat) (v : Slot) : (s.setSlot k v).copies = s.copies := rfl
@[simp] theorem setSlot_fabric (s : State) (k : Nat) (v : Slot) : (s.setSlot k v).fabric = s.fabric := rfl
@[simp] theorem setSlot_devMem (s : State) (k : Nat) (v : Slot) : (s.setSlot k v).devMem = s.devMem := rfl
@[simp] theorem setSlot_hostMem (s : State) (k : Nat) (v : Slot) : (s.setSlot k v).hostMem = s.hostMem := rfl
@[simp] theorem setSlot_saved (s : State) (k : Nat) (v : Slot) : (s.setSlot k v).saved = s.saved := rfl
@[simp] theorem setSlot_hub (s : State) (k : Nat) (v : Slot) : (s.setSlot k v).hub = s.hub := rfl
@[simp] theorem setSlot_ns (s : State) (k : Nat) (v : Slot) : (s.setSlot k v).ns = s.ns := rfl
@[simp] theorem setSlot_rdc (s : State) (k : Nat) (v : Slot) : (s.setSlot k v).rdc = s.rdc := rfl
@[simp] theorem setSlot_purges (s : State) (k : Nat) (v : Slot) : (s.setSlot k v).purges = s.purges := rfl
@[simp] theorem setSlot_hostWait (s : State) (k : Nat) (v : Slot) : (s.setSlot k v).hostWait = s.hostWait := rfl

/-! ## `setPart` -/

@[simp] theorem setPart_tick (s : State) (p : Nat) (v : Part) : (s.setPart p v).tick = s.tick := rfl
@[simp] theorem setPart_draws (s : State) (p : Nat) (v : Part) : (s.setPart p v).draws = s.draws := rfl
@[simp] theorem setPart_nextId (s : State) (p : Nat) (v : Part) : (s.setPart p v).nextId = s.nextId := rfl
@[simp] theorem setPart_agenda (s : State) (p : Nat) (v : Part) : (s.setPart p v).agenda = s.agenda := rfl
@[simp] theorem setPart_turn (s : State) (p : Nat) (v : Part) : (s.setPart p v).turn = s.turn := rfl
@[simp] theorem setPart_curCore (s : State) (p : Nat) (v : Part) : (s.setPart p v).curCore = s.curCore := rfl
@[simp] theorem setPart_curSlot (s : State) (p : Nat) (v : Part) : (s.setPart p v).curSlot = s.curSlot := rfl
@[simp] theorem setPart_cores (s : State) (p : Nat) (v : Part) : (s.setPart p v).cores = s.cores := rfl
@[simp] theorem setPart_slots (s : State) (p : Nat) (v : Part) : (s.setPart p v).slots = s.slots := rfl
@[simp] theorem setPart_txs (s : State) (p : Nat) (v : Part) : (s.setPart p v).txs = s.txs := rfl
@[simp] theorem setPart_copies (s : State) (p : Nat) (v : Part) : (s.setPart p v).copies = s.copies := rfl
@[simp] theorem setPart_fabric (s : State) (p : Nat) (v : Part) : (s.setPart p v).fabric = s.fabric := rfl
@[simp] theorem setPart_devMem (s : State) (p : Nat) (v : Part) : (s.setPart p v).devMem = s.devMem := rfl
@[simp] theorem setPart_hostMem (s : State) (p : Nat) (v : Part) : (s.setPart p v).hostMem = s.hostMem := rfl
@[simp] theorem setPart_saved (s : State) (p : Nat) (v : Part) : (s.setPart p v).saved = s.saved := rfl
@[simp] theorem setPart_hub (s : State) (p : Nat) (v : Part) : (s.setPart p v).hub = s.hub := rfl
@[simp] theorem setPart_ns (s : State) (p : Nat) (v : Part) : (s.setPart p v).ns = s.ns := rfl
@[simp] theorem setPart_rdc (s : State) (p : Nat) (v : Part) : (s.setPart p v).rdc = s.rdc := rfl
@[simp] theorem setPart_purges (s : State) (p : Nat) (v : Part) : (s.setPart p v).purges = s.purges := rfl
@[simp] theorem setPart_hostWait (s : State) (p : Nat) (v : Part) : (s.setPart p v).hostWait = s.hostWait := rfl

/-! ## `setTx` -/

@[simp] theorem setTx_tick (s : State) (t : Nat) (v : Tx) : (s.setTx t v).tick = s.tick := rfl
@[simp] theorem setTx_draws (s : State) (t : Nat) (v : Tx) : (s.setTx t v).draws = s.draws := rfl
@[simp] theorem setTx_nextId (s : State) (t : Nat) (v : Tx) : (s.setTx t v).nextId = s.nextId := rfl
@[simp] theorem setTx_agenda (s : State) (t : Nat) (v : Tx) : (s.setTx t v).agenda = s.agenda := rfl
@[simp] theorem setTx_turn (s : State) (t : Nat) (v : Tx) : (s.setTx t v).turn = s.turn := rfl
@[simp] theorem setTx_curCore (s : State) (t : Nat) (v : Tx) : (s.setTx t v).curCore = s.curCore := rfl
@[simp] theorem setTx_curSlot (s : State) (t : Nat) (v : Tx) : (s.setTx t v).curSlot = s.curSlot := rfl
@[simp] theorem setTx_cores (s : State) (t : Nat) (v : Tx) : (s.setTx t v).cores = s.cores := rfl
@[simp] theorem setTx_slots (s : State) (t : Nat) (v : Tx) : (s.setTx t v).slots = s.slots := rfl
@[simp] theorem setTx_parts (s : State) (t : Nat) (v : Tx) : (s.setTx t v).parts = s.parts := rfl
@[simp] theorem setTx_copies (s : State) (t : Nat) (v : Tx) : (s.setTx t v).copies = s.copies := rfl
@[simp] theorem setTx_fabric (s : State) (t : Nat) (v : Tx) : (s.setTx t v).fabric = s.fabric := rfl
@[simp] theorem setTx_devMem (s : State) (t : Nat) (v : Tx) : (s.setTx t v).devMem = s.devMem := rfl
@[simp] theorem setTx_hostMem (s : State) (t : Nat) (v : Tx) : (s.setTx t v).hostMem = s.hostMem := rfl
@[simp] theorem setTx_saved (s : State) (t : Nat) (v : Tx) : (s.setTx t v).saved = s.saved := rfl
@[simp] theorem setTx_hub (s : State) (t : Nat) (v : Tx) : (s.setTx t v).hub = s.hub := rfl
@[simp] theorem setTx_ns (s : State) (t : Nat) (v : Tx) : (s.setTx t v).ns = s.ns := rfl
@[simp] theorem setTx_rdc (s : State) (t : Nat) (v : Tx) : (s.setTx t v).rdc = s.rdc := rfl
@[simp] theorem setTx_purges (s : State) (t : Nat) (v : Tx) : (s.setTx t v).purges = s.purges := rfl
@[simp] theorem setTx_hostWait (s : State) (t : Nat) (v : Tx) : (s.setTx t v).hostWait = s.hostWait := rfl

/-! ## `setMe` -/

@[simp] theorem setMe_tick (s : State) (v : Slot) : (s.setMe v).tick = s.tick := rfl
@[simp] theorem setMe_draws (s : State) (v : Slot) : (s.setMe v).draws = s.draws := rfl
@[simp] theorem setMe_nextId (s : State) (v : Slot) : (s.setMe v).nextId = s.nextId := rfl
@[simp] theorem setMe_agenda (s : State) (v : Slot) : (s.setMe v).agenda = s.agenda := rfl
@[simp] theorem setMe_turn (s : State) (v : Slot) : (s.setMe v).turn = s.turn := rfl
@[simp] theorem setMe_curCore (s : State) (v : Slot) : (s.setMe v).curCore = s.curCore := rfl
@[simp] theorem setMe_curSlot (s : State) (v : Slot) : (s.setMe v).curSlot = s.curSlot := rfl
@[simp] theorem setMe_cores (s : State) (v : Slot) : (s.setMe v).cores = s.cores := rfl
@[simp] theorem setMe_parts (s : State) (v : Slot) : (s.setMe v).parts = s.parts := rfl
@[simp] theorem setMe_txs (s : State) (v : Slot) : (s.setMe v).txs = s.txs := rfl
@[simp] theorem setMe_copies (s : State) (v : Slot) : (s.setMe v).copies = s.copies := rfl
@[simp] theorem setMe_fabric (s : State) (v : Slot) : (s.setMe v).fabric = s.fabric := rfl
@[simp] theorem setMe_devMem (s : State) (v : Slot) : (s.setMe v).devMem = s.devMem := rfl
@[simp] theorem setMe_hostMem (s : State) (v : Slot) : (s.setMe v).hostMem = s.hostMem := rfl
@[simp] theorem setMe_saved (s : State) (v : Slot) : (s.setMe v).saved = s.saved := rfl
@[simp] theorem setMe_hub (s : State) (v : Slot) : (s.setMe v).hub = s.hub := rfl
@[simp] theorem setMe_ns (s : State) (v : Slot) : (s.setMe v).ns = s.ns := rfl
@[simp] theorem setMe_rdc (s : State) (v : Slot) : (s.setMe v).rdc = s.rdc := rfl
@[simp] theorem setMe_purges (s : State) (v : Slot) : (s.setMe v).purges = s.purges := rfl
@[simp] theorem setMe_hostWait (s : State) (v : Slot) : (s.setMe v).hostWait = s.hostWait := rfl

/-! ## `setMyCore` -/

@[simp] theorem setMyCore_tick (s : State) (v : Core) : (s.setMyCore v).tick = s.tick := rfl
@[simp] theorem setMyCore_draws (s : State) (v : Core) : (s.setMyCore v).draws = s.draws := rfl
@[simp] theorem setMyCore_nextId (s : State) (v : Core) : (s.setMyCore v).nextId = s.nextId := rfl
@[simp] theorem setMyCore_agenda (s : State) (v : Core) : (s.setMyCore v).agenda = s.agenda := rfl
@[simp] theorem setMyCore_turn (s : State) (v : Core) : (s.setMyCore v).turn = s.turn := rfl
@[simp] theorem setMyCore_curCore (s : State) (v : Core) : (s.setMyCore v).curCore = s.curCore := rfl
@[simp] theorem setMyCore_curSlot (s : State) (v : Core) : (s.setMyCore v).curSlot = s.curSlot := rfl
@[simp] theorem setMyCore_slots (s : State) (v : Core) : (s.setMyCore v).slots = s.slots := rfl
@[simp] theorem setMyCore_parts (s : State) (v : Core) : (s.setMyCore v).parts = s.parts := rfl
@[simp] theorem setMyCore_txs (s : State) (v : Core) : (s.setMyCore v).txs = s.txs := rfl
@[simp] theorem setMyCore_copies (s : State) (v : Core) : (s.setMyCore v).copies = s.copies := rfl
@[simp] theorem setMyCore_fabric (s : State) (v : Core) : (s.setMyCore v).fabric = s.fabric := rfl
@[simp] theorem setMyCore_devMem (s : State) (v : Core) : (s.setMyCore v).devMem = s.devMem := rfl
@[simp] theorem setMyCore_hostMem (s : State) (v : Core) : (s.setMyCore v).hostMem = s.hostMem := rfl
@[simp] theorem setMyCore_saved (s : State) (v : Core) : (s.setMyCore v).saved = s.saved := rfl
@[simp] theorem setMyCore_hub (s : State) (v : Core) : (s.setMyCore v).hub = s.hub := rfl
@[simp] theorem setMyCore_ns (s : State) (v : Core) : (s.setMyCore v).ns = s.ns := rfl
@[simp] theorem setMyCore_rdc (s : State) (v : Core) : (s.setMyCore v).rdc = s.rdc := rfl
@[simp] theorem setMyCore_purges (s : State) (v : Core) : (s.setMyCore v).purges = s.purges := rfl
@[simp] theorem setMyCore_hostWait (s : State) (v : Core) : (s.setMyCore v).hostWait = s.hostWait := rfl

/-! ## `draw` -/

@[simp] theorem draw_tick (s : State) : (s.draw).tick = s.tick := rfl
@[simp] theorem draw_nextId (s : State) : (s.draw).nextId = s.nextId := rfl
@[simp] theorem draw_agenda (s : State) : (s.draw).agenda = s.agenda := rfl
@[simp] theorem draw_turn (s : State) : (s.draw).turn = s.turn := rfl
@[simp] theorem draw_curCore (s : State) : (s.draw).curCore = s.curCore := rfl
@[simp] theorem draw_curSlot (s : State) : (s.draw).curSlot = s.curSlot := rfl
@[simp] theorem draw_cores (s : State) : (s.draw).cores = s.cores := rfl
@[simp] theorem draw_slots (s : State) : (s.draw).slots = s.slots := rfl
@[simp] theorem draw_parts (s : State) : (s.draw).parts = s.parts := rfl
@[simp] theorem draw_txs (s : State) : (s.draw).txs = s.txs := rfl
@[simp] theorem draw_copies (s : State) : (s.draw).copies = s.copies := rfl
@[simp] theorem draw_fabric (s : State) : (s.draw).fabric = s.fabric := rfl
@[simp] theorem draw_devMem (s : State) : (s.draw).devMem = s.devMem := rfl
@[simp] theorem draw_hostMem (s : State) : (s.draw).hostMem = s.hostMem := rfl
@[simp] theorem draw_saved (s : State) : (s.draw).saved = s.saved := rfl
@[simp] theorem draw_hub (s : State) : (s.draw).hub = s.hub := rfl
@[simp] theorem draw_ns (s : State) : (s.draw).ns = s.ns := rfl
@[simp] theorem draw_rdc (s : State) : (s.draw).rdc = s.rdc := rfl
@[simp] theorem draw_purges (s : State) : (s.draw).purges = s.purges := rfl
@[simp] theorem draw_hostWait (s : State) : (s.draw).hostWait = s.hostWait := rfl

/-! ## `post` -/

@[simp] theorem post_tick (s : State) (e : Instr) : (s.post e).tick = s.tick := rfl
@[simp] theorem post_draws (s : State) (e : Instr) : (s.post e).draws = s.draws := rfl
@[simp] theorem post_nextId (s : State) (e : Instr) : (s.post e).nextId = s.nextId := rfl
@[simp] theorem post_turn (s : State) (e : Instr) : (s.post e).turn = s.turn := rfl
@[simp] theorem post_curCore (s : State) (e : Instr) : (s.post e).curCore = s.curCore := rfl
@[simp] theorem post_curSlot (s : State) (e : Instr) : (s.post e).curSlot = s.curSlot := rfl
@[simp] theorem post_cores (s : State) (e : Instr) : (s.post e).cores = s.cores := rfl
@[simp] theorem post_slots (s : State) (e : Instr) : (s.post e).slots = s.slots := rfl
@[simp] theorem post_parts (s : State) (e : Instr) : (s.post e).parts = s.parts := rfl
@[simp] theorem post_txs (s : State) (e : Instr) : (s.post e).txs = s.txs := rfl
@[simp] theorem post_copies (s : State) (e : Instr) : (s.post e).copies = s.copies := rfl
@[simp] theorem post_fabric (s : State) (e : Instr) : (s.post e).fabric = s.fabric := rfl
@[simp] theorem post_devMem (s : State) (e : Instr) : (s.post e).devMem = s.devMem := rfl
@[simp] theorem post_hostMem (s : State) (e : Instr) : (s.post e).hostMem = s.hostMem := rfl
@[simp] theorem post_saved (s : State) (e : Instr) : (s.post e).saved = s.saved := rfl
@[simp] theorem post_hub (s : State) (e : Instr) : (s.post e).hub = s.hub := rfl
@[simp] theorem post_ns (s : State) (e : Instr) : (s.post e).ns = s.ns := rfl
@[simp] theorem post_rdc (s : State) (e : Instr) : (s.post e).rdc = s.rdc := rfl
@[simp] theorem post_purges (s : State) (e : Instr) : (s.post e).purges = s.purges := rfl
@[simp] theorem post_hostWait (s : State) (e : Instr) : (s.post e).hostWait = s.hostWait := rfl

/-! ## `setByteAt` and `setBytesAt` -/

@[simp] theorem setByteAt_tick (s : State) (l : Loc) (b : Byte) : (s.setByteAt l b).tick = s.tick := by cases l <;> rfl
@[simp] theorem setByteAt_draws (s : State) (l : Loc) (b : Byte) : (s.setByteAt l b).draws = s.draws := by cases l <;> rfl
@[simp] theorem setByteAt_nextId (s : State) (l : Loc) (b : Byte) : (s.setByteAt l b).nextId = s.nextId := by cases l <;> rfl
@[simp] theorem setByteAt_agenda (s : State) (l : Loc) (b : Byte) : (s.setByteAt l b).agenda = s.agenda := by cases l <;> rfl
@[simp] theorem setByteAt_turn (s : State) (l : Loc) (b : Byte) : (s.setByteAt l b).turn = s.turn := by cases l <;> rfl
@[simp] theorem setByteAt_curCore (s : State) (l : Loc) (b : Byte) : (s.setByteAt l b).curCore = s.curCore := by cases l <;> rfl
@[simp] theorem setByteAt_curSlot (s : State) (l : Loc) (b : Byte) : (s.setByteAt l b).curSlot = s.curSlot := by cases l <;> rfl
@[simp] theorem setByteAt_cores (s : State) (l : Loc) (b : Byte) : (s.setByteAt l b).cores = s.cores := by cases l <;> rfl
@[simp] theorem setByteAt_slots (s : State) (l : Loc) (b : Byte) : (s.setByteAt l b).slots = s.slots := by cases l <;> rfl
@[simp] theorem setByteAt_parts (s : State) (l : Loc) (b : Byte) : (s.setByteAt l b).parts = s.parts := by cases l <;> rfl
@[simp] theorem setByteAt_txs (s : State) (l : Loc) (b : Byte) : (s.setByteAt l b).txs = s.txs := by cases l <;> rfl
@[simp] theorem setByteAt_copies (s : State) (l : Loc) (b : Byte) : (s.setByteAt l b).copies = s.copies := by cases l <;> rfl
@[simp] theorem setByteAt_fabric (s : State) (l : Loc) (b : Byte) : (s.setByteAt l b).fabric = s.fabric := by cases l <;> rfl
@[simp] theorem setByteAt_saved (s : State) (l : Loc) (b : Byte) : (s.setByteAt l b).saved = s.saved := by cases l <;> rfl
@[simp] theorem setByteAt_hub (s : State) (l : Loc) (b : Byte) : (s.setByteAt l b).hub = s.hub := by cases l <;> rfl
@[simp] theorem setByteAt_ns (s : State) (l : Loc) (b : Byte) : (s.setByteAt l b).ns = s.ns := by cases l <;> rfl
@[simp] theorem setByteAt_purges (s : State) (l : Loc) (b : Byte) : (s.setByteAt l b).purges = s.purges := by cases l <;> rfl
@[simp] theorem setByteAt_hostWait (s : State) (l : Loc) (b : Byte) : (s.setByteAt l b).hostWait = s.hostWait := by cases l <;> rfl

@[simp] theorem setBytesAt_tick (s : State) (l : Loc) (bs : List (Nat × Byte)) : (s.setBytesAt l bs).tick = s.tick := by
  induction bs generalizing s with
  | nil => rfl
  | cons b bs ih => simp [State.setBytesAt, ih]
@[simp] theorem setBytesAt_draws (s : State) (l : Loc) (bs : List (Nat × Byte)) : (s.setBytesAt l bs).draws = s.draws := by
  induction bs generalizing s with
  | nil => rfl
  | cons b bs ih => simp [State.setBytesAt, ih]
@[simp] theorem setBytesAt_nextId (s : State) (l : Loc) (bs : List (Nat × Byte)) : (s.setBytesAt l bs).nextId = s.nextId := by
  induction bs generalizing s with
  | nil => rfl
  | cons b bs ih => simp [State.setBytesAt, ih]
@[simp] theorem setBytesAt_agenda (s : State) (l : Loc) (bs : List (Nat × Byte)) : (s.setBytesAt l bs).agenda = s.agenda := by
  induction bs generalizing s with
  | nil => rfl
  | cons b bs ih => simp [State.setBytesAt, ih]
@[simp] theorem setBytesAt_turn (s : State) (l : Loc) (bs : List (Nat × Byte)) : (s.setBytesAt l bs).turn = s.turn := by
  induction bs generalizing s with
  | nil => rfl
  | cons b bs ih => simp [State.setBytesAt, ih]
@[simp] theorem setBytesAt_curCore (s : State) (l : Loc) (bs : List (Nat × Byte)) : (s.setBytesAt l bs).curCore = s.curCore := by
  induction bs generalizing s with
  | nil => rfl
  | cons b bs ih => simp [State.setBytesAt, ih]
@[simp] theorem setBytesAt_curSlot (s : State) (l : Loc) (bs : List (Nat × Byte)) : (s.setBytesAt l bs).curSlot = s.curSlot := by
  induction bs generalizing s with
  | nil => rfl
  | cons b bs ih => simp [State.setBytesAt, ih]
@[simp] theorem setBytesAt_cores (s : State) (l : Loc) (bs : List (Nat × Byte)) : (s.setBytesAt l bs).cores = s.cores := by
  induction bs generalizing s with
  | nil => rfl
  | cons b bs ih => simp [State.setBytesAt, ih]
@[simp] theorem setBytesAt_slots (s : State) (l : Loc) (bs : List (Nat × Byte)) : (s.setBytesAt l bs).slots = s.slots := by
  induction bs generalizing s with
  | nil => rfl
  | cons b bs ih => simp [State.setBytesAt, ih]
@[simp] theorem setBytesAt_parts (s : State) (l : Loc) (bs : List (Nat × Byte)) : (s.setBytesAt l bs).parts = s.parts := by
  induction bs generalizing s with
  | nil => rfl
  | cons b bs ih => simp [State.setBytesAt, ih]
@[simp] theorem setBytesAt_txs (s : State) (l : Loc) (bs : List (Nat × Byte)) : (s.setBytesAt l bs).txs = s.txs := by
  induction bs generalizing s with
  | nil => rfl
  | cons b bs ih => simp [State.setBytesAt, ih]
@[simp] theorem setBytesAt_copies (s : State) (l : Loc) (bs : List (Nat × Byte)) : (s.setBytesAt l bs).copies = s.copies := by
  induction bs generalizing s with
  | nil => rfl
  | cons b bs ih => simp [State.setBytesAt, ih]
@[simp] theorem setBytesAt_fabric (s : State) (l : Loc) (bs : List (Nat × Byte)) : (s.setBytesAt l bs).fabric = s.fabric := by
  induction bs generalizing s with
  | nil => rfl
  | cons b bs ih => simp [State.setBytesAt, ih]
@[simp] theorem setBytesAt_saved (s : State) (l : Loc) (bs : List (Nat × Byte)) : (s.setBytesAt l bs).saved = s.saved := by
  induction bs generalizing s with
  | nil => rfl
  | cons b bs ih => simp [State.setBytesAt, ih]
@[simp] theorem setBytesAt_hub (s : State) (l : Loc) (bs : List (Nat × Byte)) : (s.setBytesAt l bs).hub = s.hub := by
  induction bs generalizing s with
  | nil => rfl
  | cons b bs ih => simp [State.setBytesAt, ih]

@[simp] theorem setBytesAt_ns (s : State) (l : Loc) (bs : List (Nat × Byte)) : (s.setBytesAt l bs).ns = s.ns := by
  induction bs generalizing s with
  | nil => rfl
  | cons b bs ih => simp [State.setBytesAt, ih]
@[simp] theorem setBytesAt_purges (s : State) (l : Loc) (bs : List (Nat × Byte)) : (s.setBytesAt l bs).purges = s.purges := by
  induction bs generalizing s with
  | nil => rfl
  | cons b bs ih => simp [State.setBytesAt, ih]
@[simp] theorem setBytesAt_hostWait (s : State) (l : Loc) (bs : List (Nat × Byte)) : (s.setBytesAt l bs).hostWait = s.hostWait := by
  induction bs generalizing s with
  | nil => rfl
  | cons b bs ih => simp [State.setBytesAt, ih]

/-! ## Reading what was set -/

@[simp] theorem slot_setSlot_same (s : State) (k : Nat) (v : Slot) : (s.setSlot k v).slot k = v := look_put_same ..
theorem slot_setSlot_ne (s : State) {j k : Nat} (v : Slot) (h : j ≠ k) : (s.setSlot k v).slot j = s.slot j := look_put_ne _ _ _ h
@[simp] theorem core_setCore_same (s : State) (c : Nat) (v : Core) : (s.setCore c v).core c = v := look_put_same ..
theorem core_setCore_ne (s : State) {b c : Nat} (v : Core) (h : b ≠ c) : (s.setCore c v).core b = s.core b := look_put_ne _ _ _ h
@[simp] theorem part_setPart_same (s : State) (p : Nat) (v : Part) : (s.setPart p v).part p = v := look_put_same ..
theorem part_setPart_ne (s : State) {q p : Nat} (v : Part) (h : q ≠ p) : (s.setPart p v).part q = s.part q := look_put_ne _ _ _ h

@[simp] theorem slot_setCore (s : State) (c k : Nat) (v : Core) : (s.setCore c v).slot k = s.slot k := rfl
@[simp] theorem slot_setPart (s : State) (p k : Nat) (v : Part) : (s.setPart p v).slot k = s.slot k := rfl
@[simp] theorem slot_post (s : State) (k : Nat) (e : Instr) : (s.post e).slot k = s.slot k := rfl
@[simp] theorem slot_draw (s : State) (k : Nat) : s.draw.slot k = s.slot k := rfl
@[simp] theorem core_setSlot (s : State) (c k : Nat) (v : Slot) : (s.setSlot k v).core c = s.core c := rfl
@[simp] theorem core_setMe (s : State) (c : Nat) (v : Slot) : (s.setMe v).core c = s.core c := rfl
@[simp] theorem core_setPart (s : State) (c p : Nat) (v : Part) : (s.setPart p v).core c = s.core c := rfl
@[simp] theorem core_post (s : State) (c : Nat) (e : Instr) : (s.post e).core c = s.core c := rfl
@[simp] theorem part_setSlot (s : State) (p k : Nat) (v : Slot) : (s.setSlot k v).part p = s.part p := rfl
@[simp] theorem part_setMe (s : State) (p : Nat) (v : Slot) : (s.setMe v).part p = s.part p := rfl
@[simp] theorem part_post (s : State) (p : Nat) (e : Instr) : (s.post e).part p = s.part p := rfl

@[simp] theorem cur_setMe (s : State) (v : Slot) : (s.setMe v).cur = s.cur := rfl
@[simp] theorem cur_setMyCore (s : State) (v : Core) : (s.setMyCore v).cur = s.cur := rfl
@[simp] theorem cur_post (s : State) (e : Instr) : (s.post e).cur = s.cur := rfl
@[simp] theorem me_setMe (s : State) (v : Slot) : (s.setMe v).me = v := look_put_same ..
@[simp] theorem me_setMyCore (s : State) (v : Core) : (s.setMyCore v).me = s.me := rfl
@[simp] theorem me_post (s : State) (e : Instr) : (s.post e).me = s.me := rfl
@[simp] theorem me_draw (s : State) : s.draw.me = s.me := rfl
@[simp] theorem myCore_setMe (s : State) (v : Slot) : (s.setMe v).myCore = s.myCore := rfl
@[simp] theorem myCore_setMyCore (s : State) (v : Core) : (s.setMyCore v).myCore = v := look_put_same ..
@[simp] theorem myCore_draw (s : State) : s.draw.myCore = s.myCore := rfl
@[simp] theorem part_draw (s : State) (p : Nat) : s.draw.part p = s.part p := rfl
@[simp] theorem core_draw (s : State) (c : Nat) : s.draw.core c = s.core c := rfl
@[simp] theorem myCore_post (s : State) (e : Instr) : (s.post e).myCore = s.myCore := rfl
theorem slot_setMe_ne (s : State) {k : Nat} (v : Slot) (h : k ≠ s.cur) : (s.setMe v).slot k = s.slot k := look_put_ne _ _ _ h

end Sys2Proof.Machine
end

