-- ==== Sys2Proof/Laws/Cache.lean ====
section
/-! SUPPORT. What the operations of the first-level caches can do: writing a line back changes memory alone, and only the
bytes of its mask; a flush of one cache touches that cache and memory alone. -/

namespace Sys2Proof.Machine

/-! ## Islands -/

@[simp] theorem setIsland_cores (s : State) (i : Nat) (v : Island) : (setIsland s i v).cores = s.cores := rfl
@[simp] theorem setIsland_slots (s : State) (i : Nat) (v : Island) : (setIsland s i v).slots = s.slots := rfl
@[simp] theorem setIsland_parts (s : State) (i : Nat) (v : Island) : (setIsland s i v).parts = s.parts := rfl
@[simp] theorem setIsland_devMem (s : State) (i : Nat) (v : Island) : (setIsland s i v).devMem = s.devMem := rfl
@[simp] theorem setIsland_hostMem (s : State) (i : Nat) (v : Island) : (setIsland s i v).hostMem = s.hostMem := rfl
@[simp] theorem setIsland_agenda (s : State) (i : Nat) (v : Island) : (setIsland s i v).agenda = s.agenda := rfl
@[simp] theorem setIsland_tick (s : State) (i : Nat) (v : Island) : (setIsland s i v).tick = s.tick := rfl
@[simp] theorem islandAt_setIsland_same (s : State) (i : Nat) (v : Island) : islandAt (setIsland s i v) i = v := look_put_same ..
theorem islandAt_setIsland_ne (s : State) {i j : Nat} (v : Island) (h : j ≠ i) : islandAt (setIsland s i v) j = islandAt s j :=
  look_put_ne _ _ _ h

/-! ## Masked writes -/

/-- A masked write keeps the canonical form of memory. -/
theorem wf_writeMasked (bs : List Byte) (m : Memory) (a : Nat) (mask : BitVec 128) (i : Nat) (h : Memory.wf m = true) :
    Memory.wf (writeMasked m a mask i bs) = true := by
  induction bs generalizing m i with
  | nil => exact h
  | cons b bs ih =>
    rw [writeMasked]
    split
    · exact ih _ _ (wf_writeByte _ _ _ h)
    · exact ih _ _ h

/-- A masked write leaves the bytes before and after its own. -/
theorem readByte_writeMasked_out (bs : List Byte) (m : Memory) (a : Nat) (mask : BitVec 128) (i c : Nat)
    (h : c < a + i ∨ a + i + bs.length ≤ c) : readByte (writeMasked m a mask i bs) c = readByte m c := by
  induction bs generalizing m i with
  | nil => rfl
  | cons b bs ih =>
    rw [List.length_cons] at h
    rw [writeMasked, ih _ _ (by omega)]
    split
    · exact readByte_writeByte_ne _ _ (by omega)
    · rfl

/-- A masked write gives the bytes of its mask and leaves the others. -/
theorem readByte_writeMasked_in (bs : List Byte) (m : Memory) (a : Nat) (mask : BitVec 128) (i j : Nat) (hj : j < bs.length) :
    readByte (writeMasked m a mask i bs) (a + (i + j)) =
      if mask.getLsbD (i + j) = true then bs[j] else readByte m (a + (i + j)) := by
  induction bs generalizing m i j with
  | nil => simp at hj
  | cons b bs ih =>
    rw [writeMasked]
    cases j with
    | zero =>
      rw [readByte_writeMasked_out _ _ _ _ _ _ (by omega)]
      by_cases h : mask.getLsbD i = true <;> simp [h]
    | succ j =>
      have e : i + (j + 1) = i + 1 + j := by omega
      rw [List.length_cons] at hj
      rw [e, ih _ _ _ (by omega)]
      by_cases h : mask.getLsbD (i + 1 + j) = true
      · simp [h]
      · simp only [h, Bool.false_eq_true, if_false]
        split
        · exact readByte_writeByte_ne _ _ (by omega)
        · rfl

/-! ## Writing back and flushing -/

/-- Two states that differ in memory and the copies of its lines at most. -/
def OnlyWritten (s t : State) : Prop := ∃ m r, t = { s with devMem := m, rdc := r }

theorem onlyWritten_refl (s : State) : OnlyWritten s s := ⟨s.devMem, s.rdc, rfl⟩

theorem onlyWritten_trans {s t u : State} (h : OnlyWritten s t) (g : OnlyWritten t u) : OnlyWritten s u := by
  obtain ⟨m, r, rfl⟩ := h
  obtain ⟨m', r', rfl⟩ := g
  exact ⟨m', r', rfl⟩

/-- A line written back changes memory alone. -/
theorem writeBack_only (s : State) (x : L1Line) : OnlyWritten s (writeBack s x) := by
  unfold writeBack
  split
  · split
    · exact onlyWritten_refl s
    · exact ⟨_, _, rfl⟩
  · exact onlyWritten_refl s

theorem writeBackAll_only (es : List (Nat × L1Line)) (s : State) : OnlyWritten s (writeBackAll s es) := by
  induction es generalizing s with
  | nil => exact onlyWritten_refl s
  | cons e es ih => exact onlyWritten_trans (writeBack_only s e.2) (ih _)

/-- Writing back keeps the canonical form of memory. -/
theorem wf_writeBack (s : State) (x : L1Line) (h : Memory.wf s.devMem = true) : Memory.wf (writeBack s x).devMem = true := by
  unfold writeBack
  split
  · split
    · exact h
    · exact wf_writeMasked _ _ _ _ _ h
  · exact h

theorem wf_writeBackAll (es : List (Nat × L1Line)) (s : State) (h : Memory.wf s.devMem = true) :
    Memory.wf (writeBackAll s es).devMem = true := by
  induction es generalizing s with
  | nil => exact h
  | cons e es ih => exact ih _ (wf_writeBack _ _ h)

/-- All that a flush of one cache can do: nothing, or the lines that pass are gone from that cache and memory alone has
changed besides. -/
theorem flushLines_cases (s : State) (c : Nat) (sel : Nat → Bool) :
    flushLines s c sel = s ∨
    OnlyWritten (s.setCore c { s.core c with l1 := (s.core c).l1.filter fun e => !sel e.1 }) (flushLines s c sel) := by
  unfold flushLines
  split
  · exact .inl rfl
  · exact .inr (writeBackAll_only _ _)

/-- A flush of a cache without lines changes nothing. -/
theorem flushLines_empty {s : State} {c : Nat} (sel : Nat → Bool) (h : (s.core c).l1 = []) : flushLines s c sel = s := by
  simp [flushLines, h]

theorem flushLines_slots (s : State) (c : Nat) (sel : Nat → Bool) : (flushLines s c sel).slots = s.slots := by
  rcases flushLines_cases s c sel with h | ⟨m, r, h⟩
  · rw [h]
  · rw [h]; rfl

theorem flushLines_parts (s : State) (c : Nat) (sel : Nat → Bool) : (flushLines s c sel).parts = s.parts := by
  rcases flushLines_cases s c sel with h | ⟨m, r, h⟩
  · rw [h]
  · rw [h]; rfl

theorem flushLines_core_ne (s : State) {c d : Nat} (sel : Nat → Bool) (h : d ≠ c) : (flushLines s c sel).core d = s.core d := by
  rcases flushLines_cases s c sel with e | ⟨m, r, e⟩ <;> rw [e]
  exact core_setCore_ne s _ h

theorem wf_flushLines (s : State) (c : Nat) (sel : Nat → Bool) (h : Memory.wf s.devMem = true) :
    Memory.wf (flushLines s c sel).devMem = true := by
  unfold flushLines
  split
  · exact h
  · exact wf_writeBackAll _ _ h

end Sys2Proof.Machine
end

