-- ==== Sys2Proof/Laws/Dispatch.lean ====
section
/-! SUPPORT. What the dispatcher calls for each constructor, one lemma each, so that no proof unfolds it. -/

namespace Sys2Proof.Machine

set_option Elab.async false

@[simp] theorem exec_divisionComplete (core : Nat) (s : State) :
    exec (.divisionComplete core) s = execDivisionComplete core s := rfl
@[simp] theorem exec_sleepEnd (core : Nat) (slot : Nat) (s : State) :
    exec (.sleepEnd core slot) s = execSleepEnd core slot s := rfl
@[simp] theorem exec_reclassifyComplete (job : Nat) (s : State) :
    exec (.reclassifyComplete job) s = execReclassifyComplete job s := rfl
@[simp] theorem exec_migrationDeparture (core : Nat) (slot : Nat) (s : State) :
    exec (.migrationDeparture core slot) s = execMigrationDeparture core slot s := rfl
@[simp] theorem exec_landing (msg : Nat) (s : State) :
    exec (.landing msg) s = execLanding msg s := rfl
@[simp] theorem exec_landingFromPlace (core : Nat) (s : State) :
    exec (.landingFromPlace core) s = execLandingFromPlace core s := rfl
@[simp] theorem exec_migrationRefused (msg : Nat) (s : State) :
    exec (.migrationRefused msg) s = execMigrationRefused msg s := rfl
@[simp] theorem exec_bankAccessArrive (msg : Nat) (s : State) :
    exec (.bankAccessArrive msg) s = execBankAccessArrive msg s := rfl
@[simp] theorem exec_accessComplete (core : Nat) (slot : Nat) (s : State) :
    exec (.accessComplete core slot) s = execAccessComplete core slot s := rfl
@[simp] theorem exec_variableResultArrival (core : Nat) (slot : Nat) (id : Nat) (s : State) :
    exec (.variableResultArrival core slot id) s = execVariableResultArrival core slot id s := rfl
@[simp] theorem exec_streamDetectorTimeout (slice : Nat) (port : Nat) (s : State) :
    exec (.streamDetectorTimeout slice port) s = execStreamDetectorTimeout slice port s := rfl
@[simp] theorem exec_homeProbeTimeout (core : Nat) (slot : Nat) (probed : Nat) (s : State) :
    exec (.homeProbeTimeout core slot probed) s = execHomeProbeTimeout core slot probed s := rfl
@[simp] theorem exec_leaseHeld (core : Nat) (slot : Nat) (s : State) :
    exec (.leaseHeld core slot) s = execLeaseHeld core slot s := rfl
@[simp] theorem exec_leaseExpired (core : Nat) (slot : Nat) (s : State) :
    exec (.leaseExpired core slot) s = execLeaseExpired core slot s := rfl
@[simp] theorem exec_barrierOpArrive (msg : Nat) (s : State) :
    exec (.barrierOpArrive msg) s = execBarrierOpArrive msg s := rfl
@[simp] theorem exec_msgDeliver (msg : Nat) (s : State) :
    exec (.msgDeliver msg) s = execMsgDeliver msg s := rfl
@[simp] theorem exec_subscriptionUpdate (msg : Nat) (s : State) :
    exec (.subscriptionUpdate msg) s = execSubscriptionUpdate msg s := rfl
@[simp] theorem exec_initialCopy (core : Nat) (seg : Nat) (s : State) :
    exec (.initialCopy core seg) s = execInitialCopy core seg s := rfl
@[simp] theorem exec_intransitDone (core : Nat) (seg : Nat) (s : State) :
    exec (.intransitDone core seg) s = execIntransitDone core seg s := rfl
@[simp] theorem exec_streamChunkArrive (core : Nat) (slot : Nat) (k : Nat) (s : State) :
    exec (.streamChunkArrive core slot k) s = execStreamChunkArrive core slot k s := rfl
@[simp] theorem exec_topkChunk (core : Nat) (slot : Nat) (s : State) :
    exec (.topkChunk core slot) s = execTopkChunk core slot s := rfl
@[simp] theorem exec_osFillComplete (core : Nat) (os : Nat) (s : State) :
    exec (.osFillComplete core os) s = execOsFillComplete core os s := rfl
@[simp] theorem exec_matrixStart (core : Nat) (s : State) :
    exec (.matrixStart core) s = execMatrixStart core s := rfl
@[simp] theorem exec_matrixRetire (core : Nat) (s : State) :
    exec (.matrixRetire core) s = execMatrixRetire core s := rfl
@[simp] theorem exec_mrotShipmentLand (msg : Nat) (s : State) :
    exec (.mrotShipmentLand msg) s = execMrotShipmentLand msg s := rfl
@[simp] theorem exec_drainChunk (core : Nat) (s : State) :
    exec (.drainChunk core) s = execDrainChunk core s := rfl
@[simp] theorem exec_copyAccept (core : Nat) (s : State) :
    exec (.copyAccept core) s = execCopyAccept core s := rfl
@[simp] theorem exec_copyComplete (job : Nat) (s : State) :
    exec (.copyComplete job) s = execCopyComplete job s := rfl
@[simp] theorem exec_promiseMissed (core : Nat) (slot : Nat) (job : Nat) (s : State) :
    exec (.promiseMissed core slot job) s = execPromiseMissed core slot job s := rfl
@[simp] theorem exec_kneadUnit (conv : Nat) (s : State) :
    exec (.kneadUnit conv) s = execKneadUnit conv s := rfl
@[simp] theorem exec_kneadFault (conv : Nat) (page : Nat) (s : State) :
    exec (.kneadFault conv page) s = execKneadFault conv page s := rfl
@[simp] theorem exec_kneadHardwareError (conv : Nat) (s : State) :
    exec (.kneadHardwareError conv) s = execKneadHardwareError conv s := rfl
@[simp] theorem exec_spawnArrive (msg : Nat) (s : State) :
    exec (.spawnArrive msg) s = execSpawnArrive msg s := rfl
@[simp] theorem exec_spillEngineDone (core : Nat) (s : State) :
    exec (.spillEngineDone core) s = execSpillEngineDone core s := rfl
@[simp] theorem exec_coreUnpark (d : Reg) (a : Reg) (s : State) :
    exec (.coreUnpark d a) s = execCoreUnpark d a s := rfl
@[simp] theorem exec_wfeDeadline (core : Nat) (slot : Nat) (s : State) :
    exec (.wfeDeadline core slot) s = execWfeDeadline core slot s := rfl
@[simp] theorem exec_waitLimit (core : Nat) (slot : Nat) (s : State) :
    exec (.waitLimit core slot) s = execWaitLimit core slot s := rfl
@[simp] theorem exec_timer (core : Nat) (slot : Nat) (s : State) :
    exec (.timer core slot) s = execTimer core slot s := rfl
@[simp] theorem exec_coreEvent (core : Nat) (s : State) :
    exec (.coreEvent core) s = execCoreEvent core s := rfl
@[simp] theorem exec_pickUp (core : Nat) (slot : Nat) (s : State) :
    exec (.pickUp core slot) s = execPickUp core slot s := rfl
@[simp] theorem exec_loadLevel (core : Nat) (s : State) :
    exec (.loadLevel core) s = execLoadLevel core s := rfl
@[simp] theorem exec_shipArrive (msg : Nat) (s : State) :
    exec (.shipArrive msg) s = execShipArrive msg s := rfl
@[simp] theorem exec_shipAnswer (msg : Nat) (s : State) :
    exec (.shipAnswer msg) s = execShipAnswer msg s := rfl
@[simp] theorem exec_watchedLineWrite (part : Nat) (queue : Nat) (s : State) :
    exec (.watchedLineWrite part queue) s = execWatchedLineWrite part queue s := rfl
@[simp] theorem exec_queueEnable (part : Nat) (queue : Nat) (s : State) :
    exec (.queueEnable part queue) s = execQueueEnable part queue s := rfl
@[simp] theorem exec_pick (part : Nat) (s : State) :
    exec (.pick part) s = execPick part s := rfl
@[simp] theorem exec_reconNumbering (tx : Nat) (s : State) :
    exec (.reconNumbering tx) s = execReconNumbering tx s := rfl
@[simp] theorem exec_roundCloseWindow (part : Nat) (s : State) :
    exec (.roundCloseWindow part) s = execRoundCloseWindow part s := rfl
@[simp] theorem exec_roundCloseIdle (part : Nat) (s : State) :
    exec (.roundCloseIdle part) s = execRoundCloseIdle part s := rfl
@[simp] theorem exec_podCloseMarkerSend (part : Nat) (s : State) :
    exec (.podCloseMarkerSend part) s = execPodCloseMarkerSend part s := rfl
@[simp] theorem exec_closeMarker (part : Nat) (mgr : Nat) (dev : Nat) (round : Nat) (s : State) :
    exec (.closeMarker part mgr dev round) s = execCloseMarker part mgr dev round s := rfl
@[simp] theorem exec_lockRequest (msg : Nat) (s : State) :
    exec (.lockRequest msg) s = execLockRequest msg s := rfl
@[simp] theorem exec_setTileTranslationDone (tx : Nat) (tile : Nat) (fault : Bool) (s : State) :
    exec (.setTileTranslationDone tx tile fault) s = execSetTileTranslationDone tx tile fault s := rfl
@[simp] theorem exec_lockRelease (msg : Nat) (s : State) :
    exec (.lockRelease msg) s = execLockRelease msg s := rfl
@[simp] theorem exec_pushLanded (msg : Nat) (s : State) :
    exec (.pushLanded msg) s = execPushLanded msg s := rfl
@[simp] theorem exec_dispatch (tx : Nat) (s : State) :
    exec (.dispatch tx) s = execDispatch tx s := rfl
@[simp] theorem exec_transactionRetire (tx : Nat) (s : State) :
    exec (.transactionRetire tx) s = execTransactionRetire tx s := rfl
@[simp] theorem exec_txHardwareError (tx : Nat) (core : Nat) (s : State) :
    exec (.txHardwareError tx core) s = execTxHardwareError tx core s := rfl
@[simp] theorem exec_detReplace (tx : Nat) (s : State) :
    exec (.detReplace tx) s = execDetReplace tx s := rfl
@[simp] theorem exec_detReservationComplete (tx : Nat) (s : State) :
    exec (.detReservationComplete tx) s = execDetReservationComplete tx s := rfl
@[simp] theorem exec_headPin (part : Nat) (queue : Nat) (s : State) :
    exec (.headPin part queue) s = execHeadPin part queue s := rfl
@[simp] theorem exec_atsResponse (req : Nat) (ans : AtsAnswer) (s : State) :
    exec (.atsResponse req ans) s = execAtsResponse req ans s := rfl
@[simp] theorem exec_atsTimeout (req : Nat) (s : State) :
    exec (.atsTimeout req) s = execAtsTimeout req s := rfl
@[simp] theorem exec_prgResponseSuccess (req : Nat) (s : State) :
    exec (.prgResponseSuccess req) s = execPrgResponseSuccess req s := rfl
@[simp] theorem exec_prgResponseFailure (req : Nat) (invalid : Bool) (s : State) :
    exec (.prgResponseFailure req invalid) s = execPrgResponseFailure req invalid s := rfl
@[simp] theorem exec_pageRequestTimeout (req : Nat) (s : State) :
    exec (.pageRequestTimeout req) s = execPageRequestTimeout req s := rfl
@[simp] theorem exec_replay (core : Nat) (s : State) :
    exec (.replay core) s = execReplay core s := rfl
@[simp] theorem exec_atsInvalidate (pasid : Nat) (va : Nat) (len : Nat) (s : State) :
    exec (.atsInvalidate pasid va len) s = execAtsInvalidate pasid va len s := rfl
@[simp] theorem exec_hostSnoop (addr : Nat) (kind : SnoopKind) (s : State) :
    exec (.hostSnoop addr kind) s = execHostSnoop addr kind s := rfl
@[simp] theorem exec_hostDeviceAccess (addr : Nat) (data : HostData) (s : State) :
    exec (.hostDeviceAccess addr data) s = execHostDeviceAccess addr data s := rfl
@[simp] theorem exec_stenteFlitReceive (flit : Flit) (s : State) :
    exec (.stenteFlitReceive flit) s = execStenteFlitReceive flit s := rfl
@[simp] theorem exec_planeDown (dev : Nat) (plane : Nat) (s : State) :
    exec (.planeDown dev plane) s = execPlaneDown dev plane s := rfl
@[simp] theorem exec_linkTimeout (core : Nat) (slot : Nat) (s : State) :
    exec (.linkTimeout core slot) s = execLinkTimeout core slot s := rfl
@[simp] theorem exec_timeSyncSend (s : State) :
    exec (.timeSyncSend) s = execTimeSyncSend s := rfl
@[simp] theorem exec_membershipChange (change : Membership) (s : State) :
    exec (.membershipChange change) s = execMembershipChange change s := rfl
@[simp] theorem exec_powerOnReset (s : State) :
    exec (.powerOnReset) s = execPowerOnReset s := rfl
@[simp] theorem exec_fundamentalReset (s : State) :
    exec (.fundamentalReset) s = execFundamentalReset s := rfl
@[simp] theorem exec_functionLevelReset (part : Nat) (s : State) :
    exec (.functionLevelReset part) s = execFunctionLevelReset part s := rfl
@[simp] theorem exec_partSet (part : Nat) (rec : PartRecord) (s : State) :
    exec (.partSet part rec) s = execPartSet part rec s := rfl
@[simp] theorem exec_partClear (part : Nat) (s : State) :
    exec (.partClear part) s = execPartClear part s := rfl
@[simp] theorem exec_ivfSet (island : Nat) (freq : Nat) (s : State) :
    exec (.ivfSet island freq) s = execIvfSet island freq s := rfl
@[simp] theorem exec_capSet (watts : Nat) (s : State) :
    exec (.capSet watts) s = execCapSet watts s := rfl
@[simp] theorem exec_powerCapCheck (s : State) :
    exec (.powerCapCheck) s = execPowerCapCheck s := rfl
@[simp] theorem exec_thermalTrip (island : Nat) (s : State) :
    exec (.thermalTrip island) s = execThermalTrip island s := rfl
@[simp] theorem exec_thermalRecover (island : Nat) (s : State) :
    exec (.thermalRecover island) s = execThermalRecover island s := rfl
@[simp] theorem exec_softError (unit : HwUnit) (s : State) :
    exec (.softError unit) s = execSoftError unit s := rfl
@[simp] theorem exec_uncorrectableError (unit : HwUnit) (s : State) :
    exec (.uncorrectableError unit) s = execUncorrectableError unit s := rfl
@[simp] theorem exec_retire (unit : HwUnit) (s : State) :
    exec (.retire unit) s = execRetire unit s := rfl
@[simp] theorem exec_fwStage (image : FwImage) (s : State) :
    exec (.fwStage image) s = execFwStage image s := rfl
@[simp] theorem exec_fwActivate (s : State) :
    exec (.fwActivate) s = execFwActivate s := rfl
@[simp] theorem exec_fwActivateTimeout (s : State) :
    exec (.fwActivateTimeout) s = execFwActivateTimeout s := rfl
@[simp] theorem exec_fwCommit (s : State) :
    exec (.fwCommit) s = execFwCommit s := rfl
@[simp] theorem exec_attest (nonce : Nat) (s : State) :
    exec (.attest nonce) s = execAttest nonce s := rfl
@[simp] theorem exec_journalClear (s : State) :
    exec (.journalClear) s = execJournalClear s := rfl
@[simp] theorem exec_bringup (s : State) :
    exec (.bringup) s = execBringup s := rfl
@[simp] theorem exec_bringupStepTimeout (step : Nat) (s : State) :
    exec (.bringupStepTimeout step) s = execBringupStepTimeout step s := rfl
@[simp] theorem exec_relaxedAccessComplete (core : Nat) (slot : Nat) (id : Nat) (s : State) :
    exec (.relaxedAccessComplete core slot id) s = execRelaxedAccessComplete core slot id s := rfl
@[simp] theorem exec_instructionLineArrival (core : Nat) (slot : Nat) (s : State) :
    exec (.instructionLineArrival core slot) s = execInstructionLineArrival core slot s := rfl
@[simp] theorem exec_copyEngineHardwareError (core : Nat) (s : State) :
    exec (.copyEngineHardwareError core) s = execCopyEngineHardwareError core s := rfl
@[simp] theorem exec_stentePlaneUp (dev : Nat) (plane : Nat) (s : State) :
    exec (.stentePlaneUp dev plane) s = execStentePlaneUp dev plane s := rfl
@[simp] theorem exec_bringupStepDone (step : Nat) (ok : Bool) (s : State) :
    exec (.bringupStepDone step ok) s = execBringupStepDone step ok s := rfl
@[simp] theorem exec_starterReady (s : State) :
    exec (.starterReady) s = execStarterReady s := rfl
@[simp] theorem exec_yield (s : State) :
    exec (.yield) s = execYield s := rfl
@[simp] theorem exec_add (d : Reg) (a : Reg) (b : Reg) (s : State) :
    exec (.add d a b) s = execAdd d a b s := rfl
@[simp] theorem exec_sub (d : Reg) (a : Reg) (b : Reg) (s : State) :
    exec (.sub d a b) s = execSub d a b s := rfl
@[simp] theorem exec_and (d : Reg) (a : Reg) (b : Reg) (s : State) :
    exec (.and d a b) s = execAnd d a b s := rfl
@[simp] theorem exec_or (d : Reg) (a : Reg) (b : Reg) (s : State) :
    exec (.or d a b) s = execOr d a b s := rfl
@[simp] theorem exec_xor (d : Reg) (a : Reg) (b : Reg) (s : State) :
    exec (.xor d a b) s = execXor d a b s := rfl
@[simp] theorem exec_sll (d : Reg) (a : Reg) (b : Reg) (s : State) :
    exec (.sll d a b) s = execSll d a b s := rfl
@[simp] theorem exec_srl (d : Reg) (a : Reg) (b : Reg) (s : State) :
    exec (.srl d a b) s = execSrl d a b s := rfl
@[simp] theorem exec_sra (d : Reg) (a : Reg) (b : Reg) (s : State) :
    exec (.sra d a b) s = execSra d a b s := rfl
@[simp] theorem exec_min (d : Reg) (a : Reg) (b : Reg) (s : State) :
    exec (.min d a b) s = execMin d a b s := rfl
@[simp] theorem exec_max (d : Reg) (a : Reg) (b : Reg) (s : State) :
    exec (.max d a b) s = execMax d a b s := rfl
@[simp] theorem exec_minZ (d : Reg) (a : Reg) (b : Reg) (s : State) :
    exec (.minZ d a b) s = execMinZ d a b s := rfl
@[simp] theorem exec_maxZ (d : Reg) (a : Reg) (b : Reg) (s : State) :
    exec (.maxZ d a b) s = execMaxZ d a b s := rfl
@[simp] theorem exec_addImm16 (d : Reg) (a : Reg) (imm : BitVec 16) (s : State) :
    exec (.addImm16 d a imm) s = execAddImm16 d a imm s := rfl
@[simp] theorem exec_subImm16 (d : Reg) (a : Reg) (imm : BitVec 16) (s : State) :
    exec (.subImm16 d a imm) s = execSubImm16 d a imm s := rfl
@[simp] theorem exec_andImm16 (d : Reg) (a : Reg) (imm : BitVec 16) (s : State) :
    exec (.andImm16 d a imm) s = execAndImm16 d a imm s := rfl
@[simp] theorem exec_orImm16 (d : Reg) (a : Reg) (imm : BitVec 16) (s : State) :
    exec (.orImm16 d a imm) s = execOrImm16 d a imm s := rfl
@[simp] theorem exec_xorImm16 (d : Reg) (a : Reg) (imm : BitVec 16) (s : State) :
    exec (.xorImm16 d a imm) s = execXorImm16 d a imm s := rfl
@[simp] theorem exec_sllImm16 (d : Reg) (a : Reg) (sh : BitVec 6) (s : State) :
    exec (.sllImm16 d a sh) s = execSllImm16 d a sh s := rfl
@[simp] theorem exec_srlImm16 (d : Reg) (a : Reg) (sh : BitVec 6) (s : State) :
    exec (.srlImm16 d a sh) s = execSrlImm16 d a sh s := rfl
@[simp] theorem exec_sraImm16 (d : Reg) (a : Reg) (sh : BitVec 6) (s : State) :
    exec (.sraImm16 d a sh) s = execSraImm16 d a sh s := rfl
@[simp] theorem exec_minImm16 (d : Reg) (a : Reg) (imm : BitVec 16) (s : State) :
    exec (.minImm16 d a imm) s = execMinImm16 d a imm s := rfl
@[simp] theorem exec_maxImm16 (d : Reg) (a : Reg) (imm : BitVec 16) (s : State) :
    exec (.maxImm16 d a imm) s = execMaxImm16 d a imm s := rfl
@[simp] theorem exec_minZImm16 (d : Reg) (a : Reg) (imm : BitVec 16) (s : State) :
    exec (.minZImm16 d a imm) s = execMinZImm16 d a imm s := rfl
@[simp] theorem exec_maxZImm16 (d : Reg) (a : Reg) (imm : BitVec 16) (s : State) :
    exec (.maxZImm16 d a imm) s = execMaxZImm16 d a imm s := rfl
@[simp] theorem exec_addImm32 (d : Reg) (a : Reg) (imm : BitVec 32) (s : State) :
    exec (.addImm32 d a imm) s = execAddImm32 d a imm s := rfl
@[simp] theorem exec_subImm32 (d : Reg) (a : Reg) (imm : BitVec 32) (s : State) :
    exec (.subImm32 d a imm) s = execSubImm32 d a imm s := rfl
@[simp] theorem exec_andImm32 (d : Reg) (a : Reg) (imm : BitVec 32) (s : State) :
    exec (.andImm32 d a imm) s = execAndImm32 d a imm s := rfl
@[simp] theorem exec_orImm32 (d : Reg) (a : Reg) (imm : BitVec 32) (s : State) :
    exec (.orImm32 d a imm) s = execOrImm32 d a imm s := rfl
@[simp] theorem exec_xorImm32 (d : Reg) (a : Reg) (imm : BitVec 32) (s : State) :
    exec (.xorImm32 d a imm) s = execXorImm32 d a imm s := rfl
@[simp] theorem exec_minImm32 (d : Reg) (a : Reg) (imm : BitVec 32) (s : State) :
    exec (.minImm32 d a imm) s = execMinImm32 d a imm s := rfl
@[simp] theorem exec_maxImm32 (d : Reg) (a : Reg) (imm : BitVec 32) (s : State) :
    exec (.maxImm32 d a imm) s = execMaxImm32 d a imm s := rfl
@[simp] theorem exec_minZImm32 (d : Reg) (a : Reg) (imm : BitVec 32) (s : State) :
    exec (.minZImm32 d a imm) s = execMinZImm32 d a imm s := rfl
@[simp] theorem exec_maxZImm32 (d : Reg) (a : Reg) (imm : BitVec 32) (s : State) :
    exec (.maxZImm32 d a imm) s = execMaxZImm32 d a imm s := rfl
@[simp] theorem exec_liImm16 (d : Reg) (imm : BitVec 16) (s : State) :
    exec (.liImm16 d imm) s = execLiImm16 d imm s := rfl
@[simp] theorem exec_liImm32 (d : Reg) (imm : BitVec 32) (s : State) :
    exec (.liImm32 d imm) s = execLiImm32 d imm s := rfl
@[simp] theorem exec_liHigh (d : Reg) (a : Reg) (imm : BitVec 32) (s : State) :
    exec (.liHigh d a imm) s = execLiHigh d a imm s := rfl
@[simp] theorem exec_mul (d : Reg) (a : Reg) (b : Reg) (s : State) :
    exec (.mul d a b) s = execMul d a b s := rfl
@[simp] theorem exec_mulh (d : Reg) (a : Reg) (b : Reg) (s : State) :
    exec (.mulh d a b) s = execMulh d a b s := rfl
@[simp] theorem exec_mulhZ (d : Reg) (a : Reg) (b : Reg) (s : State) :
    exec (.mulhZ d a b) s = execMulhZ d a b s := rfl
@[simp] theorem exec_div (d : Reg) (a : Reg) (b : Reg) (s : State) :
    exec (.div d a b) s = execDiv d a b s := rfl
@[simp] theorem exec_divZ (d : Reg) (a : Reg) (b : Reg) (s : State) :
    exec (.divZ d a b) s = execDivZ d a b s := rfl
@[simp] theorem exec_rem (d : Reg) (a : Reg) (b : Reg) (s : State) :
    exec (.rem d a b) s = execRem d a b s := rfl
@[simp] theorem exec_remZ (d : Reg) (a : Reg) (b : Reg) (s : State) :
    exec (.remZ d a b) s = execRemZ d a b s := rfl
@[simp] theorem exec_setEq (d : Reg) (a : Reg) (b : Reg) (s : State) :
    exec (.setEq d a b) s = execSetEq d a b s := rfl
@[simp] theorem exec_setNe (d : Reg) (a : Reg) (b : Reg) (s : State) :
    exec (.setNe d a b) s = execSetNe d a b s := rfl
@[simp] theorem exec_setLt (d : Reg) (a : Reg) (b : Reg) (s : State) :
    exec (.setLt d a b) s = execSetLt d a b s := rfl
@[simp] theorem exec_setGe (d : Reg) (a : Reg) (b : Reg) (s : State) :
    exec (.setGe d a b) s = execSetGe d a b s := rfl
@[simp] theorem exec_setLtZ (d : Reg) (a : Reg) (b : Reg) (s : State) :
    exec (.setLtZ d a b) s = execSetLtZ d a b s := rfl
@[simp] theorem exec_setGeZ (d : Reg) (a : Reg) (b : Reg) (s : State) :
    exec (.setGeZ d a b) s = execSetGeZ d a b s := rfl
@[simp] theorem exec_setEqImm (d : Reg) (a : Reg) (imm : BitVec 16) (s : State) :
    exec (.setEqImm d a imm) s = execSetEqImm d a imm s := rfl
@[simp] theorem exec_setNeImm (d : Reg) (a : Reg) (imm : BitVec 16) (s : State) :
    exec (.setNeImm d a imm) s = execSetNeImm d a imm s := rfl
@[simp] theorem exec_setLtImm (d : Reg) (a : Reg) (imm : BitVec 16) (s : State) :
    exec (.setLtImm d a imm) s = execSetLtImm d a imm s := rfl
@[simp] theorem exec_setGeImm (d : Reg) (a : Reg) (imm : BitVec 16) (s : State) :
    exec (.setGeImm d a imm) s = execSetGeImm d a imm s := rfl
@[simp] theorem exec_setLtZImm (d : Reg) (a : Reg) (imm : BitVec 16) (s : State) :
    exec (.setLtZImm d a imm) s = execSetLtZImm d a imm s := rfl
@[simp] theorem exec_setGeZImm (d : Reg) (a : Reg) (imm : BitVec 16) (s : State) :
    exec (.setGeZImm d a imm) s = execSetGeZImm d a imm s := rfl
@[simp] theorem exec_sel (d : Reg) (a : Reg) (b : Reg) (s : State) :
    exec (.sel d a b) s = execSel d a b s := rfl
@[simp] theorem exec_clz (d : Reg) (a : Reg) (s : State) :
    exec (.clz d a) s = execClz d a s := rfl
@[simp] theorem exec_ctz (d : Reg) (a : Reg) (s : State) :
    exec (.ctz d a) s = execCtz d a s := rfl
@[simp] theorem exec_pcnt (d : Reg) (a : Reg) (s : State) :
    exec (.pcnt d a) s = execPcnt d a s := rfl
@[simp] theorem exec_shadd (d : Reg) (a : Reg) (b : Reg) (sh : BitVec 3) (s : State) :
    exec (.shadd d a b sh) s = execShadd d a b sh s := rfl
@[simp] theorem exec_lea2d (d : Reg) (a : Reg) (b : Reg) (esz : BitVec 2) (p : BitVec 3) (pitch : BitVec 16) (s : State) :
    exec (.lea2d d a b esz p pitch) s = execLea2d d a b esz p pitch s := rfl
@[simp] theorem exec_beq (a : Reg) (b : Reg) (off : BitVec 16) (s : State) :
    exec (.beq a b off) s = execBeq a b off s := rfl
@[simp] theorem exec_bne (a : Reg) (b : Reg) (off : BitVec 16) (s : State) :
    exec (.bne a b off) s = execBne a b off s := rfl
@[simp] theorem exec_blt (a : Reg) (b : Reg) (off : BitVec 16) (s : State) :
    exec (.blt a b off) s = execBlt a b off s := rfl
@[simp] theorem exec_bge (a : Reg) (b : Reg) (off : BitVec 16) (s : State) :
    exec (.bge a b off) s = execBge a b off s := rfl
@[simp] theorem exec_bltZ (a : Reg) (b : Reg) (off : BitVec 16) (s : State) :
    exec (.bltZ a b off) s = execBltZ a b off s := rfl
@[simp] theorem exec_bgeZ (a : Reg) (b : Reg) (off : BitVec 16) (s : State) :
    exec (.bgeZ a b off) s = execBgeZ a b off s := rfl
@[simp] theorem exec_beqL (a : Reg) (b : Reg) (off : BitVec 32) (s : State) :
    exec (.beqL a b off) s = execBeqL a b off s := rfl
@[simp] theorem exec_bneL (a : Reg) (b : Reg) (off : BitVec 32) (s : State) :
    exec (.bneL a b off) s = execBneL a b off s := rfl
@[simp] theorem exec_bltL (a : Reg) (b : Reg) (off : BitVec 32) (s : State) :
    exec (.bltL a b off) s = execBltL a b off s := rfl
@[simp] theorem exec_bgeL (a : Reg) (b : Reg) (off : BitVec 32) (s : State) :
    exec (.bgeL a b off) s = execBgeL a b off s := rfl
@[simp] theorem exec_bltZL (a : Reg) (b : Reg) (off : BitVec 32) (s : State) :
    exec (.bltZL a b off) s = execBltZL a b off s := rfl
@[simp] theorem exec_bgeZL (a : Reg) (b : Reg) (off : BitVec 32) (s : State) :
    exec (.bgeZL a b off) s = execBgeZL a b off s := rfl
@[simp] theorem exec_j (off : BitVec 16) (s : State) :
    exec (.j off) s = execJ off s := rfl
@[simp] theorem exec_jL (off : BitVec 32) (s : State) :
    exec (.jL off) s = execJL off s := rfl
@[simp] theorem exec_jal (d : Reg) (off : BitVec 16) (s : State) :
    exec (.jal d off) s = execJal d off s := rfl
@[simp] theorem exec_jalL (d : Reg) (off : BitVec 32) (s : State) :
    exec (.jalL d off) s = execJalL d off s := rfl
@[simp] theorem exec_jr (d : Reg) (a : Reg) (s : State) :
    exec (.jr d a) s = execJr d a s := rfl
@[simp] theorem exec_ret (s : State) :
    exec (.ret) s = execRet s := rfl
@[simp] theorem exec_csrr (d : Reg) (csr : BitVec 12) (s : State) :
    exec (.csrr d csr) s = execCsrr d csr s := rfl
@[simp] theorem exec_csrw (a : Reg) (csr : BitVec 12) (s : State) :
    exec (.csrw a csr) s = execCsrw a csr s := rfl
@[simp] theorem exec_csrs (a : Reg) (csr : BitVec 12) (s : State) :
    exec (.csrs a csr) s = execCsrs a csr s := rfl
@[simp] theorem exec_csrc (a : Reg) (csr : BitVec 12) (s : State) :
    exec (.csrc a csr) s = execCsrc a csr s := rfl
@[simp] theorem exec_fflagsAccess (op : CsrOp) (x : Reg) (s : State) :
    exec (.fflagsAccess op x) s = execFflagsAccess op x s := rfl
@[simp] theorem exec_qenWrite (a : Reg) (s : State) :
    exec (.qenWrite a) s = execQenWrite a s := rfl
@[simp] theorem exec_senWrite (a : Reg) (s : State) :
    exec (.senWrite a) s = execSenWrite a s := rfl
@[simp] theorem exec_vtabWrite (a : Reg) (k : BitVec 3) (s : State) :
    exec (.vtabWrite a k) s = execVtabWrite a k s := rfl
@[simp] theorem exec_slqdWrite (a : Reg) (s : State) :
    exec (.slqdWrite a) s = execSlqdWrite a s := rfl
@[simp] theorem exec_spasidWrite (a : Reg) (s : State) :
    exec (.spasidWrite a) s = execSpasidWrite a s := rfl
@[simp] theorem exec_shwinWrite (a : Reg) (s : State) :
    exec (.shwinWrite a) s = execShwinWrite a s := rfl
@[simp] theorem exec_spodwWrite (a : Reg) (s : State) :
    exec (.spodwWrite a) s = execSpodwWrite a s := rfl
@[simp] theorem exec_smsgWrite (a : Reg) (s : State) :
    exec (.smsgWrite a) s = execSmsgWrite a s := rfl
@[simp] theorem exec_sdovfWrite (a : Reg) (s : State) :
    exec (.sdovfWrite a) s = execSdovfWrite a s := rfl
@[simp] theorem exec_sevstWrite (a : Reg) (s : State) :
    exec (.sevstWrite a) s = execSevstWrite a s := rfl
@[simp] theorem exec_mpartWrite (a : Reg) (s : State) :
    exec (.mpartWrite a) s = execMpartWrite a s := rfl
@[simp] theorem exec_rdtb (d : Reg) (s : State) :
    exec (.rdtb d) s = execRdtb d s := rfl
@[simp] theorem exec_sleep (a : Reg) (s : State) :
    exec (.sleep a) s = execSleep a s := rfl
@[simp] theorem exec_sleepImm (imm : BitVec 16) (s : State) :
    exec (.sleepImm imm) s = execSleepImm imm s := rfl
@[simp] theorem exec_slpUntil (a : Reg) (s : State) :
    exec (.slpUntil a) s = execSlpUntil a s := rfl
@[simp] theorem exec_ldg (d : Reg) (a : Reg) (f : LdFn) (rx : Bool) (off : BitVec 16) (s : State) :
    exec (.ldg d a f rx off) s = execLdg d a f rx off s := rfl
@[simp] theorem exec_ldgL (d : Reg) (a : Reg) (f : LdFn) (rx : Bool) (off : BitVec 32) (s : State) :
    exec (.ldgL d a f rx off) s = execLdgL d a f rx off s := rfl
@[simp] theorem exec_pf (a : Reg) (off : BitVec 16) (s : State) :
    exec (.pf a off) s = execPf a off s := rfl
@[simp] theorem exec_pfL (a : Reg) (off : BitVec 32) (s : State) :
    exec (.pfL a off) s = execPfL a off s := rfl
@[simp] theorem exec_stg (a : Reg) (b : Reg) (wd : MemW) (rx : Bool) (off : BitVec 16) (s : State) :
    exec (.stg a b wd rx off) s = execStg a b wd rx off s := rfl
@[simp] theorem exec_stgL (a : Reg) (b : Reg) (wd : MemW) (rx : Bool) (off : BitVec 32) (s : State) :
    exec (.stgL a b wd rx off) s = execStgL a b wd rx off s := rfl
@[simp] theorem exec_lds (d : Reg) (a : Reg) (f : LdFn) (rx : Bool) (off : BitVec 16) (s : State) :
    exec (.lds d a f rx off) s = execLds d a f rx off s := rfl
@[simp] theorem exec_ldsL (d : Reg) (a : Reg) (f : LdFn) (rx : Bool) (off : BitVec 32) (s : State) :
    exec (.ldsL d a f rx off) s = execLdsL d a f rx off s := rfl
@[simp] theorem exec_sts (a : Reg) (b : Reg) (wd : MemW) (rx : Bool) (off : BitVec 16) (s : State) :
    exec (.sts a b wd rx off) s = execSts a b wd rx off s := rfl
@[simp] theorem exec_stsL (a : Reg) (b : Reg) (wd : MemW) (rx : Bool) (off : BitVec 32) (s : State) :
    exec (.stsL a b wd rx off) s = execStsL a b wd rx off s := rfl
@[simp] theorem exec_vldg (d : Reg) (a : Reg) (rx : Bool) (off : BitVec 16) (s : State) :
    exec (.vldg d a rx off) s = execVldg d a rx off s := rfl
@[simp] theorem exec_vldgL (d : Reg) (a : Reg) (rx : Bool) (off : BitVec 32) (s : State) :
    exec (.vldgL d a rx off) s = execVldgL d a rx off s := rfl
@[simp] theorem exec_vstg (a : Reg) (b : Reg) (wd : MemW) (rx : Bool) (off : BitVec 16) (s : State) :
    exec (.vstg a b wd rx off) s = execVstg a b wd rx off s := rfl
@[simp] theorem exec_vstgL (a : Reg) (b : Reg) (wd : MemW) (rx : Bool) (off : BitVec 32) (s : State) :
    exec (.vstgL a b wd rx off) s = execVstgL a b wd rx off s := rfl
@[simp] theorem exec_vlds (d : Reg) (a : Reg) (rx : Bool) (off : BitVec 16) (s : State) :
    exec (.vlds d a rx off) s = execVlds d a rx off s := rfl
@[simp] theorem exec_vldsL (d : Reg) (a : Reg) (rx : Bool) (off : BitVec 32) (s : State) :
    exec (.vldsL d a rx off) s = execVldsL d a rx off s := rfl
@[simp] theorem exec_vsts (a : Reg) (b : Reg) (wd : MemW) (rx : Bool) (off : BitVec 16) (s : State) :
    exec (.vsts a b wd rx off) s = execVsts a b wd rx off s := rfl
@[simp] theorem exec_vstsL (a : Reg) (b : Reg) (wd : MemW) (rx : Bool) (off : BitVec 32) (s : State) :
    exec (.vstsL a b wd rx off) s = execVstsL a b wd rx off s := rfl
@[simp] theorem exec_take (d : Reg) (a : Reg) (off : BitVec 16) (s : State) :
    exec (.take d a off) s = execTake d a off s := rfl
@[simp] theorem exec_put (d : Reg) (a : Reg) (b : Reg) (off : BitVec 16) (s : State) :
    exec (.put d a b off) s = execPut d a b off s := rfl
@[simp] theorem exec_peek (d : Reg) (a : Reg) (off : BitVec 16) (s : State) :
    exec (.peek d a off) s = execPeek d a off s := rfl
@[simp] theorem exec_feClr (a : Reg) (off : BitVec 16) (s : State) :
    exec (.feClr a off) s = execFeClr a off s := rfl
@[simp] theorem exec_feSet (a : Reg) (off : BitVec 16) (s : State) :
    exec (.feSet a off) s = execFeSet a off s := rfl
@[simp] theorem exec_lease (d : Reg) (a : Reg) (s : State) :
    exec (.lease d a) s = execLease d a s := rfl
@[simp] theorem exec_release (d : Reg) (s : State) :
    exec (.release d) s = execRelease d s := rfl
@[simp] theorem exec_amoAdd (d : Reg) (a : Reg) (b : Reg) (wd : AtomW) (s : State) :
    exec (.amoAdd d a b wd) s = execAmoAdd d a b wd s := rfl
@[simp] theorem exec_amoAnd (d : Reg) (a : Reg) (b : Reg) (wd : AtomW) (s : State) :
    exec (.amoAnd d a b wd) s = execAmoAnd d a b wd s := rfl
@[simp] theorem exec_amoOr (d : Reg) (a : Reg) (b : Reg) (wd : AtomW) (s : State) :
    exec (.amoOr d a b wd) s = execAmoOr d a b wd s := rfl
@[simp] theorem exec_amoXor (d : Reg) (a : Reg) (b : Reg) (wd : AtomW) (s : State) :
    exec (.amoXor d a b wd) s = execAmoXor d a b wd s := rfl
@[simp] theorem exec_amoSwap (d : Reg) (a : Reg) (b : Reg) (wd : AtomW) (s : State) :
    exec (.amoSwap d a b wd) s = execAmoSwap d a b wd s := rfl
@[simp] theorem exec_amoMin (d : Reg) (a : Reg) (b : Reg) (wd : AtomW) (s : State) :
    exec (.amoMin d a b wd) s = execAmoMin d a b wd s := rfl
@[simp] theorem exec_amoMax (d : Reg) (a : Reg) (b : Reg) (wd : AtomW) (s : State) :
    exec (.amoMax d a b wd) s = execAmoMax d a b wd s := rfl
@[simp] theorem exec_amoMinZ (d : Reg) (a : Reg) (b : Reg) (wd : AtomW) (s : State) :
    exec (.amoMinZ d a b wd) s = execAmoMinZ d a b wd s := rfl
@[simp] theorem exec_amoMaxZ (d : Reg) (a : Reg) (b : Reg) (wd : AtomW) (s : State) :
    exec (.amoMaxZ d a b wd) s = execAmoMaxZ d a b wd s := rfl
@[simp] theorem exec_amoCas (d : Reg) (a : Reg) (b : Reg) (wd : CasW) (s : State) :
    exec (.amoCas d a b wd) s = execAmoCas d a b wd s := rfl
@[simp] theorem exec_amoFadd (d : Reg) (a : Reg) (b : Reg) (s : State) :
    exec (.amoFadd d a b) s = execAmoFadd d a b s := rfl
@[simp] theorem exec_redAdd (a : Reg) (b : Reg) (wd : AtomW) (s : State) :
    exec (.redAdd a b wd) s = execRedAdd a b wd s := rfl
@[simp] theorem exec_redAnd (a : Reg) (b : Reg) (wd : AtomW) (s : State) :
    exec (.redAnd a b wd) s = execRedAnd a b wd s := rfl
@[simp] theorem exec_redOr (a : Reg) (b : Reg) (wd : AtomW) (s : State) :
    exec (.redOr a b wd) s = execRedOr a b wd s := rfl
@[simp] theorem exec_redXor (a : Reg) (b : Reg) (wd : AtomW) (s : State) :
    exec (.redXor a b wd) s = execRedXor a b wd s := rfl
@[simp] theorem exec_redMin (a : Reg) (b : Reg) (wd : AtomW) (s : State) :
    exec (.redMin a b wd) s = execRedMin a b wd s := rfl
@[simp] theorem exec_redMax (a : Reg) (b : Reg) (wd : AtomW) (s : State) :
    exec (.redMax a b wd) s = execRedMax a b wd s := rfl
@[simp] theorem exec_redMinZ (a : Reg) (b : Reg) (wd : AtomW) (s : State) :
    exec (.redMinZ a b wd) s = execRedMinZ a b wd s := rfl
@[simp] theorem exec_redMaxZ (a : Reg) (b : Reg) (wd : AtomW) (s : State) :
    exec (.redMaxZ a b wd) s = execRedMaxZ a b wd s := rfl
@[simp] theorem exec_redFadd (a : Reg) (b : Reg) (s : State) :
    exec (.redFadd a b) s = execRedFadd a b s := rfl
@[simp] theorem exec_faddC (d : Reg) (a : Reg) (b : Reg) (s : State) :
    exec (.faddC d a b) s = execFaddC d a b s := rfl
@[simp] theorem exec_fenceSlot (s : State) :
    exec (.fenceSlot) s = execFenceSlot s := rfl
@[simp] theorem exec_fenceCore (s : State) :
    exec (.fenceCore) s = execFenceCore s := rfl
@[simp] theorem exec_fenceTray (s : State) :
    exec (.fenceTray) s = execFenceTray s := rfl
@[simp] theorem exec_fenceDie (s : State) :
    exec (.fenceDie) s = execFenceDie s := rfl
@[simp] theorem exec_fenceDev (s : State) :
    exec (.fenceDev) s = execFenceDev s := rfl
@[simp] theorem exec_fencePod (s : State) :
    exec (.fencePod) s = execFencePod s := rfl
@[simp] theorem exec_fenceSys (s : State) :
    exec (.fenceSys) s = execFenceSys s := rfl
@[simp] theorem exec_barInit (a : Reg) (b : Reg) (s : State) :
    exec (.barInit a b) s = execBarInit a b s := rfl
@[simp] theorem exec_barArr (d : Reg) (a : Reg) (s : State) :
    exec (.barArr d a) s = execBarArr d a s := rfl
@[simp] theorem exec_barWait (d : Reg) (a : Reg) (b : Reg) (s : State) :
    exec (.barWait d a b) s = execBarWait d a b s := rfl
@[simp] theorem exec_barSync (d : Reg) (a : Reg) (s : State) :
    exec (.barSync d a) s = execBarSync d a s := rfl
@[simp] theorem exec_barInv (a : Reg) (s : State) :
    exec (.barInv a) s = execBarInv a s := rfl
@[simp] theorem exec_msgSend (d : Reg) (a : Reg) (b : Reg) (s : State) :
    exec (.msgSend d a b) s = execMsgSend d a b s := rfl
@[simp] theorem exec_subOn (d : Reg) (a : Reg) (b : Reg) (s : State) :
    exec (.subOn d a b) s = execSubOn d a b s := rfl
@[simp] theorem exec_subOwn (d : Reg) (a : Reg) (s : State) :
    exec (.subOwn d a) s = execSubOwn d a s := rfl
@[simp] theorem exec_subOff (a : Reg) (s : State) :
    exec (.subOff a) s = execSubOff a s := rfl
@[simp] theorem exec_vaddInt (d : Reg) (a : Reg) (b : Reg) (sx : Bool) (c : VCtl) (s : State) :
    exec (.vaddInt d a b sx c) s = execVaddInt d a b sx c s := rfl
@[simp] theorem exec_vsubInt (d : Reg) (a : Reg) (b : Reg) (sx : Bool) (c : VCtl) (s : State) :
    exec (.vsubInt d a b sx c) s = execVsubInt d a b sx c s := rfl
@[simp] theorem exec_vmulInt (d : Reg) (a : Reg) (b : Reg) (sx : Bool) (c : VCtl) (s : State) :
    exec (.vmulInt d a b sx c) s = execVmulInt d a b sx c s := rfl
@[simp] theorem exec_vmulh (d : Reg) (a : Reg) (b : Reg) (sx : Bool) (c : VCtl) (s : State) :
    exec (.vmulh d a b sx c) s = execVmulh d a b sx c s := rfl
@[simp] theorem exec_vand (d : Reg) (a : Reg) (b : Reg) (sx : Bool) (c : VCtl) (s : State) :
    exec (.vand d a b sx c) s = execVand d a b sx c s := rfl
@[simp] theorem exec_vor (d : Reg) (a : Reg) (b : Reg) (sx : Bool) (c : VCtl) (s : State) :
    exec (.vor d a b sx c) s = execVor d a b sx c s := rfl
@[simp] theorem exec_vxor (d : Reg) (a : Reg) (b : Reg) (sx : Bool) (c : VCtl) (s : State) :
    exec (.vxor d a b sx c) s = execVxor d a b sx c s := rfl
@[simp] theorem exec_vsll (d : Reg) (a : Reg) (b : Reg) (sx : Bool) (c : VCtl) (s : State) :
    exec (.vsll d a b sx c) s = execVsll d a b sx c s := rfl
@[simp] theorem exec_vsrl (d : Reg) (a : Reg) (b : Reg) (sx : Bool) (c : VCtl) (s : State) :
    exec (.vsrl d a b sx c) s = execVsrl d a b sx c s := rfl
@[simp] theorem exec_vsra (d : Reg) (a : Reg) (b : Reg) (sx : Bool) (c : VCtl) (s : State) :
    exec (.vsra d a b sx c) s = execVsra d a b sx c s := rfl
@[simp] theorem exec_vminInt (d : Reg) (a : Reg) (b : Reg) (sx : Bool) (c : VCtl) (s : State) :
    exec (.vminInt d a b sx c) s = execVminInt d a b sx c s := rfl
@[simp] theorem exec_vmaxInt (d : Reg) (a : Reg) (b : Reg) (sx : Bool) (c : VCtl) (s : State) :
    exec (.vmaxInt d a b sx c) s = execVmaxInt d a b sx c s := rfl
@[simp] theorem exec_vaddSat (d : Reg) (a : Reg) (b : Reg) (sx : Bool) (c : VCtl) (s : State) :
    exec (.vaddSat d a b sx c) s = execVaddSat d a b sx c s := rfl
@[simp] theorem exec_vsubSat (d : Reg) (a : Reg) (b : Reg) (sx : Bool) (c : VCtl) (s : State) :
    exec (.vsubSat d a b sx c) s = execVsubSat d a b sx c s := rfl
@[simp] theorem exec_vabsInt (d : Reg) (a : Reg) (c : VCtl) (s : State) :
    exec (.vabsInt d a c) s = execVabsInt d a c s := rfl
@[simp] theorem exec_vaddFp (d : Reg) (a : Reg) (b : Reg) (sx : Bool) (c : VCtl) (s : State) :
    exec (.vaddFp d a b sx c) s = execVaddFp d a b sx c s := rfl
@[simp] theorem exec_vsubFp (d : Reg) (a : Reg) (b : Reg) (sx : Bool) (c : VCtl) (s : State) :
    exec (.vsubFp d a b sx c) s = execVsubFp d a b sx c s := rfl
@[simp] theorem exec_vmulFp (d : Reg) (a : Reg) (b : Reg) (sx : Bool) (c : VCtl) (s : State) :
    exec (.vmulFp d a b sx c) s = execVmulFp d a b sx c s := rfl
@[simp] theorem exec_vminFp (d : Reg) (a : Reg) (b : Reg) (sx : Bool) (c : VCtl) (s : State) :
    exec (.vminFp d a b sx c) s = execVminFp d a b sx c s := rfl
@[simp] theorem exec_vmaxFp (d : Reg) (a : Reg) (b : Reg) (sx : Bool) (c : VCtl) (s : State) :
    exec (.vmaxFp d a b sx c) s = execVmaxFp d a b sx c s := rfl
@[simp] theorem exec_vabsFp (d : Reg) (a : Reg) (c : VCtl) (s : State) :
    exec (.vabsFp d a c) s = execVabsFp d a c s := rfl
@[simp] theorem exec_vneg (d : Reg) (a : Reg) (c : VCtl) (s : State) :
    exec (.vneg d a c) s = execVneg d a c s := rfl
@[simp] theorem exec_vfma (d : Reg) (a : Reg) (b : Reg) (sx : Bool) (c : VCtl) (s : State) :
    exec (.vfma d a b sx c) s = execVfma d a b sx c s := rfl
@[simp] theorem exec_vfms (d : Reg) (a : Reg) (b : Reg) (sx : Bool) (c : VCtl) (s : State) :
    exec (.vfms d a b sx c) s = execVfms d a b sx c s := rfl
@[simp] theorem exec_vfnma (d : Reg) (a : Reg) (b : Reg) (sx : Bool) (c : VCtl) (s : State) :
    exec (.vfnma d a b sx c) s = execVfnma d a b sx c s := rfl
@[simp] theorem exec_vfnms (d : Reg) (a : Reg) (b : Reg) (sx : Bool) (c : VCtl) (s : State) :
    exec (.vfnms d a b sx c) s = execVfnms d a b sx c s := rfl
@[simp] theorem exec_vcmpEq (d : Reg) (a : Reg) (b : Reg) (c : VCtl) (s : State) :
    exec (.vcmpEq d a b c) s = execVcmpEq d a b c s := rfl
@[simp] theorem exec_vcmpNe (d : Reg) (a : Reg) (b : Reg) (c : VCtl) (s : State) :
    exec (.vcmpNe d a b c) s = execVcmpNe d a b c s := rfl
@[simp] theorem exec_vcmpLt (d : Reg) (a : Reg) (b : Reg) (c : VCtl) (s : State) :
    exec (.vcmpLt d a b c) s = execVcmpLt d a b c s := rfl
@[simp] theorem exec_vcmpGe (d : Reg) (a : Reg) (b : Reg) (c : VCtl) (s : State) :
    exec (.vcmpGe d a b c) s = execVcmpGe d a b c s := rfl
@[simp] theorem exec_vcmpLe (d : Reg) (a : Reg) (b : Reg) (c : VCtl) (s : State) :
    exec (.vcmpLe d a b c) s = execVcmpLe d a b c s := rfl
@[simp] theorem exec_vcmpGt (d : Reg) (a : Reg) (b : Reg) (c : VCtl) (s : State) :
    exec (.vcmpGt d a b c) s = execVcmpGt d a b c s := rfl
@[simp] theorem exec_vsel (d : Reg) (a : Reg) (b : Reg) (c : VCtl) (s : State) :
    exec (.vsel d a b c) s = execVsel d a b c s := rfl
@[simp] theorem exec_vperm (d : Reg) (a : Reg) (b : Reg) (c : VCtl) (s : State) :
    exec (.vperm d a b c) s = execVperm d a b c s := rfl
@[simp] theorem exec_vperm2 (d : Reg) (a : Reg) (b : Reg) (c : VCtl) (s : State) :
    exec (.vperm2 d a b c) s = execVperm2 d a b c s := rfl
@[simp] theorem exec_vbcast (d : Reg) (a : Reg) (c : VCtl) (s : State) :
    exec (.vbcast d a c) s = execVbcast d a c s := rfl
@[simp] theorem exec_vbcastl (d : Reg) (a : Reg) (idx : BitVec 8) (c : VCtl) (s : State) :
    exec (.vbcastl d a idx c) s = execVbcastl d a idx c s := rfl
@[simp] theorem exec_vslup (d : Reg) (a : Reg) (b : Reg) (idx : BitVec 8) (c : VCtl) (s : State) :
    exec (.vslup d a b idx c) s = execVslup d a b idx c s := rfl
@[simp] theorem exec_vsldn (d : Reg) (a : Reg) (b : Reg) (idx : BitVec 8) (c : VCtl) (s : State) :
    exec (.vsldn d a b idx c) s = execVsldn d a b idx c s := rfl
@[simp] theorem exec_vins (d : Reg) (a : Reg) (idx : BitVec 8) (c : VCtl) (s : State) :
    exec (.vins d a idx c) s = execVins d a idx c s := rfl
@[simp] theorem exec_vext (d : Reg) (a : Reg) (idx : BitVec 8) (c : VCtl) (s : State) :
    exec (.vext d a idx c) s = execVext d a idx c s := rfl
@[simp] theorem exec_vredAdd (d : Reg) (a : Reg) (c : VCtl) (s : State) :
    exec (.vredAdd d a c) s = execVredAdd d a c s := rfl
@[simp] theorem exec_vredMin (d : Reg) (a : Reg) (c : VCtl) (s : State) :
    exec (.vredMin d a c) s = execVredMin d a c s := rfl
@[simp] theorem exec_vredMax (d : Reg) (a : Reg) (c : VCtl) (s : State) :
    exec (.vredMax d a c) s = execVredMax d a c s := rfl
@[simp] theorem exec_vredAnd (d : Reg) (a : Reg) (c : VCtl) (s : State) :
    exec (.vredAnd d a c) s = execVredAnd d a c s := rfl
@[simp] theorem exec_vredOr (d : Reg) (a : Reg) (c : VCtl) (s : State) :
    exec (.vredOr d a c) s = execVredOr d a c s := rfl
@[simp] theorem exec_vredXor (d : Reg) (a : Reg) (c : VCtl) (s : State) :
    exec (.vredXor d a c) s = execVredXor d a c s := rfl
@[simp] theorem exec_vcvt (d : Reg) (a : Reg) (g : BitVec 3) (st : LaneT) (lt : LaneT) (rm : RmSel) (s : State) :
    exec (.vcvt d a g st lt rm) s = execVcvt d a g st lt rm s := rfl
@[simp] theorem exec_vcvtN (d : Reg) (a : Reg) (b : Reg) (g : BitVec 3) (st : LaneT) (k : BitVec 2) (rm : RmSel) (s : State) :
    exec (.vcvtN d a b g st k rm) s = execVcvtN d a b g st k rm s := rfl
@[simp] theorem exec_vcvtW (d : Reg) (a : Reg) (b : Reg) (g : BitVec 3) (lt : LaneT) (k : BitVec 2) (rm : RmSel) (s : State) :
    exec (.vcvtW d a b g lt k rm) s = execVcvtW d a b g lt k rm s := rfl
@[simp] theorem exec_strCfg (k : BitVec 2) (a : Reg) (s : State) :
    exec (.strCfg k a) s = execStrCfg k a s := rfl
@[simp] theorem exec_strStop (k : BitVec 2) (s : State) :
    exec (.strStop k) s = execStrStop k s := rfl
@[simp] theorem exec_bstr (k : BitVec 2) (off : BitVec 16) (s : State) :
    exec (.bstr k off) s = execBstr k off s := rfl
@[simp] theorem exec_vexp (d : Reg) (a : Reg) (c : VCtl) (s : State) :
    exec (.vexp d a c) s = execVexp d a c s := rfl
@[simp] theorem exec_vexp2 (d : Reg) (a : Reg) (c : VCtl) (s : State) :
    exec (.vexp2 d a c) s = execVexp2 d a c s := rfl
@[simp] theorem exec_vlog2 (d : Reg) (a : Reg) (c : VCtl) (s : State) :
    exec (.vlog2 d a c) s = execVlog2 d a c s := rfl
@[simp] theorem exec_vrcp (d : Reg) (a : Reg) (c : VCtl) (s : State) :
    exec (.vrcp d a c) s = execVrcp d a c s := rfl
@[simp] theorem exec_vrsqrt (d : Reg) (a : Reg) (c : VCtl) (s : State) :
    exec (.vrsqrt d a c) s = execVrsqrt d a c s := rfl
@[simp] theorem exec_vsqrt (d : Reg) (a : Reg) (c : VCtl) (s : State) :
    exec (.vsqrt d a c) s = execVsqrt d a c s := rfl
@[simp] theorem exec_vsin (d : Reg) (a : Reg) (c : VCtl) (s : State) :
    exec (.vsin d a c) s = execVsin d a c s := rfl
@[simp] theorem exec_vcos (d : Reg) (a : Reg) (c : VCtl) (s : State) :
    exec (.vcos d a c) s = execVcos d a c s := rfl
@[simp] theorem exec_vtanh (d : Reg) (a : Reg) (c : VCtl) (s : State) :
    exec (.vtanh d a c) s = execVtanh d a c s := rfl
@[simp] theorem exec_vsigm (d : Reg) (a : Reg) (c : VCtl) (s : State) :
    exec (.vsigm d a c) s = execVsigm d a c s := rfl
@[simp] theorem exec_topkCfg (a : Reg) (lt : LaneT) (smallest : Bool) (s : State) :
    exec (.topkCfg a lt smallest) s = execTopkCfg a lt smallest s := rfl
@[simp] theorem exec_topkIn (a : Reg) (s : State) :
    exec (.topkIn a) s = execTopkIn a s := rfl
@[simp] theorem exec_topkOut (d : Reg) (s : State) :
    exec (.topkOut d) s = execTopkOut d s := rfl
@[simp] theorem exec_topkMerge (a : Reg) (s : State) :
    exec (.topkMerge a) s = execTopkMerge a s := rfl
@[simp] theorem exec_osClaim (d : Reg) (os : BitVec 6) (s : State) :
    exec (.osClaim d os) s = execOsClaim d os s := rfl
@[simp] theorem exec_osRel (os : BitVec 6) (s : State) :
    exec (.osRel os) s = execOsRel os s := rfl
@[simp] theorem exec_osLdG (a : Reg) (b : Reg) (os : BitVec 6) (n4 : Bool) (s : State) :
    exec (.osLdG a b os n4) s = execOsLdG a b os n4 s := rfl
@[simp] theorem exec_osLdS (a : Reg) (b : Reg) (os : BitVec 6) (n4 : Bool) (s : State) :
    exec (.osLdS a b os n4) s = execOsLdS a b os n4 s := rfl
@[simp] theorem exec_osLdHr (a : Reg) (b : Reg) (os : BitVec 6) (s : State) :
    exec (.osLdHr a b os) s = execOsLdHr a b os s := rfl
@[simp] theorem exec_osLdHc (a : Reg) (b : Reg) (os : BitVec 6) (s : State) :
    exec (.osLdHc a b os) s = execOsLdHc a b os s := rfl
@[simp] theorem exec_osStG (a : Reg) (os : BitVec 6) (s : State) :
    exec (.osStG a os) s = execOsStG a os s := rfl
@[simp] theorem exec_osStS (a : Reg) (os : BitVec 6) (s : State) :
    exec (.osStS a os) s = execOsStS a os s := rfl
@[simp] theorem exec_mxMul (f : MxFields) (s : State) :
    exec (.mxMul f) s = execMxMul f s := rfl
@[simp] theorem exec_mxMrot (f : MxFields) (s : State) :
    exec (.mxMrot f) s = execMxMrot f s := rfl
@[simp] theorem exec_mxZero (seg : BitVec 8) (s : State) :
    exec (.mxZero seg) s = execMxZero seg s := rfl
@[simp] theorem exec_mxDrain (f : DrainFields) (s : State) :
    exec (.mxDrain f) s = execMxDrain f s := rfl
@[simp] theorem exec_cpy (d : Reg) (a : Reg) (s : State) :
    exec (.cpy d a) s = execCpy d a s := rfl
@[simp] theorem exec_cpyNb (d : Reg) (a : Reg) (s : State) :
    exec (.cpyNb d a) s = execCpyNb d a s := rfl
@[simp] theorem exec_thLd (d : Reg) (a : Reg) (s : State) :
    exec (.thLd d a) s = execThLd d a s := rfl
@[simp] theorem exec_thSeal (a : Reg) (s : State) :
    exec (.thSeal a) s = execThSeal a s := rfl
@[simp] theorem exec_thRelay (d : Reg) (a : Reg) (b : Reg) (tag : BitVec 8) (s : State) :
    exec (.thRelay d a b tag) s = execThRelay d a b tag s := rfl
@[simp] theorem exec_thWait (d : Reg) (a : Reg) (s : State) :
    exec (.thWait d a) s = execThWait d a s := rfl
@[simp] theorem exec_tldE (d : Reg) (a : Reg) (b : Reg) (rx : Bool) (s : State) :
    exec (.tldE d a b rx) s = execTldE d a b rx s := rfl
@[simp] theorem exec_tldV (d : Reg) (a : Reg) (b : Reg) (rx : Bool) (s : State) :
    exec (.tldV d a b rx) s = execTldV d a b rx s := rfl
@[simp] theorem exec_tstE (d : Reg) (a : Reg) (b : Reg) (rx : Bool) (s : State) :
    exec (.tstE d a b rx) s = execTstE d a b rx s := rfl
@[simp] theorem exec_tstV (d : Reg) (a : Reg) (b : Reg) (rx : Bool) (s : State) :
    exec (.tstV d a b rx) s = execTstV d a b rx s := rfl
@[simp] theorem exec_txSub (d : Reg) (a : Reg) (b : Reg) (s : State) :
    exec (.txSub d a b) s = execTxSub d a b s := rfl
@[simp] theorem exec_txAddr (a : Reg) (s : State) :
    exec (.txAddr a) s = execTxAddr a s := rfl
@[simp] theorem exec_txNote (d : Reg) (a : Reg) (s : State) :
    exec (.txNote d a) s = execTxNote d a s := rfl
@[simp] theorem exec_txChk (s : State) :
    exec (.txChk) s = execTxChk s := rfl
@[simp] theorem exec_txEnd (s : State) :
    exec (.txEnd) s = execTxEnd s := rfl
@[simp] theorem exec_spawn (d : Reg) (a : Reg) (b : Reg) (off : BitVec 16) (s : State) :
    exec (.spawn d a b off) s = execSpawn d a b off s := rfl
@[simp] theorem exec_spawnL (d : Reg) (a : Reg) (b : Reg) (off : BitVec 32) (s : State) :
    exec (.spawnL d a b off) s = execSpawnL d a b off s := rfl
@[simp] theorem exec_suspend (s : State) :
    exec (.suspend) s = execSuspend s := rfl
@[simp] theorem exec_trap (n : BitVec 4) (s : State) :
    exec (.trap n) s = execTrap n s := rfl
@[simp] theorem exec_tret (s : State) :
    exec (.tret) s = execTret s := rfl
@[simp] theorem exec_spill (d : Reg) (a : Reg) (b : Reg) (s : State) :
    exec (.spill d a b) s = execSpill d a b s := rfl
@[simp] theorem exec_fill (d : Reg) (a : Reg) (b : Reg) (s : State) :
    exec (.fill d a b) s = execFill d a b s := rfl
@[simp] theorem exec_rqPush (d : Reg) (a : Reg) (b : Reg) (s : State) :
    exec (.rqPush d a b) s = execRqPush d a b s := rfl
@[simp] theorem exec_rqPop (d : Reg) (s : State) :
    exec (.rqPop d) s = execRqPop d s := rfl
@[simp] theorem exec_clsSet (a : Reg) (b : Reg) (s : State) :
    exec (.clsSet a b) s = execClsSet a b s := rfl
@[simp] theorem exec_clsFlush (a : Reg) (s : State) :
    exec (.clsFlush a) s = execClsFlush a s := rfl
@[simp] theorem exec_xinv (a : Reg) (b : Reg) (s : State) :
    exec (.xinv a b) s = execXinv a b s := rfl
@[simp] theorem exec_corePark (d : Reg) (a : Reg) (s : State) :
    exec (.corePark d a) s = execCorePark d a s := rfl
@[simp] theorem exec_wfe (d : Reg) (a : Reg) (b : Reg) (s : State) :
    exec (.wfe d a b) s = execWfe d a b s := rfl
@[simp] theorem exec_illegalOpcode (raw : Raw) (s : State) :
    exec (.illegalOpcode raw) s = execIllegalOpcode raw s := rfl

end Sys2Proof.Machine
end

