-- ==== Sys2Proof/Laws/Issue.lean ====
section
/-! SUPPORT. What the shared operations of an issuing slot do: passing the checks of R183, replacing the slot twice,
and completing an instruction. -/

namespace Sys2Proof.Machine

theorem remove_place {α : Type} (m : SMap α) (k : Nat) (v : α) : remove (place m k v) k = remove m k := by
  induction m with
  | nil => simp [place, remove]
  | cons e m ih =>
    obtain ⟨j, w⟩ := e
    by_cases hk : k < j
    · simp only [place, hk, if_true, remove]
    · simp only [place, hk, if_false, remove, ih]

theorem remove_remove {α : Type} (m : SMap α) (k : Nat) : remove (remove m k) k = remove m k := by
  induction m with
  | nil => rfl
  | cons e m ih =>
    obtain ⟨j, w⟩ := e
    by_cases hj : j = k
    · simp only [remove, hj, if_true, ih]
    · simp only [remove, hj, if_false, ih]

/-- The second of two writes of one entry stands. -/
@[simp] theorem put_put {α : Type} (m : SMap α) (k : Nat) (v w : α) : put (put m k v) k w = put m k w := by
  simp only [put, remove_place, remove_remove]

@[simp] theorem setSlot_setSlot (s : State) (k : Nat) (v w : Slot) : (s.setSlot k v).setSlot k w = s.setSlot k w := by
  simp [State.setSlot]

@[simp] theorem setMe_setMe (s : State) (v w : Slot) : (s.setMe v).setMe w = s.setMe w := setSlot_setSlot ..

/-- An instruction that passes the checks does what it is for. -/
theorem gate_clear {priv : Bool} {u : Uses} {s : State} (h : Clear priv u s) (act : State → Out) :
    gate priv u s act = act s := by
  obtain ⟨hp, hb, hc, hr⟩ := h
  have h1 : (priv && s.me.level == .u) = false := by
    cases priv
    · rfl
    · simpa using hp rfl
  have h2 : (if s.me.csr.schk.getLsbD 0 then uncovered s u else none) = none := by
    split
    · exact hc ‹_›
    · rfl
  simp only [gate, h1, hb, h2, hr]
  rfl

/-- An instruction that the slot's level may not run traps PRIVILEGED. -/
theorem gate_privileged {u : Uses} {s : State} (h : s.me.level = .u) (act : State → Out) :
    gate true u s act = .next (trapI s 0x04 s.me.ir) := by
  simp [gate, h]

/-- Completing an instruction at `pc` moves the issuing slot on and changes nothing else. -/
theorem finishAt_goesOn (s : State) (pc xfer : Word) : GoesOn s pc (finishAt s pc xfer) := by
  refine ⟨?_, ?_⟩
  · simp [finishAt, stallCount]
  · simp only [finishAt, me_setMe]
    cases s.me.lease <;> rfl

theorem finish_goesOn (s : State) : GoesOn s (nextPc s) (finish s) := finishAt_goesOn ..

/-- The writing of a fixed-latency integer result. -/
theorem writeInt_eq (s : State) (lat : Nat) (d : Reg) (v : Word) : writeInt s lat d v = withResult s d lat v := by
  by_cases h : d = 0
  · subst h; rfl
  · simp [writeInt, writeFixed, withResult, xreg, RegId.isX0]

@[simp] theorem nextPc_withResult (s : State) (d : Reg) (lat : Nat) (v : Word) : nextPc (withResult s d lat v) = nextPc s := by
  simp [nextPc, withResult, fallThrough]

/-- An instruction that answers `finish b` runs to the next PC. -/
theorem runsTo_finish (b : State) : RunsTo (.next (finish b)) b (nextPc b) := ⟨_, rfl, finish_goesOn b⟩

/-- An instruction that answers `finishAt b pc` runs to that PC. -/
theorem runsTo_finishAt (b : State) (pc xfer : Word) : RunsTo (.next (finishAt b pc xfer)) b pc :=
  ⟨_, rfl, finishAt_goesOn b pc xfer⟩

/-- A register-form integer instruction that passes the checks. -/
theorem intRR_runs {s : State} {d a b : Reg} (h : Clear false (usesXX d a b) s) (lat : Nat) (f : Word → Word → Word)
    {v : Word} (hv : f (readX s a) (readX s b) = v) :
    RunsTo (intRR lat f d a b s) (withResult s d lat v) (nextPc s) := by
  subst hv
  rw [intRR, gate_clear h, writeInt_eq]
  simpa using runsTo_finish (withResult s d lat (f (readX s a) (readX s b)))

/-- An immediate-form integer instruction that passes the checks. -/
theorem intRI_runs {s : State} {d a : Reg} (h : Clear false (usesX d a) s) (f : Word → Word → Word) (i : Word)
    {v : Word} (hv : f (readX s a) i = v) :
    RunsTo (intRI f d a i s) (withResult s d 2 v) (nextPc s) := by
  subst hv
  rw [intRI, gate_clear h, writeInt_eq]
  simpa using runsTo_finish (withResult s d 2 (f (readX s a) i))

/-- An immediate with no source. -/
theorem intImm_runs {s : State} {d : Reg} (h : Clear false { writes := [xreg d] } s) {v w : Word} (hv : v = w) :
    RunsTo (intImm d v s) (withResult s d 2 w) (nextPc s) := by
  subst hv
  rw [intImm, gate_clear h, writeInt_eq]
  simpa using runsTo_finish (withResult s d 2 v)

end Sys2Proof.Machine
end

