-- ==== Sys2Proof/Laws/Memory.lean ====
section
/-! SUPPORT. The laws of byte strings: what reading several bytes gives after a write and inside a longer read, numbers
and their bytes, the bytes of a range of addresses whose translation runs along, fields of a save area, and the size of a
CRC. -/

namespace Sys2Proof.Machine

@[simp] theorem readBytes_length (m : Memory) (a n : Nat) : (readBytes m a n).length = n := by
  induction n generalizing a with
  | zero => rfl
  | succ n ih => simp [readBytes, ih]

/-- Reads of memories that agree on the bytes agree. -/
theorem readBytes_congr (m m' : Memory) (a n : Nat) (h : ∀ i, i < n → readByte m (a + i) = readByte m' (a + i)) :
    readBytes m a n = readBytes m' a n := by
  induction n generalizing a with
  | zero => rfl
  | succ n ih =>
    rw [readBytes, readBytes, ih (a + 1) (fun i hi => by rw [Nat.add_assoc, Nat.add_comm 1]; exact h (i + 1) (by omega))]
    exact congrArg (· :: _) (h 0 (by omega))

/-- A string that has been written reads back. -/
theorem readBytes_writeBytes_same (bs : List Byte) (m : Memory) (a : Nat) : readBytes (writeBytes m a bs) a bs.length = bs := by
  induction bs generalizing m a with
  | nil => rfl
  | cons b bs ih =>
    rw [List.length_cons, readBytes, writeBytes, ih, readByte_writeBytes_out _ _ _ _ (by omega), readByte_writeByte_same]

/-- A string outside the written bytes reads as before. -/
theorem readBytes_writeBytes_out (bs : List Byte) (m : Memory) (a c n : Nat) (h : c + n ≤ a ∨ a + bs.length ≤ c) :
    readBytes (writeBytes m a bs) c n = readBytes m c n :=
  readBytes_congr _ _ _ _ fun i hi => readByte_writeBytes_out bs m a (c + i) (by omega)

theorem readBytes_drop (m : Memory) (a n k : Nat) : (readBytes m a n).drop k = readBytes m (a + k) (n - k) := by
  induction k generalizing a n with
  | zero => simp
  | succ k ih => cases n with
    | zero => simp [readBytes]
    | succ n => rw [readBytes, List.drop_succ_cons, ih, Nat.add_sub_add_right, Nat.add_assoc, Nat.add_comm 1]

theorem readBytes_take (m : Memory) (a n k : Nat) : (readBytes m a n).take k = readBytes m a (min k n) := by
  induction k generalizing a n with
  | zero => simp [readBytes]
  | succ k ih => cases n with
    | zero => simp [readBytes]
    | succ n => rw [readBytes, List.take_succ_cons, ih, Nat.add_min_add_right, readBytes]

/-- A part of a read is the read of the part. -/
theorem readBytes_part (m : Memory) (a n off k : Nat) (h : off + k ≤ n) :
    ((readBytes m a n).drop off).take k = readBytes m (a + off) k := by
  rw [readBytes_drop, readBytes_take, Nat.min_eq_left (by omega)]

/-- A field of an area that lies in a memory (R344). -/
theorem areaField_readBytes (m : Memory) (a n off k : Nat) (h : off + k ≤ n) :
    areaField (readBytes m a n) off k = bytesToNat (readBytes m (a + off) k) := by
  rw [areaField, readBytes_part m a n off k h]

@[simp] theorem natToBytes_length (n v : Nat) : (natToBytes n v).length = n := by
  induction n generalizing v with
  | zero => rfl
  | succ n ih => simp [natToBytes, ih]

/-- A number that fits reads back from its bytes (R2). -/
theorem bytesToNat_natToBytes (n v : Nat) (h : v < 256 ^ n) : bytesToNat (natToBytes n v) = v := by
  induction n generalizing v with
  | zero => simp only [Nat.pow_zero, Nat.lt_one_iff] at h; simp [natToBytes, bytesToNat, h]
  | succ n ih =>
    have hd : v / 256 < 256 ^ n := by rw [Nat.div_lt_iff_lt_mul (by omega), ← Nat.pow_succ]; exact h
    rw [natToBytes, bytesToNat, ih _ hd, BitVec.toNat_ofNat]
    omega

/-- A byte of a page that is no core's own is the byte at its home (R85, R87). -/
theorem spaceByte_shared {s : State} {p va : Nat} (l : Loc) (h : (look (s.part p).cls 0 (va / 4096)).extractLsb' 14 2 ≠ 1) :
    spaceByte s p va l = s.byteAt l := by
  simp only [spaceByte, h, if_false]

/-- Bytes whose addresses are translated to a run of device memory, on pages that are no core's own, read as that run. -/
theorem readSpace_hits (s : State) (p va pa n : Nat)
    (h : ∀ i, i < n → translate (s.part p) (va + i) .read = .hit (.dev (pa + i)) ∧
      (look (s.part p).cls 0 ((va + i) / 4096)).extractLsb' 14 2 ≠ 1) :
    readSpace s p va n = some (readBytes s.devMem pa n) := by
  induction n generalizing va pa with
  | zero => rfl
  | succ n ih =>
    have h0 := h 0 (by omega)
    rw [Nat.add_zero, Nat.add_zero] at h0
    have ht := ih (va + 1) (pa + 1) fun i hi => by
      rw [Nat.add_assoc, Nat.add_assoc, Nat.add_comm 1]; exact h (i + 1) (by omega)
    simp only [readSpace, h0.1, spaceByte_shared _ h0.2, ht, readBytes, State.byteAt, Option.map_some]

theorem crcBit_lt (c : Nat) (h : c < 2 ^ 32) : crcBit c < 2 ^ 32 := by
  unfold crcBit
  split
  · exact Nat.xor_lt_two_pow (by omega) (by decide)
  · omega

theorem crcByte_lt (c b : Nat) (h : c < 2 ^ 32) (hb : b < 2 ^ 32) : crcByte c b < 2 ^ 32 := by
  unfold crcByte
  exact crcBit_lt _ (crcBit_lt _ (crcBit_lt _ (crcBit_lt _ (crcBit_lt _ (crcBit_lt _ (crcBit_lt _ (crcBit_lt _ (Nat.xor_lt_two_pow h hb))))))))

theorem crcGo_lt (bs : List Byte) (c : Nat) (h : c < 2 ^ 32) : crcGo c bs < 2 ^ 32 := by
  induction bs generalizing c with
  | nil => exact h
  | cons b bs ih => exact ih _ (crcByte_lt c _ h (by have := b.isLt; omega))

/-- A CRC has 32 bits (R111). -/
theorem crc32c_lt (bs : List Byte) : crc32c bs < 2 ^ 32 := Nat.xor_lt_two_pow (crcGo_lt bs _ (by decide)) (by decide)

end Sys2Proof.Machine
end

