-- ==== Sys2Proof/Laws/PerInstr.lean ====
section
/-! SUPPORT. One lemma per constructor of `Instr`: the raw form that the encoder gives a well-formed instruction is read
back by the decoder as that instruction. -/

namespace Sys2Proof.Laws.RoundTrip

/-- The instruction that the word of `i` decodes to: `i` itself, but for `core.unpark`, whose word is `core.park`'s (R350). -/
noncomputable def readBack : Instr → Instr
  | .coreUnpark d a => .corePark d a
  | i => i

/-- A well-formed instruction with an encoding is read back from its raw form (R170 to R173, R181). -/
def Statement (i : Instr) : Prop := i.wf = true → ∀ r, toRaw i = some r → decodeRaw r = .ok (readBack i)

/-- What the decoder reads from a raw form of an assigned major, before the checks of `Instr.wf`. -/
noncomputable def body : Raw → Option Instr
  | .h op d => decodeH op.toNat d
  | .a op d a b fn => decodeA op.toNat d a b fn
  | .i op d a b fn imm => decodeI op.toNat d a b fn imm
  | .l op d a fn b imm => decodeL op.toNat d a fn b imm

/-- The lemma of an instruction follows from what the tables read from its raw form. -/
theorem of {i : Instr} {r : Raw} (h : toRaw i = some r) (hu : unassignedMajor r.op = false) (ha : readBack i = i)
    (hb : i.wf = true → body r = some i) : Statement i := by
  intro hw r' hr
  rw [h] at hr
  cases hr
  have e : decodeRaw r = if unassignedMajor r.op then .ok (.illegalOpcode r) else match body r with
      | some i => if i.wf then .ok i else .error .illegalFunction
      | none => .error .illegalFunction := by cases r <;> rfl
  rw [e, hu, hb hw, ha]
  exact if_pos hw

/-- An event has no encoding. -/
theorem ofNone {i : Instr} (h : toRaw i = none) : Statement i := fun _ r hr => by rw [h] at hr; cases hr

/-! ## Fields cut from immediates -/

theorem six : ∀ x : BitVec 6, (x.zeroExtend 16).extractLsb' 0 6 = x ∧ (x.zeroExtend 16).extractLsb' 6 10 = 0 := by
  decide +kernel

theorem eight : ∀ x : BitVec 8, (x.zeroExtend 16).extractLsb' 0 8 = x ∧ (x.zeroExtend 16).extractLsb' 8 8 = 0 := by
  decide +kernel

theorem three : ∀ x : BitVec 3, (x.zeroExtend 6).extractLsb' 0 3 = x ∧ (x.zeroExtend 6).toNat < 8 := by decide +kernel

theorem twelve (x : BitVec 12) : (x.zeroExtend 16).extractLsb' 0 12 = x ∧ (x.zeroExtend 16).extractLsb' 12 4 = 0 := by
  constructor
  · ext i h; simp [BitVec.getElem_extractLsb', h, show i < 16 by omega]
  · ext i h; simp [BitVec.getElem_extractLsb']

theorem two : ∀ k : BitVec 2, k = 0 ∨ k = 1 ∨ k = 2 ∨ k = 3 := by decide

theorem tables : ∀ k : BitVec 3, k = 0 ∨ k = 1 ∨ k = 2 ∨ k = 3 ∨ k = 4 ∨ k = 5 ∨ k = 6 ∨ k = 7 := by decide

theorem four : ∀ x : BitVec 4, (x.zeroExtend 5).extractLsb' 0 4 = x ∧ (x.zeroExtend 5).toNat < 16 := by decide +kernel

theorem segImm : ∀ x : BitVec 8, (0#12 ++ (x ++ 0#12) : BitVec 32).extractLsb' 12 8 = x ∧
    (0#12 ++ (x ++ 0#12) : BitVec 32).extractLsb' 20 12 = 0 ∧ (0#12 ++ (x ++ 0#12) : BitVec 32).extractLsb' 0 12 = 0 := by
  decide +kernel

theorem slotImm : ∀ (n : Bool) (x : BitVec 6), (osImm x n).extractLsb' 0 6 = x ∧ (osImm x n).extractLsb' 7 9 = 0 ∧
    (osImm x n).getLsbD 6 = n := by decide +kernel

theorem fnLea : ∀ (p : BitVec 3) (esz : BitVec 2), (0#1 ++ p ++ esz : BitVec 6).getLsbD 5 = false ∧
    (0#1 ++ p ++ esz : BitVec 6).extractLsb' 0 2 = esz ∧ (0#1 ++ p ++ esz : BitVec 6).extractLsb' 2 3 = p := by
  decide +kernel

theorem fieldsMx (f : MxFields) : mxFields f.imm = f := by
  obtain ⟨i40, fb, fa, seg, ob, oa⟩ := f
  simp only [mxFields, MxFields.imm, MxFields.mk.injEq]
  refine ⟨?_, ?_, ?_, ?_, ?_, ?_⟩
  · cases i40 <;> simp only [BitVec.getLsbD_append] <;> simp
  all_goals
    ext i h
    simp only [BitVec.getElem_extractLsb', BitVec.getLsbD_append]
    interval_cases i <;> simp

theorem zeroMx (f : MxFields) : f.imm.extractLsb' 29 3 = 0 ∧ f.imm.getLsbD 27 = false ∧ f.imm.getLsbD 23 = false := by
  refine ⟨?_, ?_, ?_⟩
  · ext i h
    simp only [MxFields.imm, BitVec.getElem_extractLsb', BitVec.getLsbD_append]
    interval_cases i <;> simp
  all_goals simp only [MxFields.imm, BitVec.getLsbD_append]; simp

theorem fieldsDrain (f : DrainFields) (h : f.legal = true) : decodeMxd f.imm = some (.mxDrain f) := by
  have e : f.imm.getLsbD 30 = f.i40 ∧ f.imm.extractLsb' 27 3 = f.sb ∧ f.imm.extractLsb' 24 3 = f.sa ∧
      f.imm.extractLsb' 20 3 = f.fb ∧ f.imm.extractLsb' 12 8 = f.seg ∧ f.imm.extractLsb' 8 3 = f.fa ∧
      f.imm.getLsbD 7 = f.zr ∧ f.imm.extractLsb' 4 3 = f.rm.code ∧ f.imm.extractLsb' 0 4 = f.dt.code ∧
      f.imm.getLsbD 31 = false ∧ f.imm.getLsbD 23 = false ∧ f.imm.getLsbD 11 = false := by
    obtain ⟨i40, sb, sa, fb, seg, fa, zr, rm, dt⟩ := f
    refine ⟨?_, ?_, ?_, ?_, ?_, ?_, ?_, ?_, ?_, ?_, ?_, ?_⟩
    case refine_1 => cases i40 <;> simp only [DrainFields.imm, BitVec.getLsbD_append] <;> simp
    case refine_7 => cases zr <;> simp only [DrainFields.imm, BitVec.getLsbD_append] <;> simp
    case refine_10 => simp only [DrainFields.imm, BitVec.getLsbD_append]; simp
    case refine_11 => simp only [DrainFields.imm, BitVec.getLsbD_append]; simp
    case refine_12 => simp only [DrainFields.imm, BitVec.getLsbD_append]; simp
    all_goals
      ext i h
      simp only [DrainFields.imm, BitVec.getElem_extractLsb', BitVec.getLsbD_append]
      interval_cases i <;> simp
  obtain ⟨e1, e2, e3, e4, e5, e6, e7, e8, e9, e10, e11, e12⟩ := e
  simp only [decodeMxd, e1, e2, e3, e4, e5, e6, e7, e8, e9, e10, e11, e12]
  obtain ⟨i40, sb, sa, fb, seg, fa, zr, rm, dt⟩ := f
  cases rm <;> cases dt <;> exact if_pos (by simpa using h)

theorem fieldsIdx (c : VCtl) (x : BitVec 8) : (c.immIdx x).extractLsb' 0 4 = c.lt.code ∧
    (c.immIdx x).extractLsb' 4 3 = c.rm.code ∧ (c.immIdx x).getLsbD 7 = c.merge ∧ (c.immIdx x).extractLsb' 8 8 = x := by
  obtain ⟨lt, rm, m, y⟩ := c
  refine ⟨?_, ?_, ?_, ?_⟩
  case refine_3 => cases m <;> simp only [VCtl.immIdx, BitVec.getLsbD_append] <;> simp
  all_goals
    ext i h
    simp only [VCtl.immIdx, BitVec.getElem_extractLsb', BitVec.getLsbD_append]
    interval_cases i <;> simp

theorem fieldsCvt (g : BitVec 3) (st lt : BitVec 4) (rm : RmSel) : (cvtImm g st rm lt).getLsbD 15 = false ∧
    (cvtImm g st rm lt).getLsbD 7 = false ∧ (cvtImm g st rm lt).extractLsb' 0 4 = lt ∧
    (cvtImm g st rm lt).extractLsb' 4 3 = rm.code ∧ (cvtImm g st rm lt).extractLsb' 8 4 = st ∧
    (cvtImm g st rm lt).extractLsb' 12 3 = g := by
  refine ⟨?_, ?_, ?_, ?_, ?_, ?_⟩
  case refine_1 => simp only [cvtImm, BitVec.getLsbD_append]; simp
  case refine_2 => simp only [cvtImm, BitVec.getLsbD_append]; simp
  all_goals
    ext i h
    simp only [cvtImm, BitVec.getElem_extractLsb', BitVec.getLsbD_append]
    interval_cases i <;> simp

/-! ## The vector majors -/

theorem okRm (r : RmSel) : RmSel.ofCode r.code = some r := by cases r <;> rfl

theorem okLt (t : LaneT) : LaneT.ofCode t.code = some t := by cases t <;> rfl

/-- The control fields of an immediate without a lane index. -/
theorem fieldsImm (c : VCtl) : (c.imm 0#7).extractLsb' 0 4 = c.lt.code ∧ (c.imm 0#7).extractLsb' 4 3 = c.rm.code ∧
    (c.imm 0#7).getLsbD 7 = c.merge ∧ (c.imm 0#7).getLsbD 8 = c.x2 ∧ (c.imm 0#7).extractLsb' 9 7 = 0 := by
  obtain ⟨lt, rm, m, x⟩ := c
  cases lt <;> cases rm <;> cases m <;> cases x <;> exact ⟨rfl, rfl, rfl, rfl, rfl⟩

/-- A vector major other than VPERM, its control fields read. -/
theorem body_vec (op : BitVec 6) (d a b : Reg) (fn : BitVec 6) (c : VCtl)
    (h : op ∈ [32#6, 33#6, 34#6, 35#6, 37#6, 40#6]) : body (.i op d a b fn (c.imm 0#7)) = (match op.toNat with
      | 0x20 => decodeVint d a b (fn.getLsbD 5) (fn.extractLsb' 0 5).toNat c
      | 0x21 => decodeVfp d a b (fn.getLsbD 5) (fn.extractLsb' 0 5).toNat c
      | 0x22 => decodeVfma d a b (fn.getLsbD 5) (fn.extractLsb' 0 5).toNat c
      | 0x23 => decodeVcmp d a b fn.toNat c
      | 0x25 => if b == 0 then decodeVred d a fn.toNat c else none
      | _ => if b == 0 then decodeSf d a fn.toNat c else none) := by
  obtain ⟨e1, e2, e3, e4, e5⟩ := fieldsImm c
  have e : ∀ n, decodeVec n d a b fn (c.imm 0#7) = (match n with
      | 0x20 => decodeVint d a b (fn.getLsbD 5) (fn.extractLsb' 0 5).toNat c
      | 0x21 => decodeVfp d a b (fn.getLsbD 5) (fn.extractLsb' 0 5).toNat c
      | 0x22 => decodeVfma d a b (fn.getLsbD 5) (fn.extractLsb' 0 5).toNat c
      | 0x23 => decodeVcmp d a b fn.toNat c
      | 0x24 => decodeVperm d a b fn.toNat ((c.imm 0#7).extractLsb' 8 8) ⟨c.lt, c.rm, c.merge, false⟩
      | 0x25 => if b == 0 then decodeVred d a fn.toNat c else none
      | _ => if b == 0 then decodeSf d a fn.toNat c else none) := by
    intro n
    simp only [decodeVec, e1, e2, e3, e4, e5, okRm, okLt]
    rfl
  simp only [List.mem_cons, List.not_mem_nil, or_false] at h
  rcases h with rfl | rfl | rfl | rfl | rfl | rfl
  exacts [e 32, e 33, e 34, e 35, e 37, e 40]

/-- VPERM with a lane index. -/
theorem body_idx (d a b : Reg) (fn : BitVec 6) (x : BitVec 8) (c : VCtl) (h : c.x2 = false) :
    body (.i 36#6 d a b fn (c.immIdx x)) = decodeVperm d a b fn.toNat x c := by
  obtain ⟨e1, e2, e3, e4⟩ := fieldsIdx c x
  change decodeVec 0x24 d a b fn (c.immIdx x) = _
  simp only [decodeVec, e1, e2, e3, e4, okRm, okLt, Option.bind_some]
  obtain ⟨lt, rm, m, y⟩ := c
  cases h
  rfl

/-- VPERM without one. -/
theorem body_perm (d a b : Reg) (fn : BitVec 6) (c : VCtl) (h : c.x2 = false) :
    body (.i 36#6 d a b fn (c.imm 0#7)) = decodeVperm d a b fn.toNat 0 c := by
  obtain ⟨lt, rm, m, y⟩ := c
  cases h
  have e : (VCtl.mk lt rm m false).imm 0#7 = (VCtl.mk lt rm m false).immIdx 0 := by
    cases lt <;> cases rm <;> cases m <;> rfl
  rw [e]
  exact body_idx d a b fn 0 ⟨lt, rm, m, false⟩ rfl

/-- A permute has no pair form. -/
theorem noPair {c : VCtl} (h : c.okPerm = true) : c.x2 = false := by
  obtain ⟨lt, rm, m, y⟩ := c
  cases y
  · rfl
  · cases rm <;> simp [VCtl.okPerm] at h

/-- VCVT, its fields read. -/
theorem body_cvt (d a b : Reg) (fn : BitVec 6) (g : BitVec 3) (st lt : BitVec 4) (rm : RmSel) :
    body (.i 38#6 d a b fn (cvtImm g st rm lt)) = (match fn.toNat with
      | 0 => (LaneT.ofCode lt).bind fun lt => (LaneT.ofCode st).bind fun st => onlyIf (b == 0) (.vcvt d a g st lt rm)
      | 1 => (LaneT.ofCode st).bind fun st => onlyIf (lt.extractLsb' 2 2 == 3) (.vcvtN d a b g st (lt.extractLsb' 0 2) rm)
      | 2 => (LaneT.ofCode lt).bind fun lt => onlyIf (st.extractLsb' 2 2 == 3) (.vcvtW d a b g lt (st.extractLsb' 0 2) rm)
      | _ => none) := by
  obtain ⟨e1, e2, e3, e4, e5, e6⟩ := fieldsCvt g st lt rm
  change decodeVcvt d a b fn.toNat (cvtImm g st rm lt) = _
  simp only [decodeVcvt, e1, e2, e3, e4, e5, e6, okRm]
  rfl

/-! ## CSR numbers -/

theorem notFlags {n : BitVec 12} (h : (n != 0x021) = true) : ¬ n = 0x021 := by simpa using h

/-- A CSR whose writes are no row of their own. -/
theorem otherCsr (a : Reg) (n : BitVec 12) (h : (!csrHasRow n) = true) : decodeCsrw a n = .csrw a n := by
  have e (k : BitVec 12) : n = k → csrHasRow k = true → False := fun e1 e2 => by subst e1; simp [e2] at h
  have f (k : Nat) (hk : k < 4096) (hn : n.toNat = k) : n = BitVec.ofNat 12 k := by
    apply BitVec.eq_of_toNat_eq; simp [hn, Nat.mod_eq_of_lt hk]
  unfold decodeCsrw
  split
  all_goals first
    | rfl
    | (rename_i hn; exact (e _ (f _ (by decide) hn) (by decide)).elim)

/-! ## Packing -/

/-- No field of a raw form is lost in the head and tail, and the stall count comes back (R170, R171). -/
theorem unpack_pack (n : BitVec 3) (r : Raw) : unpack (pack n r).1 (pack n r).2 = r ∧ stallOf (pack n r).1 = n := by
  have hd (op : BitVec 6) (d : BitVec 5) (k : BitVec 2) : let h : BitVec 16 := op ++ (d ++ (n ++ k))
      h.extractLsb' 0 2 = k ∧ h.extractLsb' 2 3 = n ∧ h.extractLsb' 5 5 = d ∧ h.extractLsb' 10 6 = op := by
    refine ⟨?_, ?_, ?_, ?_⟩
    all_goals
      ext i h
      simp only [BitVec.getElem_extractLsb', BitVec.getLsbD_append]
      interval_cases i <;> simp
  cases r with
  | h op d =>
    obtain ⟨h1, h2, h3, h4⟩ := hd op d 0#2
    simp only [pack, unpack, tailLen, stallOf, h1, h2, h3, h4]
    exact ⟨rfl, trivial⟩
  | a op d a b fn =>
    obtain ⟨h1, h2, h3, h4⟩ := hd op d 1#2
    have t : let t : BitVec 48 := 0#32 ++ (a ++ (b ++ fn))
        t.extractLsb' 11 5 = a ∧ t.extractLsb' 6 5 = b ∧ t.extractLsb' 0 6 = fn := by
      refine ⟨?_, ?_, ?_⟩
      all_goals
        ext i h
        simp only [BitVec.getElem_extractLsb', BitVec.getLsbD_append]
        interval_cases i <;> simp
    obtain ⟨t1, t2, t3⟩ := t
    simp only [pack, unpack, tailLen, stallOf, h1, h2, h3, h4, t1, t2, t3]
    exact ⟨rfl, trivial⟩
  | i op d a b fn imm =>
    obtain ⟨h1, h2, h3, h4⟩ := hd op d 2#2
    have t : let t : BitVec 48 := 0#16 ++ (a ++ (b ++ (fn ++ imm)))
        t.extractLsb' 27 5 = a ∧ t.extractLsb' 22 5 = b ∧ t.extractLsb' 16 6 = fn ∧ t.extractLsb' 0 16 = imm := by
      refine ⟨?_, ?_, ?_, ?_⟩
      all_goals
        ext i h
        simp only [BitVec.getElem_extractLsb', BitVec.getLsbD_append]
        interval_cases i <;> simp
    obtain ⟨t1, t2, t3, t4⟩ := t
    simp only [pack, unpack, tailLen, stallOf, h1, h2, h3, h4, t1, t2, t3, t4]
    exact ⟨rfl, trivial⟩
  | l op d a fn b imm =>
    obtain ⟨h1, h2, h3, h4⟩ := hd op d 3#2
    have t : let t : BitVec 48 := a ++ (fn ++ (b ++ imm))
        t.extractLsb' 43 5 = a ∧ t.extractLsb' 37 6 = fn ∧ t.extractLsb' 32 5 = b ∧ t.extractLsb' 0 32 = imm := by
      refine ⟨?_, ?_, ?_, ?_⟩
      all_goals
        ext i h
        simp only [BitVec.getElem_extractLsb', BitVec.getLsbD_append]
        interval_cases i <;> simp
    obtain ⟨t1, t2, t3, t4⟩ := t
    simp only [pack, unpack, tailLen, stallOf, h1, h2, h3, h4, t1, t2, t3, t4]
    exact ⟨rfl, trivial⟩

/-! ## One lemma per constructor -/

theorem yield : Statement (.yield) := of rfl rfl rfl fun _ => rfl
theorem add (d : Reg) (a : Reg) (b : Reg) : Statement (.add d a b) := of rfl rfl rfl fun _ => rfl
theorem sub (d : Reg) (a : Reg) (b : Reg) : Statement (.sub d a b) := of rfl rfl rfl fun _ => rfl
theorem and (d : Reg) (a : Reg) (b : Reg) : Statement (.and d a b) := of rfl rfl rfl fun _ => rfl
theorem or (d : Reg) (a : Reg) (b : Reg) : Statement (.or d a b) := of rfl rfl rfl fun _ => rfl
theorem xor (d : Reg) (a : Reg) (b : Reg) : Statement (.xor d a b) := of rfl rfl rfl fun _ => rfl
theorem sll (d : Reg) (a : Reg) (b : Reg) : Statement (.sll d a b) := of rfl rfl rfl fun _ => rfl
theorem srl (d : Reg) (a : Reg) (b : Reg) : Statement (.srl d a b) := of rfl rfl rfl fun _ => rfl
theorem sra (d : Reg) (a : Reg) (b : Reg) : Statement (.sra d a b) := of rfl rfl rfl fun _ => rfl
theorem min (d : Reg) (a : Reg) (b : Reg) : Statement (.min d a b) := of rfl rfl rfl fun _ => rfl
theorem max (d : Reg) (a : Reg) (b : Reg) : Statement (.max d a b) := of rfl rfl rfl fun _ => rfl
theorem minZ (d : Reg) (a : Reg) (b : Reg) : Statement (.minZ d a b) := of rfl rfl rfl fun _ => rfl
theorem maxZ (d : Reg) (a : Reg) (b : Reg) : Statement (.maxZ d a b) := of rfl rfl rfl fun _ => rfl
theorem addImm16 (d : Reg) (a : Reg) (imm : BitVec 16) : Statement (.addImm16 d a imm) := of rfl rfl rfl fun _ => rfl
theorem subImm16 (d : Reg) (a : Reg) (imm : BitVec 16) : Statement (.subImm16 d a imm) := of rfl rfl rfl fun _ => rfl
theorem andImm16 (d : Reg) (a : Reg) (imm : BitVec 16) : Statement (.andImm16 d a imm) := of rfl rfl rfl fun _ => rfl
theorem orImm16 (d : Reg) (a : Reg) (imm : BitVec 16) : Statement (.orImm16 d a imm) := of rfl rfl rfl fun _ => rfl
theorem xorImm16 (d : Reg) (a : Reg) (imm : BitVec 16) : Statement (.xorImm16 d a imm) := of rfl rfl rfl fun _ => rfl
theorem sllImm16 (d : Reg) (a : Reg) (sh : BitVec 6) : Statement (.sllImm16 d a sh) := of rfl rfl rfl fun _ => by
  change onlyIf ((sh.zeroExtend 16).extractLsb' 6 10 == 0) (.sllImm16 d a ((sh.zeroExtend 16).extractLsb' 0 6)) = _
  rw [(six sh).1, (six sh).2]; rfl
theorem srlImm16 (d : Reg) (a : Reg) (sh : BitVec 6) : Statement (.srlImm16 d a sh) := of rfl rfl rfl fun _ => by
  change onlyIf ((sh.zeroExtend 16).extractLsb' 6 10 == 0) (.srlImm16 d a ((sh.zeroExtend 16).extractLsb' 0 6)) = _
  rw [(six sh).1, (six sh).2]; rfl
theorem sraImm16 (d : Reg) (a : Reg) (sh : BitVec 6) : Statement (.sraImm16 d a sh) := of rfl rfl rfl fun _ => by
  change onlyIf ((sh.zeroExtend 16).extractLsb' 6 10 == 0) (.sraImm16 d a ((sh.zeroExtend 16).extractLsb' 0 6)) = _
  rw [(six sh).1, (six sh).2]; rfl
theorem minImm16 (d : Reg) (a : Reg) (imm : BitVec 16) : Statement (.minImm16 d a imm) := of rfl rfl rfl fun _ => rfl
theorem maxImm16 (d : Reg) (a : Reg) (imm : BitVec 16) : Statement (.maxImm16 d a imm) := of rfl rfl rfl fun _ => rfl
theorem minZImm16 (d : Reg) (a : Reg) (imm : BitVec 16) : Statement (.minZImm16 d a imm) := of rfl rfl rfl fun _ => rfl
theorem maxZImm16 (d : Reg) (a : Reg) (imm : BitVec 16) : Statement (.maxZImm16 d a imm) := of rfl rfl rfl fun _ => rfl
theorem addImm32 (d : Reg) (a : Reg) (imm : BitVec 32) : Statement (.addImm32 d a imm) := of rfl rfl rfl fun _ => rfl
theorem subImm32 (d : Reg) (a : Reg) (imm : BitVec 32) : Statement (.subImm32 d a imm) := of rfl rfl rfl fun _ => rfl
theorem andImm32 (d : Reg) (a : Reg) (imm : BitVec 32) : Statement (.andImm32 d a imm) := of rfl rfl rfl fun _ => rfl
theorem orImm32 (d : Reg) (a : Reg) (imm : BitVec 32) : Statement (.orImm32 d a imm) := of rfl rfl rfl fun _ => rfl
theorem xorImm32 (d : Reg) (a : Reg) (imm : BitVec 32) : Statement (.xorImm32 d a imm) := of rfl rfl rfl fun _ => rfl
theorem minImm32 (d : Reg) (a : Reg) (imm : BitVec 32) : Statement (.minImm32 d a imm) := of rfl rfl rfl fun _ => rfl
theorem maxImm32 (d : Reg) (a : Reg) (imm : BitVec 32) : Statement (.maxImm32 d a imm) := of rfl rfl rfl fun _ => rfl
theorem minZImm32 (d : Reg) (a : Reg) (imm : BitVec 32) : Statement (.minZImm32 d a imm) := of rfl rfl rfl fun _ => rfl
theorem maxZImm32 (d : Reg) (a : Reg) (imm : BitVec 32) : Statement (.maxZImm32 d a imm) := of rfl rfl rfl fun _ => rfl
theorem liImm16 (d : Reg) (imm : BitVec 16) : Statement (.liImm16 d imm) := of rfl rfl rfl fun _ => rfl
theorem liImm32 (d : Reg) (imm : BitVec 32) : Statement (.liImm32 d imm) := of rfl rfl rfl fun _ => rfl
theorem liHigh (d : Reg) (a : Reg) (imm : BitVec 32) : Statement (.liHigh d a imm) := of rfl rfl rfl fun _ => rfl
theorem mul (d : Reg) (a : Reg) (b : Reg) : Statement (.mul d a b) := of rfl rfl rfl fun _ => rfl
theorem mulh (d : Reg) (a : Reg) (b : Reg) : Statement (.mulh d a b) := of rfl rfl rfl fun _ => rfl
theorem mulhZ (d : Reg) (a : Reg) (b : Reg) : Statement (.mulhZ d a b) := of rfl rfl rfl fun _ => rfl
theorem div (d : Reg) (a : Reg) (b : Reg) : Statement (.div d a b) := of rfl rfl rfl fun _ => rfl
theorem divZ (d : Reg) (a : Reg) (b : Reg) : Statement (.divZ d a b) := of rfl rfl rfl fun _ => rfl
theorem rem (d : Reg) (a : Reg) (b : Reg) : Statement (.rem d a b) := of rfl rfl rfl fun _ => rfl
theorem remZ (d : Reg) (a : Reg) (b : Reg) : Statement (.remZ d a b) := of rfl rfl rfl fun _ => rfl
theorem divisionComplete (core : Nat) : Statement (.divisionComplete core) := ofNone rfl
theorem setEq (d : Reg) (a : Reg) (b : Reg) : Statement (.setEq d a b) := of rfl rfl rfl fun _ => rfl
theorem setNe (d : Reg) (a : Reg) (b : Reg) : Statement (.setNe d a b) := of rfl rfl rfl fun _ => rfl
theorem setLt (d : Reg) (a : Reg) (b : Reg) : Statement (.setLt d a b) := of rfl rfl rfl fun _ => rfl
theorem setGe (d : Reg) (a : Reg) (b : Reg) : Statement (.setGe d a b) := of rfl rfl rfl fun _ => rfl
theorem setLtZ (d : Reg) (a : Reg) (b : Reg) : Statement (.setLtZ d a b) := of rfl rfl rfl fun _ => rfl
theorem setGeZ (d : Reg) (a : Reg) (b : Reg) : Statement (.setGeZ d a b) := of rfl rfl rfl fun _ => rfl
theorem setEqImm (d : Reg) (a : Reg) (imm : BitVec 16) : Statement (.setEqImm d a imm) := of rfl rfl rfl fun _ => rfl
theorem setNeImm (d : Reg) (a : Reg) (imm : BitVec 16) : Statement (.setNeImm d a imm) := of rfl rfl rfl fun _ => rfl
theorem setLtImm (d : Reg) (a : Reg) (imm : BitVec 16) : Statement (.setLtImm d a imm) := of rfl rfl rfl fun _ => rfl
theorem setGeImm (d : Reg) (a : Reg) (imm : BitVec 16) : Statement (.setGeImm d a imm) := of rfl rfl rfl fun _ => rfl
theorem setLtZImm (d : Reg) (a : Reg) (imm : BitVec 16) : Statement (.setLtZImm d a imm) := of rfl rfl rfl fun _ => rfl
theorem setGeZImm (d : Reg) (a : Reg) (imm : BitVec 16) : Statement (.setGeZImm d a imm) := of rfl rfl rfl fun _ => rfl
theorem sel (d : Reg) (a : Reg) (b : Reg) : Statement (.sel d a b) := of rfl rfl rfl fun _ => rfl
theorem clz (d : Reg) (a : Reg) : Statement (.clz d a) := of rfl rfl rfl fun _ => rfl
theorem ctz (d : Reg) (a : Reg) : Statement (.ctz d a) := of rfl rfl rfl fun _ => rfl
theorem pcnt (d : Reg) (a : Reg) : Statement (.pcnt d a) := of rfl rfl rfl fun _ => rfl
theorem shadd (d : Reg) (a : Reg) (b : Reg) (sh : BitVec 3) : Statement (.shadd d a b sh) := of rfl rfl rfl fun _ => by
  change (if (sh.zeroExtend 6).toNat < 8 then some (Instr.shadd d a b ((sh.zeroExtend 6).extractLsb' 0 3)) else none) = _
  rw [if_pos (three sh).2, (three sh).1]
theorem lea2d (d : Reg) (a : Reg) (b : Reg) (esz : BitVec 2) (p : BitVec 3) (pitch : BitVec 16) : Statement (.lea2d d a b esz p pitch) := of rfl rfl rfl fun _ => by
  change onlyIf (!(0#1 ++ p ++ esz : BitVec 6).getLsbD 5) (.lea2d d a b ((0#1 ++ p ++ esz : BitVec 6).extractLsb' 0 2)
    ((0#1 ++ p ++ esz : BitVec 6).extractLsb' 2 3) pitch) = _
  rw [(fnLea p esz).1, (fnLea p esz).2.1, (fnLea p esz).2.2]; rfl
theorem beq (a : Reg) (b : Reg) (off : BitVec 16) : Statement (.beq a b off) := of rfl rfl rfl fun _ => rfl
theorem bne (a : Reg) (b : Reg) (off : BitVec 16) : Statement (.bne a b off) := of rfl rfl rfl fun _ => rfl
theorem blt (a : Reg) (b : Reg) (off : BitVec 16) : Statement (.blt a b off) := of rfl rfl rfl fun _ => rfl
theorem bge (a : Reg) (b : Reg) (off : BitVec 16) : Statement (.bge a b off) := of rfl rfl rfl fun _ => rfl
theorem bltZ (a : Reg) (b : Reg) (off : BitVec 16) : Statement (.bltZ a b off) := of rfl rfl rfl fun _ => rfl
theorem bgeZ (a : Reg) (b : Reg) (off : BitVec 16) : Statement (.bgeZ a b off) := of rfl rfl rfl fun _ => rfl
theorem beqL (a : Reg) (b : Reg) (off : BitVec 32) : Statement (.beqL a b off) := of rfl rfl rfl fun _ => rfl
theorem bneL (a : Reg) (b : Reg) (off : BitVec 32) : Statement (.bneL a b off) := of rfl rfl rfl fun _ => rfl
theorem bltL (a : Reg) (b : Reg) (off : BitVec 32) : Statement (.bltL a b off) := of rfl rfl rfl fun _ => rfl
theorem bgeL (a : Reg) (b : Reg) (off : BitVec 32) : Statement (.bgeL a b off) := of rfl rfl rfl fun _ => rfl
theorem bltZL (a : Reg) (b : Reg) (off : BitVec 32) : Statement (.bltZL a b off) := of rfl rfl rfl fun _ => rfl
theorem bgeZL (a : Reg) (b : Reg) (off : BitVec 32) : Statement (.bgeZL a b off) := of rfl rfl rfl fun _ => rfl
theorem j (off : BitVec 16) : Statement (.j off) := of rfl rfl rfl fun _ => rfl
theorem jL (off : BitVec 32) : Statement (.jL off) := of rfl rfl rfl fun _ => rfl
theorem jal (d : Reg) (off : BitVec 16) : Statement (.jal d off) := of rfl rfl rfl fun _ => rfl
theorem jalL (d : Reg) (off : BitVec 32) : Statement (.jalL d off) := of rfl rfl rfl fun _ => rfl
theorem jr (d : Reg) (a : Reg) : Statement (.jr d a) := of rfl rfl rfl fun _ => rfl
theorem ret : Statement (.ret) := of rfl rfl rfl fun _ => rfl
theorem csrr (d : Reg) (csr : BitVec 12) : Statement (.csrr d csr) := of rfl rfl rfl fun hw => by
  change onlyIf (((csr.zeroExtend 16).extractLsb' 12 4 == 0) && (0#5 == 0)) (if (csr.zeroExtend 16).extractLsb' 0 12 = 0x021 then
    .fflagsAccess .r d else .csrr d ((csr.zeroExtend 16).extractLsb' 0 12)) = _
  rw [(twelve csr).1, (twelve csr).2, if_neg (notFlags hw)]; rfl
theorem csrw (a : Reg) (csr : BitVec 12) : Statement (.csrw a csr) := of rfl rfl rfl fun hw => by
  change onlyIf (((csr.zeroExtend 16).extractLsb' 12 4 == 0) && (0#5 == 0)) (decodeCsrw a ((csr.zeroExtend 16).extractLsb' 0 12)) = _
  rw [(twelve csr).1, (twelve csr).2, otherCsr a csr hw]; rfl
theorem csrs (a : Reg) (csr : BitVec 12) : Statement (.csrs a csr) := of rfl rfl rfl fun hw => by
  change onlyIf (((csr.zeroExtend 16).extractLsb' 12 4 == 0) && (0#5 == 0)) (if (csr.zeroExtend 16).extractLsb' 0 12 = 0x021 then
    .fflagsAccess .s a else .csrs a ((csr.zeroExtend 16).extractLsb' 0 12)) = _
  rw [(twelve csr).1, (twelve csr).2, if_neg (notFlags hw)]; rfl
theorem csrc (a : Reg) (csr : BitVec 12) : Statement (.csrc a csr) := of rfl rfl rfl fun hw => by
  change onlyIf (((csr.zeroExtend 16).extractLsb' 12 4 == 0) && (0#5 == 0)) (if (csr.zeroExtend 16).extractLsb' 0 12 = 0x021 then
    .fflagsAccess .c a else .csrc a ((csr.zeroExtend 16).extractLsb' 0 12)) = _
  rw [(twelve csr).1, (twelve csr).2, if_neg (notFlags hw)]; rfl
theorem fflagsAccess (op : CsrOp) (x : Reg) : Statement (.fflagsAccess op x) := by cases op <;> exact of rfl rfl rfl fun _ => rfl
theorem qenWrite (a : Reg) : Statement (.qenWrite a) := of rfl rfl rfl fun _ => rfl
theorem senWrite (a : Reg) : Statement (.senWrite a) := of rfl rfl rfl fun _ => rfl
theorem vtabWrite (a : Reg) (k : BitVec 3) : Statement (.vtabWrite a k) := of rfl rfl rfl fun _ => by
  rcases tables k with rfl | rfl | rfl | rfl | rfl | rfl | rfl | rfl <;> rfl
theorem slqdWrite (a : Reg) : Statement (.slqdWrite a) := of rfl rfl rfl fun _ => rfl
theorem spasidWrite (a : Reg) : Statement (.spasidWrite a) := of rfl rfl rfl fun _ => rfl
theorem shwinWrite (a : Reg) : Statement (.shwinWrite a) := of rfl rfl rfl fun _ => rfl
theorem spodwWrite (a : Reg) : Statement (.spodwWrite a) := of rfl rfl rfl fun _ => rfl
theorem smsgWrite (a : Reg) : Statement (.smsgWrite a) := of rfl rfl rfl fun _ => rfl
theorem sdovfWrite (a : Reg) : Statement (.sdovfWrite a) := of rfl rfl rfl fun _ => rfl
theorem sevstWrite (a : Reg) : Statement (.sevstWrite a) := of rfl rfl rfl fun _ => rfl
theorem mpartWrite (a : Reg) : Statement (.mpartWrite a) := of rfl rfl rfl fun _ => rfl
theorem rdtb (d : Reg) : Statement (.rdtb d) := of rfl rfl rfl fun _ => rfl
theorem sleep (a : Reg) : Statement (.sleep a) := of rfl rfl rfl fun _ => rfl
theorem sleepImm (imm : BitVec 16) : Statement (.sleepImm imm) := of rfl rfl rfl fun _ => rfl
theorem slpUntil (a : Reg) : Statement (.slpUntil a) := of rfl rfl rfl fun _ => rfl
theorem sleepEnd (core : Nat) (slot : Nat) : Statement (.sleepEnd core slot) := ofNone rfl
theorem ldg (d : Reg) (a : Reg) (f : LdFn) (rx : Bool) (off : BitVec 16) : Statement (.ldg d a f rx off) := of rfl rfl rfl fun _ => by
  cases f <;> cases rx <;> rfl
theorem ldgL (d : Reg) (a : Reg) (f : LdFn) (rx : Bool) (off : BitVec 32) : Statement (.ldgL d a f rx off) := of rfl rfl rfl fun _ => by
  cases f <;> cases rx <;> rfl
theorem pf (a : Reg) (off : BitVec 16) : Statement (.pf a off) := of rfl rfl rfl fun _ => rfl
theorem pfL (a : Reg) (off : BitVec 32) : Statement (.pfL a off) := of rfl rfl rfl fun _ => rfl
theorem stg (a : Reg) (b : Reg) (wd : MemW) (rx : Bool) (off : BitVec 16) : Statement (.stg a b wd rx off) := of rfl rfl rfl fun _ => by
  cases wd <;> cases rx <;> rfl
theorem stgL (a : Reg) (b : Reg) (wd : MemW) (rx : Bool) (off : BitVec 32) : Statement (.stgL a b wd rx off) := of rfl rfl rfl fun _ => by
  cases wd <;> cases rx <;> rfl
theorem lds (d : Reg) (a : Reg) (f : LdFn) (rx : Bool) (off : BitVec 16) : Statement (.lds d a f rx off) := of rfl rfl rfl fun _ => by
  cases f <;> cases rx <;> rfl
theorem ldsL (d : Reg) (a : Reg) (f : LdFn) (rx : Bool) (off : BitVec 32) : Statement (.ldsL d a f rx off) := of rfl rfl rfl fun _ => by
  cases f <;> cases rx <;> rfl
theorem sts (a : Reg) (b : Reg) (wd : MemW) (rx : Bool) (off : BitVec 16) : Statement (.sts a b wd rx off) := of rfl rfl rfl fun _ => by
  cases wd <;> cases rx <;> rfl
theorem stsL (a : Reg) (b : Reg) (wd : MemW) (rx : Bool) (off : BitVec 32) : Statement (.stsL a b wd rx off) := of rfl rfl rfl fun _ => by
  cases wd <;> cases rx <;> rfl
theorem vldg (d : Reg) (a : Reg) (rx : Bool) (off : BitVec 16) : Statement (.vldg d a rx off) := of rfl rfl rfl fun _ => by
  cases rx <;> rfl
theorem vldgL (d : Reg) (a : Reg) (rx : Bool) (off : BitVec 32) : Statement (.vldgL d a rx off) := of rfl rfl rfl fun _ => by
  cases rx <;> rfl
theorem vstg (a : Reg) (b : Reg) (wd : MemW) (rx : Bool) (off : BitVec 16) : Statement (.vstg a b wd rx off) := of rfl rfl rfl fun _ => by
  cases wd <;> cases rx <;> rfl
theorem vstgL (a : Reg) (b : Reg) (wd : MemW) (rx : Bool) (off : BitVec 32) : Statement (.vstgL a b wd rx off) := of rfl rfl rfl fun _ => by
  cases wd <;> cases rx <;> rfl
theorem vlds (d : Reg) (a : Reg) (rx : Bool) (off : BitVec 16) : Statement (.vlds d a rx off) := of rfl rfl rfl fun _ => by
  cases rx <;> rfl
theorem vldsL (d : Reg) (a : Reg) (rx : Bool) (off : BitVec 32) : Statement (.vldsL d a rx off) := of rfl rfl rfl fun _ => by
  cases rx <;> rfl
theorem vsts (a : Reg) (b : Reg) (wd : MemW) (rx : Bool) (off : BitVec 16) : Statement (.vsts a b wd rx off) := of rfl rfl rfl fun _ => by
  cases wd <;> cases rx <;> rfl
theorem vstsL (a : Reg) (b : Reg) (wd : MemW) (rx : Bool) (off : BitVec 32) : Statement (.vstsL a b wd rx off) := of rfl rfl rfl fun _ => by
  cases wd <;> cases rx <;> rfl
theorem reclassifyComplete (job : Nat) : Statement (.reclassifyComplete job) := ofNone rfl
theorem migrationDeparture (core : Nat) (slot : Nat) : Statement (.migrationDeparture core slot) := ofNone rfl
theorem landing (msg : Nat) : Statement (.landing msg) := ofNone rfl
theorem landingFromPlace (core : Nat) : Statement (.landingFromPlace core) := ofNone rfl
theorem migrationRefused (msg : Nat) : Statement (.migrationRefused msg) := ofNone rfl
theorem bankAccessArrive (msg : Nat) : Statement (.bankAccessArrive msg) := ofNone rfl
theorem accessComplete (core : Nat) (slot : Nat) : Statement (.accessComplete core slot) := ofNone rfl
theorem variableResultArrival (core : Nat) (slot : Nat) (id : Nat) : Statement (.variableResultArrival core slot id) := ofNone rfl
theorem streamDetectorTimeout (slice : Nat) (port : Nat) : Statement (.streamDetectorTimeout slice port) := ofNone rfl
theorem homeProbeTimeout (core : Nat) (slot : Nat) (probed : Nat) : Statement (.homeProbeTimeout core slot probed) := ofNone rfl
theorem take (d : Reg) (a : Reg) (off : BitVec 16) : Statement (.take d a off) := of rfl rfl rfl fun _ => rfl
theorem put (d : Reg) (a : Reg) (b : Reg) (off : BitVec 16) : Statement (.put d a b off) := of rfl rfl rfl fun _ => rfl
theorem peek (d : Reg) (a : Reg) (off : BitVec 16) : Statement (.peek d a off) := of rfl rfl rfl fun _ => rfl
theorem feClr (a : Reg) (off : BitVec 16) : Statement (.feClr a off) := of rfl rfl rfl fun _ => rfl
theorem feSet (a : Reg) (off : BitVec 16) : Statement (.feSet a off) := of rfl rfl rfl fun _ => rfl
theorem lease (d : Reg) (a : Reg) : Statement (.lease d a) := of rfl rfl rfl fun _ => rfl
theorem release (d : Reg) : Statement (.release d) := of rfl rfl rfl fun _ => rfl
theorem leaseHeld (core : Nat) (slot : Nat) : Statement (.leaseHeld core slot) := ofNone rfl
theorem leaseExpired (core : Nat) (slot : Nat) : Statement (.leaseExpired core slot) := ofNone rfl
theorem amoAdd (d : Reg) (a : Reg) (b : Reg) (wd : AtomW) : Statement (.amoAdd d a b wd) := of rfl rfl rfl fun _ => by
  cases wd <;> rfl
theorem amoAnd (d : Reg) (a : Reg) (b : Reg) (wd : AtomW) : Statement (.amoAnd d a b wd) := of rfl rfl rfl fun _ => by
  cases wd <;> rfl
theorem amoOr (d : Reg) (a : Reg) (b : Reg) (wd : AtomW) : Statement (.amoOr d a b wd) := of rfl rfl rfl fun _ => by
  cases wd <;> rfl
theorem amoXor (d : Reg) (a : Reg) (b : Reg) (wd : AtomW) : Statement (.amoXor d a b wd) := of rfl rfl rfl fun _ => by
  cases wd <;> rfl
theorem amoSwap (d : Reg) (a : Reg) (b : Reg) (wd : AtomW) : Statement (.amoSwap d a b wd) := of rfl rfl rfl fun _ => by
  cases wd <;> rfl
theorem amoMin (d : Reg) (a : Reg) (b : Reg) (wd : AtomW) : Statement (.amoMin d a b wd) := of rfl rfl rfl fun _ => by
  cases wd <;> rfl
theorem amoMax (d : Reg) (a : Reg) (b : Reg) (wd : AtomW) : Statement (.amoMax d a b wd) := of rfl rfl rfl fun _ => by
  cases wd <;> rfl
theorem amoMinZ (d : Reg) (a : Reg) (b : Reg) (wd : AtomW) : Statement (.amoMinZ d a b wd) := of rfl rfl rfl fun _ => by
  cases wd <;> rfl
theorem amoMaxZ (d : Reg) (a : Reg) (b : Reg) (wd : AtomW) : Statement (.amoMaxZ d a b wd) := of rfl rfl rfl fun _ => by
  cases wd <;> rfl
theorem amoCas (d : Reg) (a : Reg) (b : Reg) (wd : CasW) : Statement (.amoCas d a b wd) := of rfl rfl rfl fun _ => by
  cases wd <;> rfl
theorem amoFadd (d : Reg) (a : Reg) (b : Reg) : Statement (.amoFadd d a b) := of rfl rfl rfl fun _ => rfl
theorem redAdd (a : Reg) (b : Reg) (wd : AtomW) : Statement (.redAdd a b wd) := of rfl rfl rfl fun _ => by
  cases wd <;> rfl
theorem redAnd (a : Reg) (b : Reg) (wd : AtomW) : Statement (.redAnd a b wd) := of rfl rfl rfl fun _ => by
  cases wd <;> rfl
theorem redOr (a : Reg) (b : Reg) (wd : AtomW) : Statement (.redOr a b wd) := of rfl rfl rfl fun _ => by
  cases wd <;> rfl
theorem redXor (a : Reg) (b : Reg) (wd : AtomW) : Statement (.redXor a b wd) := of rfl rfl rfl fun _ => by
  cases wd <;> rfl
theorem redMin (a : Reg) (b : Reg) (wd : AtomW) : Statement (.redMin a b wd) := of rfl rfl rfl fun _ => by
  cases wd <;> rfl
theorem redMax (a : Reg) (b : Reg) (wd : AtomW) : Statement (.redMax a b wd) := of rfl rfl rfl fun _ => by
  cases wd <;> rfl
theorem redMinZ (a : Reg) (b : Reg) (wd : AtomW) : Statement (.redMinZ a b wd) := of rfl rfl rfl fun _ => by
  cases wd <;> rfl
theorem redMaxZ (a : Reg) (b : Reg) (wd : AtomW) : Statement (.redMaxZ a b wd) := of rfl rfl rfl fun _ => by
  cases wd <;> rfl
theorem redFadd (a : Reg) (b : Reg) : Statement (.redFadd a b) := of rfl rfl rfl fun _ => rfl
theorem faddC (d : Reg) (a : Reg) (b : Reg) : Statement (.faddC d a b) := of rfl rfl rfl fun _ => rfl
theorem fenceSlot : Statement (.fenceSlot) := of rfl rfl rfl fun _ => rfl
theorem fenceCore : Statement (.fenceCore) := of rfl rfl rfl fun _ => rfl
theorem fenceTray : Statement (.fenceTray) := of rfl rfl rfl fun _ => rfl
theorem fenceDie : Statement (.fenceDie) := of rfl rfl rfl fun _ => rfl
theorem fenceDev : Statement (.fenceDev) := of rfl rfl rfl fun _ => rfl
theorem fencePod : Statement (.fencePod) := of rfl rfl rfl fun _ => rfl
theorem fenceSys : Statement (.fenceSys) := of rfl rfl rfl fun _ => rfl
theorem barInit (a : Reg) (b : Reg) : Statement (.barInit a b) := of rfl rfl rfl fun _ => rfl
theorem barArr (d : Reg) (a : Reg) : Statement (.barArr d a) := of rfl rfl rfl fun _ => rfl
theorem barWait (d : Reg) (a : Reg) (b : Reg) : Statement (.barWait d a b) := of rfl rfl rfl fun _ => rfl
theorem barSync (d : Reg) (a : Reg) : Statement (.barSync d a) := of rfl rfl rfl fun _ => rfl
theorem barInv (a : Reg) : Statement (.barInv a) := of rfl rfl rfl fun _ => rfl
theorem barrierOpArrive (msg : Nat) : Statement (.barrierOpArrive msg) := ofNone rfl
theorem msgSend (d : Reg) (a : Reg) (b : Reg) : Statement (.msgSend d a b) := of rfl rfl rfl fun _ => rfl
theorem msgDeliver (msg : Nat) : Statement (.msgDeliver msg) := ofNone rfl
theorem subOn (d : Reg) (a : Reg) (b : Reg) : Statement (.subOn d a b) := of rfl rfl rfl fun _ => rfl
theorem subOwn (d : Reg) (a : Reg) : Statement (.subOwn d a) := of rfl rfl rfl fun _ => rfl
theorem subOff (a : Reg) : Statement (.subOff a) := of rfl rfl rfl fun _ => rfl
theorem subscriptionUpdate (msg : Nat) : Statement (.subscriptionUpdate msg) := ofNone rfl
theorem initialCopy (core : Nat) (seg : Nat) : Statement (.initialCopy core seg) := ofNone rfl
theorem intransitDone (core : Nat) (seg : Nat) : Statement (.intransitDone core seg) := ofNone rfl
theorem vaddInt (d : Reg) (a : Reg) (b : Reg) (sx : Bool) (c : VCtl) : Statement (.vaddInt d a b sx c) := of rfl rfl rfl fun _ => by
  rw [body_vec _ _ _ _ _ _ (by decide)]; cases sx <;> rfl
theorem vsubInt (d : Reg) (a : Reg) (b : Reg) (sx : Bool) (c : VCtl) : Statement (.vsubInt d a b sx c) := of rfl rfl rfl fun _ => by
  rw [body_vec _ _ _ _ _ _ (by decide)]; cases sx <;> rfl
theorem vmulInt (d : Reg) (a : Reg) (b : Reg) (sx : Bool) (c : VCtl) : Statement (.vmulInt d a b sx c) := of rfl rfl rfl fun _ => by
  rw [body_vec _ _ _ _ _ _ (by decide)]; cases sx <;> rfl
theorem vmulh (d : Reg) (a : Reg) (b : Reg) (sx : Bool) (c : VCtl) : Statement (.vmulh d a b sx c) := of rfl rfl rfl fun _ => by
  rw [body_vec _ _ _ _ _ _ (by decide)]; cases sx <;> rfl
theorem vand (d : Reg) (a : Reg) (b : Reg) (sx : Bool) (c : VCtl) : Statement (.vand d a b sx c) := of rfl rfl rfl fun _ => by
  rw [body_vec _ _ _ _ _ _ (by decide)]; cases sx <;> rfl
theorem vor (d : Reg) (a : Reg) (b : Reg) (sx : Bool) (c : VCtl) : Statement (.vor d a b sx c) := of rfl rfl rfl fun _ => by
  rw [body_vec _ _ _ _ _ _ (by decide)]; cases sx <;> rfl
theorem vxor (d : Reg) (a : Reg) (b : Reg) (sx : Bool) (c : VCtl) : Statement (.vxor d a b sx c) := of rfl rfl rfl fun _ => by
  rw [body_vec _ _ _ _ _ _ (by decide)]; cases sx <;> rfl
theorem vsll (d : Reg) (a : Reg) (b : Reg) (sx : Bool) (c : VCtl) : Statement (.vsll d a b sx c) := of rfl rfl rfl fun _ => by
  rw [body_vec _ _ _ _ _ _ (by decide)]; cases sx <;> rfl
theorem vsrl (d : Reg) (a : Reg) (b : Reg) (sx : Bool) (c : VCtl) : Statement (.vsrl d a b sx c) := of rfl rfl rfl fun _ => by
  rw [body_vec _ _ _ _ _ _ (by decide)]; cases sx <;> rfl
theorem vsra (d : Reg) (a : Reg) (b : Reg) (sx : Bool) (c : VCtl) : Statement (.vsra d a b sx c) := of rfl rfl rfl fun _ => by
  rw [body_vec _ _ _ _ _ _ (by decide)]; cases sx <;> rfl
theorem vminInt (d : Reg) (a : Reg) (b : Reg) (sx : Bool) (c : VCtl) : Statement (.vminInt d a b sx c) := of rfl rfl rfl fun _ => by
  rw [body_vec _ _ _ _ _ _ (by decide)]; cases sx <;> rfl
theorem vmaxInt (d : Reg) (a : Reg) (b : Reg) (sx : Bool) (c : VCtl) : Statement (.vmaxInt d a b sx c) := of rfl rfl rfl fun _ => by
  rw [body_vec _ _ _ _ _ _ (by decide)]; cases sx <;> rfl
theorem vaddSat (d : Reg) (a : Reg) (b : Reg) (sx : Bool) (c : VCtl) : Statement (.vaddSat d a b sx c) := of rfl rfl rfl fun _ => by
  rw [body_vec _ _ _ _ _ _ (by decide)]; cases sx <;> rfl
theorem vsubSat (d : Reg) (a : Reg) (b : Reg) (sx : Bool) (c : VCtl) : Statement (.vsubSat d a b sx c) := of rfl rfl rfl fun _ => by
  rw [body_vec _ _ _ _ _ _ (by decide)]; cases sx <;> rfl
theorem vabsInt (d : Reg) (a : Reg) (c : VCtl) : Statement (.vabsInt d a c) := of rfl rfl rfl fun _ => by
  rw [body_vec _ _ _ _ _ _ (by decide)]; rfl
theorem vaddFp (d : Reg) (a : Reg) (b : Reg) (sx : Bool) (c : VCtl) : Statement (.vaddFp d a b sx c) := of rfl rfl rfl fun _ => by
  rw [body_vec _ _ _ _ _ _ (by decide)]; cases sx <;> rfl
theorem vsubFp (d : Reg) (a : Reg) (b : Reg) (sx : Bool) (c : VCtl) : Statement (.vsubFp d a b sx c) := of rfl rfl rfl fun _ => by
  rw [body_vec _ _ _ _ _ _ (by decide)]; cases sx <;> rfl
theorem vmulFp (d : Reg) (a : Reg) (b : Reg) (sx : Bool) (c : VCtl) : Statement (.vmulFp d a b sx c) := of rfl rfl rfl fun _ => by
  rw [body_vec _ _ _ _ _ _ (by decide)]; cases sx <;> rfl
theorem vminFp (d : Reg) (a : Reg) (b : Reg) (sx : Bool) (c : VCtl) : Statement (.vminFp d a b sx c) := of rfl rfl rfl fun _ => by
  rw [body_vec _ _ _ _ _ _ (by decide)]; cases sx <;> rfl
theorem vmaxFp (d : Reg) (a : Reg) (b : Reg) (sx : Bool) (c : VCtl) : Statement (.vmaxFp d a b sx c) := of rfl rfl rfl fun _ => by
  rw [body_vec _ _ _ _ _ _ (by decide)]; cases sx <;> rfl
theorem vabsFp (d : Reg) (a : Reg) (c : VCtl) : Statement (.vabsFp d a c) := of rfl rfl rfl fun _ => by
  rw [body_vec _ _ _ _ _ _ (by decide)]; rfl
theorem vneg (d : Reg) (a : Reg) (c : VCtl) : Statement (.vneg d a c) := of rfl rfl rfl fun _ => by
  rw [body_vec _ _ _ _ _ _ (by decide)]; rfl
theorem vfma (d : Reg) (a : Reg) (b : Reg) (sx : Bool) (c : VCtl) : Statement (.vfma d a b sx c) := of rfl rfl rfl fun _ => by
  rw [body_vec _ _ _ _ _ _ (by decide)]; cases sx <;> rfl
theorem vfms (d : Reg) (a : Reg) (b : Reg) (sx : Bool) (c : VCtl) : Statement (.vfms d a b sx c) := of rfl rfl rfl fun _ => by
  rw [body_vec _ _ _ _ _ _ (by decide)]; cases sx <;> rfl
theorem vfnma (d : Reg) (a : Reg) (b : Reg) (sx : Bool) (c : VCtl) : Statement (.vfnma d a b sx c) := of rfl rfl rfl fun _ => by
  rw [body_vec _ _ _ _ _ _ (by decide)]; cases sx <;> rfl
theorem vfnms (d : Reg) (a : Reg) (b : Reg) (sx : Bool) (c : VCtl) : Statement (.vfnms d a b sx c) := of rfl rfl rfl fun _ => by
  rw [body_vec _ _ _ _ _ _ (by decide)]; cases sx <;> rfl
theorem vcmpEq (d : Reg) (a : Reg) (b : Reg) (c : VCtl) : Statement (.vcmpEq d a b c) := of rfl rfl rfl fun _ => by
  rw [body_vec _ _ _ _ _ _ (by decide)]; rfl
theorem vcmpNe (d : Reg) (a : Reg) (b : Reg) (c : VCtl) : Statement (.vcmpNe d a b c) := of rfl rfl rfl fun _ => by
  rw [body_vec _ _ _ _ _ _ (by decide)]; rfl
theorem vcmpLt (d : Reg) (a : Reg) (b : Reg) (c : VCtl) : Statement (.vcmpLt d a b c) := of rfl rfl rfl fun _ => by
  rw [body_vec _ _ _ _ _ _ (by decide)]; rfl
theorem vcmpGe (d : Reg) (a : Reg) (b : Reg) (c : VCtl) : Statement (.vcmpGe d a b c) := of rfl rfl rfl fun _ => by
  rw [body_vec _ _ _ _ _ _ (by decide)]; rfl
theorem vcmpLe (d : Reg) (a : Reg) (b : Reg) (c : VCtl) : Statement (.vcmpLe d a b c) := of rfl rfl rfl fun _ => by
  rw [body_vec _ _ _ _ _ _ (by decide)]; rfl
theorem vcmpGt (d : Reg) (a : Reg) (b : Reg) (c : VCtl) : Statement (.vcmpGt d a b c) := of rfl rfl rfl fun _ => by
  rw [body_vec _ _ _ _ _ _ (by decide)]; rfl
theorem vsel (d : Reg) (a : Reg) (b : Reg) (c : VCtl) : Statement (.vsel d a b c) := of rfl rfl rfl fun _ => by
  rw [body_vec _ _ _ _ _ _ (by decide)]; rfl
theorem vperm (d : Reg) (a : Reg) (b : Reg) (c : VCtl) : Statement (.vperm d a b c) := of rfl rfl rfl fun hw => by
  rw [body_perm _ _ _ _ _ (noPair hw)]; rfl
theorem vperm2 (d : Reg) (a : Reg) (b : Reg) (c : VCtl) : Statement (.vperm2 d a b c) := of rfl rfl rfl fun hw => by
  rw [body_perm _ _ _ _ _ (noPair hw)]; rfl
theorem vbcast (d : Reg) (a : Reg) (c : VCtl) : Statement (.vbcast d a c) := of rfl rfl rfl fun hw => by
  rw [body_perm _ _ _ _ _ (noPair hw)]; rfl
theorem vbcastl (d : Reg) (a : Reg) (idx : BitVec 8) (c : VCtl) : Statement (.vbcastl d a idx c) := of rfl rfl rfl fun hw => by
  rw [body_idx _ _ _ _ _ _ (noPair (Bool.and_eq_true_iff.mp hw).1)]; rfl
theorem vslup (d : Reg) (a : Reg) (b : Reg) (idx : BitVec 8) (c : VCtl) : Statement (.vslup d a b idx c) := of rfl rfl rfl fun hw => by
  rw [body_idx _ _ _ _ _ _ (noPair (Bool.and_eq_true_iff.mp hw).1)]; rfl
theorem vsldn (d : Reg) (a : Reg) (b : Reg) (idx : BitVec 8) (c : VCtl) : Statement (.vsldn d a b idx c) := of rfl rfl rfl fun hw => by
  rw [body_idx _ _ _ _ _ _ (noPair (Bool.and_eq_true_iff.mp hw).1)]; rfl
theorem vins (d : Reg) (a : Reg) (idx : BitVec 8) (c : VCtl) : Statement (.vins d a idx c) := of rfl rfl rfl fun hw => by
  rw [body_idx _ _ _ _ _ _ (noPair (Bool.and_eq_true_iff.mp (Bool.and_eq_true_iff.mp hw).1).1)]; rfl
theorem vext (d : Reg) (a : Reg) (idx : BitVec 8) (c : VCtl) : Statement (.vext d a idx c) := of rfl rfl rfl fun hw => by
  rw [body_idx _ _ _ _ _ _ (noPair (Bool.and_eq_true_iff.mp (Bool.and_eq_true_iff.mp hw).1).1)]; rfl
theorem vredAdd (d : Reg) (a : Reg) (c : VCtl) : Statement (.vredAdd d a c) := of rfl rfl rfl fun _ => by
  rw [body_vec _ _ _ _ _ _ (by decide)]; rfl
theorem vredMin (d : Reg) (a : Reg) (c : VCtl) : Statement (.vredMin d a c) := of rfl rfl rfl fun _ => by
  rw [body_vec _ _ _ _ _ _ (by decide)]; rfl
theorem vredMax (d : Reg) (a : Reg) (c : VCtl) : Statement (.vredMax d a c) := of rfl rfl rfl fun _ => by
  rw [body_vec _ _ _ _ _ _ (by decide)]; rfl
theorem vredAnd (d : Reg) (a : Reg) (c : VCtl) : Statement (.vredAnd d a c) := of rfl rfl rfl fun _ => by
  rw [body_vec _ _ _ _ _ _ (by decide)]; rfl
theorem vredOr (d : Reg) (a : Reg) (c : VCtl) : Statement (.vredOr d a c) := of rfl rfl rfl fun _ => by
  rw [body_vec _ _ _ _ _ _ (by decide)]; rfl
theorem vredXor (d : Reg) (a : Reg) (c : VCtl) : Statement (.vredXor d a c) := of rfl rfl rfl fun _ => by
  rw [body_vec _ _ _ _ _ _ (by decide)]; rfl
theorem vcvt (d : Reg) (a : Reg) (g : BitVec 3) (st : LaneT) (lt : LaneT) (rm : RmSel) : Statement (.vcvt d a g st lt rm) := of rfl rfl rfl fun _ => by
  rw [body_cvt]
  cases st <;> cases lt <;> cases rm <;> rfl
theorem vcvtN (d : Reg) (a : Reg) (b : Reg) (g : BitVec 3) (st : LaneT) (k : BitVec 2) (rm : RmSel) : Statement (.vcvtN d a b g st k rm) := of rfl rfl rfl fun _ => by
  rw [body_cvt]
  rcases two k with rfl | rfl | rfl | rfl <;> cases st <;> cases rm <;> rfl
theorem vcvtW (d : Reg) (a : Reg) (b : Reg) (g : BitVec 3) (lt : LaneT) (k : BitVec 2) (rm : RmSel) : Statement (.vcvtW d a b g lt k rm) := of rfl rfl rfl fun _ => by
  rw [body_cvt]
  rcases two k with rfl | rfl | rfl | rfl <;> cases lt <;> cases rm <;> rfl
theorem strCfg (k : BitVec 2) (a : Reg) : Statement (.strCfg k a) := of rfl rfl rfl fun _ => by
  rcases two k with rfl | rfl | rfl | rfl <;> rfl
theorem strStop (k : BitVec 2) : Statement (.strStop k) := of rfl rfl rfl fun _ => by
  rcases two k with rfl | rfl | rfl | rfl <;> rfl
theorem bstr (k : BitVec 2) (off : BitVec 16) : Statement (.bstr k off) := of rfl rfl rfl fun _ => by
  rcases two k with rfl | rfl | rfl | rfl <;> rfl
theorem streamChunkArrive (core : Nat) (slot : Nat) (k : Nat) : Statement (.streamChunkArrive core slot k) := ofNone rfl
theorem vexp (d : Reg) (a : Reg) (c : VCtl) : Statement (.vexp d a c) := of rfl rfl rfl fun _ => by
  rw [body_vec _ _ _ _ _ _ (by decide)]; rfl
theorem vexp2 (d : Reg) (a : Reg) (c : VCtl) : Statement (.vexp2 d a c) := of rfl rfl rfl fun _ => by
  rw [body_vec _ _ _ _ _ _ (by decide)]; rfl
theorem vlog2 (d : Reg) (a : Reg) (c : VCtl) : Statement (.vlog2 d a c) := of rfl rfl rfl fun _ => by
  rw [body_vec _ _ _ _ _ _ (by decide)]; rfl
theorem vrcp (d : Reg) (a : Reg) (c : VCtl) : Statement (.vrcp d a c) := of rfl rfl rfl fun _ => by
  rw [body_vec _ _ _ _ _ _ (by decide)]; rfl
theorem vrsqrt (d : Reg) (a : Reg) (c : VCtl) : Statement (.vrsqrt d a c) := of rfl rfl rfl fun _ => by
  rw [body_vec _ _ _ _ _ _ (by decide)]; rfl
theorem vsqrt (d : Reg) (a : Reg) (c : VCtl) : Statement (.vsqrt d a c) := of rfl rfl rfl fun _ => by
  rw [body_vec _ _ _ _ _ _ (by decide)]; rfl
theorem vsin (d : Reg) (a : Reg) (c : VCtl) : Statement (.vsin d a c) := of rfl rfl rfl fun _ => by
  rw [body_vec _ _ _ _ _ _ (by decide)]; rfl
theorem vcos (d : Reg) (a : Reg) (c : VCtl) : Statement (.vcos d a c) := of rfl rfl rfl fun _ => by
  rw [body_vec _ _ _ _ _ _ (by decide)]; rfl
theorem vtanh (d : Reg) (a : Reg) (c : VCtl) : Statement (.vtanh d a c) := of rfl rfl rfl fun _ => by
  rw [body_vec _ _ _ _ _ _ (by decide)]; rfl
theorem vsigm (d : Reg) (a : Reg) (c : VCtl) : Statement (.vsigm d a c) := of rfl rfl rfl fun _ => by
  rw [body_vec _ _ _ _ _ _ (by decide)]; rfl
theorem topkCfg (a : Reg) (lt : LaneT) (smallest : Bool) : Statement (.topkCfg a lt smallest) := of rfl rfl rfl fun _ => by
  cases lt <;> cases smallest <;> rfl
theorem topkIn (a : Reg) : Statement (.topkIn a) := of rfl rfl rfl fun _ => rfl
theorem topkOut (d : Reg) : Statement (.topkOut d) := of rfl rfl rfl fun _ => rfl
theorem topkMerge (a : Reg) : Statement (.topkMerge a) := of rfl rfl rfl fun _ => rfl
theorem topkChunk (core : Nat) (slot : Nat) : Statement (.topkChunk core slot) := ofNone rfl
theorem osClaim (d : Reg) (os : BitVec 6) : Statement (.osClaim d os) := of rfl rfl rfl fun _ => by
  change onlyIf (((os.zeroExtend 16).extractLsb' 6 10 == 0) && (0#5 == 0) && (0#5 == 0)) (.osClaim d ((os.zeroExtend 16).extractLsb' 0 6)) = _
  rw [(six os).1, (six os).2]; rfl
theorem osRel (os : BitVec 6) : Statement (.osRel os) := of rfl rfl rfl fun _ => by
  change onlyIf (((os.zeroExtend 16).extractLsb' 6 10 == 0) && (0#5 == 0) && (0#5 == 0) && (0#5 == 0)) (.osRel ((os.zeroExtend 16).extractLsb' 0 6)) = _
  rw [(six os).1, (six os).2]; rfl
theorem osLdG (a : Reg) (b : Reg) (os : BitVec 6) (n4 : Bool) : Statement (.osLdG a b os n4) := of rfl rfl rfl fun _ => by
  change onlyIf (((osImm os n4).extractLsb' 7 9 == 0) && (0#5 == 0)) (.osLdG a b ((osImm os n4).extractLsb' 0 6) ((osImm os n4).getLsbD 6)) = _
  rw [(slotImm n4 os).1, (slotImm n4 os).2.1, (slotImm n4 os).2.2]; rfl
theorem osLdS (a : Reg) (b : Reg) (os : BitVec 6) (n4 : Bool) : Statement (.osLdS a b os n4) := of rfl rfl rfl fun _ => by
  change onlyIf (((osImm os n4).extractLsb' 7 9 == 0) && (0#5 == 0)) (.osLdS a b ((osImm os n4).extractLsb' 0 6) ((osImm os n4).getLsbD 6)) = _
  rw [(slotImm n4 os).1, (slotImm n4 os).2.1, (slotImm n4 os).2.2]; rfl
theorem osLdHr (a : Reg) (b : Reg) (os : BitVec 6) : Statement (.osLdHr a b os) := of rfl rfl rfl fun _ => by
  change onlyIf (((os.zeroExtend 16).extractLsb' 6 10 == 0) && (0#5 == 0)) (.osLdHr a b ((os.zeroExtend 16).extractLsb' 0 6)) = _
  rw [(six os).1, (six os).2]; rfl
theorem osLdHc (a : Reg) (b : Reg) (os : BitVec 6) : Statement (.osLdHc a b os) := of rfl rfl rfl fun _ => by
  change onlyIf (((os.zeroExtend 16).extractLsb' 6 10 == 0) && (0#5 == 0)) (.osLdHc a b ((os.zeroExtend 16).extractLsb' 0 6)) = _
  rw [(six os).1, (six os).2]; rfl
theorem osStG (a : Reg) (os : BitVec 6) : Statement (.osStG a os) := of rfl rfl rfl fun _ => by
  change onlyIf (((os.zeroExtend 16).extractLsb' 6 10 == 0) && (0#5 == 0) && (0#5 == 0)) (.osStG a ((os.zeroExtend 16).extractLsb' 0 6)) = _
  rw [(six os).1, (six os).2]; rfl
theorem osStS (a : Reg) (os : BitVec 6) : Statement (.osStS a os) := of rfl rfl rfl fun _ => by
  change onlyIf (((os.zeroExtend 16).extractLsb' 6 10 == 0) && (0#5 == 0) && (0#5 == 0)) (.osStS a ((os.zeroExtend 16).extractLsb' 0 6)) = _
  rw [(six os).1, (six os).2]; rfl
theorem osFillComplete (core : Nat) (os : Nat) : Statement (.osFillComplete core os) := ofNone rfl
theorem mxMul (f : MxFields) : Statement (.mxMul f) := of rfl rfl rfl fun _ => by
  change onlyIf (f.imm.extractLsb' 29 3 == 0 && !f.imm.getLsbD 27 && !f.imm.getLsbD 23) (.mxMul (mxFields f.imm)) = _
  rw [fieldsMx, (zeroMx f).1, (zeroMx f).2.1, (zeroMx f).2.2]; rfl
theorem mxMrot (f : MxFields) : Statement (.mxMrot f) := of rfl rfl rfl fun hw => by
  change onlyIf ((f.imm.extractLsb' 29 3 == 0 && !f.imm.getLsbD 27 && !f.imm.getLsbD 23) && (mxFields f.imm).oa != (mxFields f.imm).ob)
    (.mxMrot (mxFields f.imm)) = _
  rw [fieldsMx, (zeroMx f).1, (zeroMx f).2.1, (zeroMx f).2.2]
  exact if_pos hw
theorem mxZero (seg : BitVec 8) : Statement (.mxZero seg) := of rfl rfl rfl fun _ => by
  change onlyIf (((0#12 ++ (seg ++ 0#12) : BitVec 32).extractLsb' 20 12 == 0) && ((0#12 ++ (seg ++ 0#12) : BitVec 32).extractLsb' 0 12 == 0))
    (.mxZero ((0#12 ++ (seg ++ 0#12) : BitVec 32).extractLsb' 12 8)) = _
  rw [(segImm seg).1, (segImm seg).2.1, (segImm seg).2.2]; rfl
theorem mxDrain (f : DrainFields) : Statement (.mxDrain f) := of rfl rfl rfl fun hw => fieldsDrain f hw
theorem matrixStart (core : Nat) : Statement (.matrixStart core) := ofNone rfl
theorem matrixRetire (core : Nat) : Statement (.matrixRetire core) := ofNone rfl
theorem mrotShipmentLand (msg : Nat) : Statement (.mrotShipmentLand msg) := ofNone rfl
theorem drainChunk (core : Nat) : Statement (.drainChunk core) := ofNone rfl
theorem cpy (d : Reg) (a : Reg) : Statement (.cpy d a) := of rfl rfl rfl fun _ => rfl
theorem cpyNb (d : Reg) (a : Reg) : Statement (.cpyNb d a) := of rfl rfl rfl fun _ => rfl
theorem copyAccept (core : Nat) : Statement (.copyAccept core) := ofNone rfl
theorem copyComplete (job : Nat) : Statement (.copyComplete job) := ofNone rfl
theorem promiseMissed (core : Nat) (slot : Nat) (job : Nat) : Statement (.promiseMissed core slot job) := ofNone rfl
theorem thLd (d : Reg) (a : Reg) : Statement (.thLd d a) := of rfl rfl rfl fun _ => rfl
theorem thSeal (a : Reg) : Statement (.thSeal a) := of rfl rfl rfl fun _ => rfl
theorem thRelay (d : Reg) (a : Reg) (b : Reg) (tag : BitVec 8) : Statement (.thRelay d a b tag) := of rfl rfl rfl fun _ => by
  change onlyIf ((2 == 2) && ((tag.zeroExtend 16).extractLsb' 8 8 == 0)) (.thRelay d a b ((tag.zeroExtend 16).extractLsb' 0 8)) = _
  rw [(eight tag).1, (eight tag).2]; rfl
theorem thWait (d : Reg) (a : Reg) : Statement (.thWait d a) := of rfl rfl rfl fun _ => rfl
theorem tldE (d : Reg) (a : Reg) (b : Reg) (rx : Bool) : Statement (.tldE d a b rx) := of rfl rfl rfl fun _ => by
  cases rx <;> rfl
theorem tldV (d : Reg) (a : Reg) (b : Reg) (rx : Bool) : Statement (.tldV d a b rx) := of rfl rfl rfl fun _ => by
  cases rx <;> rfl
theorem tstE (d : Reg) (a : Reg) (b : Reg) (rx : Bool) : Statement (.tstE d a b rx) := of rfl rfl rfl fun _ => by
  cases rx <;> rfl
theorem tstV (d : Reg) (a : Reg) (b : Reg) (rx : Bool) : Statement (.tstV d a b rx) := of rfl rfl rfl fun _ => by
  cases rx <;> rfl
theorem kneadUnit (conv : Nat) : Statement (.kneadUnit conv) := ofNone rfl
theorem kneadFault (conv : Nat) (page : Nat) : Statement (.kneadFault conv page) := ofNone rfl
theorem kneadHardwareError (conv : Nat) : Statement (.kneadHardwareError conv) := ofNone rfl
theorem txSub (d : Reg) (a : Reg) (b : Reg) : Statement (.txSub d a b) := of rfl rfl rfl fun _ => rfl
theorem txAddr (a : Reg) : Statement (.txAddr a) := of rfl rfl rfl fun _ => rfl
theorem txNote (d : Reg) (a : Reg) : Statement (.txNote d a) := of rfl rfl rfl fun _ => rfl
theorem txChk : Statement (.txChk) := of rfl rfl rfl fun _ => rfl
theorem txEnd : Statement (.txEnd) := of rfl rfl rfl fun _ => rfl
theorem spawn (d : Reg) (a : Reg) (b : Reg) (off : BitVec 16) : Statement (.spawn d a b off) := of rfl rfl rfl fun _ => rfl
theorem spawnL (d : Reg) (a : Reg) (b : Reg) (off : BitVec 32) : Statement (.spawnL d a b off) := of rfl rfl rfl fun _ => rfl
theorem spawnArrive (msg : Nat) : Statement (.spawnArrive msg) := ofNone rfl
theorem suspend : Statement (.suspend) := of rfl rfl rfl fun _ => rfl
theorem trap (n : BitVec 4) : Statement (.trap n) := of rfl rfl rfl fun _ => by
  change (if (n.zeroExtend 5).toNat < 16 then some (Instr.trap ((n.zeroExtend 5).extractLsb' 0 4)) else _) = _
  rw [if_pos (four n).2, (four n).1]
theorem tret : Statement (.tret) := of rfl rfl rfl fun _ => rfl
theorem spill (d : Reg) (a : Reg) (b : Reg) : Statement (.spill d a b) := of rfl rfl rfl fun _ => rfl
theorem fill (d : Reg) (a : Reg) (b : Reg) : Statement (.fill d a b) := of rfl rfl rfl fun _ => rfl
theorem spillEngineDone (core : Nat) : Statement (.spillEngineDone core) := ofNone rfl
theorem rqPush (d : Reg) (a : Reg) (b : Reg) : Statement (.rqPush d a b) := of rfl rfl rfl fun _ => rfl
theorem rqPop (d : Reg) : Statement (.rqPop d) := of rfl rfl rfl fun _ => rfl
theorem clsSet (a : Reg) (b : Reg) : Statement (.clsSet a b) := of rfl rfl rfl fun _ => rfl
theorem clsFlush (a : Reg) : Statement (.clsFlush a) := of rfl rfl rfl fun _ => rfl
theorem xinv (a : Reg) (b : Reg) : Statement (.xinv a b) := of rfl rfl rfl fun _ => rfl
theorem corePark (d : Reg) (a : Reg) : Statement (.corePark d a) := of rfl rfl rfl fun _ => rfl
theorem coreUnpark (d : Reg) (a : Reg) : Statement (.coreUnpark d a) := fun _ r hr => by cases hr; rfl
theorem wfe (d : Reg) (a : Reg) (b : Reg) : Statement (.wfe d a b) := of rfl rfl rfl fun _ => rfl
theorem wfeDeadline (core : Nat) (slot : Nat) : Statement (.wfeDeadline core slot) := ofNone rfl
theorem waitLimit (core : Nat) (slot : Nat) : Statement (.waitLimit core slot) := ofNone rfl
theorem timer (core : Nat) (slot : Nat) : Statement (.timer core slot) := ofNone rfl
theorem coreEvent (core : Nat) : Statement (.coreEvent core) := ofNone rfl
theorem pickUp (core : Nat) (slot : Nat) : Statement (.pickUp core slot) := ofNone rfl
theorem loadLevel (core : Nat) : Statement (.loadLevel core) := ofNone rfl
theorem shipArrive (msg : Nat) : Statement (.shipArrive msg) := ofNone rfl
theorem shipAnswer (msg : Nat) : Statement (.shipAnswer msg) := ofNone rfl
theorem watchedLineWrite (part : Nat) (queue : Nat) : Statement (.watchedLineWrite part queue) := ofNone rfl
theorem queueEnable (part : Nat) (queue : Nat) : Statement (.queueEnable part queue) := ofNone rfl
theorem pick (part : Nat) : Statement (.pick part) := ofNone rfl
theorem reconNumbering (tx : Nat) : Statement (.reconNumbering tx) := ofNone rfl
theorem roundCloseWindow (part : Nat) : Statement (.roundCloseWindow part) := ofNone rfl
theorem roundCloseIdle (part : Nat) : Statement (.roundCloseIdle part) := ofNone rfl
theorem podCloseMarkerSend (part : Nat) : Statement (.podCloseMarkerSend part) := ofNone rfl
theorem closeMarker (part : Nat) (mgr : Nat) (dev : Nat) (round : Nat) : Statement (.closeMarker part mgr dev round) := ofNone rfl
theorem lockRequest (msg : Nat) : Statement (.lockRequest msg) := ofNone rfl
theorem setTileTranslationDone (tx : Nat) (tile : Nat) (fault : Bool) : Statement (.setTileTranslationDone tx tile fault) := ofNone rfl
theorem lockRelease (msg : Nat) : Statement (.lockRelease msg) := ofNone rfl
theorem pushLanded (msg : Nat) : Statement (.pushLanded msg) := ofNone rfl
theorem dispatch (tx : Nat) : Statement (.dispatch tx) := ofNone rfl
theorem transactionRetire (tx : Nat) : Statement (.transactionRetire tx) := ofNone rfl
theorem txHardwareError (tx : Nat) (core : Nat) : Statement (.txHardwareError tx core) := ofNone rfl
theorem detReplace (tx : Nat) : Statement (.detReplace tx) := ofNone rfl
theorem detReservationComplete (tx : Nat) : Statement (.detReservationComplete tx) := ofNone rfl
theorem headPin (part : Nat) (queue : Nat) : Statement (.headPin part queue) := ofNone rfl
theorem atsResponse (req : Nat) (ans : AtsAnswer) : Statement (.atsResponse req ans) := ofNone rfl
theorem atsTimeout (req : Nat) : Statement (.atsTimeout req) := ofNone rfl
theorem prgResponseSuccess (req : Nat) : Statement (.prgResponseSuccess req) := ofNone rfl
theorem prgResponseFailure (req : Nat) (invalid : Bool) : Statement (.prgResponseFailure req invalid) := ofNone rfl
theorem pageRequestTimeout (req : Nat) : Statement (.pageRequestTimeout req) := ofNone rfl
theorem replay (core : Nat) : Statement (.replay core) := ofNone rfl
theorem atsInvalidate (pasid : Nat) (va : Nat) (len : Nat) : Statement (.atsInvalidate pasid va len) := ofNone rfl
theorem hostSnoop (addr : Nat) (kind : SnoopKind) : Statement (.hostSnoop addr kind) := ofNone rfl
theorem hostDeviceAccess (addr : Nat) (data : HostData) : Statement (.hostDeviceAccess addr data) := ofNone rfl
theorem stenteFlitReceive (flit : Flit) : Statement (.stenteFlitReceive flit) := ofNone rfl
theorem planeDown (dev : Nat) (plane : Nat) : Statement (.planeDown dev plane) := ofNone rfl
theorem linkTimeout (core : Nat) (slot : Nat) : Statement (.linkTimeout core slot) := ofNone rfl
theorem timeSyncSend : Statement (.timeSyncSend) := ofNone rfl
theorem membershipChange (change : Membership) : Statement (.membershipChange change) := ofNone rfl
theorem powerOnReset : Statement (.powerOnReset) := ofNone rfl
theorem fundamentalReset : Statement (.fundamentalReset) := ofNone rfl
theorem functionLevelReset (part : Nat) : Statement (.functionLevelReset part) := ofNone rfl
theorem partSet (part : Nat) (rec : PartRecord) : Statement (.partSet part rec) := ofNone rfl
theorem partClear (part : Nat) : Statement (.partClear part) := ofNone rfl
theorem ivfSet (island : Nat) (freq : Nat) : Statement (.ivfSet island freq) := ofNone rfl
theorem capSet (watts : Nat) : Statement (.capSet watts) := ofNone rfl
theorem powerCapCheck : Statement (.powerCapCheck) := ofNone rfl
theorem thermalTrip (island : Nat) : Statement (.thermalTrip island) := ofNone rfl
theorem thermalRecover (island : Nat) : Statement (.thermalRecover island) := ofNone rfl
theorem softError (unit : HwUnit) : Statement (.softError unit) := ofNone rfl
theorem uncorrectableError (unit : HwUnit) : Statement (.uncorrectableError unit) := ofNone rfl
theorem retire (unit : HwUnit) : Statement (.retire unit) := ofNone rfl
theorem fwStage (image : FwImage) : Statement (.fwStage image) := ofNone rfl
theorem fwActivate : Statement (.fwActivate) := ofNone rfl
theorem fwActivateTimeout : Statement (.fwActivateTimeout) := ofNone rfl
theorem fwCommit : Statement (.fwCommit) := ofNone rfl
theorem attest (nonce : Nat) : Statement (.attest nonce) := ofNone rfl
theorem journalClear : Statement (.journalClear) := ofNone rfl
theorem bringup : Statement (.bringup) := ofNone rfl
theorem bringupStepTimeout (step : Nat) : Statement (.bringupStepTimeout step) := ofNone rfl
theorem relaxedAccessComplete (core : Nat) (slot : Nat) (id : Nat) : Statement (.relaxedAccessComplete core slot id) := ofNone rfl
theorem instructionLineArrival (core : Nat) (slot : Nat) : Statement (.instructionLineArrival core slot) := ofNone rfl
theorem illegalOpcode (raw : Raw) : Statement (.illegalOpcode raw) := fun hw r hr => by cases hr; exact if_pos hw
theorem copyEngineHardwareError (core : Nat) : Statement (.copyEngineHardwareError core) := ofNone rfl
theorem stentePlaneUp (dev : Nat) (plane : Nat) : Statement (.stentePlaneUp dev plane) := ofNone rfl
theorem bringupStepDone (step : Nat) (ok : Bool) : Statement (.bringupStepDone step ok) := ofNone rfl
theorem starterReady : Statement (.starterReady) := ofNone rfl

end Sys2Proof.Laws.RoundTrip
end

