-- ==== Sys2Proof/Laws/Step.lean ====
section
/-! SUPPORT. What one step does: an event, a core cycle with the slots that may issue in it, or a tick. -/

namespace Sys2Proof.Machine

theorem advance_turn (s : State) : (advance s).turn < 512 := Nat.mod_lt _ (by decide)

@[simp] theorem advance_tick (s : State) : (advance s).tick = s.tick := rfl
@[simp] theorem advance_ns (s : State) : (advance s).ns = s.ns := rfl
@[simp] theorem advance_agenda (s : State) : (advance s).agenda = s.agenda := rfl
@[simp] theorem advance_cores (s : State) : (advance s).cores = s.cores := rfl
@[simp] theorem advance_slots (s : State) : (advance s).slots = s.slots := rfl
@[simp] theorem advance_parts (s : State) : (advance s).parts = s.parts := rfl
@[simp] theorem advance_txs (s : State) : (advance s).txs = s.txs := rfl
@[simp] theorem advance_devMem (s : State) : (advance s).devMem = s.devMem := rfl
@[simp] theorem advance_hostMem (s : State) : (advance s).hostMem = s.hostMem := rfl

/-- All that the passing of time changes: the time base, the clock, and what is left to slew (R388). -/
theorem passTime_cases (s : State) (n : Nat) : ∃ t h o, s.tick ≤ t ∧
    passTime s n = { s with ns := s.ns + n, tick := t, hub := { s.hub with hold := h, offset := o } } := by
  unfold passTime
  dsimp only
  split
  · exact ⟨_, _, _, by omega, rfl⟩
  · exact ⟨_, _, _, by omega, rfl⟩

theorem mapNext_next {f : State → State} {o : Out} {t : State} (h : mapNext f o = .next t) :
    ∃ u, o = .next u ∧ t = f u := by
  cases o with
  | next u => exact ⟨u, rfl, by simpa [mapNext] using h.symm⟩
  | fault r => simp [mapNext] at h
  | refused r => simp [mapNext] at h

/-- A next state that goes on by a function came from a next state. -/
theorem bindNext_next {o : Out} {f : State → Out} {t : State} (h : bindNext o f = .next t) :
    ∃ u, o = .next u ∧ f u = .next t := by
  cases o with
  | next u => exact ⟨u, rfl, h⟩
  | fault r => simp [bindNext] at h
  | refused r => simp [bindNext] at h

/-- All that a step can do: an event of the agenda, taken out of it; a cycle of a core that owes one; or the passing of a
tick where none does. -/
theorem step_cases (s : State) :
    (∃ u k e, (u = s ∨ u = s.draw) ∧ s.agenda[k]? = some e ∧ step s = mapNext advance (runEvent u k e)) ∨
    (∃ u, (u = s ∨ u = s.draw) ∧ step s = mapNext advance (clockStep u)) := by
  have due : ∀ (l : List Instr) (i k : Nat) (e : Instr), firstDue s l i = some (k, e) → ∃ j, k = i + j ∧ l[j]? = some e := by
    intro l
    induction l with
    | nil => intro i k e h; simp [firstDue] at h
    | cons x xs ih =>
      intro i k e h
      unfold firstDue at h
      split at h
      · simp only [Option.some.injEq, Prod.mk.injEq] at h
        exact ⟨0, by omega, by simp [h.2]⟩
      · obtain ⟨j, hj, hx⟩ := ih _ _ _ h
        exact ⟨j + 1, by omega, by simpa using hx⟩
  unfold step stepOnce
  split
  · rename_i k e h
    obtain ⟨j, hj, hx⟩ := due _ _ _ _ h
    exact .inl ⟨s, k, e, .inl rfl, by simpa [hj] using hx, rfl⟩
  · split
    · exact .inr ⟨s, .inl rfl, rfl⟩
    · dsimp only
      split
      · rename_i h2 _ e h
        exact .inl ⟨s.draw, _, e, .inr rfl, h, rfl⟩
      · exact .inr ⟨s.draw, .inr rfl, rfl⟩

/-- A step ends with the schedule's next choice. -/
theorem step_advance {s t : State} (h : step s = .next t) : ∃ u, t = advance u := by
  rcases step_cases s with ⟨_, _, _, -, -, hs⟩ | ⟨_, -, hs⟩ <;> rw [hs] at h <;> obtain ⟨u, -, hu⟩ := mapNext_next h <;> exact ⟨u, hu⟩

theorem step_due {s : State} {k : Nat} {e : Instr} (h : firstDue s s.agenda 0 = some (k, e)) :
    step s = mapNext advance (runEvent s k e) := by
  simp only [step, stepOnce, h]

/-- A slot that is held back leaves the cycle to the next one; another one takes it (R33). -/
theorem issueFrom_cons {c k : Nat} {ks : List Nat} {s : State} (h : mayIssue s c k = true) :
    issueFrom c (k :: ks) s = bindNext (issueSlot (endYield { s with curCore := c, curSlot := k } (slotKey c k))) fun t =>
      if heldBack t (slotKey c k) then issueFrom c ks t else .next (noteIssue t c k) := by
  simp only [issueFrom, h, if_true]

theorem issueFrom_idle {c : Nat} {ks : List Nat} {s : State} (h : ∀ k ∈ ks, mayIssue s c k = false) :
    issueFrom c ks s = .next s := by
  induction ks with
  | nil => rfl
  | cons k ks ih =>
    simp only [issueFrom, h k (by simp), Bool.false_eq_true, if_false]
    exact ih fun j hj => h j (by simp [hj])

/-- With nothing to resume, a cycle is the issue between its start and its end. -/
theorem resumeSlots_none {s : State} {c : Nat} (h : ∀ k, k < 16 → resumable s c k = false) : resumeSlots s c 16 = .next s := by
  have go : ∀ n, n ≤ 16 → resumeSlots s c n = .next s := by
    intro n
    induction n with
    | zero => intro; rfl
    | succ n ih =>
      intro hn
      simp [resumeSlots, ih (by omega), bindNext, h n (by omega)]
  exact go 16 (by omega)

/-- A slot with no cause to take that has entered its line issues from it. -/
theorem issueSlot_inLine {s : State} {l : Line} (h1 : takeable s.me = []) (h2 : breakpoint s.me = false)
    (h3 : badTargetEarly s.me.pc = false) (h4 : s.me.line = some (lineOf s.me.pc, l)) (h5 : lineFor s.myCore s.me (lineOf s.me.pc) = some l) :
    issueSlot s = issueInLine s (lineOf s.me.pc) l := by
  simp [issueSlot, issueHere, enterLine, h1, lowestCause, h2, h3, h4, h5]

theorem issueInLine_head {s : State} {addr : Word} {l : Line} (h : Line.reason l = none)
    (hp : (s.me.pc.extractLsb' 1 5).toNat ≤ Line.count l) :
    issueInLine s addr l = runHead s (Line.headTail l (s.me.pc.extractLsb' 1 5).toNat).1
      (Line.headTail l (s.me.pc.extractLsb' 1 5).toNat).2 := by
  simp only [issueInLine, checkLine, h]
  rw [if_neg (Nat.not_lt.mpr hp)]

theorem runHead_ok {s : State} {head : BitVec 16} {tail : BitVec 48} {i : Instr} (h : decode head tail = .ok i) :
    runHead s head tail = exec i (s.setMe { s.me with ir := (tail ++ head : Word) }) := by
  simp only [runHead, h]

end Sys2Proof.Machine
end

