-- ==== Sys2Proof/Laws/Vector.lean ====
section
/-! SUPPORT. Vector instructions with plain fields: what their operands read, how their lanes pack, and the result on
its way. -/

namespace Sys2Proof.Machine

theorem boundQueue_none {sl : Slot} {r : Reg} (h : isBound sl r = false) : boundQueue sl r = none := by
  unfold isBound at h
  cases hq : boundQueue sl r <;> simp_all

theorem boundStream_none {sl : Slot} {r : Reg} (h : isBound sl r = false) : boundStream sl r = none := by
  unfold isBound at h
  cases hq : boundStream sl r <;> simp_all

theorem popV_plain {s : State} {r : Reg} (h : isBound s.me r = false) : popV s r = (readV s r, ⟨s, none⟩) := by
  simp [popV, boundQueue_none h, boundStream_none h]

theorem popAll_plain {s : State} (rs : List Reg) (h : ∀ r ∈ rs, isBound s.me r = false) :
    popAll s rs = (rs.map (readV s), ⟨s, none⟩) := by
  induction rs with
  | nil => rfl
  | cons r rs ih =>
    rw [popAll, popV_plain (h r (by simp))]
    simp [ih fun x hx => h x (by simp [hx])]

theorem plainV_plain {s : State} (rs : List Reg) (h : ∀ r ∈ rs, isBound s.me r = false) : plainV s rs = rs.map vreg := by
  unfold plainV
  rw [List.filter_eq_self.mpr (by simpa using h)]

theorem noteBound_plain {s : State} (rs : List Reg) (h : ∀ r ∈ rs, isBound s.me r = false) : noteBound s rs = s := by
  unfold noteBound
  rw [if_neg]
  simpa using h

theorem badPair_plain {sl : Slot} {x2 : Bool} (rs : List Reg)
    (h : ∀ r ∈ rs, isBound sl r = false ∧ (x2 = true → isBound sl (r + 1) = false ∧ r.idx.val ≠ 15)) :
    badPair sl x2 rs = none := by
  induction rs with
  | nil => rfl
  | cons r rs ih =>
    have hr := h r (by simp)
    rw [badPair, ih fun x hx => h x (by simp [hx])]
    cases x2 with
    | false => simp
    | true =>
      have h1 : isBound sl (Reg.succ r 1) = false := (hr.2 rfl).1
      simp [hr.1, h1, (hr.2 rfl).2]

theorem joinPairs_fields (s : State) (x2 : Bool) (rs : List Reg) :
    joinPairs x2 ((rs.flatMap (fieldRegs x2)).map (readV s)) = rs.map (fieldVal s x2) := by
  induction rs with
  | nil => rfl
  | cons r rs ih =>
    cases x2 with
    | true => simpa [fieldRegs, joinPairs, fieldVal, Reg.succ] using ih
    | false =>
      simp only [fieldRegs, List.flatMap_cons, List.map_append, List.map_cons, fieldVal] at ih ⊢
      cases rs with
      | nil => rfl
      | cons q rs => simpa [fieldRegs, joinPairs, fieldVal] using ih

theorem putVector_plain {s0 s : State} {lat : Nat} {x2 : Bool} {d : Reg} {v : Nat} {fl : Word}
    (h : isBound s.me d = false) : putVector s0 s lat x2 d v fl = .next (finish (withVector s x2 d lat v fl)) := by
  cases x2 with
  | true =>
    simp [putVector, withVector, writeFixed, vreg, RegId.isX0, Reg.succ]
  | false =>
    simp [putVector, pushV, boundQueue_none h, boundStream_none h, withVector, writeFixed, vreg, RegId.isX0]

@[simp] theorem nextPc_withVector (s : State) (x2 : Bool) (d : Reg) (lat v : Nat) (fl : Word) :
    nextPc (withVector s x2 d lat v fl) = nextPc s := by
  simp [nextPc, withVector, fallThrough]

/-- What a vector instruction with plain fields does. -/
theorem vectorOp_runs {s : State} {lat : Nat} {x2 merge readD : Bool} {d : Reg} {srcs xs : List Reg}
    (h : VecClear s x2 (readD || merge) d srcs xs) (f : List Nat → Word → Nat → Word → Nat × Word) :
    let r := f (srcs.map (fieldVal s x2) ++ if readD || merge then [fieldVal s x2 d] else [])
      (readX s (xs.headD 0)) (if readD || merge then fieldVal s x2 d else 0) s.me.csr.vm
    RunsTo (vectorOp lat x2 merge d srcs xs readD f s) (withVector s x2 d lat r.1 r.2) (nextPc s) := by
  obtain ⟨hc, hb⟩ := h
  have hfield : ∀ r ∈ d :: srcs, ∀ q ∈ fieldRegs x2 r, isBound s.me q = false := by
    intro r hr q hq
    cases x2 with
    | true =>
      simp only [fieldRegs, if_true, List.mem_cons, List.not_mem_nil, or_false] at hq
      rcases hq with rfl | rfl
      · exact (hb _ hr).1
      · exact ((hb _ hr).2 rfl).1
    | false =>
      simp [fieldRegs] at hq
      subst hq
      exact (hb _ hr).1
  have hsrc : ∀ q ∈ srcs.flatMap (fieldRegs x2), isBound s.me q = false := by
    intro q hq
    obtain ⟨r, hr, hq⟩ := List.mem_flatMap.mp hq
    exact hfield r (by simp [hr]) q hq
  have hd : ∀ q ∈ fieldRegs x2 d, isBound s.me q = false := hfield d (by simp)
  intro r
  have hu : (⟨plainV s (srcs.flatMap (fieldRegs x2)) ++ xs.map xreg ++
      (if readD || merge then plainV s ([d].flatMap (fieldRegs x2)) else []), plainV s ([d].flatMap (fieldRegs x2)), [],
      badPair s.me x2 (srcs ++ [d])⟩ : Uses) = vecUses x2 (readD || merge) d srcs xs := by
    have hdd : plainV s ([d].flatMap (fieldRegs x2)) = (fieldRegs x2 d).map vreg := by
      rw [plainV_plain _ (by simpa using hd)]
      simp
    rw [hdd, plainV_plain _ hsrc, badPair_plain]
    · rfl
    · intro r hr
      exact hb r (by simp at hr ⊢; tauto)
  unfold vectorOp
  dsimp only
  rw [hu, gate_clear hc]
  have hall : ∀ q ∈ (srcs ++ (if readD || merge then [d] else [])).flatMap (fieldRegs x2), isBound s.me q = false := by
    intro q hq
    rw [List.flatMap_append, List.mem_append] at hq
    rcases hq with hq | hq
    · exact hsrc q hq
    · split at hq
      · exact hd q (by simpa using hq)
      · simp at hq
  rw [popAll_plain _ hall, joinPairs_fields]
  dsimp only
  rw [noteBound_plain _ (by intro q hq; exact (hb q (by simpa using hq)).1), putVector_plain (hb d (by simp)).1]
  have e : (srcs ++ if readD || merge then [d] else []).map (fieldVal s x2) =
      srcs.map (fieldVal s x2) ++ if readD || merge then [fieldVal s x2 d] else [] := by
    split <;> simp
  rw [e]
  have e2 : (if readD || merge then (srcs.map (fieldVal s x2) ++ if readD || merge then [fieldVal s x2 d] else []).getLastD 0 else 0) =
      if readD || merge then fieldVal s x2 d else 0 := by
    split <;> simp
  rw [e2]
  have := finish_goesOn (withVector s x2 d lat r.1 r.2)
  rw [nextPc_withVector] at this
  exact ⟨_, rfl, this⟩

/-- A lane of packed lanes. -/
theorem laneAt_packLanes (w : Nat) (f : Nat → Nat) (n k : Nat) (h : k < n) : laneAt w k (packLanes w f n) = f k % 2 ^ w := by
  have lt : ∀ n, packLanes w f n < 2 ^ (w * n) := by
    intro n
    induction n with
    | zero => simp [packLanes]
    | succ n ih =>
      have h1 : f n % 2 ^ w < 2 ^ w := Nat.mod_lt _ (Nat.two_pow_pos w)
      have h2 : 2 ^ (w * (n + 1)) = 2 ^ w * 2 ^ (w * n) := by rw [← Nat.pow_add]; congr 1; ring
      have h3 : (f n % 2 ^ w + 1) * 2 ^ (w * n) ≤ 2 ^ w * 2 ^ (w * n) := Nat.mul_le_mul_right _ h1
      rw [packLanes, h2]
      nlinarith
  induction n with
  | zero => omega
  | succ n ih =>
    unfold laneAt at ih ⊢
    rw [packLanes]
    have hp := Nat.two_pow_pos (w * k)
    by_cases hk : k = n
    · subst hk
      rw [Nat.add_mul_div_right _ _ hp, Nat.div_eq_of_lt (lt k)]
      simp
    · have hkn : k < n := by omega
      have e : 2 ^ (w * n) = 2 ^ (w * k) * (2 ^ w * 2 ^ (w * (n - k - 1))) := by
        rw [← Nat.pow_add, ← Nat.pow_add]
        congr 1
        have : n = k + 1 + (n - k - 1) := by omega
        calc w * n = w * (k + 1 + (n - k - 1)) := by rw [← this]
          _ = _ := by ring
      rw [e, show f n % 2 ^ w * (2 ^ (w * k) * (2 ^ w * 2 ^ (w * (n - k - 1)))) =
        (f n % 2 ^ w * 2 ^ (w * (n - k - 1)) * 2 ^ w) * 2 ^ (w * k) by ring, Nat.add_mul_div_right _ _ hp, Nat.add_mul_mod_self_right]
      exact ih hkn

theorem packLanes_lt (w : Nat) (f : Nat → Nat) (n : Nat) : packLanes w f n < 2 ^ (w * n) := by
  induction n with
  | zero => simp [packLanes]
  | succ n ih =>
    have h1 : f n % 2 ^ w < 2 ^ w := Nat.mod_lt _ (Nat.two_pow_pos w)
    have h2 : 2 ^ (w * (n + 1)) = 2 ^ w * 2 ^ (w * n) := by rw [← Nat.pow_add]; congr 1; ring
    have h3 : (f n % 2 ^ w + 1) * 2 ^ (w * n) ≤ 2 ^ w * 2 ^ (w * n) := Nat.mul_le_mul_right _ h1
    rw [packLanes, h2]
    nlinarith

theorem foldl_flags (f : Nat → Word) (n : Nat) : ((List.range n).map f).foldl (· ||| ·) 0 = laneFlags f n := by
  induction n with
  | zero => rfl
  | succ n ih =>
    rw [List.range_succ, List.map_append, List.foldl_append, ih]
    rfl

/-- What a lane-wise instruction of two sources does. -/
theorem lanewise2_runs {s : State} {lat : Nat} {d a b : Reg} {sx readD : Bool} {c : VCtl}
    (h : VecClear s c.x2 (readD || c.merge) d (if sx then [a] else [a, b]) (if sx then [b] else []))
    (f : Nat → Nat → Nat → Nat × Word) :
    let y (k : Nat) : Nat := if sx then (readX s b).toNat % 2 ^ c.lt.bits else laneAt c.lt.bits k (fieldVal s c.x2 b)
    let r (k : Nat) : Nat × Word := f (laneAt c.lt.bits k (fieldVal s c.x2 a)) (y k)
      (laneAt c.lt.bits k (if readD || c.merge then fieldVal s c.x2 d else 0))
    LanesRun (lanewise2 lat d a b sx c readD f s) s c lat d (lanesOf c) (fun k => (r k).1) (fun k => (r k).2) := by
  intro y r
  have := vectorOp_runs (lat := lat) (merge := c.merge) (readD := readD) h
    (fun vals x old vm => mergeLanes c.merge vm c.lt.bits (lanesOf c) old fun i =>
      f (laneAt c.lt.bits i (vals.getD 0 0)) (laneB sx c.lt.bits vals x i) (laneAt c.lt.bits i old))
  have e : ∀ i, f (laneAt c.lt.bits i ((((if sx then [a] else [a, b]).map (fieldVal s c.x2)) ++
      if readD || c.merge then [fieldVal s c.x2 d] else []).getD 0 0))
      (laneB sx c.lt.bits (((if sx then [a] else [a, b]).map (fieldVal s c.x2)) ++
        if readD || c.merge then [fieldVal s c.x2 d] else [])
        (readX s ((if sx then [b] else []).headD 0)) i)
      (laneAt c.lt.bits i (if readD || c.merge then fieldVal s c.x2 d else 0)) = r i := by
    intro i
    cases sx <;> simp [laneB, r, y]
  let live (k : Nat) : Bool := !c.merge || s.me.csr.vm.getLsbD k
  let old := if readD || c.merge then fieldVal s c.x2 d else 0
  refine ⟨packLanes c.lt.bits (fun i => if live i then (r i).1 else laneAt c.lt.bits i old) (lanesOf c), ?_, ?_,
    packLanes_lt ..⟩
  · simp only [e] at this
    have e2 : laneFlags (fun k => if live k then (r k).2 else 0) (lanesOf c) =
        (mergeLanes c.merge s.me.csr.vm c.lt.bits (lanesOf c) old r).2 := by
      simp only [mergeLanes, vmBit, foldl_flags, live]
      rfl
    show RunsTo _ (withVector s c.x2 d lat _ (laneFlags (fun k => if live k then (r k).2 else 0) (lanesOf c))) _
    rw [e2]
    exact this
  · intro k hk
    rw [laneAt_packLanes _ _ _ _ hk]
    simp only [live, old]
    cases hm : c.merge with
    | false => simp
    | true =>
      cases hv : s.me.csr.vm.getLsbD k with
      | true => simp
      | false =>
        simp only [Bool.or_true, if_true, Bool.not_true, Bool.or_self, Bool.false_eq_true, if_false]
        exact Nat.mod_eq_of_lt (Nat.mod_lt _ (Nat.two_pow_pos _))

end Sys2Proof.Machine
end

