-- ==== Sys2Proof/Tests/Slice0.lean ====
section
/-! SUPPORT. Tests: ill-formed instructions that WellFormed refuses, words written out from the spec's encodings, a few
single steps, and for every statement with hypotheses a state and operands that meet them. -/

namespace Sys2Proof.Tests

open Sys2Proof Sys2Proof.Machine

set_option maxRecDepth 100000
set_option Elab.async false

/-! ## Ill-formed instructions -/

/-- Control fields that are as plain as a lane type allows. -/
def ctl (lt : LaneT) : VCtl := ⟨lt, .csr, false, false⟩

/-- CSRs whose accesses have rows of their own are no `csrr` and the like (R210, R80). -/
theorem test_wf_csr : (Instr.csrr 1 0x021).wf = false ∧ (Instr.csrs 1 0x021).wf = false ∧ (Instr.csrc 1 0x021).wf = false ∧
    (Instr.csrw 1 0x030).wf = false ∧ (Instr.csrw 1 0x057).wf = false ∧ (Instr.csrw 1 0x920).wf = false ∧ (Instr.csrw 1 0x058).wf = true := by
  decide

/-- RM on an integer operation, a floating lane type, and MK with X2 on 8-bit lanes (R247, R249, R252, R253). -/
theorem test_wf_lanes : (Instr.vaddInt 1 2 3 false (ctl .s)).wf = false ∧ (Instr.vaddInt 1 2 3 false ⟨.i32, .rne, false, false⟩).wf = false ∧
    (Instr.vabsInt 1 2 ⟨.i8, .csr, true, true⟩).wf = false ∧ (Instr.vaddFp 1 2 3 false (ctl .i32)).wf = false ∧
    (Instr.vneg 1 2 ⟨.s, .rtz, false, false⟩).wf = false ∧ (Instr.vfma 1 2 3 false (ctl .z64)).wf = false ∧
    (Instr.vaddFp 1 2 3 false ⟨.s, .rtz, true, true⟩).wf = true := by
  decide

/-- X2 or RM on a compare or permute, MK where it is reserved, and an index past the lanes (R255, R256). -/
theorem test_wf_compare_permute : (Instr.vcmpEq 1 2 3 ⟨.s, .csr, false, true⟩).wf = false ∧ (Instr.vcmpLt 1 2 3 ⟨.s, .rne, false, false⟩).wf = false ∧
    (Instr.vsel 1 2 3 ⟨.s, .csr, true, false⟩).wf = false ∧ (Instr.vperm 1 2 3 ⟨.s, .rup, false, false⟩).wf = false ∧
    (Instr.vbcastl 1 2 16 (ctl .s)).wf = false ∧ (Instr.vslup 1 2 3 17 (ctl .s)).wf = false ∧ (Instr.vslup 1 2 3 16 (ctl .s)).wf = true ∧
    (Instr.vins 1 2 3 ⟨.s, .csr, true, false⟩).wf = false ∧ (Instr.vext 1 2 64 (ctl .i8)).wf = false := by
  decide

/-- A bitwise reduction of floating lanes, MK on a reduction, RM where nothing rounds (R257). -/
theorem test_wf_reduce : (Instr.vredXor 1 2 (ctl .hf)).wf = false ∧ (Instr.vredAdd 1 2 ⟨.i32, .csr, true, false⟩).wf = false ∧
    (Instr.vredAdd 1 2 ⟨.i32, .rne, false, false⟩).wf = false ∧ (Instr.vredMin 1 2 ⟨.s, .rne, false, false⟩).wf = false ∧
    (Instr.vredAdd 1 2 ⟨.s, .rne, false, false⟩).wf = true := by
  decide

/-- A group past the last, RM on an integer conversion, and integer lanes beside a narrow format (R258, R259, R260). -/
theorem test_wf_convert : (Instr.vcvt 1 2 2 .i32 .i16 .csr).wf = false ∧ (Instr.vcvt 1 2 1 .i32 .i16 .csr).wf = true ∧
    (Instr.vcvt 1 2 1 .s .i32 .csr).wf = false ∧ (Instr.vcvt 1 2 0 .i32 .z32 .rne).wf = false ∧ (Instr.vcvtN 1 2 3 0 .i32 0 .csr).wf = false ∧
    (Instr.vcvtW 1 2 3 0 .z8 0 .csr).wf = false := by
  decide

/-- Integer lanes or X2 in a special function, and a key type that no session takes (R264, R266). -/
theorem test_wf_special : (Instr.vexp 1 2 (ctl .i32)).wf = false ∧ (Instr.vsin 1 2 ⟨.s, .csr, false, true⟩).wf = false ∧
    (Instr.topkCfg 1 .i64 false).wf = false ∧ (Instr.topkCfg 1 .z32 true).wf = true := by
  decide

/-- `mx.mrot` with one operand slot twice, reserved codes of a drain, an assigned major as illegal (R278, R280, R182). -/
theorem test_wf_matrix : (Instr.mxMrot ⟨false, 4, 4, 0, 5, 5⟩).wf = false ∧ (Instr.mxMrot ⟨false, 4, 4, 0, 5, 6⟩).wf = true ∧
    (Instr.mxDrain ⟨false, 5, 4, 0, 0, 0, false, .csr, .s⟩).wf = false ∧ (Instr.mxDrain ⟨false, 4, 4, 1, 0, 0, false, .csr, .s⟩).wf = false ∧
    (Instr.mxDrain ⟨true, 4, 4, 4, 0, 0, false, .csr, .s⟩).wf = false ∧ (Instr.illegalOpcode (.h 0x01 0)).wf = false := by
  decide

/-! ## Words written out from the encoding tables (R170, R171) -/

/-- Form H: OP, D and S. -/
def wordH (op d s : Nat) : Nat := op * 2 ^ 10 + d * 2 ^ 5 + s * 4
/-- Form A: the head with T = 1, then A [15:11], B [10:6] and FN [5:0]. -/
def wordA (op d s a b fn : Nat) : Nat := (wordH op d s + 1) * 2 ^ 16 + a * 2 ^ 11 + b * 2 ^ 6 + fn
/-- Form I: the head with T = 2, then A [31:27], B [26:22], FN [21:16] and IMM16 [15:0]. -/
def wordI (op d s a b fn imm : Nat) : Nat := (wordH op d s + 2) * 2 ^ 32 + a * 2 ^ 27 + b * 2 ^ 22 + fn * 2 ^ 16 + imm
/-- Form L: the head with T = 3, then A [47:43], FN [42:37], B [36:32] and IMM32 [31:0]. -/
def wordL (op d s a fn b imm : Nat) : Nat := (wordH op d s + 3) * 2 ^ 48 + a * 2 ^ 43 + fn * 2 ^ 37 + b * 2 ^ 32 + imm

/-- The spec's worked encodings: `rx.sts.d` (R219), `amo.cas.q` (R236), `fence.dev` (R239), `vcvt.n` (R259), `mx.mul`
(R279), `tret` (R334), `spill` and `rq.pop` (R342). -/
theorem test_decode_worked :
    decodeTableWord 48 0x4C0208A30040 = some (.sts 1 2 .d true 0x40) ∧ decodeTableWord 32 0x5C8109A9 = some (.amoCas 4 1 6 .q) ∧
    decodeTableWord 16 0x6880 = some .fenceDev ∧ decodeTableWord 48 0x98A21181080C = some (.vcvtN 5 2 6 0 .s 0 .csr) ∧
    decodeTableWord 64 0xC40300000000A102 = some (.mxMul ⟨false, 0, 0, 10, 4, 2⟩) ∧ decodeTableWord 16 0xF200 = some .tret ∧
    decodeTableWord 32 0xF5211800 = some (.spill 9 3 0) ∧ decodeTableWord 32 0xF4410003 = some (.rqPop 2) := by
  refine ⟨?_, ?_, ?_, ?_, ?_, ?_, ?_, ?_⟩ <;> rfl

/-- Majors 0x00 to 0x07 (R193). -/
theorem test_decode_integer :
    decodeTableWord 16 (wordH 0x00 0 5) = some .yield ∧ decodeTableWord 32 (wordA 0x01 3 2 1 2 0x0B) = some (.maxZ 3 1 2) ∧
    decodeTableWord 48 (wordI 0x02 3 0 1 0 0x07 0x3F) = some (.sraImm16 3 1 63) ∧
    decodeTableWord 64 (wordL 0x02 3 0 1 0x08 0 0xFFFFFFFF) = some (.minImm32 3 1 0xFFFFFFFF) ∧
    decodeTableWord 64 (wordL 0x03 3 0 1 0x01 0 7) = some (.liHigh 3 1 7) ∧ decodeTableWord 32 (wordA 0x04 3 0 1 2 0x03) = some (.div 3 1 2) ∧
    decodeTableWord 32 (wordA 0x05 3 0 1 2 0x10) = some (.sel 3 1 2) ∧ decodeTableWord 32 (wordA 0x06 3 0 1 0 0x01) = some (.ctz 3 1) ∧
    decodeTableWord 32 (wordA 0x07 3 0 1 2 0x03) = some (.shadd 3 1 2 3) ∧
    decodeTableWord 48 (wordI 0x02 3 0 1 0 0x05 0x40) = none ∧ decodeTableWord 32 (wordA 0x01 3 0 1 2 0x0C) = none := by
  refine ⟨?_, ?_, ?_, ?_, ?_, ?_, ?_, ?_, ?_, ?_, ?_⟩ <;> rfl

/-- Majors 0x08 to 0x0B (R193). -/
theorem test_decode_control :
    decodeTableWord 64 (wordL 0x08 0 0 1 0x05 2 0x41) = some (.bgeZL 1 2 0x41) ∧ decodeTableWord 48 (wordI 0x09 15 0 0 0 0x01 0x21) = some (.jal 15 0x21) ∧
    decodeTableWord 32 (wordA 0x09 15 0 4 0 0x02) = some (.jr 15 4) ∧ decodeTableWord 48 (wordI 0x0A 3 0 0 0 0x00 0x502) = some (.csrr 3 0x502) ∧
    decodeTableWord 48 (wordI 0x0A 0 0 3 0 0x02 0x021) = some (.fflagsAccess .s 3) ∧ decodeTableWord 48 (wordI 0x0A 0 0 3 0 0x01 0x053) = some (.vtabWrite 3 3) ∧
    decodeTableWord 32 (wordA 0x0B 3 0 0 0 0x00) = some (.rdtb 3) ∧ decodeTableWord 48 (wordI 0x0B 0 0 0 0 0x01 0xFFFF) = some (.sleepImm 0xFFFF) ∧
    decodeTableWord 48 (wordI 0x0A 0 0 3 0 0x01 0x1000) = none := by
  refine ⟨?_, ?_, ?_, ?_, ?_, ?_, ?_, ?_, ?_⟩ <;> rfl

/-- Majors 0x10 to 0x1D (R219, R224, R227, R234, R237 to R240, R244, R245). -/
theorem test_decode_memory :
    decodeTableWord 64 (wordL 0x10 3 0 1 0x26 0 0x80000000) = some (.ldgL 3 1 .wz true 0x80000000) ∧
    decodeTableWord 48 (wordI 0x10 0 0 1 0 0x10 8) = some (.pf 1 8) ∧ decodeTableWord 48 (wordI 0x10 0 0 1 0 0x30 8) = none ∧
    decodeTableWord 48 (wordI 0x11 0 0 1 2 0x01 8) = some (.stg 1 2 .h false 8) ∧ decodeTableWord 48 (wordI 0x12 3 0 1 0 0x05 8) = some (.lds 3 1 .hz false 8) ∧
    decodeTableWord 48 (wordI 0x14 0 0 1 2 0x3A 64) = some (.vsts 1 2 .w true 64) ∧ decodeTableWord 48 (wordI 0x15 3 0 1 2 0x01 8) = some (.put 3 1 2 8) ∧
    decodeTableWord 32 (wordA 0x16 3 0 1 0 0x00) = some (.lease 3 1) ∧ decodeTableWord 32 (wordA 0x17 3 0 1 2 0x17) = some (.amoMinZ 3 1 2 .d) ∧
    decodeTableWord 32 (wordA 0x18 0 0 1 2 0x00) = some (.redAdd 1 2 .w) ∧ decodeTableWord 32 (wordA 0x18 0 0 1 2 0x04) = none ∧
    decodeTableWord 32 (wordA 0x19 3 0 1 2 0x00) = some (.faddC 3 1 2) ∧ decodeTableWord 16 (wordH 0x1A 7 0) = none ∧
    decodeTableWord 32 (wordA 0x1B 3 0 1 2 0x02) = some (.barWait 3 1 2) ∧ decodeTableWord 32 (wordA 0x1C 3 0 1 2 0x00) = some (.msgSend 3 1 2) ∧
    decodeTableWord 32 (wordA 0x1D 3 0 1 0 0x01) = some (.subOwn 3 1) := by
  refine ⟨?_, ?_, ?_, ?_, ?_, ?_, ?_, ?_, ?_, ?_, ?_, ?_, ?_, ?_, ?_, ?_⟩ <;> rfl

/-- Majors 0x20 to 0x29 (R252 to R258, R261, R264, R266). -/
theorem test_decode_vector :
    decodeTableWord 48 (wordI 0x20 3 0 1 2 0x2C 0x185) = some (.vaddSat 3 1 2 true ⟨.z16, .csr, true, true⟩) ∧
    decodeTableWord 48 (wordI 0x21 3 0 1 2 0x04 0x8) = some (.vmaxFp 3 1 2 false (ctl .s)) ∧
    decodeTableWord 48 (wordI 0x22 3 0 1 2 0x03 0x29) = some (.vfnms 3 1 2 false ⟨.hf, .rtz, false, false⟩) ∧
    decodeTableWord 48 (wordI 0x23 3 0 1 2 0x05 0x2) = some (.vcmpGt 3 1 2 (ctl .i32)) ∧
    decodeTableWord 48 (wordI 0x24 3 0 1 0 0x07 0x702) = some (.vext 3 1 7 (ctl .i32)) ∧
    decodeTableWord 48 (wordI 0x25 3 0 1 0 0x05 0x3) = some (.vredXor 3 1 (ctl .i64)) ∧
    decodeTableWord 48 (wordI 0x26 3 0 1 0 0x00 0x1209) = some (.vcvt 3 1 1 .i32 .hf .csr) ∧
    decodeTableWord 32 (wordA 0x27 2 0 4 0 0x00) = some (.strCfg 2 4) ∧ decodeTableWord 32 (wordA 0x27 4 0 4 0 0x00) = none ∧
    decodeTableWord 48 (wordI 0x28 3 0 1 0 0x09 0x5A) = some (.vsigm 3 1 ⟨.bf, .rna, false, false⟩) ∧
    decodeTableWord 48 (wordI 0x29 0 0 1 0 0x00 0x106) = some (.topkCfg 1 .z32 true) ∧ decodeTableWord 32 (wordA 0x29 3 0 0 0 0x02) = some (.topkOut 3) := by
  refine ⟨?_, ?_, ?_, ?_, ?_, ?_, ?_, ?_, ?_, ?_, ?_, ?_⟩ <;> rfl

/-- Majors 0x30 to 0x3D, and the unassigned 0x3F (R182, R270, R280, R342). -/
theorem test_decode_engines :
    decodeTableWord 48 (wordI 0x30 0 0 1 2 0x03 0x45) = some (.osLdS 1 2 5 true) ∧ decodeTableWord 64 (wordL 0x31 0 0 0 0x02 0 0x7000) = some (.mxZero 7) ∧
    decodeTableWord 64 (wordL 0x32 0 0 0 0x00 0 0x24007088) = some (.mxDrain ⟨false, 4, 4, 0, 7, 0, true, .csr, .s⟩) ∧
    decodeTableWord 32 (wordA 0x33 3 0 4 0 0x01) = some (.cpyNb 3 4) ∧ decodeTableWord 48 (wordI 0x34 3 0 1 2 0x02 0x05) = some (.thRelay 3 1 2 5) ∧
    decodeTableWord 32 (wordA 0x35 3 0 1 2 0x23) = some (.tstV 3 1 2 true) ∧ decodeTableWord 16 (wordH 0x36 1 0) = some .txEnd ∧
    decodeTableWord 48 (wordI 0x37 3 0 1 2 0x00 0x41) = some (.spawn 3 1 2 0x41) ∧ decodeTableWord 16 (wordH 0x3C 0xF 0) = some (.trap 15) ∧
    decodeTableWord 32 (wordA 0x3D 3 0 1 2 0x08) = some (.wfe 3 1 2) ∧ decodeTableWord 16 (wordH 0x3F 0 0) = some (.illegalOpcode (.h 0x3F 0)) := by
  refine ⟨?_, ?_, ?_, ?_, ?_, ?_, ?_, ?_, ?_, ?_, ?_⟩ <;> rfl

/-! ## The states of the witnesses -/

/-- The machine after reset with one slot, slot 0 of core 0. -/
def one (sl : Slot) : State := { State.reset with slots := [(0, sl)] }
/-- A slot that runs at U level from the first head of the line at 0x1000. -/
def base : Slot := { Slot.reset with st := .ready, pc := 0x1002, line := some (0x1000, Line.single 0 0) }
/-- Integer registers with the values of a list. -/
def regs (vs : List (Fin 16 × Word)) : Vector Word 16 := vs.foldl (fun x e => x.set e.1 e.2) (Vector.replicate 16 0)
/-- A running slot with x1, x2 and x3. -/
def xs (a b c : Word) : Slot := { base with x := regs [(1, a), (2, b), (3, c)] }
/-- A trap level that is busy. -/
def busyRegs : TrapRegs := ⟨0x2000, 0, 0, 0x1004, 4⟩
/-- The record of a partition without islands. -/
def memRecord : PartRecord := resetRecord 0 &&& ~~~(0xFFFFFFFF#512 <<< 32)
/-- Partition 0 without islands, so that slice 0 holds its translations: the first gigabyte of its space in device memory
from 0 on, the second in coherent host memory and the fourth in non-coherent host memory; the granules 1 and 2 SHARED. -/
def memPart : Part :=
  { Part.reset 0 with
    record := memRecord
    spasid := 0x8000000000000001
    hwin := [⟨0x40000000, 2 ^ 18, 2⟩, ⟨0x80000000, 2 ^ 18, 0⟩, ⟨0xC0000000, 2 ^ 18, 1⟩]
    cls := [(1, 0xC000), (2, 0xC000)]
    xlat := [(30, ⟨30, true, true, true, 0x40000000⟩), (2 ^ 30 + 30, ⟨30, true, true, true, 0x80000000⟩),
      (3 * 2 ^ 30 + 30, ⟨30, true, true, true, 0xC0000000⟩)] }
/-- A running slot in a partition whose memory is there, everything brought up. -/
def mem (sl : Slot) : State := { one sl with parts := [(0, memPart)], hub := { Hub.reset with ready := BitVec.allOnes 64 } }

/-! ## One step each -/

/-- 2⁶⁴ − 1 plus 1 wraps to 0, on its way to x3 two cycles later (R176, R194). -/
theorem test_add_wraps : (match exec (.add 3 1 2) (one (xs (BitVec.allOnes 64) 1 0)) with
    | .next t => t.me.pend == [⟨some (xreg 3), 0, 2, 0⟩] && t.me.pc == 0x1042
    | _ => false) = true := by
  decide +kernel

/-- A store of a byte reaches its address and no other, and takes the granule as PRIVATE to the core, whose first-level
cache holds it (R85, R87, R220); to a SHARED page it reaches its home. -/
theorem test_stg_byte : (match exec (.stg 1 2 .b false 5) (mem (xs 0x3000 0x1FF 0)) with
    | .next t => t.devMem == [] && lineValue (lineSeen t 0 0x3005 (.dev 0x3005)) 4 4 == 0xFF00 && look (t.part 0).cls 0 3 == 0x4000 &&
      t.me.wait == some .access
    | _ => false) = true ∧
    (match exec (.stg 1 2 .b false 5) (mem (xs 0x1000 0x1FF 0)) with
    | .next t => t.devMem == [(0x1005, 0xFF)] && t.me.wait == some .access
    | _ => false) = true := by
  decide +kernel

/-- A misaligned load traps with MISALIGNED at S level, the PC at `STVEC` (R216, R333). -/
theorem test_ldg_misaligned : (match exec (.ldg 3 1 .w false 2) (mem { xs 0x3000 0 0 with ts := ⟨0x2002, 0, 0, 0, 0⟩ }) with
    | .next t => t.me.ts == ⟨0x2002, 0x20, 0x3002, 0x1002, 4⟩ && t.me.pc == 0x2002 && t.me.level == .s
    | _ => false) = true := by
  decide +kernel

/-- 1.0 + 2⁻²⁴ in FP32 is a tie that goes to even, inexact (R148). -/
theorem test_fp32_tie : fpAdd fp32 .rne 0x3F800000 0x33800000 = (0x3F800000, flagNX) := by decide +kernel

/-- `vadd.s` with MK keeps the lanes whose `VM` bit is 0 (R248). -/
theorem test_vadd_merge : (match exec (.vaddFp 3 1 2 false ⟨.s, .csr, true, false⟩)
      (one { base with f := (Vector.replicate 16 0).set 1 (0x3F800000_3F800000#512) |>.set 2 (0x3F800000_3F800000#512), csr := { UserCsr.pickUp with vm := 1 } }) with
    | .next t => t.me.pend == [⟨some (vreg 3), 0x40000000, 6, 0⟩]
    | _ => false) = true := by
  decide +kernel

/-- The check value of CRC-32C, with which `th.seal` seals (R111). -/
theorem test_crc32c : crc32c ([0x31, 0x32, 0x33, 0x34, 0x35, 0x36, 0x37, 0x38, 0x39] : List Byte) = 0xE3069283 := by decide +kernel

/-! ## Witnesses: decoding, issue and the integer instructions -/

/-- A next state shown by evaluation. -/
theorem nextOf (o : Out) (h : (match o with | .next _ => true | _ => false) = true) : ∃ t, o = .next t := by
  cases o with
  | next t => exact ⟨t, rfl⟩
  | fault _ => exact absurd h (by simp)
  | refused _ => exact absurd h (by simp)

theorem wit_EncodeDecode : (Instr.add 1 2 3).wf = true ∧ encode 5 (.add 1 2 3) = some (0x0435, 0x10C0) ∧
    decode 0x0435 0x10C0 = .ok (.add 1 2 3) := by
  refine ⟨?_, ?_, ?_⟩ <;> rfl

/-- The machine with no event on the agenda and the line of slot 0 replaced. -/
def fetched (pc : Word) (l : Line) : State := { one { base with pc := pc, line := some (0x1000, l) } with agenda := [] }
/-- A copy of an event that no rule forces is never due. -/
theorem wit_nothing_due (s : State) : ∀ n i, firstDue s (List.replicate n .bringup) i = none
  | 0, _ => rfl
  | n + 1, i => by rw [List.replicate_succ]; exact wit_nothing_due s n (i + 1)
/-- Every core has taken the cycles that its island's clock has reached. -/
def settledCores : State := { State.reset with agenda := [], cores := (List.range 512).map fun c => (c, { Core.reset with cyc := 1 }) }

theorem wit_same_value {α : Type} (v d : α) (l : List Nat) (k : Nat) (h : k ∈ l) : look (l.map fun c => (c, v)) d k = v := by
  induction l with
  | nil => cases h
  | cons a l ih =>
    simp only [List.map, look]
    split
    · rfl
    · next hne => exact ih ((List.mem_cons.1 h).resolve_left fun e => hne e.symm)

theorem wit_settled (c : Nat) (h : c < 512) : owesCycle settledCores c = false := by
  have e : settledCores.core c = { Core.reset with cyc := 1 } := wit_same_value _ _ _ _ (List.mem_range.2 h)
  have i : (islandAt settledCores (islandOf c)).phase settledCores.ns = 0 := rfl
  rw [owesCycle, e, i]
  simp

theorem wit_StepRunsDecoded :
    (firstDue { State.reset with tick := 65536 } [.bringup, .timeSyncSend] 0 = some (1, .timeSyncSend)) ∧
    (∃ (s : State) (e : Instr), firstDue s s.agenda 0 = none ∧ s.agenda[Config.choose s.draws % (s.agenda.length + 1)]? = some e ∧ s.agenda ≠ []) ∧
    (∀ s ∈ [settledCores, fetched 0x1002 (Line.single 0 0)],
      firstDue s s.agenda 0 = none ∧ s.agenda[Config.choose s.draws % (s.agenda.length + 1)]? = none ∧ s.agenda = []) ∧
    (∀ c, c < 512 → owesCycle settledCores c = false) ∧ owesCycle (fetched 0x1002 (Line.single 0 0)) 3 = true ∧
    (let u := cycleStart State.reset 0
     (∀ k, k < 16 → resumable u 0 k = false) ∧ ∀ k ∈ issueOrder u 0, mayIssue u 0 k = false) ∧
    (∀ s ∈ [fetched 0x1002 0, fetched 0x1004 (Line.single 0 0), fetched 0x1002 (Line.single 0 0), fetched 0x1002 (Line.single 0x0421 0x103F)],
      let u := cycleStart s 0
      let v := endYield { u with curCore := 0, curSlot := 0 } (slotKey 0 0)
      (∀ k, k < 16 → resumable u 0 k = false) ∧ (issueOrder u 0).head? = some 0 ∧ mayIssue u 0 0 = true ∧ takeable v.me = [] ∧ breakpoint v.me = false ∧
      badTargetEarly v.me.pc = false ∧ v.me.line.map (·.1) = some (v.me.pc &&& ~~~63#64)) ∧
    Line.reason 0 = some 1 ∧ Line.reason (Line.single 0 0) = none ∧ Line.count (Line.single 0 0) = 1 ∧
    decode (Line.headTail (Line.single 0 0) 1).1 (Line.headTail (Line.single 0 0) 1).2 = .ok .yield ∧
    decode (Line.headTail (Line.single 0x0421 0x103F) 1).1 (Line.headTail (Line.single 0x0421 0x103F) 1).2 = .error .illegalFunction := by
  refine ⟨?_, ⟨{ State.reset with agenda := List.replicate (Config.choose 0 + 1) .bringup }, .bringup, wit_nothing_due _ _ _, ?_, ?_⟩,
    ?_, ?_, ?_, ?_, ?_, ?_, ?_, ?_, rfl, rfl⟩
  case refine_2 => simp [State.reset, Nat.mod_eq_of_lt]
  case refine_3 => simp [List.replicate_succ]
  case refine_4 =>
    intro s hs
    simp only [List.mem_cons, List.not_mem_nil, or_false] at hs
    rcases hs with rfl | rfl <;> exact ⟨rfl, by simp [settledCores, fetched, one], rfl⟩
  case refine_5 => exact wit_settled
  all_goals decide +kernel

theorem wit_TurnNamesACore : (fetched 0x1002 (Line.single 0 0)).turn < 512 ∧ ∃ t, step (fetched 0x1002 (Line.single 0 0)) = .next t := by
  refine ⟨by decide, nextOf _ ?_⟩
  decide +kernel

/-- The integer instructions' checks pass for plain registers, x0 as destination and a register read twice. -/
theorem wit_AddressArithmetic : Clear false (usesXX 3 1 2) (one (xs 1 2 3)) ∧ Clear false (usesXX 0 1 1) (one (xs 1 2 3)) := by
  repeat' apply And.intro
  all_goals decide +kernel

theorem wit_IntegerRegisterForms : Clear false (usesXX 3 1 2) (one (xs (BitVec.allOnes 64) 64 3)) ∧
    readX (one (xs (BitVec.allOnes 64) 64 3)) 2 = 64 := by
  repeat' apply And.intro
  all_goals decide +kernel

theorem wit_IntegerImmediateForms : Clear false (usesX 3 1) (one (xs 1 2 3)) ∧ Clear false { writes := [xreg 3] } (one (xs 1 2 3)) ∧
    Clear false { reads := [xreg 1, xreg 2, xreg 3], writes := [xreg 3] } (one (xs 1 2 0)) := by
  repeat' apply And.intro
  all_goals decide +kernel

theorem wit_DivisionValues :
    (∀ s ∈ [one (xs 7 0 0), one (xs 7 (BitVec.ofInt 64 (-2)) 0), one (xs (BitVec.ofInt 64 (-2 ^ 63)) (BitVec.ofInt 64 (-1)) 0)],
      (false = true → s.me.level ≠ .u) ∧ badField s { reads := [xreg 1, xreg 2], vwrites := [xreg 3] } = none ∧
        (s.me.csr.schk.getLsbD 0 = true → uncovered s { reads := [xreg 1, xreg 2], vwrites := [xreg 3] } = none) ∧
        pendingRegs s { reads := [xreg 1, xreg 2], vwrites := [xreg 3] } = []) ∧
    readX (one (xs 7 0 0)) 2 = 0 ∧ (readX (one (xs 7 (BitVec.ofInt 64 (-2)) 0)) 2).toInt ≠ -1 ∧
    (readX (one (xs (BitVec.ofInt 64 (-2 ^ 63)) (BitVec.ofInt 64 (-1)) 0)) 1).toInt = -2 ^ 63 ∧
    (readX (one (xs (BitVec.ofInt 64 (-2 ^ 63)) (BitVec.ofInt 64 (-1)) 0)) 2).toInt = -1 := by
  repeat' apply And.intro
  all_goals decide +kernel

/-- A core whose divider holds a division that lands in cycle 34. -/
def dividing (cyc : Nat) : State :=
  { one { base with vpend := [⟨7, [xreg 3], none, 0, .divide⟩] } with cores := [(0, { Core.reset with cyc := cyc, divq := [⟨0, 7, 5, 34⟩] })] }

theorem wit_DivisionArrives : (∀ s ∈ [dividing 33, dividing 34], (s.core 0).divq = [⟨0, 7, 5, 34⟩] ∧
      (s.slot 0).vpend.find? (fun v => v.id == 7) = some ⟨7, [xreg 3], none, 0, .divide⟩) ∧ (3 : Reg).shared = false ∧ (3 : Reg) ≠ 0 ∧
    ((dividing 33).core 0).cyc < 34 ∧ 34 ≤ ((dividing 34).core 0).cyc := by
  decide +kernel

theorem wit_ResultLandsAfterLatency : (one base).me.pend = [] ∧ (15 : Reg) ≠ 0 ∧ (15 : Reg).shared = false := by decide +kernel

theorem wit_BranchesAndJumps : Clear false { reads := [xreg 1, xreg 2] } (one (xs 1 1 0)) ∧ readX (one (xs 1 1 0)) 1 = readX (one (xs 1 1 0)) 2 ∧
    Clear false { reads := [xreg 1, xreg 2] } (one (xs 1 2 0)) ∧ readX (one (xs 1 2 0)) 1 ≠ readX (one (xs 1 2 0)) 2 ∧
    Clear false {} (one base) ∧ Clear false { reads := [xreg 15] } (one base) ∧ Clear false { vwrites := [xreg 15] } (one base) ∧
    Clear false { reads := [xreg 4], vwrites := [xreg 15] } (one base) := by
  repeat' apply And.intro
  all_goals decide +kernel

theorem wit_VariableResults : (one { base with vpend := [⟨7, [xreg 3], some [5], 0, .plain⟩] }).slot (slotKey 0 0) =
      { base with vpend := [⟨7, [xreg 3], some [5], 0, .plain⟩] } ∧
    ([⟨7, [xreg 3], some [5], 0, .plain⟩] : List VPend).find? (fun w => w.id == 7) = some ⟨7, [xreg 3], some [5], 0, .plain⟩ ∧ (3 : Reg).shared = false ∧ (3 : Reg) ≠ 0 := by
  decide +kernel

/-! ## Witnesses: traps and CSRs -/

/-- A slot with S taken at 0x2000. -/
def inS : Slot := { base with level := .s, ts := ⟨0x2000, 5, 9, 0x1004, 0x14⟩ }

theorem wit_RouteOfATrap : route base 0 0x25 = some .s ∧ route { base with tu := ⟨0x3000, 0, 0, 0, 0⟩, sdlg := (Vector.replicate 4 0).set 0 (1 <<< 0x25) } 0 0x25 = some .u ∧
    route base 1 0xC0 = some .s ∧ route base 0 0xC0 = some .m ∧ route inS 0 0x25 = some .m ∧ route { base with level := .m, tm := busyRegs } 0 0x25 = none := by
  decide +kernel

theorem wit_TrapEntry : mustDrain (one base) 0 = false ∧ route (one base).me (one base).myCore.mdlg 0xEF = some .m ∧
    mustDrain (one { base with pend := [⟨some (xreg 3), 0, 4, 0⟩] }) 0 = true ∧
    (let s := one { base with st := .wait, wait := some .drain, trapping := some ⟨0x25, 0x1008, 0x1002, false⟩ }
     s.me.trapping = some ⟨0x25, 0x1008, 0x1002, false⟩ ∧ mustDrain s s.cur = false ∧ s.me.wait = some .drain) := by
  decide +kernel

/-- A slot at M level that can take no trap. -/
def stuck : Slot := { base with level := .m, tm := busyRegs }

theorem wit_HaltWhenMIsBusy : (∀ s ∈ [one stuck, one { stuck with tx := some 9 }], mustDrain s s.cur = false ∧ route s.me s.myCore.mdlg 0x25 = none ∧ s.me.lease = none) ∧
    (one stuck).me.tx = none ∧ (one { stuck with tx := some 9 }).me.tx = some 9 := by
  decide +kernel

theorem wit_TrapInstructions : mustDrain (one base) (one base).cur = false ∧ (one base).me.lease = none ∧ Clear false {} (one base) ∧
    route (one base).me (one base).myCore.mdlg (0xF0 + (15 : BitVec 4).toNat) = some .s ∧ route (one base).me (one base).myCore.mdlg 2 = some .s := by
  repeat' apply And.intro
  all_goals decide +kernel

theorem wit_ReturnFromTrap : Clear false {} (one inS) ∧ ((one inS).me.trapRegs .s).tstat.getLsbD 6 = false ∧
    (let s := one { inS with ts := ⟨0, 0x4C, 0, 0, 0x45⟩ }
     Clear false {} s ∧ (s.me.trapRegs .s).tstat.getLsbD 6 = true ∧ s.me.away = none ∧ s.me.place = none ∧ s.me.wait = none ∧
     (s.core (s.cur / 16)).qiSlot ≠ some s.cur) := by
  repeat' apply And.intro
  all_goals decide +kernel

theorem wit_ChecksBeforeEffects : (one base).me.level = .u ∧ badField (one base) { reads := [xreg 16] } = some 16 ∧ (one base).me.tx = none ∧
    badField (one base) (usesXX 3 1 2) = none ∧ (∀ r ∈ (usesXX 3 1 2).all, r.r.shared = false) ∧
    (let s := one { base with csr := { UserCsr.pickUp with schk := 1 }, cover := [(xreg 1, 2)], pend := [⟨some (xreg 1), 0, 2, 0⟩] }
     badField s (usesXX 3 1 2) = none ∧ s.me.csr.schk.getLsbD 0 = true ∧ uncovered s (usesXX 3 1 2) = some 1) ∧
    (let s := one { base with vpend := [⟨7, [xreg 1], none, 0, .plain⟩] }
     badField s (usesXX 3 1 2) = none ∧ s.me.csr.schk.getLsbD 0 = false ∧ pendingRegs s (usesXX 3 1 2) ≠ []) ∧
    pendingRegs (one base) (usesXX 3 1 2) = [] := by
  decide +kernel

theorem wit_CsrInstructions : csrPrivileged (one base).me.level (0x502 : BitVec 12).toNat = true ∧
    (∀ n ∈ [0x20, 0x41, 0x0FF, 0x534], csrPrivileged inS.level n = false) ∧
    readCsr (one inS) 0x20 = some 0 ∧ readCsr (one inS) 0x0FF = none ∧ (readCsr (one inS) 0x534).isSome = true ∧
    csrReadOnly 0x41 = true ∧ (readCsr (one inS) 0x41).isSome = true ∧ csrReadOnly 0x20 = false ∧
    Clear false { writes := [xreg 3] } (one inS) ∧ Clear false { reads := [xreg 1] } (one inS) ∧ flagsSettled (one inS) = true := by
  repeat' apply And.intro
  all_goals decide +kernel

theorem wit_SpecialWritesComplete :
    let s := one { base with level := .m, x := regs [(1, 0xF)] }
    s.me.level = .m ∧ Clear false { reads := [xreg 1] } s ∧ s.myCore.qiSlot = none ∧ s.me.tx = none ∧ (s.part s.myPart).roundAt = none ∧
    pagingPages (s.part s.myPart) = [] ∧ (detLanes s s.curCore).contains 15 = false ∧ overflowUsed s.myCore = 0 ∧
    (let u := { one { base with level := .m, tx := some 9 } with cores := [(0, { Core.reset with owner := some 5 })] }
     ownsVtab u = false ∧ Clear false { reads := [xreg 1] } u ∧ u.me.level = .m) ∧ (30 : Word).toNat % 64 = 30 := by
  repeat' apply And.intro
  all_goals decide +kernel

theorem wit_ArithmeticCauses : (0x1F : Word).toNat < 256 ∧ (0x1F : Word) &&& base.sftrap = 0 ∧
    ((0x12 : Word) &&& { base with sftrap := 0x16 }.sftrap).getLsbD 1 = true ∧ ((0x12 : Word) &&& { base with sftrap := 0x16 }.sftrap).getLsbD 0 = false := by
  decide +kernel

/-! ## Witnesses: memory -/

theorem wit_GlobalLoads :
    let s := mem (xs 0x1000 0x40001008 0)
    Clear false { reads := [xreg 1], vwrites := [xreg 3] } s ∧ isBound s.me 3 = false ∧
    (readX s 1 + (8 : BitVec 16).signExtend 64 = 0x1008 ∧ Through s 0x1008 8 8 false (.dev 0x1008)) ∧
    Through s 0x40001008 1 1 false (.host 0x80001008 true) ∧ Through s 0x1040 64 64 false (.dev 0x1040) ∧ Through s 0x3040 64 64 false (.dev 0x3040) ∧
    servedHome s 0 0x1040 (.dev 0x1040) = true ∧ servedHome s 0 0x3040 (.dev 0x3040) = false ∧
    (s.me.relaxed.filter (·.counts)).length < 16 := by
  repeat' apply And.intro
  all_goals first | decide +kernel | (unfold NoConversion; decide +kernel)

theorem wit_GlobalStores :
    let s := mem (xs 0x1000 0x40001008 0)
    Clear false { reads := [xreg 1, xreg 2] } s ∧ Clear false { reads := [xreg 1, vreg 2] } s ∧ isBound s.me 2 = false ∧
    Through s 0x1008 8 8 true (.dev 0x1008) ∧ Through s 0x40001008 1 1 true (.host 0x80001008 true) ∧
    Through s 0x3040 64 64 true (.dev 0x3040) ∧ servedHome s 0 0x3040 (.dev 0x3040) = false ∧ Through s 0xC0001000 8 8 true (.host 0xC0001000 false) ∧
    postedWrite (.host 0xC0001000 false) (.store (offsets 0 [1, 2])) = true ∧ (s.me.relaxed.filter (·.counts)).length < 16 := by
  repeat' apply And.intro
  all_goals first | decide +kernel | (unfold NoConversion; decide +kernel)

theorem wit_ScratchAccesses :
    let s := one (xs 0xFAFF8 2 3)
    Clear false { reads := [xreg 1], vwrites := [xreg 3] } s ∧ Clear false { reads := [xreg 1], vwrites := [vreg 3] } s ∧
    Clear false { reads := [xreg 1, xreg 2] } s ∧ Clear false { reads := [xreg 1, vreg 2] } s ∧ isBound s.me 2 = false ∧
    ThroughScratch s 0xFAFF8 8 8 .load ∧ ThroughScratch s 0 64 64 .load ∧ ThroughScratch s 0xFAFF8 8 8 .store ∧ ThroughScratch s 0xFAFC0 64 64 .store ∧
    Clear false { reads := [xreg 1] } s := by
  repeat' apply And.intro
  all_goals decide +kernel

/-- The granule 3 with a class entry. -/
def classed (e : BitVec 16) : State := (mem (xs 0x3000 0 0)).setPart 0 { memPart with cls := [(3, e)] }

/-- A page that is READONLY, or PRIVATE to the core, for a prefetch into the first-level cache. -/
theorem wit_ScratchAccesses_prefetch :
    (let ok (e : BitVec 16) : Bool := checkGlobal (classed e) { ea := 0x3008, n := 1, align := 1, store := false } anyMapping == .ok (.dev 0x3008) &&
       !reclassifying (classed e) 0 0x3008
     ok 0x8000 = true ∧ ok 0x4000 = true) ∧
    (classed 0).myPart = 0 ∧ classOf (classEntry ((classed 0x8000).part 0) 0x3008) = 2 ∧
    classOf (classEntry ((classed 0x4000).part 0) 0x3008) = 1 ∧ ownerOf (classEntry ((classed 0x4000).part 0) 0x3008) = 0 := by
  decide +kernel

/-- A global request with the checks of a plain load. -/
def plainLoad (ea : Word) (n : Nat) : GReq := { ea := ea, n := n, align := n, store := false }

theorem wit_AccessChecksInOrder :
    let s := mem base
    (2 ^ 57 : Word).toNat / 2 ^ 57 ≠ 0 ∧ (0x1001 : Word).toNat % (plainLoad 0x1001 8).align ≠ 0 ∧
    (∀ va ∈ [0x1000, 0x90000000], podOf s s.myPart va = .here ∧ convAt (s.part s.myPart) va = none) ∧ s.me.xfault = none ∧
    translate ((one base).part 0) 0x1000 .read = .final ∧ translate (s.part s.myPart) 0x90000000 .read = .miss ∧
    (let u := s.setPart 0 { memPart with hwin := [] }
     translate (u.part u.myPart) 0x1000 .read = .nowhere ∧ podOf u u.myPart 0x1000 = .here) ∧
    s.present 512 = false ∧ s.present 511 = true ∧ s.partOf 511 = s.myPart ∧
    (let u := s.setCore 1 { Core.reset with mpart := 1, bars := [(3, { Barrier.off with live := true })], segs := [(0, { Seg.plain with st := .invalid })] }
     u.partOf 1 ≠ u.myPart ∧ (look (u.core 1).bars Barrier.off (0x18 / 8)).live = true ∧ (segOf (u.core 1) (0x10 / 4096)).st ≠ .none) ∧
    s.me.level = .u ∧ 251 ≤ 0xFB000 / 4096 ∧ Clear false { reads := [xreg 1], vwrites := [xreg 3] } s ∧
    checkGlobal s ⟨readX s 1 + (1 : BitVec 16).signExtend 64, ldBytes .w, ldBytes .w, false, false, false, false, true⟩ anyMapping = .trap 0x20 1 := by
  repeat' apply And.intro
  all_goals decide +kernel

/-- A slot that waits for the acknowledgement of a load into x3. -/
def awaiting (ans : List (RegId × Vec)) : Slot := { base with st := .wait, wait := some .access, answer := some ans }
/-- A relaxed access of a slot to 0x1000 that has left it. -/
def left (op : AccessOp) (kd : LoadKind) : Relaxed := ⟨7, none, .global, 0x1000, some (.dev 0x1000), op, kd, false, true, 0⟩

theorem wit_AccessEvents :
    (∀ ans ∈ [[(xreg 3, 5)], []], let u := one (awaiting ans)
      u.me.wait = some .access ∧ u.me.answer = some ans ∧ u.me.acks ≤ 1 ∧ (∀ e ∈ ans, e.1.vec = true → isBound u.me e.1.r = false)) ∧
    (let u := one { awaiting [(xreg 3, 5)] with acks := 2 }
     u.me.wait = some .access ∧ u.me.answer.isSome = true ∧ 1 < u.me.acks) ∧
    (∀ va ∈ [0x1000, 0x3000], ∀ r ∈ [left (.store (offsets 0 [1, 2])) .none, left (.load 8) (.int 8 true)],
      let r := { r with addr := BitVec.ofNat 64 va, loc := some (.dev va) }
      let s := mem { base with relaxed := [r], vpend := [⟨7, [xreg 3], none, 0, .plain⟩] }
      (s.slot (slotKey 0 0)).relaxed = [r] ∧ behindHeld s (s.partOf 0) va (ticket 7) = false ∧
      (touch s (s.partOf 0) va (.dev va) (some 0) r.op.isStore).2 = true ∧
      lineOpen s (s.partOf 0) (Loc.dev va).key (ticket 7) = true ∧ rangeAt s (s.partOf 0) va = none ∧
      (∀ x, va ≤ x → x < va + max r.op.extent 1 → convAt (s.part (s.partOf 0)) x = none) ∧
      servedHome s (s.partOf 0) va (.dev va) = decide (va = 0x1000) ∧ va % 128 + r.op.extent ≤ 128 ∧
      (s.slot (slotKey 0 0)).vpend = [⟨7, [xreg 3], none, 0, .plain⟩] ∧ otherCopies s 0 (.dev va) = []) ∧
    (let u : State := { mem base with rdc := [(2 ^ 32 + 32, 9)], purges := [⟨0, some 7, 32⟩] }
     otherCopies u 0 (.dev 0x1000) ≠ [] ∧ rising u.rdc = true ∧ copyAt u 1 (.dev 0x1000) = some 9 ∧ ⟨0, some 7, 32⟩ ∈ u.purges ∧ 32 < 2 ^ 32) ∧
    ((one base).slot (slotKey 0 0)).relaxed = [] := by
  repeat' apply And.intro
  all_goals decide +kernel

/-- The context of slot 0 of core 1 on its way to core 0 for a load of the word at 0x40. -/
def moving : Context := ⟨base, 16, none, 3, 0x40, .load 8, .int 8 true, false, false⟩
/-- Slot 0 of core 1 saving for its departure, and a message to core 0 or back. -/
def travelled (body : Payload) : State :=
  { State.reset with
    slots := [(16, { base with st := .save, wait := some (.migrate 3 0x40 (.load 8) (.int 8 true) false false) })]
    fabric := [⟨4, 1, 0, 0, body, none⟩] }

theorem wit_MigrationAndBanks :
    (let u : State := { travelled (.context moving) with curCore := 1, curSlot := 0 }
     u.me.wait = some (.migrate 3 0x40 (.load 8) (.int 8 true) false false) ∧ u.me.st = .save ∧ drainedAll u u.cur = true ∧
     (let v := u.setMe { u.me with vpend := [⟨7, [xreg 3], none, 0, .plain⟩] }
      v.me.st = .save ∧ drainedAll v v.cur = false)) ∧
    (let s := travelled (.context moving)
     findMsg s 4 = some ⟨4, 1, 0, 0, .context moving, none⟩ ∧ behind s ⟨4, 1, 0, 0, .context moving, none⟩ = false ∧ moving.homeSlot = none ∧
     (s.slot moving.src).st = .save ∧ takesNoLandings s 0 = false ∧ freeUnreserved s 0 = some 0 ∧
     (let u : State := { s with slots := ((List.range 16).map fun k => (k, base)) ++ s.slots }
      freeUnreserved u 0 = none ∧ takesNoLandings u 0 = false ∧ (u.slot moving.src).st = .save ∧ (u.core 0).landing.length < 4 ∧
      4 ≤ ((u.setCore 0 { Core.reset with landing := [moving, moving, moving, moving] }).core 0).landing.length) ∧
     moving.fe = false ∧ scrWin moving.addr = 0 ∧ segmentBusy (s.core 0) 0 = false ∧ (segOf (s.core 0) 0).st = .none ∧
     ((s.setCore 0 { Core.reset with landing := [moving] }).core 0).landing = [moving] ∧ (s.core 0).landing = []) ∧
    (let s := travelled (.refusal moving)
     findMsg s 4 = some ⟨4, 1, 0, 0, .refusal moving, none⟩ ∧ behind s ⟨4, 1, 0, 0, .refusal moving, none⟩ = false ∧ (s.slot 16).st = .save) ∧
    (let s := travelled (.bank 0x40 (.load 8) (.int 8 true) 3 .ack)
     findMsg s 4 = some ⟨4, 1, 0, 0, .bank 0x40 (.load 8) (.int 8 true) 3 .ack, none⟩ ∧
     (performScratch s 0 0x40 (.load 8) (some (16, .ack))).map (·.deferred) = some false ∧
     performScratch (s.setCore 0 { Core.reset with segs := [(0, { Seg.plain with st := .invalid })] }) 0 0x40 (.load 8) (some (16, .ack)) = none) := by
  repeat' apply And.intro
  all_goals decide +kernel

theorem wit_PageClassesAndProbes :
    (classOf 0 = 0 ∧ classOf 0x4005 = 1 ∧ ownerOf 0x4005 = 5 ∧ classOf 0x8000 = 2 ∧ classOf 0xC000 = 3) ∧
    (let s : State := { mem base with parts := [(0, { memPart with reclass := [⟨4, 1, 0xC000, [], false⟩] })] }
     granuleHeld s 0 1 = false ∧ flushCores s 0 ⟨4, 1, 0xC000, [], false⟩ = []) ∧
    (let s (gated : Bool) : State := { mem base with
       parts := [(0, { memPart with cls := [(1, 0x4001)], reclass := [⟨4, 1, 0xC000, [5], false⟩] })]
       hub := { Hub.reset with islands := [(0, { Island.nominal with gated := gated })] } }
     granuleHeld (s true) 0 1 = false ∧ flushCores (s true) 0 ⟨4, 1, 0xC000, [5], false⟩ = [1] ∧
     (flushCores (s true) 0 ⟨4, 1, 0xC000, [5], false⟩).find? (fun c => (islandAt (s true) (islandOf c)).gated) = some 1 ∧
     (∀ c ∈ flushCores (s false) 0 ⟨4, 1, 0xC000, [5], false⟩, (islandAt (s false) (islandOf c)).gated = false ∧ (s false).partOf c = 0) ∧ 0x1008 / 4096 = 1) ∧
    (let e : Nat × L1Line := (32, ⟨5, 1, .dev 0x1000, true⟩)
     let s : State := { mem base with cores := [(1, { Core.reset with l1 := [e, (33, ⟨6, 0, .dev 0x1080, false⟩)] })] }
     (s.core 1).l1.filter (fun x => x.1 == 32) = [e] ∧ e.2.loc = .dev 0x1000) ∧
    (let s : State := { mem { base with lease := some ⟨[⟨64, 0x1000, false, 0, 0⟩], 0, 512, 0, true, []⟩ } with parts := [(0, { memPart with reclass := [⟨4, 1, 0xC000, [], false⟩] })] }
     granuleHeld s 0 1 = true) ∧
    (let u : State := one { base with st := .wait, wait := some (.line 0 64 0x1000) }
     u.me.wait = some (.line 0 64 0x1000) ∧ u.tick < u.me.waitSince + 10000 ∧ u.me.waitSince + 10000 ≤ { u with tick := 10000 }.tick ∧
     (let v : State := { u with tick := 50000, hub := { Hub.reset with islands := [(0, { Island.nominal with gated := true })] } }
      (3 : Nat) < 512 ∧ (islandAt v (islandOf 3)).gated = true ∧ v.me.waitSince + 50000 ≤ v.tick)) ∧
    (detect (7, 32, 5) (.dev 0x1000) true 9 = (8, 33, 9) ∧ detect (8, 32, 5) (.dev 0x1000) false 68 = (8, 33, 68) ∧
     (detect (8, 31, 5) (.dev 0x1000) true 9).1 = 1 ∧ nextOfSlice (.dev 0x1180) = 160) ∧
    (let s (n : Nat) : State := { one base with tick := n, hub := { Hub.reset with detectors := [(detectorKey 3 5, (8, 32, 10))] } }
     ∀ n ∈ [73, 74], (look (s n).hub.detectors (0, 0, 0) (detectorKey 3 5)).1 = 8) := by
  repeat' apply And.intro
  all_goals decide +kernel

/-- Core 0 with the tag of word 8 set, or with a deferred `take` of slot 1 there. -/
def feCore (full : Bool) : Core :=
  { Core.reset with tags := if full then [(8, true)] else [], deferred := if full then [] else [(8, [⟨1, true, 4, false⟩])] }

theorem wit_FullEmptyWords :
    (∀ s ∈ [one (xs 0x40 9 0), { one (xs 0x40 9 0) with cores := [(0, feCore true)] }, { one (xs 0x40 9 0) with cores := [(0, feCore false)] }],
      badField s { reads := [xreg 1, xreg 2], vwrites := [xreg 3] } = none ∧ pendingRegs s { reads := [xreg 1, xreg 2], vwrites := [xreg 3] } = [] ∧
      checkScratch s 0x40 8 .feRead = none ∧ checkScratch s 0x40 8 .feWrite = none ∧ isLocal s 0x40 = true ∧ segmentBusy s.myCore 0 = false ∧
      fenced s s.cur 4 = true) ∧
    Clear false { reads := [xreg 1], vwrites := [xreg 3] } (one (xs 0x40 9 0)) ∧ ThroughScratch (one (xs 0x40 9 0)) 0x40 8 8 .feRead ∧
    ThroughScratch (one (xs 0x40 9 0)) 0x40 8 8 .feWrite ∧ look (feCore true).tags false 8 = true ∧ look (feCore false).tags false 8 = false ∧
    bankEntries Core.reset 8 < 32 ∧ mayList Core.reset 8 = true ∧ look (feCore false).deferred [] 8 = [⟨1, true, 4, false⟩] ∧ (1 : Nat) ≠ (one base).cur ∧
    (let co : Core := { Core.reset with deferred := [(8, List.replicate 32 ⟨1, true, 4, false⟩)] }
     mayList co 8 = false ∧ 32 ≤ bankEntries { co with sdovf := 0x4001 } 8 ∧ mayList { co with sdovf := 0x4001 } 8 = true ∧ look co.tags false 8 = false) ∧
    fenced (one (xs 0x40 9 0)) 0 4 = true ∧
    (let s : State := { State.reset with cores := [(0, feCore true)], fabric := [⟨4, 1, 0, 0, .fe 0x40 .take 3, none⟩] }
     findMsg s 4 = some ⟨4, 1, 0, 0, .fe 0x40 .take 3, none⟩ ∧ behind s ⟨4, 1, 0, 0, .fe 0x40 .take 3, none⟩ = false ∧ segmentBusy (s.core 0) 0 = false) := by
  repeat' apply And.intro
  all_goals decide +kernel

/-- The request of an atomic of n bytes. -/
def atomReq (ea : Word) (n : Nat) : GReq := { ea := ea, n := n, align := n, store := true, atomic := true }

theorem wit_Atomics :
    let s := mem (xs 0x1000 5 6)
    Clear false { reads := [xreg 1, xreg 2], vwrites := [xreg 3] } s ∧ Clear false { reads := [xreg 1, xreg 2, xreg 3], vwrites := [xreg 3] } s ∧
    Clear false { reads := [xreg 1] ++ runX 4 2 ++ runX 6 2, vwrites := runX 6 2, bad := orBad (badRun 4 2) (badRun 6 2) } s ∧
    ThroughReq s (atomReq (readX s 1) 4) (mappingPermits true) (.dev 0x1000) ∧ ThroughReq s (atomReq (readX s 1) 16) (mappingPermits true) (.dev 0x1000) ∧
    ThroughReq s (atomReq (readX s 1) 8) (mappingPermits false) (.dev 0x1000) ∧ ThroughReq s (atomReq (readX s 1) 8) (fun l => !l.isHost) (.dev 0x1000) ∧
    0 ≠ (readX s 3).toNat % 2 ^ 32 ∧ 0 = (readX (mem (xs 0x1000 5 0)) 3).toNat % 2 ^ 32 := by
  repeat' apply And.intro
  all_goals first | decide +kernel | (unfold NoConversion; decide +kernel)

theorem wit_Reductions :
    (let s := mem (xs 0x1000 5 6)
     Clear false { reads := [xreg 1, xreg 2] } s ∧
     checkGlobal s { ea := readX s 1, n := 8, align := 8, store := true, red := true } (mappingPermits true) = .ok (.dev 0x1000) ∧
     checkGlobal s { ea := readX s 1, n := 4, align := 4, store := true, red := true } (mappingPermits false) = .ok (.dev 0x1000) ∧
     inRecon s = false ∧ logged (s.part s.myPart) s.me (readX s 1).toNat = false ∧ s.me.lease = none ∧ (s.me.relaxed.filter (·.red)).length < 8) ∧
    8 ≤ ((List.replicate 8 { left (.load 8) .none with red := true }).filter (·.red)).length ∧
    (let r := { left (.atomic .add 8 5 0 0) .none with red := true }
     let s := mem { base with relaxed := [r] }
     (s.slot (slotKey 0 0)).relaxed = [r] ∧ r.kind = .none ∧ AtomOp.add ≠ .cas ∧ behindHeld s (s.partOf 0) 0x1000 (ticket r.id) = false ∧
     (touch s (s.partOf 0) 0x1000 (.dev 0x1000) (some 0) true).2 = true ∧
     lineOpen s (s.partOf 0) (Loc.dev 0x1000).key (ticket r.id) = true ∧ NoConversion (s.part (s.partOf 0)) r.addr.toNat r.op.extent ∧
     rangeAt s (s.partOf 0) r.addr.toNat = none ∧ otherCopies s 0 (.dev 0x1000) = [] ∧ servedHome s (s.partOf 0) 0x3000 (.dev 0x3000) = false ∧
     0x3000 % 128 + 8 ≤ 128) := by
  repeat' apply And.intro
  all_goals first | decide +kernel | (unfold NoConversion; decide +kernel)

/-- A lease of the line at 0x1000 held since cycle 0, still bounded or not. -/
def held (bounded : Bool) : Lease := ⟨[⟨64, 0x1000, false, 7, 0xFF⟩], 0, 512, 0, bounded, []⟩

theorem wit_Leases :
    (let s := mem (xs 0x1010 5 6)
     Clear false { reads := [xreg 1], vwrites := [xreg 3] } s ∧
     checkGlobal s { ea := readX s 1 &&& ~~~127#64, n := 128, align := 1, store := true, atomic := true, lease := true }
       (fun l => match l with | .host _ c => c | .dev _ => true) = .ok (.dev 0x1000) ∧
     (touch s s.myPart 0x1000 (.dev 0x1000) (some s.curCore) true).2 = true ∧ lineOpen s s.myPart (Loc.dev 0x1000).key s.cur = true ∧
     behindHeld s s.myPart 0x1000 s.cur = false ∧ ownPending s s.cur .global 0x1000 128 = false ∧ (3 : Reg) ≠ 0 ∧
     (let u := { s with cores := [(0, { Core.reset with icache := [(0x1040, 0), (0x1080, 0)] })] }
      missingCode u (codeLines u.me) = none)) ∧
    (let s := mem { base with lease := some (held true) }
     Clear false { vwrites := [xreg 3] } s ∧ s.me.lease = some (held true) ∧ inRecon s = false ∧ rangeAt s s.myPart 0x1000 = none ∧
     convAt (s.part s.myPart) 0x1000 = none ∧ classOf (classEntry (s.part s.myPart) 0x1000) ≠ 0 ∧ 0x1000 % 128 = 0) ∧
    (one base).me.lease = none ∧ (64 : Nat) = 2 * 32 ∧
    (let s : State := { mem { base with lease := some (held false) } with cores := [(0, { Core.reset with cyc := 512 })] }
     (s.slot (slotKey 0 0)).lease = some (held false) ∧ (held false).start + (held false).limit ≤ (s.core 0).cyc ∧ (held false).bounded = false ∧ (held true).bounded = true) ∧
    (let u : State := mem { base with st := .wait, wait := some (.leaseLine 64 3), answer := some [(xreg 3, 0x1000)] }
     u.me.wait = some (.leaseLine 64 3) ∧ u.me.answer = some [(xreg 3, 0x1000)] ∧ 64 % 2 = 0 ∧ u.me.lease = none ∧ lineOpen u u.myPart 64 u.cur = true) := by
  repeat' apply And.intro
  all_goals decide +kernel

theorem wit_Fences : Clear false {} (one base) ∧ fenced (one base) (one base).cur 6 = true ∧
    (let s := mem { base with relaxed := [left (.load 8) .none] }
     Clear false {} s ∧ fenced s s.cur 4 = false ∧ fenced s s.cur 1 = true) ∧
    (let s : State := { one base with rdc := [(32, 9)] }
     fenced s s.cur 6 = true ∧ 0x1008 < 2 ^ 39 ∧ copyAt s (s.cur / 16 / 128) (.dev 0x1008) ≠ none) := by
  repeat' apply And.intro
  all_goals decide +kernel

/-- Core 0 with a live barrier of the tray, two expected and one arrived, at number 3, and slots that may use it. -/
def barState (b : Barrier) : State := { one (xs 3 7 0) with cores := [(0, { Core.reset with bars := [(3, b)] })] }
/-- The barrier with some arrived. -/
def liveBar (arrived : Nat) : Barrier := ⟨true, true, 7, 2, arrived, []⟩

theorem wit_Barriers :
    (let s := one (xs 3 0x10002 0)
     Clear false { reads := [xreg 1, xreg 2] } s ∧ goodName s s.myPart (readX s 1) = true ∧ (readX s 2).toNat < 2 ^ 17 ∧ (readX s 2).toNat % 2 ^ 16 ≠ 0 ∧
     mayUse s s.cur s.curCore ((readX s 2).getLsbD 16) = true ∧ (barOf s 3).live = false ∧ goodName s s.myPart 0x400 = false) ∧
    (∀ n ∈ [0, 1], barRefused (barState (liveBar n)) 3 true = false ∧ fenced (barState (liveBar n)) 0 4 = true ∧ (barState (liveBar n)).saved = [] ∧
      badField (barState (liveBar n)) { reads := [xreg 1, xreg 2], vwrites := [xreg 3] } = none) ∧
    Clear false { reads := [xreg 1], vwrites := [xreg 3] } (barState (liveBar 0)) ∧ Clear false { reads := [xreg 1, xreg 2], vwrites := [xreg 3] } (barState (liveBar 0)) ∧
    (barOf (barState (liveBar 0)) 3).arrived + 1 ≠ (barOf (barState (liveBar 0)) 3).expect ∧ (barOf (barState (liveBar 1)) 3).arrived + 1 = (barOf (barState (liveBar 1)) 3).expect ∧
    barRefused (one base) 3 true = true ∧ (barOf (barState (liveBar 0)) 3).gen = (readX (barState (liveBar 0)) 2).toNat ∧
    barRefused (barState (liveBar 0)) 3 false = false ∧
    (let s : State := { barState (liveBar 0) with fabric := [⟨4, 1, 0, 0, .bar 3 .arr 3, none⟩], slots := [(16, awaiting [])] }
     findMsg s 4 = some ⟨4, 1, 0, 0, .bar 3 .arr 3, none⟩ ∧ behind s ⟨4, 1, 0, 0, .bar 3 .arr 3, none⟩ = false ∧ (s.slot (slotKey 1 0)).wait = some .access ∧ (barOf s 3).live = true) ∧
    (barOf (barState (liveBar 0)) 3).waiters = [] ∧ (barState (liveBar 0)).curCore = 0 ∧
    (∀ e ∈ [(BarOp.inv, true), (.arr, true), (.sync, false), (.wait 7, false), (.wait 6, true)],
      (match barOp (dropMsg (barState (liveBar 0)) 4) 3 e.1 16 with
       | .done _ _ => true
       | .waits _ _ => false) = e.2) ∧
    (let s : State := { barState (liveBar 0) with fabric := [⟨4, 1, 0, 0, .bar 3 (.wait 7) 3, none⟩], slots := [(16, { base with st := .wait, wait := some (.barrier 3 7 3 false) })] }
     findMsg s 4 = some ⟨4, 1, 0, 0, .bar 3 (.wait 7) 3, none⟩ ∧ behind s ⟨4, 1, 0, 0, .bar 3 (.wait 7) 3, none⟩ = false ∧
     (match barOp (dropMsg s 4) 3 (.wait 7) 16 with
      | .waits t g => (t.slot 16).wait == some (.barrier 3 7 3 false) && g == 7
      | .done _ _ => false) = true) := by
  repeat' apply And.intro
  all_goals decide +kernel

/-- Core 0 with segment 2 on the range 0x1000. -/
def subscriber (st : SegSt) (leaving : Option Nat) : Core := { Core.reset with segs := [(2, ⟨0x1000, st, 0, leaving⟩)] }
/-- The range at 0x1000 with its subscribers. -/
def range1 (subs : List (Nat × Nat)) : Part := { memPart with ranges := [(0x1000, ⟨.dev 0x1000, 0, subs, []⟩)] }

theorem wit_MessagesAndSubscriptions :
    (let s := one { xs 0 0 0 with level := .s }
     Clear false { reads := xreg 1 :: plainV s [2], vwrites := [xreg 3] } s ∧ isBound s.me 2 = false ∧ s.present (readX s 1).toNat = true ∧
     s.partOf 0 = s.myPart ∧ fenced s s.cur 4 = true ∧ inTray s s.cur 0 = true) ∧
    (one base).present 512 = false ∧
    (let s : State := { State.reset with fabric := [⟨4, 1, 0, 0, .mail 9 0, none⟩], slots := [(16, awaiting [(xreg 3, 0)])] }
     findMsg s 4 = some ⟨4, 1, 0, 0, .mail 9 0, none⟩ ∧ behind s ⟨4, 1, 0, 0, .mail 9 0, none⟩ = false ∧ (s.slot (slotKey 1 0)).answer = some [(xreg 3, 0)] ∧
     (s.slot (slotKey 1 0)).wait = some .access ∧ (s.core 0).qi.length < 32 ∧ 32 ≤ ((s.setCore 0 { Core.reset with qi := List.replicate 32 0 }).core 0).qi.length) ∧
    (let s := mem (xs 2 0x1000 0)
     Clear false { reads := [xreg 1, xreg 2], vwrites := [xreg 3] } s ∧ (readX s 1).toNat ≤ 250 ∧ (readX s 2).toNat % 4096 = 0 ∧ (segOf s.myCore 2).st = .none ∧
     subscribes s.myCore 0x1000 = false ∧ behindHeld s s.myPart 0x1000 s.cur = false ∧
     checkGlobal s { ea := readX s 2, n := 4096, align := 4096, store := false } (fun l => match l with | .dev _ => true | .host _ _ => false) = .ok (.dev 0x1000) ∧
     reclassifying s s.myPart 0x1000 = false ∧ classOf (classEntry (s.part s.myPart) 0x1000) = 3 ∧ rangeAt s s.myPart 0x1000 = none ∧
     rangesAtBank (s.part s.myPart) (.dev 0x1000) < 256) ∧
    (let s : State := { mem (xs 2 0 0) with parts := [(0, range1 [(0, 2)])], cores := [(0, subscriber .invalid none)] }
     (segOf (s.core 0) 2).st = .invalid ∧ (rangeAt s 0 0x1000).isSome = true) ∧
    (let s : State := { mem (xs 2 0 0) with parts := [(0, range1 [(0, 2)])], cores := [(0, subscriber .shared none)] }
     Clear false { reads := [xreg 1], vwrites := [xreg 3] } s ∧ Clear false { reads := [xreg 1] } s ∧ (segOf s.myCore 2).st = .shared ∧
     rangeAt s s.myPart 0x1000 = some ⟨.dev 0x1000, 0, [(0, 2)], []⟩ ∧
     rangeAt { s with parts := [(0, range1 [(0, 2), (1, 3)])] } s.myPart 0x1000 = some ⟨.dev 0x1000, 0, [(0, 2), (1, 3)], []⟩ ∧
     pendingElsewhere ⟨.dev 0x1000, 0, [(0, 2)], [(0, [0], some (0, .ack))]⟩ s.curCore = false ∧
     pendingElsewhere ⟨.dev 0x1000, 0, [(0, 2)], [(0, [0], some (16, .ack))]⟩ s.curCore = true) ∧
    (let s : State := { mem base with parts := [(0, range1 [(0, 2)])], cores := [(0, subscriber .intransit (some 0))] }
     (segOf (s.core 0) 2).leaving = some 0 ∧ updatesDue s 0x1000 0 = false) ∧
    (let s : State := { mem base with cores := [(0, subscriber .shared none)], fabric := [⟨4, 1024, 0, 0, .update 0 0x1000 1 0 (offsets 0 [5]) none, none⟩] }
     findMsg s 4 = some ⟨4, 1024, 0, 0, .update 0 0x1000 1 0 (offsets 0 [5]) none, none⟩ ∧ segmentOf (s.core 0) 0x1000 = some (2, ⟨0x1000, .shared, 0, none⟩) ∧ behind s ⟨4, 1024, 0, 0, .update 0 0x1000 1 0 (offsets 0 [5]) none, none⟩ = false ∧
     leasedUpdate s 0 0x1000 (offsets 0 [5]) = false) := by
  repeat' apply And.intro
  all_goals decide +kernel

/-! ## Witnesses: vectors -/

/-- A running slot whose f1 and f2 are given. -/
def fs (a b : Vec) : Slot := { base with f := ((Vector.replicate 16 0).set 1 a).set 2 b }

theorem wit_VectorIntegers : (ctl .i32).lt.isFloat = false ∧ LaneClear (one (fs 1 2)) (ctl .i32) false false 3 1 2 ∧
    LaneClear (one (fs 1 2)) ⟨.z16, .csr, true, true⟩ false true 4 14 3 ∧ LaneClear (one (fs 1 2)) ⟨.i64, .csr, false, true⟩ false false 4 0 2 ∧
    VecClear (one (fs 1 2)) true true 4 [2] [] := by
  unfold LaneClear VecClear
  repeat' apply And.intro
  all_goals decide +kernel

theorem wit_VectorFloats : (ctl .s).lt.isFloat = true ∧ LaneClear (one (fs 1 2)) (ctl .s) false false 3 1 2 ∧
    LaneClear (one (fs 1 2)) ⟨.hf, .rup, true, true⟩ true true 4 14 3 ∧ VecClear (one (fs 1 2)) false false 3 [1] [] ∧
    decodeFmt fp32 0x7FC00000 = .nan ∧ decodeFmt fp32 0x7F800000 = .inf false ∧ decodeFmt fp32 0xFF800000 = .inf true ∧
    (match decodeFmt fp32 0 with | .fin false m _ => m == 0 | _ => false) = true ∧
    (match decodeFmt fp32 0x3F800000, decodeFmt fp32 0xBF800000 with
     | .fin false m e, .fin true n f => m == n && e == f && decide (0 < m) && decide (0 < e)
     | _, _ => false) = true := by
  unfold LaneClear VecClear
  repeat' apply And.intro
  all_goals decide +kernel

theorem wit_ExactValuesRoundToThemselves : 0x3C00 < 2 ^ (fp16.e + fp16.m) ∧
    (match decodeFmt fp16 0x3C00 with | .fin false m _ => decide (0 < m) | _ => false) = true ∧ 1 * 2 ^ (2 ^ (fp16.e - 1)) ≤ 65536 ∧
    1 * 2 ^ (2 ^ (fp16.e - 1) - 2 + fp16.m + 1) < 2 ^ 30 := by
  decide +kernel

theorem wit_ComparesAndPermutes : Clear false { reads := [vreg 1, vreg 2], writes := [xreg 3] } (one (fs 1 2)) ∧ isBound (one (fs 1 2)).me 1 = false ∧
    VecClear (one (fs 1 2)) false false 3 [1, 2] [] ∧ VecClear (one (fs 1 2)) false true 3 [1, 2] [] ∧ VecClear (one (fs 1 2)) false true 3 [] [1] ∧
    VecClear (one (fs 1 2)) false false 3 [1] [] ∧ Clear false { reads := [vreg 1], writes := [xreg 3] } (one (fs 1 2)) ∧ (ctl .s).x2 = false := by
  unfold VecClear
  repeat' apply And.intro
  all_goals decide +kernel

theorem wit_ReductionsAndConversions :
    (let s := one (fs 1 2)
     Clear false { reads := [vreg 1], vwrites := [xreg 3] } s ∧ isBound s.me 1 = false ∧ VecClear s false (decide (LaneT.bits .hf < LaneT.bits .s)) 3 [1] [] ∧
     VecClear s false true 3 [1] [] ∧ VecClear s false false 3 [1] [] ∧ Clear false (vecUses false true 3 [1] []) s ∧
     s.me.csr.scl[(0 : BitVec 2).toFin] = 0 ∧ badDesc s.me.csr.fmt[(0 : BitVec 2).toFin] = true) ∧
    (1 : BitVec 3).toNat * min 32 16 < max 32 16 ∧
    (let s := one { fs 1 2 with csr := { UserCsr.pickUp with fmt := (Vector.replicate 4 0).set 1 0x705C8 } }
     badDesc s.me.csr.fmt[(1 : BitVec 2).toFin] = false ∧ VecClear s false true 3 [1] [] ∧ VecClear s false false 3 [1] [] ∧ s.me.csr.scl[(1 : BitVec 2).toFin] = 0) := by
  unfold VecClear
  repeat' apply And.intro
  all_goals decide +kernel

/-- A session that holds one pair. -/
def session : TopK := ⟨.z32, false, 8, 0, [⟨9, 3⟩], true, []⟩
/-- The operands of `str.cfg`: base, 100 bytes, stride and control. -/
def streaming (a st c : Word) : State := one { base with x := regs [(4, a), (5, 100), (6, st), (7, c)] }
/-- Stream 1 reading 100 bytes from 0x1000. -/
def reading : Stream := ⟨true, false, false, 4, 0x1000, 100, 64, 0, 0, []⟩

theorem wit_SpecialFunctionsStreamsAndTopK :
    (let s := one (fs 1 2)
     isBound s.me 1 = false ∧ isBound s.me 3 = false ∧ Clear false { reads := vreg 1 :: [vreg 3], vwrites := [vreg 3] } s ∧
     Clear false { reads := vreg 1 :: [], vwrites := [vreg 3] } s) ∧
    decodeFmt fp32 0x7FC00000 = .nan ∧ decodeFmt fp32 0xFF800000 = .inf true ∧ (match decodeFmt fp32 0x80000000 with | .fin true m _ => m == 0 | _ => false) = true ∧
    (match decodeFmt fp32 0x4F000000 with | .fin false m e => decide (2 ^ 20 * e < m) | _ => false) = true ∧
    (∀ s ∈ [streaming 0x1001 0 0x20, streaming 0x1000 1 0x20, streaming 0x1000 0 0x40, streaming 0x1000 0 0x20],
      badField s { reads := runX 4 4, bad := badPrivateRun 4 4 } = none ∧ pendingRegs s { reads := runX 4 4, bad := badPrivateRun 4 4 } = [] ∧
      s.me.csr.schk.getLsbD 0 = false) ∧
    (readX (streaming 0x1000 0 0x20) 7).toNat / 16 % 4 = 2 ∧ 100 % 2 ^ 2 = 0 ∧
    Clear false {} (one { base with streams := (Vector.replicate 4 Stream.off).set 1 reading }) ∧ reading.pos < (reading.len + 63) / 64 ∧ Stream.off.on = false ∧
    (let u := mem { base with streams := (Vector.replicate 4 Stream.off).set 1 reading }
     u.me.streams[(1 : Fin 4)] = reading ∧ ThroughReq u { ea := 0x1000, n := 64, align := 1, store := false } anyMapping (.dev 0x1000) ∧ copyAt u 0 (.dev 0x1000) = none) ∧
    Clear false { reads := [xreg 1] } (one (xs 8 0 0)) ∧ 0 < (readX (one (xs 8 0 0)) 1).toNat % 512 ∧ ¬ 0 < (readX (one (xs 512 0 0)) 1).toNat % 512 ∧
    (let s := one { fs 1 2 with topk := some session, csr := { UserCsr.pickUp with vm := 1 } }
     Clear false { reads := [vreg 1] } s ∧ s.me.topk = some session ∧ session.isOpen = true ∧ s.me.csr.vm = BitVec.ofNat 64 (2 ^ 0) ∧ session.out = [] ∧
     Clear false { vwrites := [xreg 3] } s) ∧
    keyVal .s 0x7FC00000 = .nan ∧ keyVal .z32 9 ≠ .nan ∧
    (let s := one { base with topk := some { session with out := [5] } }
     (s.slot (slotKey 0 0)).topk = some { session with out := [5] } ∧ (s.slot (slotKey 0 0)).qk.length < 4) ∧
    4 ≤ (one { base with qk := [0, 0, 0, 0] }).me.qk.length := by
  repeat' apply And.intro
  all_goals first | decide +kernel | (unfold NoConversion; decide +kernel)

/-! ## Witnesses: matrix port, tensors and copies -/

/-- Core 0 with the operand slots 4 and 5 of transaction 9 full of zeros and a port. -/
def matCore (st : OsSt) (port : List PortEntry) : Core :=
  { Core.reset with os := [(4, ⟨st, some 9, 0, []⟩), (5, ⟨st, some 9, 0, []⟩)], port := port }
/-- A slot of transaction 9 on that core. -/
def matSlot : Slot := { xs 0x1000 0 0 with tx := some 9 }
/-- The machine with both. -/
def mat (st : OsSt) (port : List PortEntry) : State := { mem matSlot with cores := [(0, matCore st port)] }
/-- A 4 by 2 matrix of i8 at 0x2000, and its record. -/
def rec0 : Vec := resealed (BitVec.ofNat 512 (4 * 2 ^ 48 + 2 * 2 ^ 40 + 0x2000 * 2 ^ 64 + (4 + 2 * 2 ^ 32) * 2 ^ 128))
/-- The fields of a multiply of operand slots 4 and 5. -/
def mxf : MxFields := ⟨false, 4, 4, 10, 5, 4⟩

theorem wit_MatrixPort :
    (let s := one { base with tx := some 9 }
     Clear false { vwrites := [xreg 3] } s ∧ (one base).me.tx = none ∧ s.me.tx ≠ none ∧ s.myCore.port.length < 8 ∧ claimsOs s 4 = false ∧
     Clear false { reads := [xreg 1] } s ∧ Clear false { reads := [xreg 1, xreg 0] } s) ∧
    8 ≤ ((mat .full (List.replicate 8 ⟨0, 0, some 9, Vector.replicate 4 0, .release 6, false, 0, [], 0⟩)).myCore.port.length) ∧
    (let s := mat .full []
     Clear false {} s ∧ MayName s 4 ∧ MayName s 5 ∧ (osOf s.myCore 4).st ≠ .filling ∧ (osOf s.myCore 4).st ≠ .shipping ∧ (osOf s.myCore 4).st ≠ .empty ∧
     Clear false { reads := [xreg 1, xreg 0] } s ∧ checkGlobal s { ea := readX s 1, n := 4096, align := 4096, store := false } anyMapping = .ok (.dev 0x1000) ∧
     checkGlobal s { ea := readX s 1, n := 4096, align := 4096, store := true } anyMapping = .ok (.dev 0x1000) ∧
     checkScratch s (readX s 1) 4096 .load = none ∧ scrWin (readX s 1) ≠ 1 ∧
     checkScratch s (readX s 1) 4096 .store = none ∧
     badShadow s mxf.fa = none ∧ badShadow s mxf.fb = none ∧ codeBits s.me.csr.fmt mxf.fa = codeBits s.me.csr.fmt mxf.fb ∧ mxf.i40 = false ∧
     codeBits s.me.csr.fmt 4 ≠ codeBits s.me.csr.fmt 6 ∧ 246 < (255 : BitVec 8).toNat ∧ MayAccumulate s 10 ∧ MayAccumulate s 246 ∧
     operandsReady s s.curCore [4, 5] = true ∧ s.myCore.outgoing = [] ∧ operandsReady (mat .empty []) 0 [4, 5] = false) ∧
    (let s := (mat .full []).setMe { matSlot with h := (Vector.replicate 8 Handle.invalid).set 2 ⟨true, 0x1000, rec0, false⟩, x := Vector.replicate 16 0 }
     let vas := elemBytes rec0 ((blockElems rec0 0 0 0 false).map fun x => x.2.2)
     Clear false { reads := [xreg 3, xreg (3 + 1)], bad := orBad (badHandle 2) (badRun 3 2) } s ∧ MayName s 4 ∧ (handleAt s.me 2).record = rec0 ∧
     (handleAt s.me 2).valid = true ∧ (handleAt s.me 2).reload = false ∧ coordsOf s 3 = (0, 0, 0, 0) ∧ coordElem rec0 0 0 0 0 = (0, 0, 0) ∧ recEtype rec0 ∈ [0, 2, 3, 4, 8] ∧ recOutl rec0 = false ∧
     badCoord rec0 0 0 0 0 = none ∧ checkBytes s false vas = .ok (.dev 0)) := by
  repeat' apply And.intro
  all_goals decide +kernel

/-- An entry of transaction 9 from slot 0, not started or started. -/
def entry (op : PortOp) (started : Bool) : PortEntry := ⟨0, 0, some 9, Vector.replicate 4 0, op, started, 8, [], 0⟩
/-- The machine with the entry at the head of the port of core 0, in cycle `cyc`. -/
def headed (st : OsSt) (e : PortEntry) (cyc : Nat) : State :=
  { one { matSlot with vpend := [⟨7, [xreg 3], none, 0, .plain⟩] } with cores := [(0, { matCore st [e] with cyc := cyc })] }
/-- A shipment for operand slot 4 of core 0. -/
def shipped : Shipment := ⟨some 9, 0, 4, 1, [], 0, 0⟩
/-- A running transaction of one core without sets. -/
def tx9 : Tx := ⟨0, 3, none, List.replicate 16 0, Vector.replicate 4 0, Vector.replicate 4 0, 0, [], some 5, .running, some (0, 1, 1), [(0, [0])], 1,
  false, 0, 0, 0, 0, 0, 0, [], 0⟩

theorem wit_MatrixEvents :
    (let s := headed .full (entry (.claim 6 7) false) 0
     (s.core 0).port = [entry (.claim 6 7) false] ∧ (s.slot 0).vpend = [⟨7, [xreg 3], none, 0, .plain⟩] ∧ (osOf (s.core 0) 6).tx = none) ∧
    (let e := { entry (.claim 4 7) false with tx := some 8 }
     (osOf ((headed .full e 0).core 0) 4).tx = some 9 ∧ e.tx ≠ some 9) ∧
    (osOf ((headed .full (entry (.release 4) false) 0).core 0) 4).tx = (entry (.release 4) false).tx ∧
    (let s := headed .filling (entry (.load 4 (.bytes .scratch 0x1000 none 0 0) 0 [] [7]) false) 0
     scrWin 0x1000 = 0 ∧ (s.slot 0).relaxed = [] ∧ segmentBusy (s.core 0) 1 = false ∧ (segOf (s.core 0) 1).st = .none ∧ (osOf (s.core 0) 4).st = .filling) ∧
    portReady (matCore .filling []) [4, 5] = false ∧ portReady (matCore .full []) [4, 5] = true ∧
    ((headed .full (entry (.zero 10 2 2) true) 7).core 0).cyc < 8 ∧ 8 ≤ ((headed .full (entry (.zero 10 64 64) true) 8).core 0).cyc ∧
    (let s := headed .full { entry (.drain ⟨false, 4, 4, 0, 10, 0, false, .csr, .s⟩ 1 1 0 0 0) true with out := [5] } 0
     (s.slot 0).cont = 0 ∧ (s.slot 0).qm.length < 8) ∧
    8 ≤ (List.replicate 8 (0 : Vec)).length ∧
    (let s : State := { headed .empty (entry (.release 6) false) 0 with txs := [(9, tx9)], fabric := [⟨4, 1, 0, 0, .tile shipped, none⟩] }
     findMsg s 4 = some ⟨4, 1, 0, 0, .tile shipped, none⟩ ∧ behind s ⟨4, 1, 0, 0, .tile shipped, none⟩ = false ∧ (s.tx? 9).isSome = true ∧ (osOf (s.core 0) 4).tx = shipped.tx ∧ (osOf (s.core 0) 4).st = .empty) ∧
    (osOf ((headed .full (entry (.release 6) false) 0).core 0) 4).st ≠ .empty := by
  repeat' apply And.intro
  all_goals decide +kernel

/-- A slot with the handle h2 on the record at 0x1000, x4 and x5, in a memory that holds the record. -/
def tens (r : Vec) (a b : Word) : State :=
  { mem { base with x := regs [(1, 0x1000), (4, a), (5, b)], h := (Vector.replicate 8 Handle.invalid).set 2 ⟨true, 0x1000, r, false⟩ } with
    devMem := writeBytes [] 0x1000 (natToBytes 64 r.toNat) }
/-- The record with a broken seal, and the one of a conversion whose state block lies at 0x2080. -/
def recBad : Vec := rec0 ^^^ 1
def recMark : Vec := resealed (rec0 ||| BitVec.ofNat 512 (2 ^ 44 + 0x2080 * 2 ^ 448))

theorem wit_TensorHandles :
    (let s := tens rec0 0x40000 0x1100
     Clear false { reads := [xreg 1], bad := badHandle 2 } s ∧ translate (s.part s.myPart) 0x1000 .read = .hit (.dev 0x1000) ∧
     translate (s.part s.myPart) 0x1000 .write = .hit (.dev 0x1000) ∧ ThroughReq s { ea := readX s 1, n := 64, align := 64, store := false } anyMapping (.dev 0x1000) ∧
     BitVec.ofNat 512 (bytesToNat (readBytes s.devMem 0x1000 64)) = rec0 ∧ recConv rec0 = false ∧ recordFault rec0 false = none ∧
     ThroughReq s { ea := readX s 1, n := 64, align := 64, store := true } anyMapping (.dev 0x1000) ∧ (handleAt s.me 3).valid = false ∧
     Clear false { vwrites := [xreg 3], bad := badHandle 2 } s ∧ (handleAt s.me 2).valid = true ∧
     Clear false { reads := [xreg 4, xreg (4 + 1)], vwrites := [xreg 3], bad := orBad (badHandle 2) (badRun 4 2) } s ∧
     OpenAt s true 0x1000 ∧ OpenAt s false 0x1000 ∧ ThroughReq s { ea := 0x1000, n := 64, align := 64, store := true, sets := false } anyMapping (.dev 0x1000) ∧
     ThroughReq s { ea := 0x1000, n := 64, align := 64, store := false, sets := false } anyMapping (.dev 0x1000) ∧
     (let base := (readX s 4).toNat
      let blk := (readX s 5).toNat
      let new := newVersion rec0 1 base blk
      let n := unitCount rec0
      base % 4096 = 0 ∧ blk % 128 = 0 ∧ base + storageBytes new ≤ 2 ^ 57 ∧ blk + blockSize n ≤ 2 ^ 57 ∧ overlap base (storageBytes new) (recBase rec0) (storageBytes rec0) = false ∧
      overlap blk (blockSize n) base (storageBytes new) = false ∧ overlap blk (blockSize n) (recBase rec0) (storageBytes rec0) = false ∧ s.me.tx = none ∧
      firstClosed (s.part s.myPart) .write (relayPages s s.myPart base blk (blockSize n)) = none ∧ usesRecord s s.myPart rec0 = false ∧
      usesRecord { s with copies := [⟨⟨7, Handle.invalid, none, .u, 0, 0, 0, 0, 3⟩, 16, 0, rec0, 300, false, false, [], none, [], [], 0, none⟩] } s.myPart rec0 = true ∧
      (∀ va ∈ chunkAddrs blk (blockSize n), OpenAt s true va) ∧ NoConversion (s.part s.myPart) blk (blockSize n + 64))) ∧
    recordFault recBad false = some 1 ∧ overlap 0x2000 8 (recBase rec0) (storageBytes rec0) = true ∧
    (let s := tens recMark 0x40000 0x80000
     BitVec.ofNat 512 (bytesToNat (readBytes s.devMem 0x1000 64)) = recMark ∧ recConv recMark = true ∧ recAux recMark = 0x2080 ∧ recAux recMark % 128 = 0 ∧
     OpenAt s false 0x1000 ∧ OpenAt s false (recAux recMark + 80) ∧
     ThroughReq s { ea := BitVec.ofNat 64 (recAux recMark + 80), n := 8, align := 8, store := false } anyMapping (.dev 0x20D0) ∧
     translate (s.part s.myPart) (recAux recMark + 80) .read = .hit (.dev 0x20D0) ∧
     bytesToNat (readBytes s.devMem 0x20D0 8) % 256 = 0 ∧ bytesToNat (readBytes (writeByte s.devMem 0x20D0 1) 0x20D0 8) % 256 ≠ 0) := by
  repeat' apply And.intro
  all_goals first | decide +kernel | (unfold NoConversion; decide +kernel) | (unfold OpenAt; decide +kernel)

theorem wit_TensorElements :
    (let s := tens rec0 0x100000002 0
     (handleAt s.me 2).valid = true ∧ (handleAt s.me 2).reload = false ∧ coordsOf s 4 = (2, 1, 0, 0) ∧ coordElem rec0 2 1 0 0 = (0, 1, 2) ∧ badCoord rec0 2 1 0 0 = none ∧
     Clear false { reads := [xreg 4, xreg (4 + 1)], vwrites := [xreg 3], bad := orBad (badHandle 2) (badRun 4 2) } s ∧
     Clear false { reads := [xreg 4, xreg (4 + 1)], vwrites := [vreg 3], bad := orBad (badHandle 2) (badRun 4 2) } s ∧
     Clear false { reads := [xreg 4, xreg (4 + 1), xreg 3], bad := orBad (badHandle 2) (badRun 4 2) } s ∧
     Clear false { reads := [xreg 4, xreg (4 + 1), vreg 3], bad := orBad (badHandle 2) (badRun 4 2) } s ∧ isBound s.me 3 = false ∧
     min (512 / recBits rec0) (recD rec0 0 - 2) = 2 ∧ recBits rec0 ≠ 4 ∧
     (∀ store ∈ [false, true], checkBytes s store (elemBytes rec0 [(0, 1, 2), (0, 1, 3)]) = .ok (.dev 0) ∧ checkBytes s store (elemBytes rec0 [(0, 1, 2)]) = .ok (.dev 0)) ∧
     elemBytes rec0 [(0, 1, 2), (0, 1, 3)] = [0x2006, 0x2007] ∧ (∀ va ∈ [0x2006, 0x2007], ownPending s s.cur .global va 1 = false) ∧ (s.me.relaxed.filter (·.counts)).length < 16 ∧
     OpenAt s false 0x2006 ∧ OpenAt s true 0x2006 ∧ OpenAt s false 0x2007 ∧ OpenAt s true 0x2007 ∧ inRecon s = false ∧ s.me.lease = none ∧
     0x2006 % 4096 + 1 ≤ 4096 ∧ (placeAt s s.myPart 0x2006 .write).addr ≠ (placeAt s s.myPart 0x2007 .write).addr) ∧
    badCoord rec0 4 1 0 0 = some 4 := by
  repeat' apply And.intro
  all_goals decide +kernel

/-- Partition 0 with the pages 1, 2 and 3 alone, and a conversion. -/
def kneadPart (c : Conv) : Part :=
  { memPart with
    cls := [(1, 0xC000), (2, 0xC000), (3, 0xC000)]
    xlat := [(0x100C, ⟨12, true, true, true, 0x40001000⟩), (0x200C, ⟨12, true, true, true, 0x40002000⟩), (0x300C, ⟨12, true, true, true, 0x40003000⟩)]
    convs := [c] }
/-- A conversion of one i8 from 0x2000 to 0x1000 with the state block at 0x3000. -/
def conv (us : List UnitSt) (forced : List Nat) : Conv :=
  ⟨7, 0x3800, 0x3000, BitVec.ofNat 512 (4 * 2 ^ 48 + 2 ^ 40 + 0x2000 * 2 ^ 64 + 2 ^ 128), BitVec.ofNat 512 (4 * 2 ^ 48 + 2 ^ 40 + 0x1000 * 2 ^ 64 + 2 ^ 128),
    us, forced, 0, false, none⟩
/-- The machine with it. -/
def kneading (c : Conv) : State := { mem base with parts := [(0, kneadPart c)] }

/-- A partition without islands has its translations in slice 0 (R371). -/
theorem wit_slice (va : Nat) : sliceOf memRecord va = 0 := by
  have d : ∀ k : Fin 4, holdsDie memRecord k.val = false := by decide +kernel
  have h := d ⟨(va >>> 12 ^^^ va >>> 22) % 4, Nat.mod_lt _ (by decide)⟩
  have r : memRecord.extractLsb' 32 32 = 0 := by decide +kernel
  simp only [sliceOf, h, r]
  rfl

/-- The place of an address of the state block's page. -/
theorem wit_block_place (us : List UnitSt) (i : Nat) (hi : i < 4096) :
    Machine.translate (kneadPart (conv us [])) (0x3000 + i) .write = .hit (.dev (0x3000 + i)) := by
  have s63 : (kneadPart (conv us [])).spasid.getLsbD 63 = true := by show (0x8000000000000001#64).getLsbD 63 = true; decide
  have e : xentryAt (kneadPart (conv us [])).xlat 0 (0x3000 + i) 12 = some ⟨12, true, true, true, 0x40003000⟩ := by
    have k : (0x3000 + i) / 2 ^ 12 * 2 ^ 12 + 12 = 0x300C := by omega
    simp only [xentryAt, xkey, Nat.mul_zero, Nat.zero_add, k, kneadPart]
    decide
  have pa : (0x40003000 + (0x3000 + i) % 2 ^ 12) = 0x40003000 + i := by omega
  have x : extentAt memRecord 0 0 288 = some 0 := by decide +kernel
  have place : placeOf (kneadPart (conv us [])) (0x40003000 + i) = some (.dev (0x3000 + i)) := by
    have w : (kneadPart (conv us [])).hwin.find? (fun w => w.base ≤ 0x40003000 + i && 0x40003000 + i < w.base + w.pages * 4096) = some ⟨0x40000000, 2 ^ 18, 2⟩ := by
      show List.find? _ [_, _, _] = _
      rw [List.find?_cons_of_pos]
      simp only [Bool.and_eq_true, decide_eq_true_eq]
      omega
    have o : 0x40003000 + i - 0x40000000 = 0x3000 + i := by omega
    have q : (0x3000 + i) / 2 ^ 30 = 0 := by omega
    have m : (0x3000 + i) % 2 ^ 30 = 0x3000 + i := by omega
    have r : (kneadPart (conv us [])).record = memRecord := rfl
    simp only [placeOf, w, carveOut, o, q, r, x, m, Option.map_some, Nat.zero_mul, Nat.zero_add]
  have z : sliceOf (kneadPart (conv us [])).record (0x3000 + i) = 0 := wit_slice _
  simp only [Machine.translate, s63, z, xlookup, pageSizes, e, XEntry.grants, pa, place]
  simp

/-- A key of a map of three that is none of them. -/
theorem wit_look_none {α : Type} (a b c d : α) (x y z k : Nat) (hx : x ≠ k) (hy : y ≠ k) (hz : z ≠ k) :
    look [(x, a), (y, b), (z, c)] d k = d := by
  simp [look, hx, hy, hz]

/-- Above the page of the state block nothing is translated. -/
theorem wit_block_above (us : List UnitSt) (i n : Nat) (hi : ¬ i < 4096) (hn : n ∈ [12, 16, 21, 30]) :
    xentryAt (kneadPart (conv us [])).xlat 0 (0x3000 + i) n = none := by
  have key : 0x100C ≠ (0x3000 + i) / 2 ^ n * 2 ^ n + n ∧ 0x200C ≠ (0x3000 + i) / 2 ^ n * 2 ^ n + n ∧ 0x300C ≠ (0x3000 + i) / 2 ^ n * 2 ^ n + n := by
    simp only [List.mem_cons, List.not_mem_nil, or_false] at hn
    rcases hn with rfl | rfl | rfl | rfl <;> omega
  simp only [xentryAt, xkey, Nat.mul_zero, Nat.zero_add, kneadPart, List.map_cons, List.map_nil]
  exact wit_look_none _ _ _ _ _ _ _ _ key.1 key.2.1 key.2.2

/-- What no page size covers is not found. -/
theorem wit_lookup_none (m : SMap XEntry) (va : Nat) (h12 : xentryAt m 0 va 12 = none) (h16 : xentryAt m 0 va 16 = none)
    (h21 : xentryAt m 0 va 21 = none) (h30 : xentryAt m 0 va 30 = none) : xlookup m 0 va pageSizes = none := by
  simp [pageSizes, xlookup, h12, h16, h21, h30]

/-- What is not found is not translated. -/
theorem wit_translate_none (pt : Part) (va : Nat) (l : Loc) (need : Need) (z : sliceOf pt.record va = 0) (h : xlookup pt.xlat 0 va pageSizes = none) :
    Machine.translate pt va need ≠ .hit l := by
  unfold Machine.translate
  rw [z, h]
  split <;> simp

/-- No address at or above the state block lies at the place of the new storage. -/
theorem wit_block_apart (us : List UnitSt) (i : Nat) (l : Loc)
    (h : Machine.translate (kneadPart (conv us [])) ((conv us []).block + i) .write = .hit l) : l.addr ≠ 0x1000 := by
  have b : (conv us []).block = 0x3000 := rfl
  rw [b] at h
  by_cases hi : i < 4096
  · rw [wit_block_place us i hi] at h
    obtain rfl : Loc.dev (0x3000 + i) = l := XRes.hit.inj h
    simp only [Loc.addr]
    omega
  · exact absurd h (wit_translate_none _ _ _ _ (wit_slice _) (wit_lookup_none _ _ (wit_block_above us i 12 hi (by simp)) (wit_block_above us i 16 hi (by simp))
      (wit_block_above us i 21 hi (by simp)) (wit_block_above us i 30 hi (by simp))))

theorem wit_KneadEngine : convOf (one base) 7 = none ∧
    (∀ us ∈ [[UnitSt.old, .old], [.new, .new]], let s := kneading (conv us [])
      convOf s 7 = some (0, conv us []) ∧ (s.part 0).convs.find? (fun x => x.id == 7) = some (conv us []) ∧ (conv us []).failed = false ∧
      aheadOn s (conv us []) < 8 ∧ busyUnit (conv us []) = none ∧
      (agentLines 0 true (chunkAddrs (conv us []).block (blockBytes (conv us [])) ++ chunkAddrs (conv us []).addr 64) s).2 = .ready ∧
      (agentLines 0 true (chunkAddrs (conv us []).block (blockBytes (conv us []))) s).2 = .ready) ∧
    nextUnit (conv [.old, .old] []) = some 0 ∧ nextUnit (conv [.new, .new] []) = none ∧ nextUnit (conv [.old, .old] [1]) = some 1 ∧
    (let c := conv [.busy, .old] []
     let s := kneading c
     let u := (agentLines 0 false (piecesOf (unitReads c 0)) s).1
     convOf s 7 = some (0, c) ∧ (s.part 0).convs.find? (fun x => x.id == 7) = some c ∧ aheadOn s c < 8 ∧ busyUnit c = some 0 ∧
     [c.oldRec, c.newRec].all (fun r => recLayout r == 0 && recD r 0 == 1 && recD r 1 == 1 && recBits r == 8) = true ∧
     translate (s.part 0) (recBase c.oldRec) .read = .hit (.dev 0x2000) ∧ translate (s.part 0) (recBase c.newRec) .read = .hit (.dev 0x1000) ∧
     translate (s.part 0) (recBase c.newRec) .write = .hit (.dev 0x1000) ∧ foreignPage (s.part 0) (pagesOf (unitWrites c 0)) = none ∧
     foreignPage { s.part 0 with phase := some 9, regions := [⟨0x1000, 1, 1⟩] } (pagesOf (unitWrites c 0)) = some 0x1000 ∧
     (agentLines 0 false (piecesOf (unitReads c 0)) s).2 = .ready ∧
     (agentLines 0 true (piecesOf (unitWrites c 0) ++ chunkAddrs c.block (blockBytes c) ++ chunkAddrs c.addr 64) u).2 = .ready ∧
     (∀ i l, translate (s.part 0) (c.block + i) .write = .hit l → l.addr ≠ 0x1000) ∧ rangeAt s 0 (recBase c.newRec) = none ∧
     (∀ va ∈ chunkAddrs c.block (blockBytes c), rangeAt s 0 va = none ∧ classOf (classEntry (s.part 0) va) = 3) ∧ (s.part 0).ranges = []) := by
  repeat' apply And.intro
  all_goals first | decide +kernel | exact fun i l h => wit_block_apart _ i l h

/-- The transaction 9 in its reconnaissance pass. -/
def reconTx : Tx := { tx9 with st := .recon }
/-- A slot with the words of a copy request in x4 to x7. -/
def asks (w2 w3 : Word) : Slot := { base with x := regs [(4, 0x1000), (5, 0x2080), (6, w2), (7, w3)] }
/-- A LINEAR request of n bytes from 0x1000 to an address, as job 7 with its status in x3, and its job. -/
def lin (n dst : Word) : CopyReq := ⟨7, Handle.invalid, none, .u, 0x1000, dst, n, 0, 3⟩
def linJob (n dst : Word) : CopyJob := ⟨lin n dst, 0, 0, 0, 300, false, false, [], none, [], [], 0, none⟩
/-- A slot that waits for the status of job 7. -/
def copier : Slot := { base with vpend := [⟨7, [xreg 3], none, 0, .copy⟩] }
/-- The machine with that slot, its FIFO and the jobs in progress. -/
def copying (fifo : List CopyReq) (jobs : List CopyJob) : State := { mem { copier with copies := fifo } with copies := jobs }

theorem wit_Copies :
    (let u : Uses := { reads := runX 4 4, vwrites := [xreg 3], bad := badPrivateRun 4 4 }
     Clear false u (mem (asks 8 0)) ∧ Clear false u (mem (asks (2 ^ 32) 0)) ∧ Clear false u (mem (asks 8 0x202)) ∧
     Clear false u (mem { asks 8 0 with copies := List.replicate 4 (lin 8 0x2080) }) ∧
     Clear false u (mem { asks 8 0x202 with h := (Vector.replicate 8 Handle.invalid).set 0 ⟨true, 0x1000, rec0, false⟩ }) ∧
     Clear false u { mem { asks 8 0 with tx := some 9 } with txs := [(9, reconTx)] } ∧
     (copyRequest (mem (asks (2 ^ 32) 0)) 3 4).malformed = true ∧ (copyRequest (mem (asks 8 0)) 3 4).malformed = false ∧
     (copyRequest (mem (asks 8 0)) 3 4).handle = none ∧ (copyRequest (mem (asks 8 0x202)) 3 4).malformed = false ∧
     (copyRequest (mem (asks 8 0x202)) 3 4).handle = some 0 ∧ (handleAt (mem (asks 8 0x202)).me 0).valid = false ∧
     (handleAt { asks 8 0x202 with h := (Vector.replicate 8 Handle.invalid).set 0 ⟨true, 0x1000, rec0, false⟩ } 0).valid = true ∧
     inRecon { mem { asks 8 0 with tx := some 9 } with txs := [(9, reconTx)] } = true ∧ inRecon (mem (asks 8 0)) = false) ∧
    (∀ r ∈ [lin 8 0x2080, lin 8 (2 ^ 57), lin 0 0x2080],
      nextCopy (copying [r] []) (copyOrder (copying [r] []) 0) = some (0, r) ∧ AskedBy (copying [r] []) r.id 0) ∧
    (nextCopy (copying [] []) (copyOrder (copying [] []) 0) = none ∧ ∀ k ∈ copyOrder (copying [] []) 0, ((copying [] []).slot k).copies = []) ∧
    copyCheck (copying [] []) 0 0 (lin 8 0x2080) 0 false = 0 ∧ copyCheck (copying [] []) 0 0 (lin 8 (2 ^ 57)) 0 false = 4 ∧
    copyCheck (copying [] []) 0 0 (lin 0 0x2080) 0 false = 0 ∧ (lin 8 0x2080).size 0 = 8 ∧ (lin 0 0x2080).size 0 = 0 ∧ (lin 0 0x2080).baren = false ∧
    (∀ x ∈ (copying [] []).copies, x.req.id ≠ 7) ∧
    (let j := linJob 2 0x2080
     let s := copying [] [j]
     let ms := j.numbered
     s.copies.find? (fun x => x.req.id == j.req.id) = some j ∧ jobClosed s j = none ∧
     copyTouch s 0 true (ms.flatMap fun e => copyVas s 0 true (e.2.dst.bytes 0)) = (s, true) ∧
     (∀ k ∈ copyKeys s 0 0 (ms.map (·.2)), copyBlocked s 0 7 k = false) ∧ copyKeys s 0 0 (ms.map (·.2)) ≠ [] ∧
     listsBad s j (ms.flatMap fun e => [e.2.src, e.2.dst]) = false) ∧
    (let j := { linJob 2 0x2080 with granted := true }
     let s := copying [] [j]
     jobClosed s j = none ∧ j.req.ssp = false ∧ j.req.dsp = false ∧ (j.req.w2.extractLsb' 0 32).toNat = 2 ∧ 0x1000 % 128 + 2 ≤ 128 ∧ (s.part 0).convs = [] ∧
     (∀ va ∈ [0x1000, 0x2080], rangeAt s 0 va = none ∧ copyBlocked s 0 7 (2 * (va / 128)) = false ∧ (∀ i, i < 2 → copyAway s 0 (va + i) = false)) ∧
     j.req.w0.toNat = 0x1000 ∧ placeAt s 0 0x1000 .read = .dev 0x1000 ∧
     (∀ i, i < 2 → (look (j.data.map fun d => (d.1, some d.2)) none i).isSome = false) ∧
     copyTouch s.draw 0 false ((List.range 2).map (0x1000 + ·)) = (s.draw, true)) ∧
    (let j := { linJob 2 0x2080 with granted := true, data := [(0, 0x55), (1, 0xAA)] }
     let s := copying [] [j]
     jobClosed s j = none ∧ j.req.w1.toNat = 0x2080 ∧ placeAt s 0 0x2080 .write = .dev 0x2080 ∧ j.written = [] ∧
     (∀ i, i < 2 → (look (j.data.map fun d => (d.1, some d.2)) none i).isSome = true) ∧
     copyTouch s.draw 0 true ((List.range 2).map (0x2080 + ·)) = (s.draw, true)) ∧
    (let j := { linJob 2 0x2080 with granted := true, data := [(0, 0x55), (1, 0xAA)], written := [2 * (0x2080 / 128)] }
     let s := copying [] [j]
     jobClosed s j = none ∧ copyScale j.req j.record = none ∧ copyApplied s j j.numbered = true ∧ j.req.baren = false ∧ j.flags = 0 ∧ AskedBy s 7 0 ∧
     (∀ e ∈ j.numbered, (look (j.data.map fun d => (d.1, some d.2)) none e.1).isSome = true ∧ e.2.dst.group j.record ∈ j.written)) ∧
    (let j := { linJob 2 0x80000000 with granted := true, page := some (0x80000000, true) }
     let s := copying [] [j]
     jobClosed s j = some (0x80000000, .write, .miss, 0) ∧ (copyWork s j 0).isNone = true ∧ j.page = some (0x80000000, true) ∧ j.req.kind = 0 ∧
     AskedBy s 7 0) ∧
    (let s := copying [] [linJob 2 0x2080]
     s.tick ≤ (linJob 2 0x2080).promise ∧ (linJob 2 0x2080).promise < { s with tick := 301 }.tick ∧ (linJob 2 0x2080).missed = false ∧
     (linJob 2 0x2080).req.d ≠ 0 ∧ (∃ v ∈ (s.slot (slotKey 0 0)).vpend, v.id = 7) ∧ ({ linJob 2 0x2080 with missed := true }).missed = true) ∧
    (∀ j ∈ (copying [] [linJob 2 0x2080]).copies, j.slot / 16 ≠ 1) ∧
    ((copying [] [linJob 2 0x2080]).copies = [linJob 2 0x2080] ∧ (linJob 2 0x2080).req.kind = 0 ∧ AskedBy (copying [] [linJob 2 0x2080]) 7 0) := by
  repeat' apply And.intro
  all_goals first | decide +kernel | (unfold AskedBy; decide +kernel)
/-- The words of a memory image put into a memory. -/
def image (ws : List (Nat × Nat)) : Memory := ws.foldl (fun m w => writeBytes m w.1 (natToBytes 8 w.2)) []
/-- Partition 0 with a queue directory of one queue, its granules 1 to 3 SHARED. -/
def queuePart : Part := { memPart with slqd := 0x1001, cls := [(1, 0xC000), (2, 0xC000), (3, 0xC000)] }
/-- A slot with a descriptor's address, in a machine whose directory names the header at 0x2000, its ring at 0x3000, the
descriptor at 0x2100 with its words 1 and 3. -/
def submitting (ctl resv w1 w3 : Nat) : State :=
  { mem (xs 0x2100 0 0) with
    parts := [(0, queuePart)], devMem := image [(0x1000, 0x2000), (0x2000, ctl), (0x2008, 0x3000), (0x2018, resv), (0x2108, w1), (0x2118, w3)] }
/-- The reconnaissance area of transaction 9 at 0x1200, in the machine with a note of the word at 0x1008. -/
def areaTx (st : TxSt) (notes : Nat) : Tx := { tx9 with desc := [0, 0x10000, 0x1200] ++ List.replicate 13 0, st := st, nNotes := notes }
def noting (st : TxSt) (notes was is : Nat) : State :=
  { mem { xs 0x1008 0 0 with tx := some 9 } with txs := [(9, areaTx st notes)], devMem := image [(0x1008, is), (0x1600, 0x1008), (0x1608, was)] }

theorem wit_TransactionInstructions :
    (∀ s ∈ [submitting 0x4003 0 0 0, submitting 0x4003 16 0 0, submitting 0x4003 0 0x80 0, submitting 0x4001 0 0 0, submitting 3 0 0 0],
      badField s { reads := [xreg 1, xreg 2], vwrites := [xreg 3] } = none ∧ pendingRegs s { reads := [xreg 1, xreg 2], vwrites := [xreg 3] } = [] ∧
      (readX s 1).toNat = 0x2100 ∧ (readX s 2).toNat = 0 ∧ inRecon s = false ∧ s.hub.ready.getLsbD 1 = true) ∧
    Clear false { reads := [xreg 1, xreg 2], vwrites := [xreg 3] } (submitting 0x4003 0 0 0) ∧
    (readHeader (submitting 3 0 0 0) 0 1).2 = .absent ∧
    (let s := submitting 0x4003 0 0 0
     let v := (readHeader (unbound s) s.myPart 0).1
     let ws := splitWords (bytesToNat (readBytes s.devMem 0x2000 128)) 16
     (readHeader (unbound s) s.myPart 0).2 = .found 0x2000 false ws ∧ hdrUsub ws = true ∧ (queueSt v 0 0).state ≠ 4 ∧ hdrMalformed false ws = false ∧
     fenced v v.cur 6 = true ∧ (let w := (fetchDesc v 0 0x2100).1
      let k : Desc := ⟨List.replicate 16 0, [], [], Vector.replicate 4 0⟩
      (fetchDesc v 0 0x2100).2 = .desc k ∧ k.refusal w 0 = none ∧ (hdrResv ws + 2 ^ 64 - hdrHead ws) % 2 ^ 64 ≠ hdrSize ws ∧
      (let x := (agentOpen w 0 true [0x2000, hdrEntry ws (hdrResv ws)]).1
       (agentOpen w 0 true [0x2000, hdrEntry ws (hdrResv ws)]).2 = .ready ∧ placeAt x 0 0x2018 .write = .dev 0x2018 ∧ hdrEntry ws (hdrResv ws) = 0x3000 ∧
       placeAt x 0 0x3000 .write = .dev 0x3000 ∧ ∀ va ∈ [0x2018, 0x3000], NoConversion (x.part 0) va 8 ∧ rangeAt x 0 va = none))) ∧
    hdrUsub (splitWords (bytesToNat (readBytes (submitting 0x4001 0 0 0).devMem 0x2000 128)) 16) = false ∧
    hdrMalformed false (splitWords (bytesToNat (readBytes (submitting 3 0 0 0).devMem 0x2000 128)) 16) = true ∧
    (match fetchDesc (submitting 0x4003 0 0x80 0) 0 0x2100 with
     | (w, .desc k) => k.refusal w 0
     | _ => none) = some 2 ∧
    (let ws := splitWords (bytesToNat (readBytes (submitting 0x4003 16 0 0).devMem 0x2000 128)) 16
     (hdrResv ws + 2 ^ 64 - hdrHead ws) % 2 ^ 64 = hdrSize ws) ∧
    (let s := noting .recon 0 5 5
     Clear false { reads := [xreg 1] } s ∧ inRecon s = true ∧ myTx s = some (9, areaTx .recon 0) ∧ ((areaTx .recon 0).word 2).toNat = 0x1200 ∧
     (agentOpen s s.myPart true [0x1200]).2 = .ready ∧ NoConversion ((agentOpen s s.myPart true [0x1200]).1.part s.myPart) 0x1200 8 ∧
     rangeAt (agentOpen s s.myPart true [0x1200]).1 s.myPart 0x1200 = none ∧ ({ areaTx .recon 0 with nEntries := 128 }).nEntries = 128 ∧
     Clear false { reads := [xreg 1], vwrites := [xreg 3] } s ∧ agentOpen s s.myPart true [0x1600, 0x1608] = (s, .ready) ∧
     checkGlobal s { ea := readX s 1, n := 8, align := 8, store := false, sets := false } anyMapping = .ok (.dev 0x1008) ∧ s.me.lease = none ∧
     overlapsRelaxed s.me .global (readX s 1) 8 = false ∧ (touch s s.myPart 0x1008 (.dev 0x1008) (some s.curCore) false).2 = true ∧
     lineOpen s s.myPart (Loc.dev 0x1008).key s.cur = true ∧ NoConversion (s.part s.myPart) 0x1008 8 ∧ NoConversion (s.part s.myPart) 0x1600 16 ∧
     rangeAt s s.myPart 0x1600 = none ∧ rangeAt s s.myPart 0x1608 = none ∧ placeAt s s.myPart 0x1600 .write = .dev 0x1600 ∧
     placeAt s s.myPart 0x1608 .write = .dev (0x1600 + 8)) ∧
    ThroughReq (mem (xs 0x1008 0 0)) { ea := 0x1008, n := 8, align := 8, store := false, sets := false } anyMapping (.dev 0x1008) ∧
    inRecon (mem (xs 0x1008 0 0)) = false ∧ myTx (mem (xs 0x1008 0 0)) = none ∧
    (∀ is ∈ [5, 6], let s := noting .running 1 5 is
      inRecon s = false ∧ myTx s = some (9, areaTx .running 1) ∧ descRecon (areaTx .running 1).desc = true ∧ (areaTx .running 1).nNotes = 1 ∧
      (agentRead s s.myPart 0x1600 16).2 = .val (0x1008 + 5 * 2 ^ 64) ∧ bytesToNat (readBytes s.devMem 0x1008 8) = is) ∧
    Clear false {} (noting .running 1 5 6) ∧
    ThroughReq (unbound (agentRead (noting .running 1 5 6) 0 0x1600 16).1) { ea := BitVec.ofNat 64 (0x1008 + 5 * 2 ^ 64), n := 8, align := 8, store := false, sets := false }
      anyMapping (.dev 0x1008) ∧
    (areaTx .running 1).checks < 8 ∧ ({ areaTx .running 1 with checks := 8 }).checks = 8 ∧
    (let s := noting .running 0 5 5
     Clear false {} s ∧ s.me.level ≠ .m ∧ settled (abandonLease s s.cur) s.cur = true ∧
     (let u := s.setMe { s.me with vpend := [⟨7, [xreg 3], none, 0, .plain⟩] }
      Clear false {} u ∧ settled (abandonLease u u.cur) u.cur = false)) := by
  repeat' apply And.intro
  all_goals first | decide +kernel | (unfold NoConversion; decide +kernel)
/-- A running slot of transaction 9 on core 0, x1 the target of a spawn, and the machine with it. -/
def spawner (a : Word) (st : TxSt) : State := { mem { xs a 0 0 with tx := some 9 } with txs := [(9, { tx9 with st := st })] }
/-- A queued place. -/
def queued (order : Nat) : Place := ⟨some 9, true, order, false, 0⟩
/-- Core c with the records of transaction 9 in places 0 to n − 1: their second word names the transaction's handle 3. -/
def listed (n : Nat) : Core :=
  { Core.reset with
    places := (List.range n).map fun i => (i, queued i)
    scratch := (List.range n).foldl (fun m i => writeBytes m (placeOffset i + 8) (natToBytes 8 (3 * 2 ^ 48 + 0x10000))) [] }
/-- The machine with transaction 9 on cores 0 and 1, a slot of core 0, its list of n records, and a message. -/
def crewed (n : Nat) (sl : Slot) (fabric : List Msg) : State :=
  { State.reset with
    slots := [(0, sl)], cores := [(0, listed n)], fabric := fabric
    txs := [(9, { tx9 with part := 0, root := some (0, 2, 1), crews := [(0, [0]), (1, [0])] })] }

theorem wit_SpawnsAndWorkLists :
    (let s := spawner 0 .running
     s.me.tx = some 9 ∧ s.tx? 9 = some tx9 ∧ tx9.root = some (0, 1, 1) ∧ (0 : Word) ≠ BitVec.allOnes 64 ∧
     Clear false { reads := xreg 1 :: runX 4 6, vwrites := [xreg 3], bad := badPrivateRun 4 6 } s ∧ s.me.level ≠ .m ∧ spawnTarget s (readX s 1) = some 0 ∧
     inDet s = false ∧ inRecon s = false ∧ fenced s s.cur 4 = true ∧ spawnTarget (spawner 1 .running) 1 = none ∧ inRecon (spawner 0 .recon) = true ∧
     Clear false { reads := xreg 1 :: runX 4 6, vwrites := [xreg 3], bad := badPrivateRun 4 6 } (spawner 0 .recon) ∧
     (let u := s.setMe { s.me with relaxed := [left (.store (offsets 0 [1])) .none] }
      fenced u u.cur 4 = false)) ∧
    (let m : Msg := ⟨4, 0, 0, 1, .spawn (some 9) (List.replicate 8 0) 7, none⟩
     let s := crewed 0 { base with vpend := [⟨7, [xreg 3], none, 0, .spawn⟩] } [m]
     findMsg s m.id = some m ∧ behind s m = false ∧ (∃ v ∈ (s.slot (slotKey m.src m.srcSlot)).vpend, v.id = 7) ∧ (s.tx? 9).map (·.st) = some .running ∧
     (s.tx? 9).map (fun t => hasCrew t 1) = some true ∧ (s.core 1).isParked = false ∧ freePlaceOf (s.core 1) = some 0 ∧ (List.replicate 8 (0 : Word)).length = 8 ∧
     (s.tx? 9).map (fun t => hasCrew t 2) = some false) ∧
    (let s := mem { xs 1 2 3 with place := some (0, 4) }
     Clear false {} s ∧ s.me.level ≠ .m ∧ s.me.csr.qen = 0 ∧ s.me.csr.sen = 0 ∧ inRecon s = false ∧ s.me.vpend = [] ∧ settled s s.cur = true ∧
     s.me.relaxed.any (·.red) = false ∧ fenced s s.cur 4 = true ∧
     (let u := s.setMe { s.me with st := .save, wait := some .saving }
      u.me.trapping = none ∧ u.me.wait = some .saving ∧ u.me.place = some (u.curCore, 4) ∧ (4 : Nat) < 256)) ∧
    (let s := crewed 2 { Slot.reset with resv := some 9 } []
     pickRecord s 0 0 (s.core 0).places = some (0, (0, 0)) ∧ (s.slot (slotKey 0 0)).st = SlotSt.free ∧ laterThan s 0 0 = false) ∧
    (let ctx : Word := 3 * 2 ^ 48 + 0x10000
     let s := crewed 0 { Slot.reset with resv := some 9, st := .load, ctx := ctx, place := some (0, 5) } []
     (s.slot (slotKey 0 0)).st = .load ∧ (s.slot (slotKey 0 0)).tx = none ∧ s.slots.length = 1 ∧ (txOfHandle s (s.partOf 0) (ctxTxh ctx)).map (·.1) = some 9 ∧
     recordRefused s 0 ctx = false ∧ recordRefused s 0 (2 ^ 48) = true ∧ (s.slot (slotKey 0 0)).place = some (0, 5) ∧ (s.core 0).events.length < 8) ∧
    (∀ n ∈ [1, 4], let s : State := { crewed n base [] with tick := 4096 }
     ((s.core 0).slbi.extractLsb' 0 32).toNat = 4096 ∧ (s.core 0).lastBalance / 4096 < s.tick / 4096 ∧ s.txs.length = 1 ∧ (s.tx? 9).map (·.st) = some .running ∧
     (s.tx? 9).map (fun t => hasCrew t 0) = some true ∧ (s.tx? 9).map (fun t => descDet t.desc) = some false ∧
     (s.tx? 9).map (fun t => bestNeighbour s 9 (crewNeighbours t 0)) = some (some 1) ∧ (byOrder (waiting s 0 9)).length = n ∧
     sampled s 0 9 - sampled s 1 9 = n ∧ { s with tick := 4095 }.tick / 4096 ≤ (s.core 0).lastBalance / 4096) ∧
    (let m : Msg := ⟨4, 0, 0, 1, .records [(2, List.replicate 8 0)] 9, none⟩
     let s := crewed 0 base [m]
     findMsg s 4 = some m ∧ behind s m = false ∧ crewOn s 9 1 = true ∧ freePlaceOf (s.core 1) = some 0) ∧
    (let m : Msg := ⟨4, 1, 0, 0, .shipAnswer [0] [1], none⟩
     let s := crewed 2 base [m]
     findMsg s 4 = some m ∧ behind s m = false ∧ ∀ n, n ∈ [0] → n ∉ [1]) := by
  repeat' apply And.intro
  all_goals decide +kernel
/-- A slot at S level. -/
def sup (a b : Word) : Slot := { xs a b 0 with level := .s }
/-- Partition 0 with the granules 4 and 5, of the save area, SHARED. -/
def areaPart : Part := { memPart with cls := [(4, 0xC000), (5, 0xC000)] }
/-- Slot 1 of core 0 waiting for the engine to spill or fill slot 0 at 0x4000, in a memory. -/
def engine (isFill : Bool) (sl : Slot) (m : Memory) : State :=
  { State.reset with
    slots := [(0, sl), (1, { sup 0 0 with st := .wait, wait := some .spillEngine })], parts := [(0, areaPart)], devMem := m
    cores := [(0, { Core.reset with spillq := [⟨isFill, some 1, 0, 0x4000, 3, none⟩] })], txs := [(9, tx9)] }
/-- An area at 0x4000 of a continuation of transaction 9 with a seal. -/
def areaBase : Memory := image [(0x4008, 3 * 2 ^ 48)]
def areaMem (check : Nat) : Memory := writeBytes areaBase (0x4000 + 8184) (natToBytes 8 check)
/-- The seal of an area whose engine state is all zeros. -/
def goodSeal : Nat := crc32c (readBytes areaBase 0x5000 4088)

/-- What the largest page size covers and no other is found there. -/
theorem wit_lookup_large (m : SMap XEntry) (va : Nat) (x : XEntry) (h12 : xentryAt m 0 va 12 = none) (h16 : xentryAt m 0 va 16 = none)
    (h21 : xentryAt m 0 va 21 = none) (h30 : xentryAt m 0 va 30 = some x) : xlookup m 0 va pageSizes = some x := by
  simp [pageSizes, xlookup, h12, h16, h21, h30]

/-- The area's addresses lie in the large page of the first gigabyte. -/
theorem wit_area_place (i : Nat) (hi : i < 8192) (need : Need) : Machine.translate areaPart (0x4000 + i) need = .hit (.dev (0x4000 + i)) := by
  have s63 : areaPart.spasid.getLsbD 63 = true := by decide
  have xl : areaPart.xlat = [(30, ⟨30, true, true, true, 0x40000000⟩), (1073741854, ⟨30, true, true, true, 0x80000000⟩),
      (3221225502, ⟨30, true, true, true, 0xC0000000⟩)] := by decide +kernel
  have e (n : Nat) (hn : n ∈ [12, 16, 21]) : xentryAt areaPart.xlat 0 (0x4000 + i) n = none := by
    simp only [List.mem_cons, List.not_mem_nil, or_false] at hn
    have key : 30 ≠ (0x4000 + i) / 2 ^ n * 2 ^ n + n ∧ 1073741854 ≠ (0x4000 + i) / 2 ^ n * 2 ^ n + n ∧
        3221225502 ≠ (0x4000 + i) / 2 ^ n * 2 ^ n + n := by
      rcases hn with rfl | rfl | rfl <;> omega
    simp only [xentryAt, xkey, Nat.mul_zero, Nat.zero_add, xl, List.map_cons, List.map_nil]
    exact wit_look_none _ _ _ _ _ _ _ _ key.1 key.2.1 key.2.2
  have e30 : xentryAt areaPart.xlat 0 (0x4000 + i) 30 = some ⟨30, true, true, true, 0x40000000⟩ := by
    have k : (0x4000 + i) / 2 ^ 30 * 2 ^ 30 + 30 = 30 := by omega
    simp only [xentryAt, xkey, Nat.mul_zero, Nat.zero_add, k, xl]
    decide
  have pa : 0x40000000 + (0x4000 + i) % 2 ^ 30 = 0x40004000 + i := by omega
  have place : placeOf areaPart (0x40004000 + i) = some (.dev (0x4000 + i)) := by
    have w : areaPart.hwin.find? (fun w => w.base ≤ 0x40004000 + i && 0x40004000 + i < w.base + w.pages * 4096) = some ⟨0x40000000, 2 ^ 18, 2⟩ := by
      show List.find? _ [_, _, _] = _
      rw [List.find?_cons_of_pos]
      simp only [Bool.and_eq_true, decide_eq_true_eq]
      omega
    have x : extentAt memRecord 0 0 288 = some 0 := by decide +kernel
    have o : 0x40004000 + i - 0x40000000 = 0x4000 + i := by omega
    have q : (0x4000 + i) / 2 ^ 30 = 0 := by omega
    have m : (0x4000 + i) % 2 ^ 30 = 0x4000 + i := by omega
    have r : areaPart.record = memRecord := rfl
    simp only [placeOf, w, carveOut, o, q, r, x, m, Option.map_some, Nat.zero_mul, Nat.zero_add]
  have z : sliceOf areaPart.record (0x4000 + i) = 0 := wit_slice _
  have l : xlookup areaPart.xlat 0 (0x4000 + i) pageSizes = some ⟨30, true, true, true, 0x40000000⟩ := by
    exact wit_lookup_large _ _ _ (e 12 (by simp)) (e 16 (by simp)) (e 21 (by simp)) e30
  simp only [Machine.translate, s63, z, l, pa, place]
  cases need <;> simp [XEntry.grants]

/-- The area's pages are SHARED. -/
theorem wit_area_class (i : Nat) (hi : i < 8192) : classOf (classEntry areaPart (0x4000 + i)) = 3 := by
  have g : (0x4000 + i) / 4096 = 4 ∨ (0x4000 + i) / 4096 = 5 := by omega
  unfold classEntry
  rcases g with g | g <;> rw [g] <;> decide

/-- They are no core's own. -/
theorem wit_area_home (i : Nat) (hi : i < 8192) : (look areaPart.cls 0 ((0x4000 + i) / 4096)).extractLsb' 14 2 ≠ 1 := by
  have g : (0x4000 + i) / 4096 = 4 ∨ (0x4000 + i) / 4096 = 5 := by omega
  rcases g with g | g <;> rw [g] <;> decide

/-- A field of the area below its seal does not depend on the seal. -/
theorem wit_area_field (check off n : Nat) (h : off + n ≤ 8184) :
    areaField (readBytes (areaMem check) 0x4000 8192) off n = bytesToNat (readBytes areaBase (0x4000 + off) n) := by
  rw [areaField_readBytes _ _ _ _ _ (by omega), areaMem, readBytes_writeBytes_out _ _ _ _ _ (Or.inl (by omega))]

theorem wit_area_seal (check : Nat) (h : check < 2 ^ 64) : areaField (readBytes (areaMem check) 0x4000 8192) 8184 8 = check := by
  have l : (natToBytes 8 check).length = 8 := natToBytes_length 8 check
  have r := readBytes_writeBytes_same (natToBytes 8 check) areaBase (0x4000 + 8184)
  rw [l] at r
  rw [areaField_readBytes _ _ _ _ _ (by omega), areaMem, r, bytesToNat_natToBytes 8 check (by omega)]

theorem wit_area_state (check : Nat) : crc32c (((readBytes (areaMem check) 0x4000 8192).drop 4096).take 4088) = goodSeal := by
  rw [readBytes_part _ _ _ _ _ (by omega), areaMem, readBytes_writeBytes_out _ _ _ _ _ (Or.inl (by omega))]
  rfl

/-- The area's words and zeros, whatever its seal. -/
theorem wit_area_words (check : Nat) : let bs := readBytes (areaMem check) 0x4000 8192
    ctxTxh (areaWord bs 8) = 3 ∧ areaRefused bs = false ∧ areaField bs 16 1 = 0 := by
  have z (off n : Nat) (h : off + n ≤ 8184) : ((readBytes (areaMem check) 0x4000 8192).drop off).take n = readBytes areaBase (0x4000 + off) n := by
    rw [readBytes_part _ _ _ _ _ (by omega), areaMem, readBytes_writeBytes_out _ _ _ _ _ (Or.inl (by omega))]
  simp only [areaRefused, areaWord, areaZero, wit_area_field check 8 8 (by omega), wit_area_field check 17 1 (by omega), wit_area_field check 16 1 (by omega),
    wit_area_field check 20 4 (by omega), wit_area_field check 24 8 (by omega), z 384 128 (by omega), z 2112 1984 (by omega)]
  have zero : (readBytes areaBase (0x4000 + 2112) 1984).all (· == 0) = true := by
    rw [show readBytes areaBase (0x4000 + 2112) 1984 = readBytes [] (0x4000 + 2112) 1984 from readBytes_congr _ _ _ _ fun i hi => by
      have b : areaBase = [(0x400E, 3)] := by decide +kernel
      simp only [b, readByte, look]
      rw [if_neg (by omega)]]
    have : ∀ a n, (readBytes [] a n).all (· == 0) = true := by
      intro a n
      induction n generalizing a with
      | zero => rfl
      | succ n ih => rw [readBytes, List.all_cons, ih]; rfl
    exact this _ _
  rw [zero]
  decide +kernel

theorem wit_SpillsAndFills :
    (∀ check, let s := engine true { Slot.reset with resv := some 9 } (areaMem check)
     ∀ i, i < 8192 → Machine.translate (s.part (s.partOf 0)) (0x4000 + i) .read = .hit (.dev (0x4000 + i)) ∧
       classOf (classEntry (s.part (s.partOf 0)) (0x4000 + i)) = 3) ∧
    (∀ check, let s := engine true { Slot.reset with resv := some 9 } (areaMem check)
     readSpace s (s.partOf 0) 0x4000 8192 = some (readBytes (areaMem check) 0x4000 8192)) ∧
    (∀ check ∈ [goodSeal, 2 ^ 32], let bs := readBytes (areaMem check) 0x4000 8192
     ctxTxh (areaWord bs 8) = 3 ∧ areaRefused bs = false ∧ areaField bs 16 1 = 0 ∧ areaField bs 8184 8 = check ∧ crc32c ((bs.drop 4096).take 4088) = goodSeal) ∧
    goodSeal ≠ 2 ^ 32 ∧
    (∀ i, i < 8192 → Machine.translate ((engine false base []).part 0) (0x4000 + i) .write = .hit (.dev (0x4000 + i))) := by
  have p (s : State) (h : s.part 0 = areaPart) (need : Need) (i : Nat) (hi : i < 8192) :
      Machine.translate (s.part 0) (0x4000 + i) need = .hit (.dev (0x4000 + i)) := by rw [h]; exact wit_area_place i hi need
  have hs : goodSeal < 2 ^ 32 := crc32c_lt _
  refine ⟨fun check i hi => ⟨p _ rfl .read i hi, wit_area_class i hi⟩, fun check => readSpace_hits _ _ _ _ _ fun i hi => ⟨p _ rfl .read i hi, wit_area_home i hi⟩, ?_, Nat.ne_of_lt hs, fun i hi => p _ rfl .write i hi⟩
  intro check hc
  have hb : check < 2 ^ 64 := by
    simp only [List.mem_cons, List.not_mem_nil, or_false] at hc
    rcases hc with h | h <;> rw [h]
    · exact Nat.lt_of_lt_of_le hs (by decide)
    · decide
  exact ⟨(wit_area_words check).1, (wit_area_words check).2.1, (wit_area_words check).2.2, wit_area_seal check hb, wit_area_state check⟩

theorem wit_PrivilegedInstructions :
    (let u : Uses := { reads := [xreg 1, xreg 2], vwrites := [xreg 3] }
     Clear true u (one (sup 1 0x4000)) ∧ (readX (one (sup 1 0x4000)) 1).toNat < 16 ∧ (readX (one (sup 1 0x4000)) 2).toNat % 8192 = 0 ∧
     Clear true u (one (sup 16 0x1000)) ∧ Clear true u (one (sup (2 ^ 48 - 1) 3)) ∧ ((one (sup 0 0)).core 0).spillq = []) ∧
    (∀ fill ∈ [false, true], let s := engine fill (if fill then { Slot.reset with resv := some 9 } else base) []
     (s.core 0).spillq = [⟨fill, some 1, 0, 0x4000, 3, none⟩] ∧ (1 : Nat) / 16 = 0 ∧ (s.slot 1).wait = some .spillEngine ∧ slotKey 0 0 ≠ 1) ∧
    (let s := engine false base []
     (s.slot 0).st = .ready ∧ (s.slot 0).level = .u ∧ (s.slot 0).halted = false ∧ (s.slot 0).wait = none ∧ (s.slot 0).away = none ∧ spillWaits s 0 = false ∧
     drainedAll s 0 = true ∧ ∀ va ∈ [0x4000, 0x5000], reclassifying s (s.partOf 0) va = false ∧ classOf (classEntry (s.part (s.partOf 0)) va) = 3 ∧
       rangeAt s (s.partOf 0) va = none) ∧
    (let s := engine true { Slot.reset with resv := some 9 } []
     (s.slot 0).st = SlotSt.free ∧ areaPages s (s.partOf 0) 0 0x4000 false = (s, .ready) ∧ txOfHandle s (s.partOf 0) 3 = some (9, tx9) ∧
     (s.slot 0).resv = some 9 ∧ tx9.st = .running ∧ txOfHandle s (s.partOf 0) 0 = none) ∧
    (base.wait = none ∧ base.csr.sen = 0 ∧ base.csr.qen = 0 ∧ base.x[0] = 0) ∧
    (let s := one (sup 5 3)
     (readX s 1).toNat < 2 ^ 48 ∧ (readX s 2).toNat = (3 : Fin 4).val ∧ s.myCore.rq[3].length < 64 ∧ (List.replicate 64 (0 : BitVec 48)).length = 64 ∧
     (∀ i, i < 16 → (s.slot (slotKey s.curCore i)).wait = none) ∧ Clear true { vwrites := [xreg 3] } s ∧ (∀ n : Fin 4, s.myCore.rq[n] = []) ∧
     (let q : Vector (List (BitVec 48)) 4 := (Vector.replicate 4 []).set 2 [7]
      q[2] = [7] ∧ q[3] = [])) ∧
    (let s := one (sup 4 100)
     Clear true { reads := [xreg 1, xreg 2], vwrites := [xreg 3] } s ∧ (readX s 1).toNat < 8 ∧ (readX s 1).toNat ≠ 0 ∧ s.tick < (readX s 2).toNat) ∧
    (let s := one { sup 0 0 with st := .wait, wait := some (.wfe 4 100 3) }
     (s.slot (slotKey 0 0)).wait = some (.wfe 4 100 3) ∧ s.tick < 100 ∧ 100 ≤ { s with tick := 100 }.tick) ∧
    (let s := mem (sup 0x3000 0xC000)
     Clear true { reads := [xreg 1, xreg 2] } s ∧ (readX s 2).toNat < 2 ^ 16 ∧ (readX s 2).toNat / 2 ^ 10 % 16 = 0 ∧ (readX s 2).toNat / 2 ^ 14 = 3 ∧
     reclassifying s s.myPart 0x3000 = false ∧ s.me.wait = none ∧
     (let u := mem { sup 0x3000 0xC000 with wait := some (classWait 0 0x3000) }
      Clear true { reads := [xreg 1, xreg 2] } u ∧ u.me.wait = some (classWait u.myPart 0x3000) ∧ reclassifying u u.myPart 0x3000 = false) ∧
     behindHeld s s.myPart 0x3000 s.cur = false ∧ Clear true { reads := [xreg 1] } s ∧ granuleHeld s s.myPart 3 = false ∧ fenced s s.cur 6 = true ∧
     translate (s.part s.myPart) 0x3000 .read = .hit (.dev 0x3000) ∧ (∀ c ∈ [0, 511], (s.core c).l1 = [])) ∧
    (let s := one (sup 1 0)
     Clear true { reads := [xreg 1], vwrites := [xreg 3] } s ∧ (readX s 1).toNat / 1024 % 64 = 0 ∧ (readX s 1).toNat < 2 ^ 16 ∧ s.present 1 = true ∧
     s.partOf 1 = s.myPart ∧ 1 ≠ s.curCore ∧ (∀ i, i < 16 → (s.slot (slotKey 1 i)).st = SlotSt.free ∧ (s.slot (slotKey 1 i)).resv = none) ∧
     (let u := one (sup 0x10001 0)
      Clear true { reads := [xreg 1], vwrites := [xreg 3] } u ∧ 2 ^ 16 ≤ (readX u 1).toNat)) := by
  repeat' apply And.intro
  all_goals decide +kernel
/-- A slot that waits in a way, since tick 0. -/
def waits (w : Wait) : Slot := { base with st := .wait, wait := some w }
/-- The machine at a tick. -/
def at_ (s : State) (n : Nat) : State := { s with tick := n }

theorem wit_TimeAndWaits :
    (let s := one (xs 100 0 0)
     Clear false { vwrites := [xreg 3] } s ∧ Clear false { reads := [xreg 1] } s ∧ Clear false {} s ∧ s.tick < min (s.tick + (readX s 1).toNat) (2 ^ 64 - 1) ∧
     (readX s 1).toNat ≤ (at_ s 100).tick ∧ min (s.tick + (0 : BitVec 16).toNat) (2 ^ 64 - 1) ≤ s.tick) ∧
    (let s := one (waits (.sleep 100))
     (s.slot (slotKey 0 0)).wait = some (.sleep 100) ∧ s.tick < 100 ∧ 100 ≤ (at_ s 100).tick ∧ (s.slot (slotKey 0 1)).wait = none) ∧
    (let s : State := { one base with slots := [(0, base), (1, base)] }
     inDet s = false ∧ ((List.range 16).filter fun i => i ≠ s.curSlot ∧ (s.slot (slotKey s.curCore i)).st = SlotSt.ready ∧
       (s.slot (slotKey s.curCore i)).halted = false ∧ (s.slot (slotKey s.curCore i)).readyAt ≤ s.myCore.cyc) = [1] ∧
     ((List.range 16).filter fun i => i ≠ (one base).curSlot ∧ ((one base).slot (slotKey (one base).curCore i)).st = SlotSt.ready) = []) ∧
    (let s := one { base with yieldTo := some ([1], 17) }
     (s.slot (slotKey 0 0)).yieldTo = some ([1], 17) ∧ (s.core 0).cyc < 17) ∧
    (let s := one (waits (.barrier 3 7 3 true))
     (s.slot 0).wait = some (.barrier 3 7 3 true) ∧ (Wait.barrier 3 7 3 true).limited = true ∧ (s.slot 0).csr.waitlim.toNat = 1000000 ∧
     s.tick < (s.slot 0).waitSince + 1000000 ∧ (s.slot 0).waitSince + 1000000 ≤ (at_ s 1000000).tick ∧ mayRetry (at_ s 1000000) 0 (.barrier 3 7 3 true) = false ∧
     (Wait.sleep 100).limited = false) ∧
    (let s := one { base with pctb := 100 }
     (s.slot 0).pctb ≠ 0 ∧ s.tick < (s.slot 0).pctb.toNat ∧ (s.slot 0).pctb.toNat ≤ (at_ s 100).tick ∧ ((one base).slot 0).pctb = 0) ∧
    (let co : Core := { Core.reset with events := [(0x63, 5, 7)], sevec := 0x2002 }
     let s : State := { one base with cores := [(0, co)] }
     (s.core 0).events = [(0x63, 5, 7)] ∧ (s.core 0).sevec ≠ 0 ∧ freeUnreserved s 0 = some 1 ∧ ((one base).core 0).events = [] ∧
     freeUnreserved { s with slots := (List.range 16).map fun k => (k, base) } 0 = none) ∧
    (let s := mem (waits (.fetch 0x1040))
     (s.slot (slotKey 0 0)).wait = some (.fetch 0x1040) ∧ cached s 0 0x1040 = false ∧ Machine.translate (s.part (s.partOf 0)) 0x1040 .exec = .hit (.dev 0x1040) ∧
     placeReady s (.dev 0x1040) 0 = none ∧ (s.core 0).icache.length + 2 ≤ icacheSize ∧ cached { s with cores := [(0, { Core.reset with icache := [(0x1040, 0)] })] } 0 0x1040 = true) ∧
    (let s := mem (waits (.fetch 0x90000000))
     Machine.translate (s.part (s.partOf 0)) 0x90000000 .exec = .miss ∧ cached s 0 0x90000000 = false) ∧
    (let s := one (waits (.fetch 0x1040))
     Machine.translate (s.part (s.partOf 0)) 0x1040 .exec = .final ∧ cached s 0 0x1040 = false) := by
  repeat' apply And.intro
  all_goals decide +kernel

/-- Partition 0 with a request for the page 0x80000000 sent at tick 0. -/
def asking (paging again : Bool) : Part := { memPart with sprto := 100000, xreqs := [⟨7, 0x80000000, .read, 0, again, paging, 0, false⟩] }
/-- The machine with it and a slot that waits for the page. -/
def asked (paging again : Bool) : State := { mem (waits (.xlat 0 0x80000000)) with parts := [(0, asking paging again)] }
/-- Core 0 with a continuation parked in area 2 on a page that has an answer. -/
def parkedCore (status : Nat) : Core := { Core.reset with parked := [(2, 0x80000000, status)] }
/-- The machine with it, the area sealed, and a FREE slot. -/
def replaying (status : Nat) : State :=
  { State.reset with parts := [(0, areaPart)], devMem := areaMem 0, cores := [(0, parkedCore status)], saved := [(areaKey 0 0x4000, base)] }

theorem wit_Replay (status : Nat) : readSpace (replaying status) 0 0x4000 8192 = some (readBytes (areaMem 0) 0x4000 8192) ∧
    areaField (readBytes (areaMem 0) 0x4000 8192) 16 1 = 0 :=
  ⟨readSpace_hits _ _ _ _ _ fun i hi => by
    have h : (replaying status).part 0 = areaPart := rfl
    rw [h]; exact ⟨wit_area_place i hi .read, wit_area_home i hi⟩, (wit_area_words 0).2.2⟩

theorem wit_TranslationAndFaults :
    ((waits (.xlat 0 0x1000)).wait = some (.xlat 0 0x1000) ∧ (waits (.fetch 0x1040)).wait = some (.fetch 0x1040) ∧ pageOf 0x1040 = 0x1000 ∧ base.wait = none) ∧
    requestOf (one base) 7 = none ∧
    (∀ again ∈ [false, true], let s := asked false again
     requestOf s 7 = some (0, ⟨7, 0x80000000, .read, 0, again, false, 0, false⟩) ∧ heldByInvalidate (s.part 0) 0x80000000 = false ∧ s.tick < 0 + 50000 ∧
     0 + 50000 ≤ (at_ s 50000).tick ∧ ∀ q ∈ (s.part 0).xreqs, q.page = 0x80000000 → q.paging = false) ∧
    heldByInvalidate { asking false false with invalidating := [(0x80000000, 4096)] } 0x80000000 = true ∧
    (let s : State := { one base with parts := [(0, { asking false false with xreqs := [⟨7, 0x80000000, .read, 0, false, false, 0, true⟩] })] }
     requestOf s 7 = some (0, ⟨7, 0x80000000, .read, 0, false, false, 0, true⟩)) ∧
    ((resetRecord 0).extractLsb' 32 32 = BitVec.allOnes 32 ∧ ((asked false false).part 0).xlat.length < 4096 ∧
     (∀ x ∈ ((asked false false).part 0).xlat, x.1 / 2 ^ 64 = 0)) ∧
    (let s := asked true false
     requestOf s 7 = some (0, ⟨7, 0x80000000, .read, 0, false, true, 0, false⟩) ∧ ((s.part 0).sprto.extractLsb' 0 40).toNat = 100000 ∧ s.tick < 0 + 100000 ∧
     0 + 100000 ≤ (at_ s 100000).tick ∧ s.partOf (0 / 16) = 0 ∧ (s.slot 0).wait = some (.xlat 0 0x80000000)) ∧
    (pasidParts (mem base) 1 = [0] ∧ rangeBusy (mem base) 0 0x1000 4096 = false ∧
     rangeBusy (mem { base with relaxed := [left (.store (offsets 0 [1])) .none] }) 0 0x1000 4096 = true) ∧
    ((one base).core 0).parked = [] ∧
    (∀ status ∈ [1, 2], let s := replaying status
     (s.core 0).spillq = [] ∧ (nextReplay s 0 (s.core 0).parked).map (fun r => (r.1, r.2.1)) = some ((2, 0x80000000, status), 0) ∧ parkBase (s.core 0) + 8192 * 2 = 0x4000 ∧
     s.partOf 0 = 0 ∧ areaPages s 0 0 0x4000 false = (s, .ready) ∧ (s.slot (slotKey 0 0)).st = SlotSt.free) := by
  repeat' apply And.intro
  all_goals decide +kernel
/-- Core 0 alone in partition 1. -/
def core1 : Core := { Core.reset with mpart := 1 }
/-- Partition 1, core 0 its one core, with the record of a queue. -/
def part1 (v : QueueSt) : Part := { queuePart with queues := [(0, v)] }
/-- The machine with a queue of partition 1: its control word and ring, a ring entry, the descriptor's word 1 at 0x2100. -/
def queues (ctl ring e w1 : Nat) (v : QueueSt) : State :=
  { mem Slot.reset with
    cores := [(0, core1)], parts := [(1, part1 v)]
    devMem := image [(0x1000, 0x2000), (0x2000, ctl), (0x2008, ring), (0x3000, e), (0x2108, w1)] }
/-- The words of its header. -/
def header (s : State) : List Word := splitWords (bytesToNat (readBytes s.devMem 0x2000 128)) 16
/-- A transaction of partition 1, and the machine with it as number 9. -/
def tx1 (st : TxSt) : Tx := { tx9 with part := 1, st := st, root := none, crews := [], live := 0, tiles := [], key := none }
def sched (t : Tx) : State := { queues 0x4003 0x3000 0 0 QueueSt.off with txs := [(9, t)] }

theorem wit_QueuesAndRounds :
    (readHeader (queues 0 0 0 0 QueueSt.off) 1 1).2 = .absent ∧
    (∀ ctl ∈ [0x4002, 3, 0x4003], let s := queues ctl 0x3000 0x2101 0 QueueSt.off
     (readHeader s 1 0).2 = .found 0x2000 false (header s) ∧
     ∀ st ∈ [0, 4], (agentWrite s 1 (0x2000 + 72) (natToBytes 8 (statWord s { QueueSt.off with state := st }))).2 = true) ∧
    (let s := { queues 0 0 0 0 QueueSt.off with devMem := image [(0x1000, 0x2008)] }
     (readHeader s 1 0).2 = .found 0x2000 true (header s) ∧ hdrMalformed true (header s) = true ∧
     (agentWrite s 1 (0x2000 + 72) (natToBytes 8 (statWord s { QueueSt.off with state := 4, reason := 1 }))).2 = true) ∧
    hdrEn (header (queues 0x4002 0 0 0 QueueSt.off)) = false ∧ hdrMalformed false (header (queues 3 0x3000 0 0 QueueSt.off)) = true ∧
    (let s := queues 0x4003 0x40000000 0 0 QueueSt.off
     hdrEn (header s) = true ∧ hdrMalformed false (header s) = false ∧ (readHeader s 1 0).2 = .found 0x2000 false (header s) ∧
     locate s 1 (queueGranules 0x2000 (header s)) = .elsewhere ∧ (agentWrite s 1 (0x2000 + 72) (natToBytes 8 4)).2 = true) ∧
    (let s := queues 0x4003 0x3000 0 0 QueueSt.off
     hdrMalformed false (header s) = false ∧ locate s 1 (queueGranules 0x2000 (header s)) = .device ∧
     (agentWrite (shareQueue s 1 (queueGranules 0x2000 (header s))) 1 (0x2000 + 72) (natToBytes 8 0)).2 = true) ∧
    (∀ e ∈ [(0x2101, 0), (0x2100, 1)], let s := queues 0x4003 0x3000 e.1 0 { QueueSt.off with watched := true, state := e.2 }
     (queueSt s 1 0).watched = true ∧ (agentRead s 1 (hdrEntry (header s) (hdrHead (header s))) 8).2 = .val e.1 ∧ hdrHold (header s) = false ∧
     queueSt (agentRead s 1 (hdrEntry (header s) (hdrHead (header s))) 8).1 1 0 = queueSt s 1 0 ∧
     (agentWrite s 1 (0x2000 + 72) (natToBytes 8 (statWord s { QueueSt.off with watched := true, state := 1 - e.2 }))).2 = true) ∧
    (queueCount (queues 0 0 0 0 QueueSt.off) 1 ≠ 0 ∧ queueCount (one base) 1 = 0 ∧ (queues 0 0 0 0 QueueSt.off).hub.ready.getLsbD 1 = true ∧
     (queues 0 0 0 0 QueueSt.off).hub.ready.getLsbD 2 = true ∧ (one base).hub.ready.getLsbD 1 = false) ∧
    (chooseQueue (one base) 0 [(3, 1), (5, 2), (4, 2)] = some (4, 2) ∧ (2 : Nat) < 4) ∧
    (let s := queues 0x4003 0x3000 0x2101 0 QueueSt.off
     let ws := header s
     agentOpen s 1 true [hdrEntry ws 0, 0x2000] = (s, .ready) ∧ (agentWrite s 1 (hdrEntry ws 0) (natToBytes 8 0)).2 = true ∧
     (let v := (agentWrite s 1 (hdrEntry ws 0) (natToBytes 8 0)).1
      agentOpen v 1 true (chunkAddrs (0x2000 + 16) 8) = (v, .ready)) ∧ agentOpen s 1 true (chunkAddrs (hdrEntry ws 0) 8) = (s, .ready) ∧
     hdrEntry ws 0 % 8 = 0 ∧ placeAt s 1 (hdrEntry ws 0) .write = .dev 0x3000 ∧ placeAt s 1 (0x2000 + 16) .write = .dev 0x2010 ∧
     hdrEntry ws 0 = 0x3000 ∧ ∀ x ∈ [0x3000, 0x2000 + 16], NoConversion (s.part 1) x 8 ∧ rangeAt s 1 x = none) ∧
    (descRecon (List.replicate 16 0) = false ∧ descDet (List.replicate 16 0) = false ∧ rectFits (descW (List.replicate 16 0)) (descH (List.replicate 16 0)) 0 = true) ∧
    (let v : QueueSt := { QueueSt.off with watched := true, state := 3 }
     let s : State := { queues 0x4003 0x3000 0x2101 0 v with tick := 65536, slots := (List.range 16).map fun k => (k, { Slot.reset with resv := some 8 }) }
     (queueSt s 1 0).state = 3 ∧ (queueSt s 1 0).pinned = [] ∧ (queueSt s 1 0).blockedAt + 65536 ≤ s.tick ∧ (at_ s 0).tick < (queueSt s 1 0).blockedAt + 65536 ∧
     (readHeader s 1 0).2 = .found 0x2000 false (header s) ∧
     (let d : Desc := ⟨List.replicate 16 0, [], [], Vector.replicate 4 0⟩
      let w := (readHead (readHeader s 1 0).1 1 0 (header s) (hdrHead (header s))).1
      (readHead (readHeader s 1 0).1 1 0 (header s) (hdrHead (header s))).2 = .blocked d 3 ∧ descRecon d.words = false ∧
      bestOf w (descW d.words) (descH d.words) ((List.range 512).filter (originPinnable w 1 (descW d.words) (descH d.words) (descSlots d.words) (pinnedCores w 1 (some 0)))) = some 0)) ∧
    (let s : State := { one base with parts := [(1, { part1 { QueueSt.off with watched := true, state := 1 } with roundAt := some 0, slqd := 0 })] }
     (s.part 1).roundAt = some 0 ∧ inPod s 1 = false ∧ 0 + 2048 ≤ (at_ s 2048).tick ∧ s.tick < 0 + 2048 ∧
     (∃ e ∈ ((examineAll s 1 (queueCount s 1)).part 1).queues, queueReady e.2 = true) ∧
     (let u := s.setPart 1 { s.part 1 with queues := [] }
      (u.part 1).roundAt = some 0 ∧ ∀ e ∈ ((examineAll u 1 (queueCount u 1)).part 1).queues, queueReady e.2 = false) ∧
     (let u := { s with hub := { Hub.reset with mpod := 0x8100 } }
      inPod u 1 = true ∧ u.tick + 1 < ((u.part 1).round + 1) * 2048 ∧ ((u.part 1).round + 1) * 2048 ≤ (at_ u 2047).tick + 1)) ∧
    (let s : State := { sched { tx1 .waiting with key := some 5 } with fabric := [⟨4, 1026, 0, 3, .lockReq 9 0x1000, none⟩] }
     ownDev s 1 = 0 ∧ requestBehind s 1 3 0 = true ∧ requestBehind s 1 2 0 = false) ∧
    (one base).tx? 9 = none ∧
    (let t := tx1 .recon
     let s := sched t
     s.tx? 9 = some t ∧ t.key = none ∧ t.crews = [] ∧ replacing s 1 = false ∧ bestOrigin s 1 1 1 1 [] (t.failedCores ++ pinnedCores s 1 t.queue) = some 0) ∧
    (let t := { tx1 .recon with crews := [(0, [0])] }
     let s := sched t
     s.tx? 9 = some t ∧ t.key = none ∧ t.ended = false ∧ t.live = 0 ∧ (s.slot (slotKey 0 0)).st = SlotSt.free) ∧
    (let t := tx1 .unnumbered
     let s := sched t
     s.tx? 9 = some t ∧ descDet t.desc = false ∧ canNumber s 1 = true ∧ replacing s 1 = false ∧
     bestOrigin s 1 (descW t.desc) (descH t.desc) (descSlots t.desc) (pushesOf t) (pinnedCores s 1 none) = some 0) := by
  repeat' apply And.intro
  all_goals first | decide +kernel | (unfold NoConversion; decide +kernel)

/-- A tile of a set, and the transaction waiting for it with a number. -/
def tile1 (granted : Bool) : SetTile := ⟨0x1000, true, none, true, granted, false, none⟩
def locked (granted : Bool) : Tx := { tx1 .waiting with key := some 5, tiles := [tile1 granted], root := some (0, 1, 1), crews := [(0, [0])] }
/-- Descriptor words with bits of word 1 set. -/
def marked (w1 : Nat) : List Word := [0, BitVec.ofNat 64 w1] ++ List.replicate 14 0
/-- The machine with it, a message on its way, and its request in the queue of its tile. -/
def locking (t : Tx) (m : List Msg) (q : List LockReq) : State :=
  { sched t with parts := [(1, { part1 QueueSt.off with locks := [(0x1000, q)] })], fabric := m }

theorem wit_LocksAndTransactions :
    (∀ (i j : Nat) (x y : LockReq), i < j → [⟨9, 5, true, true, false⟩][i]? = some x → ([⟨9, 5, true, true, false⟩] : List LockReq)[j]? = some y →
      y.granted = true → x.excl = false ∧ y.excl = false) ∧
    ([⟨9, 5, true, true, false⟩, ⟨8, 6, true, true, false⟩] : List LockReq).Pairwise (fun x y => x.key ≤ y.key) ∧
    (let m : Msg := ⟨4, 1026, 0, 3, .lockReq 9 0x1000, none⟩
     let s := locking (locked false) [m] []
     findMsg s 4 = some m ∧ behind s m = false ∧ s.tx? 9 = some (locked false) ∧ setTileOf s 9 0x1000 = some (tile1 false) ∧ awayDev s 1 0x1000 = none ∧
     look (s.part 1).locks [] 0x1000 = [] ∧ (locked false).st ≠ .closing ∧ Machine.translate (s.part 1) 0x1000 .write = .hit (.dev 0x1000) ∧
     Machine.translate ({ s.part 1 with spasid := 0 }) 0x1000 .write = .final ∧
     (let u := s.setPart 1 { s.part 1 with spasid := 0 }
      findMsg u 4 = some m ∧ behind u m = false ∧ setTileOf u 9 0x1000 = some (tile1 false) ∧ awayDev u 1 0x1000 = none)) ∧
    (one base).tx? 9 = none ∧
    (let r : LockReq := ⟨9, 5, true, false, false⟩
     let s := locking (locked false) [] [r]
     s.tx? 9 = some (locked false) ∧ (look (s.part 1).locks [] 0x1000).find? (fun x => x.tx == 9) = some r ∧ r.xdone = false) ∧
    (let m : Msg := ⟨4, 1026, 0, 3, .lockRel 9 0x1000, none⟩
     let s := locking (locked true) [m] [⟨9, 5, true, true, true⟩]
     findMsg s 4 = some m ∧ behind s m = false ∧ awayDev s (m.src - 1025) 0x1000 = none) ∧
    (let x : Shipment := ⟨some 9, 0, 4, 1, [], 0, 0⟩
     let m : Msg := ⟨4, 1024, 0, 0, .tile x, none⟩
     (∀ st ∈ [OsSt.empty, .full], let s : State := { locking (locked false) [m] [] with cores := [(0, { core1 with os := [(4, ⟨st, some 9, 0, []⟩)] })] }
      findMsg s 4 = some m ∧ s.tx? 9 = some (locked false) ∧ (osOf (s.core 0) 4).tx = some 9 ∧ (osOf (s.core 0) 4).st = st)) ∧
    (let s := sched (locked true)
     s.tx? 9 = some (locked true) ∧ dispatchable s (locked true) = true ∧ descDet (locked true).desc = false ∧ dispatchable s (locked false) = false) ∧
    (locked true).status < 256 ∧
    (let t := { tx9 with ended := true, live := 0 }
     t.st = .running ∧ (sched t).tx? 9 = some t ∧ tx9.ended = false) ∧
    (let t := { locked true with st := .closing }
     let s := sched t
     s.tx? 9 = some t ∧ t.root ≠ none ∧ txQuiet s 9 = true ∧ t.status ≠ 5 ∧ descDet t.desc = false ∧
     txQuiet { s with copies := [{ linJob 2 0x2080 with req := { lin 2 0x2080 with tx := some 9 } }] } 9 = false) ∧
    (let t := tx1 .closing
     (sched t).tx? 9 = some t ∧ t.root = none ∧ descBaren t.desc = false ∧ t.word 14 = 0) ∧
    (let t := { tx1 .closing with desc := List.replicate 14 0 ++ [0x1008, 0] }
     let s := sched t
     s.tx? 9 = some t ∧ (t.word 14).toNat = 0x1008 ∧ agentOpen s 1 true (chunkAddrs 0x1008 8) = (s, .ready) ∧ placeAt s 1 0x1008 .write = .dev 0x1008 ∧
     NoConversion (s.part 1) 0x1008 8 ∧ rangeAt s 1 0x1008 = none) ∧
    (∀ st ∈ [TxSt.running, .waiting, .closing, .recon], let t := { locked true with st := st }
     (sched t).tx? 9 = some t ∧ runsOn (sched t) 9 t 0 = true ∧ runsOn (sched t) 9 t 1 = false ∧ descRestart t.desc = false) ∧
    (let t := { locked true with st := .running, desc := marked 0x20000 }
     (sched t).tx? 9 = some t ∧ runsOn (sched t) 9 t 0 = true ∧ descRestart t.desc = true ∧ t.reexec < 3) ∧
    (let t := { tx1 .replacing with desc := marked 0x40000, key := some 5 }
     let s := sched t
     s.tx? 9 = some t ∧ descDet t.desc = true ∧ txQuiet s 9 = true ∧ t.live = 0 ∧ t.failedCores = [] ∧ t.tiles = [] ∧
     detOrigin s 1 (descW t.desc) (descH t.desc) (t.key.getD 0) = some 0 ∧
     txQuiet { s with copies := [{ linJob 2 0x2080 with req := { lin 2 0x2080 with tx := some 9 } }] } 9 = false) ∧
    (∀ w1 ∈ [0x40000, 0x40F00], let t := { tx1 .waiting with desc := marked w1, key := some 5, root := some (0, 1, 1), crews := [(0, [])] }
     let s := sched t
     s.tx? 9 = some t ∧ descDet t.desc = true ∧ (∀ e ∈ t.crews, e.2 = []) ∧ earlierPhase s 9 t = false ∧ coreFreeFor s 9 t 0 = true ∧
     rectFits 1 1 0 = true ∧ freePlaceOf (s.core 0) = some 0 ∧ pushesOf t = [] ∧ trayCores 0 1 1 = [0] ∧
     (let u := s.setCore 0 { core1 with smsg := 1 }
      (u.core 0).smsg.getLsbD 0 = true ∧ coreFreeFor u 9 t 0 = true) ∧
     (let u := s.setSlot 0 { Slot.reset with resv := some 8 }
      coreFreeFor u 9 t 0 = false)) ∧
    descSlots (marked 0x40F00) = 16 := by
  repeat' apply And.intro
  all_goals first | decide +kernel | (unfold NoConversion; decide +kernel) | skip
  intro i j x y h hx hy
  have : j = 0 := by
    rcases j with _ | j
    · rfl
    · simp at hy
  omega
/-- A flit of device 5 to device 0 with a CRC. -/
def flit5 (cls seq crc : Nat) : Flit := BitVec.ofNat 2048 (5 * 2 ^ 8 + cls * 2 ^ 16 + seq * 2 ^ 20 + crc * 2 ^ 1984)
/-- The device in a pod, or not, as DEV 0 of partition 0 with the members of a list. -/
def pod (inside : Bool) (ms : List Nat) : State :=
  { mem base with
    parts := [(0, { memPart with members := ms })]
    hub := { Hub.reset with ready := BitVec.allOnes 64, mpod := if inside then 0x8000 else 0, planesDown := [(5, 3)] } }

/-- Host access in partition 0: no relayout, no state block and no subscription anywhere. -/
theorem wit_HostAccess (x va : Nat) : 0x1000 ≤ x → x < 0x1000 + 8 → (virtualsOf ((mem base).part 0) x).head? = some va →
    convAt ((mem base).part 0) va = none ∧ rangeAt (mem base) 0 va = none ∧ onRunningBlock ((mem base).part 0) va 1 = false :=
  fun _ _ _ => ⟨rfl, rfl, rfl⟩

theorem wit_LinksAndTheHost :
    ((mem base).hub.ready.getLsbD 8 = true ∧ sectorHeld (mem base) (2 * (0x1000 / 64) + 1) = false ∧
     sectorHeld { mem base with parts := [(0, { memPart with lines := [(129, [0])] })] } (2 * (0x1000 / 64) + 1) = true) ∧
    (∀ store ∈ [false, true], let s := mem base
     s.hub.ready.getLsbD 7 = true ∧ partOfPa s 0x1000 = some 0 ∧ s.hub.lostStacks.contains (stackOf 0x1000) = false ∧ (hostReady s 0 0x1000 store 8).2 = true) ∧
    (let s := kneading (conv [.old, .old] [])
     let u := (hostReady s 0 0x3000 true 1).1
     s.hub.ready.getLsbD 7 = true ∧ partOfPa s 0x3000 = some 0 ∧ s.hub.lostStacks.contains (stackOf 0x3000) = false ∧
     (hostReady s 0 0x3000 true 1).2 = true ∧ (virtualsOf (u.part 0) 0x3000).head? = some 0x3000 ∧ onRunningBlock (u.part 0) 0x3000 1 = true) ∧
    partOfPa (mem base) (71 * 2 ^ 30) = none ∧
    (flitGood 1 = false ∧ flitGood (flit5 4 1 1045935877) = true ∧ flitGood (flit5 5 1 4199577346) = true ∧ flitGood (flit5 5 2 1940046662) = true ∧
     flitGood (flit5 5 0 2197691198) = true) ∧
    (let s := pod true [5, 7]
     (∀ e ∈ [(4, 1, 1045935877), (5, 1, 4199577346), (5, 2, 1940046662), (5, 0, 2197691198)], let f := flit5 e.1 e.2.1 e.2.2
      flitClass f = e.1 ∧ flitDst f = myDev s ∧ (flitSeq f + 65536 - (linkOf s (flitSrc f) (flitClass f)).received) % 65536 = e.2.1) ∧
     timeMaster (podMembers s) = some 5) ∧
    (([(5, 3)] : List (Nat × Nat)).contains (5, (0 + 0 + 2) % 16) = false ∧ ∃ r < 16, ([(5, 3)] : List (Nat × Nat)).contains (5, r) = false) ∧
    ((pod true [5]).hub.planesDown.contains (5, 3) = true ∧ (pod true [5]).hub.planesDown.contains (5, 4) = false) ∧
    (let s := mem (waits (.remote 5 0x1000 3 .none))
     (s.slot (slotKey 0 0)).wait = some (.remote 5 0x1000 3 .none) ∧ s.tick < (s.slot 0).waitSince + 50000 ∧ (s.slot 0).waitSince + 50000 ≤ (at_ s 50000).tick ∧
     (s.slot 1).wait = none) ∧
    (let s := pod true [0, 5]
     s.tick < s.hub.lastSync + 65536 ∧ s.hub.lastSync + 65536 ≤ (at_ s 65536).tick ∧ inPod s (podPart s) = true ∧ timeMaster (podMembers s) = some (myDev s) ∧
     (podMembers s).Nodup ∧ inPod (pod false [0, 5]) 0 = false) ∧
    (let ch : Membership := ⟨1, [0, 5]⟩
     (∀ inside ∈ [false, true], let s := pod inside [0]
      inPod s (podPart s) = inside ∧ ch.members.contains (myDev s) = true ∧ s.tick / 2048 < ch.round ∧ (s.part 0).round < ch.round ∧ ch.round ≤ (at_ s 2048).tick / 2048 ∧
      ({ s.part 0 with round := 1 }).round = ch.round ∧ s.hub.hold = 0 ∧ 0 ≤ s.hub.offset) ∧
     ({ Hub.reset with hold := 3 }).hold ≠ 0 ∧ ({ Hub.reset with offset := -3 }).offset < 0 ∧ ([5] : List Nat).contains (myDev (pod false [0])) = false) := by
  repeat' apply And.intro
  all_goals decide +kernel

/-- The machine in a partition that holds every island. -/
def whole (sl : Slot) : State := { mem sl with parts := [(0, { memPart with record := resetRecord 0 })] }

/-- Its first-level caches are empty. -/
theorem wit_no_lines (c : Nat) : ((whole base).core c).l1 = [] := rfl
/-- A cap is 5% above the draw, whatever the draw is. -/
theorem wit_cap_above : ∃ cap, Config.power 0 ≤ cap ∧ 100 * Config.power 0 < 95 * cap := ⟨2 * Config.power 0 + 1, by omega, by omega⟩

theorem wit_PartitionsPowerAndResets :
    (Instr.fwActivate = .fwActivate ∧ ({ (mem base).hub with activating := some 0 }).activating ≠ none ∧ (mem base).hub.activating = none ∧
     (mem base).hub.ready.getLsbD 0 = true ∧ (one base).hub.activating = none ∧ (one base).hub.ready.getLsbD 0 = false) ∧
    (let s := whole base
     partRefused s 8 0 = true ∧ partRefused s 0 0 = false ∧ recordIslands (s.part 0).record &&& ~~~recordIslands 0 = BitVec.allOnes 32 ∧
     0 ∈ coresIn (BitVec.allOnes 32) ∧ coreBusy s 0 = true ∧ partValid (s.part 0).record = true ∧ partValid 0 = false ∧
     partRefused s 0 (resetRecord 0) = false ∧ coresIn (recordIslands (s.part 0).record &&& ~~~recordIslands (resetRecord 0)) = []) ∧
    (let s : State := { State.reset with hub := { Hub.reset with ready := 1 } }
     ∀ c ∈ coresIn (recordIslands (s.part 0).record &&& ~~~recordIslands 0), coreBusy s c = false) ∧
    (∀ k < 8, k ≠ 0 → holdsIsland ((mem base).part k).record 3 = false) ∧
    (let s := mem base
     s.tick < s.hub.lastCap + 1000000 ∧ s.hub.lastCap + 1000000 ≤ (at_ s 1000000).tick ∧ (∃ i < 32, 50 < (islandAt s i).freq) ∧
     ({ s.hub with lowered := [[3]] }).lowered = [] ++ [[3]] ∧ s.hub.lowered = [] ∧ (islandAt s 3).tripped = false ∧ s.hub.lostStacks = [] ∧
     (∀ c ∈ s.cores, c.2.physOver = none ∧ c.2.absent = false) ∧ ∀ r ∈ (s.part 0).xreqs, r.paging = false) := by
  repeat' apply And.intro
  all_goals decide +kernel

theorem wit_RepairFirmwareAndBringUp :
    (let s := mem base
     s.hub.activating = none ∧ s.hub.ready.getLsbD 0 = true ∧ ({ s.hub with activating := some 0 }).activating = some 0 ∧ s.tick < 0 + 2000000000 ∧
     0 + 2000000000 ≤ (at_ s 2000000000).tick ∧
     (∀ n ∈ [0, 16], (((look [(unitKey (.core 3), List.replicate n 0)] [] (unitKey (.core 3))).filter fun t => decide (s.tick < t + 86400000000000)) ++ [s.tick]).length = n + 1) ∧
     s.present 3 = true ∧ s.hub.retiring.contains 3 = false ∧ ({ s.hub with retiring := [3] }).retiring.contains 3 = true ∧ workingOn s 3 = [] ∧
     workingOn { mem { base with tx := some 9 } with txs := [(9, tx9)] } 0 ≠ [] ∧ (s.slot (slotKey 0 1)).st = .free ∧ (s.slot (slotKey 0 0)).st ≠ .free ∧
     (s.slot (slotKey 0 0)).st ≠ .away ∧ s.hub.staged = false ∧ ({ s.hub with staged := true }).staged = true) ∧
    (let s := one base
     s.hub.step = some (0, true, 0) ∧ (stepPath s.hub.journal 32).isSome = true ∧
     (let h := { s.hub with step := some (96, true, 0) }
      h.step = some (96, true, 0) ∧ 96 ∈ bringupSteps ∧ s.tick < 0 + stepLimit 96 ∧ 0 + stepLimit 96 ≤ (at_ s 5000000000).tick ∧ 96 ≠ 0)) := by
  repeat' apply And.intro
  all_goals decide +kernel

end Sys2Proof.Tests
end

section
/-! SUPPORT. The scope of the model: what one step is, the core whose turn is next, the passing of time, and the state
after reset. -/

namespace Sys2Proof.Machine

/-! ## The search for a core that owes a cycle (R4, R413) -/

theorem nextCore_owes {s : State} {c n d : Nat} (h : nextCore s c n = some d) : d < 512 ∧ owesCycle s d = true := by
  induction n generalizing c with
  | zero => simp [nextCore] at h
  | succ n ih =>
    unfold nextCore at h
    split at h
    · next ho =>
      cases h
      exact ⟨Nat.mod_lt _ (by decide), ho⟩
    · exact ih h

theorem nextCore_isSome {s : State} {c n j : Nat} (hj : j < n) (h : owesCycle s ((c + j) % 512) = true) :
    (nextCore s c n).isSome = true := by
  induction n generalizing c j with
  | zero => omega
  | succ n ih =>
    unfold nextCore
    split
    · rfl
    · next ho =>
      cases j with
      | zero => exact absurd h ho
      | succ j => exact ih (c := c + 1) (j := j) (by omega) (by rwa [Nat.add_assoc, Nat.add_comm 1])

/-- Where no core owes a cycle a tick passes. -/
theorem clockStep_settled {s : State} (h : ∀ c, c < 512 → owesCycle s c = false) : clockStep s = .next (passTime s 1) := by
  unfold clockStep
  split
  · next d hd =>
    obtain ⟨hlt, ho⟩ := nextCore_owes hd
    simp [h d hlt] at ho
  · rfl

/-- Where some core owes a cycle, one that owes it takes it. -/
theorem clockStep_owed {s : State} {c : Nat} (h : owesCycle s c = true) (hc : c < 512) :
    ∃ d, d < 512 ∧ owesCycle s d = true ∧ clockStep s = coreCycle d s := by
  have hsome : (nextCore s s.turn 512).isSome = true :=
    nextCore_isSome (j := (c + (512 - s.turn % 512)) % 512) (Nat.mod_lt _ (by decide)) (by
      rwa [show (s.turn + (c + (512 - s.turn % 512)) % 512) % 512 = c by omega])
  obtain ⟨d, hd⟩ := Option.isSome_iff_exists.mp hsome
  obtain ⟨hlt, ho⟩ := nextCore_owes hd
  exact ⟨d, hlt, ho, by simp only [clockStep, hd]⟩

/-! ## What a step runs when nothing is due (R413) -/

theorem step_scheduled {s : State} {e : Instr} (h : firstDue s s.agenda 0 = none)
    (he : s.agenda[Config.choose s.draws % (s.agenda.length + 1)]? = some e) :
    step s = mapNext advance (runEvent s.draw (Config.choose s.draws % (s.agenda.length + 1)) e) := by
  unfold step stepOnce
  rw [h]
  cases ha : s.agenda with
  | nil => simp [ha] at he
  | cons x xs =>
    rw [ha] at he
    simp only [he]

/-- With nothing due and no event chosen the clocks go on, after the choice where there was one. -/
theorem step_clocks {s : State} (h : firstDue s s.agenda 0 = none)
    (he : s.agenda[Config.choose s.draws % (s.agenda.length + 1)]? = none) :
    step s = mapNext advance (clockStep (if s.agenda = [] then s else s.draw)) := by
  unfold step stepOnce
  rw [h]
  cases ha : s.agenda with
  | nil => rfl
  | cons x xs =>
    rw [ha] at he
    simp only [he, reduceCtorEq, if_false]

/-! ## One cycle of a core (R31, R33, R168, R174) -/

/-- With no instruction to resume, a cycle is the issue between its start and its end. -/
theorem coreCycle_issues {s : State} {c : Nat} (h : ∀ k, k < 16 → resumable (cycleStart s c) c k = false) :
    coreCycle c s = mapNext (endCycle c) (issueFrom c (issueOrder (cycleStart s c) c) (cycleStart s c)) := by
  rw [coreCycle, resumeSlots_none h, bindNext]

/-- The line that a slot has entered is the one it runs. -/
theorem lineFor_entered {co : Core} {sl : Slot} {addr : Word} {l : Line} (h : sl.line = some (addr, l)) :
    lineFor co sl addr = some l := by
  simp [lineFor, h]

/-- A slot in a line that it has entered, with nothing to take before its instruction, finds what the line holds at its
position. -/
theorem issueSlot_entered {s : State} {l : Line} (hcause : takeable s.me = []) (hbreak : breakpoint s.me = false)
    (htarget : badTargetEarly s.me.pc = false) (hline : s.me.line = some (lineOf s.me.pc, l)) :
    issueSlot s = issueInLine s (lineOf s.me.pc) l :=
  issueSlot_inLine hcause hbreak htarget hline (lineFor_entered hline)

theorem issueInLine_malformed {s : State} {addr : Word} {l : Line} {r : Nat} (h : Line.reason l = some r) :
    issueInLine s addr l = .next (trapI s 0x01 (addr + BitVec.ofNat 64 r)) := by
  simp only [issueInLine, checkLine, h]

theorem issueInLine_beyond {s : State} {addr : Word} {l : Line} (h : Line.reason l = none)
    (hp : Line.count l < (s.me.pc.extractLsb' 1 5).toNat) : issueInLine s addr l = .next (trapI s 0x05 s.me.xfer) := by
  simp only [issueInLine, checkLine, h, hp, if_true]

theorem runHead_error {s : State} {head : BitVec 16} {tail : BitVec 48} {e : DecodeError} (h : decode head tail = .error e) :
    runHead s head tail = .next (trapI (s.setMe { s.me with ir := (tail ++ head : Word) }) 0x03 (tail ++ head)) := by
  simp only [runHead, h, me_setMe]

/-- Settles O3: a step is cut along the agenda and the clocks, and a cycle along the slots in their order and the line of
the first of them. -/
theorem stepRunsDecoded : Obligations.StepRunsDecoded := by
  unfold Obligations.StepRunsDecoded
  intro idx run
  refine ⟨fun s n e h => step_due h, fun s e h he _ => step_scheduled h he, ?_, ?_⟩
  · intro s h he u
    have hs : step s = mapNext advance (clockStep u) := step_clocks h he
    refine ⟨fun hn => ?_, fun c ho hc => ?_⟩
    · rw [hs, clockStep_settled hn]
      rfl
    · obtain ⟨d, hd, hod, hk⟩ := clockStep_owed ho hc
      exact ⟨d, hd, hod, by rw [hs, hk]⟩
  · intro s c u hres
    have hcycle : coreCycle c s = mapNext (endCycle c) (issueFrom c (issueOrder u c) u) := coreCycle_issues hres
    refine ⟨fun hidle => ?_, ?_⟩
    · rw [hcycle, issueFrom_idle hidle]
      rfl
    · intro k ks hord hmay v p finishing l hcause hbreak htarget hline
      have hissue : coreCycle c s = finishing (issueInLine v (lineOf v.me.pc) l) := by
        rw [hcycle, hord, issueFrom_cons hmay, issueSlot_entered hcause hbreak htarget hline]
      refine ⟨fun r hr => ?_, fun hr hp => ?_, fun hr hp => ⟨fun i hi => ?_, fun e he => ?_⟩⟩
      · rw [hissue, issueInLine_malformed hr]
        rfl
      · rw [hissue, issueInLine_beyond hr hp]
      · rw [hissue, issueInLine_head hr hp, runHead_ok hi]
      · rw [hissue, issueInLine_head hr hp, runHead_error he]

/-! ## The turn and the passing of time (R4, R7) -/

/-- The passing of time leaves cores, slots, device memory and the agenda alone, and never turns the time base back. -/
theorem passTime_frame (s : State) (n : Nat) : s.tick ≤ (passTime s n).tick ∧ (passTime s n).ns = s.ns + n ∧
    (passTime s n).cores = s.cores ∧ (passTime s n).slots = s.slots ∧ (passTime s n).devMem = s.devMem ∧
    (passTime s n).agenda = s.agenda := by
  obtain ⟨t, h, o, ht, e⟩ := passTime_cases s n
  rw [e]
  exact ⟨ht, rfl, rfl, rfl, rfl, rfl⟩

/-- Settles O4: every step ends with the free choice of the next turn, and `advance` touches nothing else. -/
theorem turnNamesACore : Obligations.TurnNamesACore := by
  unfold Obligations.TurnNamesACore
  refine ⟨fun s t _ h => ?_, fun s t h => step_advance h, fun s => ?_, passTime_frame⟩
  · obtain ⟨u, rfl⟩ := step_advance h
    exact advance_turn u
  · exact ⟨le_rfl, rfl, rfl, rfl, rfl, rfl, rfl, rfl, rfl⟩

/-! ## The state after reset (R351, R352, R410) -/

/-! No map of the reset state lists anything. -/

@[simp] theorem core_reset (c : Nat) : State.reset.core c = Core.reset := rfl
@[simp] theorem part_reset (p : Nat) : State.reset.part p = Part.reset p := rfl
@[simp] theorem slot_reset (k : Nat) : State.reset.slot k = Slot.reset := rfl

theorem slot_reset_registers (i : Fin 16) : Slot.reset.x[i] = 0 ∧ Slot.reset.f[i] = 0 := by
  simp [Slot.reset]

/-- Settles O5: every core, partition and slot is at its own reset value. -/
theorem resetState : Obligations.ResetState := by
  unfold Obligations.ResetState
  refine ⟨fun c => ?_, fun p => ?_, fun k => ?_, rfl, rfl, by decide, ⟨rfl, rfl, fun _ => rfl⟩, fun _ => ⟨rfl, rfl⟩⟩
  · rw [core_reset]
    exact ⟨rfl, rfl, rfl, rfl, rfl, rfl, rfl, rfl, rfl, fun _ => rfl⟩
  · rw [part_reset]
    exact ⟨rfl, rfl, rfl, rfl, rfl, rfl, rfl, rfl⟩
  · rw [slot_reset]
    exact ⟨rfl, rfl, rfl, rfl, rfl, rfl, rfl, rfl, slot_reset_registers, rfl, rfl, rfl⟩

end Sys2Proof.Machine
end

section
/-! SUPPORT. Why a store need not go where the class of its page said before it: the entry that R85 gives an UNTOUCHED
granule is 0x4000 with the core's number in its low bits, and no hypothesis of the statement keeps that number below
2^15, where it meets the class in bits [15:14]. -/

namespace Sys2Proof.Machine

/-- Partition 0 with one page: address 0 is translated to the first byte of device memory, and its granule is
UNTOUCHED. -/
def onePagePart : Part :=
  { Part.reset 0 with
    record := 1#512 <<< 64
    spasid := 0x8000000000000000
    hwin := [⟨0, 1, 2⟩]
    xlat := [(12, ⟨12, true, true, true, 0⟩)] }

/-- A machine in which slot 0 of a core numbered 2^15 issues, with 1 in every integer register. -/
def outlyingCore : State :=
  { State.reset with
    curCore := 0x8000
    slots := [(slotKey 0x8000 0, { Slot.reset with st := .ready, x := Vector.replicate 16 1 })]
    parts := [(0, onePagePart)]
    hub := { Hub.reset with ready := BitVec.allOnes 64 } }

theorem clear_outlyingCore : Clear false { reads := [xreg 0, xreg 1] } outlyingCore := by
  unfold Clear
  decide +kernel

/-- The address of a store through x0 with offset 0. -/
def storeAddr : Word := readX outlyingCore 0 + (0 : BitVec 16).signExtend 64

theorem through_outlyingCore : Through outlyingCore storeAddr 1 1 true (.dev 0) := by
  unfold Through ThroughReq NoConversion
  decide +kernel

/-- By the class of its page before the access, the store belongs in the core's first-level cache. -/
theorem servedHome_outlyingCore :
    servedHome outlyingCore (outlyingCore.partOf outlyingCore.curCore) storeAddr.toNat (.dev 0) = false := by
  decide +kernel

/-- The class lookup has set the entry to `privateTo 0x8000`, whose class is SHARED, and so the store has changed the
byte at its home. -/
theorem stg_outlyingCore {t : State} (h : exec (.stg 0 1 .b false 0) outlyingCore = .next t) :
    classOf (privateTo 0x8000) = 3 ∧ classEntry (t.part 0) 0 = privateTo 0x8000 ∧ readByte t.devMem 0 = 1 := by
  have hrun : (match exec (.stg 0 1 .b false 0) outlyingCore with
      | .next u => (classEntry (u.part 0) 0, readByte u.devMem 0)
      | _ => (0, 0)) = (privateTo 0x8000, 1) := by decide +kernel
  rw [h] at hrun
  exact ⟨by decide, Prod.mk.inj hrun⟩

/-- A store that the home does not serve leaves both memories as they were. -/
theorem sameBytes_of_storedIn {s t : State} {c va n : Nat} {l : Loc} {b : Nat → Option Byte}
    (hhome : servedHome s (s.partOf c) va l = false) (h : StoredIn s t c va l n b) : SameBytes s t := by
  unfold StoredIn at h
  rw [hhome, if_neg Bool.false_ne_true] at h
  exact h.1

/-- Refutes O26: a core numbered 2^15 stores a byte to an UNTOUCHED granule, and the byte goes to memory, where the
statement, by the class before the access, has memory as it was and the byte in the first-level cache. R7 has 512
cores; the statement bounds `curCore` nowhere. -/
theorem not_globalStores : ¬ Obligations.GlobalStores := by
  unfold Obligations.GlobalStores
  rintro ⟨hstg, -, -, -⟩
  obtain ⟨hstores, -⟩ := hstg outlyingCore 0 1 .b 0 0 clear_outlyingCore
  obtain ⟨⟨t, hexec, -, -, -, -, hstored⟩, -⟩ := hstores (.dev 0) through_outlyingCore
  obtain ⟨hsame, -⟩ := sameBytes_of_storedIn servedHome_outlyingCore (hstored rfl)
  obtain ⟨-, -, hone⟩ := stg_outlyingCore hexec
  rw [hsame 0] at hone
  exact absurd hone (by decide)

end Sys2Proof.Machine
end

section
/-! SUPPORT. The outside of the package, its state operations: what asking for a line as an outside agent, a host access of
a byte, and a flit sent leave unchanged. -/

namespace Sys2Proof.Machine

/-! ## Agents that may go on (R85) -/

/-- Two states that differ in the partitions at most. -/
def OnlyParts (s t : State) : Prop := ∃ ps, t = { s with parts := ps }

theorem onlyParts_refl (s : State) : OnlyParts s s := ⟨s.parts, rfl⟩

theorem onlyParts_trans {s t u : State} (h : OnlyParts s t) (g : OnlyParts t u) : OnlyParts s u := by
  obtain ⟨ps, rfl⟩ := h
  obtain ⟨qs, rfl⟩ := g
  exact ⟨qs, rfl⟩

theorem onlyParts_setPart (s : State) (p : Nat) (v : Part) : OnlyParts s (s.setPart p v) := ⟨_, rfl⟩

/-- A touch that lets the access go on has at most set the class of the granule. -/
theorem touch_goes {s t : State} {p va : Nat} {l : Loc} {who : Option Nat} {store : Bool}
    (h : touch s p va l who store = (t, true)) : OnlyParts s t := by
  unfold touch at h
  split at h
  · cases h; exact onlyParts_refl s
  · split at h
    · cases h
    · split at h
      · cases h; exact onlyParts_refl s
      · cases h; exact onlyParts_setPart ..
      · cases h

theorem agentLine_goes {s t : State} {p va : Nat} {store : Bool} {r : Agent} (h : agentLine s p store va = (t, r))
    (hr : r ≠ .wait) : OnlyParts s t := by
  unfold agentLine at h
  split at h
  · split at h
    · cases h; exact absurd rfl hr
    · next htouch => cases h; exact touch_goes htouch
  · cases h; exact onlyParts_refl s

/-- An agent that does not wait has at most set classes. -/
theorem agentOpen_goes {p : Nat} {store : Bool} {r : Agent} (vas : List Nat) {s t : State}
    (h : agentOpen s p store vas = (t, r)) (hr : r ≠ .wait) : OnlyParts s t := by
  induction vas generalizing s with
  | nil => cases h; exact onlyParts_refl _
  | cons va vas ih =>
    unfold agentOpen at h
    split at h
    · next u hline =>
      have hu : OnlyParts s u := agentLine_goes hline (by decide)
      split at h
      · cases h; exact absurd rfl hr
      · cases h; exact absurd rfl hr
      · exact onlyParts_trans hu (ih h)
    · exact agentLine_goes h hr

theorem hostOpen_goes {s t : State} {p pa : Nat} {store : Bool} (h : hostOpen s p pa store = (t, true)) : OnlyParts s t := by
  unfold hostOpen at h
  split at h
  · cases h
  · split at h
    · cases h
    · next r hwait hopen =>
      cases h
      exact agentOpen_goes _ hopen hwait

/-- A host access that may be performed has at most set classes. -/
theorem hostReady_goes {p : Nat} {store : Bool} (n : Nat) {s t : State} {pa : Nat}
    (h : hostReady s p pa store n = (t, true)) : OnlyParts s t := by
  induction n generalizing s pa with
  | zero => cases h; exact onlyParts_refl _
  | succ n ih =>
    unfold hostReady at h
    split at h
    · cases h
    · next u hopen => exact onlyParts_trans (hostOpen_goes hopen) (ih h)

/-! ## Bytes of the host (R101, R121) -/

/-- No relayout, subscription or state block stands in the way of the `n` bytes from a device physical address on. -/
def PlainBytes (u : State) (p a n : Nat) : Prop :=
  ∀ x va, a ≤ x → x < a + n → (virtualsOf (u.part p) x).head? = some va →
    convAt (u.part p) va = none ∧ rangeAt u p va = none ∧ onRunningBlock (u.part p) va 1 = false

theorem plainBytes_tail {u : State} {p a n : Nat} (h : PlainBytes u p a (n + 1)) : PlainBytes u p (a + 1) n :=
  fun x va hlo hhi => h x va (by omega) (by omega)

theorem hostByte_load {u : State} {p a n : Nat} (h : PlainBytes u p a (n + 1)) :
    (hostByte u p a (.load 1)).old = (readByte u.devMem a).toNat := by
  unfold hostByte
  split
  · next va vas hva =>
    obtain ⟨hconv, -, -⟩ := h a va le_rfl (by omega) (by rw [hva]; rfl)
    simp [performGlobal, hconv, AccessOp.isStore, AccessOp.reads, State.bytesAt, readBytes, bytesToNat]
  · rfl

theorem hostByte_store {u : State} {p a n : Nat} (h : PlainBytes u p a (n + 1)) (b : Byte) :
    (hostByte u p a (.store [(0, b)])).s = u.setByteAt (.dev a) b := by
  unfold hostByte
  split
  · next va vas hva =>
    obtain ⟨hconv, hrange, hblock⟩ := h a va le_rfl (by omega) (by rw [hva]; rfl)
    simp [performGlobal, hconv, hrange, hblock, AccessOp.isStore, AccessOp.writes, State.setBytesAt, Loc.plus]
  · rfl

theorem hostRead_plain (n : Nat) {u : State} {p a : Nat} (h : PlainBytes u p a n) :
    hostRead u p a n = readBytes u.devMem a n := by
  induction n generalizing a with
  | zero => rfl
  | succ n ih =>
    rw [hostRead, readBytes, hostByte_load h, ih (plainBytes_tail h), BitVec.ofNat_toNat, BitVec.setWidth_eq]

theorem hostWrite_plain (bs : List Byte) {u : State} {p a : Nat} (h : PlainBytes u p a bs.length) :
    ∃ r, hostWrite u p a bs = { u with devMem := writeBytes u.devMem a bs, rdc := r } := by
  induction bs generalizing u a with
  | nil => exact ⟨u.rdc, rfl⟩
  | cons b bs ih =>
    rw [hostWrite, hostByte_store h]
    exact ih (u := u.setByteAt (.dev a) b) (plainBytes_tail h)

/-- Bytes written into device memory stand there, with all else as it was. -/
theorem storedAt_dev {s t : State} (a : Nat) (bs : List Byte) (hd : t.devMem = writeBytes s.devMem a bs)
    (hh : t.hostMem = s.hostMem) : StoredAt s t (.dev a) bs := by
  refine ⟨?_, fun x hx => ?_, hh⟩
  · simp only [memoryOf, hd]
    exact readBytes_writeBytes_same bs s.devMem a
  · simp only [memoryOf, hd]
    exact readByte_writeBytes_out bs s.devMem a x hx

/-- Bytes written into host memory stand there, with all else as it was. -/
theorem storedAt_host {s t : State} (a : Nat) (c : Bool) (bs : List Byte) (hh : t.hostMem = writeBytes s.hostMem a bs)
    (hd : t.devMem = s.devMem) : StoredAt s t (.host a c) bs := by
  refine ⟨?_, fun x hx => ?_, hd⟩
  · simp only [memoryOf, hh]
    exact readBytes_writeBytes_same bs s.hostMem a
  · simp only [memoryOf, hh]
    exact readByte_writeBytes_out bs s.hostMem a x hx

/-! ## Events put on the agenda -/

theorem mem_post (s : State) (e : Instr) : e ∈ (s.post e).agenda := List.mem_append_right _ (List.mem_singleton_self e)

/-- An event posted once stands on the agenda, and nothing else has changed. -/
theorem postOnce_cases (s : State) (e : Instr) : ∃ a, postOnce s e = { s with agenda := a } ∧ e ∈ a := by
  unfold postOnce
  split
  · next h => exact ⟨s.agenda, rfl, by simpa using h⟩
  · exact ⟨_, rfl, mem_post s e⟩

/-! ## Stente directions and flits sent (R387) -/

@[simp] theorem linkOf_setLink_same (s : State) (dev cls : Nat) (l : LinkSt) : linkOf (setLink s dev cls l) dev cls = l :=
  look_put_same ..

theorem linkOf_setLink_ne (s : State) {d c dev cls : Nat} (l : LinkSt) (h : 16 * d + c ≠ 16 * dev + cls) :
    linkOf (setLink s dev cls l) d c = linkOf s d c := look_put_ne _ _ _ h

/-- Two states that differ in the directions of the links and the flits that have left at most. -/
def OnlySent (s t : State) : Prop := ∃ d l o, t = { s with draws := d, hub := { s.hub with links := l, outFlits := o } }

theorem onlySent_refl (s : State) : OnlySent s s := ⟨s.draws, s.hub.links, s.hub.outFlits, rfl⟩

theorem onlySent_trans {s t u : State} (h : OnlySent s t) (g : OnlySent t u) : OnlySent s u := by
  obtain ⟨d, l, o, rfl⟩ := h
  obtain ⟨d', l', o', rfl⟩ := g
  exact ⟨d', l', o', rfl⟩

theorem sendFlit_only (s : State) (dev cls : Nat) : OnlySent s (sendFlit s dev cls) := by
  unfold sendFlit
  simp only
  split
  · exact ⟨_, _, _, rfl⟩
  · exact ⟨_, _, _, rfl⟩

/-- A flit sent takes the next number of its direction. -/
theorem sendFlit_sent (s : State) (dev cls : Nat) :
    (linkOf (sendFlit s dev cls) dev cls).sent = ((linkOf s dev cls).sent + 1) % 65536 := by
  unfold sendFlit
  simp only
  split <;> exact congrArg LinkSt.sent (linkOf_setLink_same ..)

theorem sendFlit_other (s : State) {d c dev cls : Nat} (h : 16 * d + c ≠ 16 * dev + cls) :
    linkOf (sendFlit s dev cls) d c = linkOf s d c := by
  unfold sendFlit
  simp only
  split <;> exact linkOf_setLink_ne s.draw _ h

end Sys2Proof.Machine
end

section
/-! SUPPORT. Looking at the lock queues of a partition (R51) leaves slots, time, membership and rounds alone, and so a change
of membership does what it says of the partition and nothing else of these. -/

namespace Sys2Proof.Machine

/-! ## What a look at lock queues leaves alone -/

/-- The membership of a partition's pod, the rounds known to be closed, and the round and place of the device. -/
def podFields (pt : Part) : List Nat × Option Membership × SMap Nat × Nat × Nat :=
  (pt.members, pt.newMembers, pt.closed, pt.round, pt.pos)

/-- Slots, time, the pod's registers of the hub, and `podFields` of every partition are as before. -/
structure KeepsPod (s t : State) : Prop where
  slots : t.slots = s.slots
  tick : t.tick = s.tick
  mpod : t.hub.mpod = s.hub.mpod
  offset : t.hub.offset = s.hub.offset
  part : ∀ q, podFields (t.part q) = podFields (s.part q)

theorem keepsPod_refl (s : State) : KeepsPod s s := ⟨rfl, rfl, rfl, rfl, fun _ => rfl⟩

theorem keepsPod_trans {s t u : State} (h : KeepsPod s t) (g : KeepsPod t u) : KeepsPod s u :=
  ⟨g.slots.trans h.slots, g.tick.trans h.tick, g.mpod.trans h.mpod, g.offset.trans h.offset,
    fun q => (g.part q).trans (h.part q)⟩

theorem keepsPod_setPart {s : State} {p : Nat} {v : Part} (h : podFields v = podFields (s.part p)) :
    KeepsPod s (s.setPart p v) := by
  refine ⟨rfl, rfl, rfl, rfl, fun q => ?_⟩
  by_cases hq : q = p
  · subst hq
    rw [part_setPart_same, h]
  · rw [part_setPart_ne s v hq]

/-- Only what no field of the relation reads has changed. -/
theorem keepsPod_of_eq {s t : State} (hs : t.slots = s.slots) (ht : t.tick = s.tick) (hh : t.hub = s.hub)
    (hp : t.parts = s.parts) : KeepsPod s t :=
  ⟨hs, ht, by rw [hh], by rw [hh], fun q => by rw [State.part, hp]; rfl⟩

theorem keepsPod_post (s : State) (e : Instr) : KeepsPod s (s.post e) := keepsPod_of_eq rfl rfl rfl rfl

theorem keepsPod_postOnce (s : State) (e : Instr) : KeepsPod s (postOnce s e) := by
  obtain ⟨a, h, -⟩ := postOnce_cases s e
  rw [h]
  exact keepsPod_of_eq rfl rfl rfl rfl

theorem keepsPod_sent {s t : State} (h : OnlySent s t) : KeepsPod s t := by
  obtain ⟨d, l, o, rfl⟩ := h
  exact ⟨rfl, rfl, rfl, rfl, fun _ => rfl⟩

theorem keepsPod_agenda {s t : State} (h : KeepsPod s t) (a : List Instr) : KeepsPod s { t with agenda := a } :=
  keepsPod_trans h (keepsPod_of_eq rfl rfl rfl rfl)

/-- A partition changed and events posted after a serial number has been taken. -/
theorem keepsPod_freshPart {s : State} {p : Nat} {v : Part} {a : List Instr} (h : podFields v = podFields (s.part p)) :
    KeepsPod s { s.fresh.2.setPart p v with agenda := a } :=
  keepsPod_agenda (keepsPod_trans (s := s) (t := s.fresh.2) (keepsPod_of_eq rfl rfl rfl rfl) (keepsPod_setPart h)) a

/-! ## The operations of a grant (R51, R52, R58, R62) -/

theorem keepsPod_startReclass (s : State) (p va : Nat) (e : BitVec 16) : KeepsPod s (startReclass s p va e) := by
  unfold startReclass
  split
  · exact keepsPod_refl s
  · simp only [List.partition_eq_filter_filter]
    exact keepsPod_freshPart rfl

theorem keepsPod_touch (s : State) (p va : Nat) (l : Loc) (who : Option Nat) (store : Bool) :
    KeepsPod s (touch s p va l who store).1 := by
  unfold touch
  split
  · exact keepsPod_refl s
  · split
    · exact keepsPod_refl s
    · split
      · exact keepsPod_refl s
      · exact keepsPod_setPart rfl
      · exact keepsPod_startReclass ..

theorem keepsPod_agentLine (s : State) (p : Nat) (store : Bool) (va : Nat) : KeepsPod s (agentLine s p store va).1 := by
  unfold agentLine
  split
  · next l _ =>
    have ht := keepsPod_touch s p va l none store
    split
    · next h => rw [h] at ht; exact ht
    · next h => rw [h] at ht; exact ht
  · exact keepsPod_refl s

theorem keepsPod_forceAt (s : State) (p va u : Nat) : KeepsPod s (forceAt s p va u) := by
  unfold forceAt
  split
  · exact keepsPod_setPart rfl
  · exact keepsPod_refl s

theorem keepsPod_agentOpen (p : Nat) (store : Bool) (vas : List Nat) (s : State) :
    KeepsPod s (agentOpen s p store vas).1 := by
  induction vas generalizing s with
  | nil => exact keepsPod_refl s
  | cons va vas ih =>
    have hline := keepsPod_agentLine s p store va
    unfold agentOpen
    split
    · next u h =>
      rw [h] at hline
      split
      · exact keepsPod_trans hline (keepsPod_forceAt ..)
      · exact hline
      · exact keepsPod_trans hline (ih u)
    · exact hline

theorem keepsPod_requestXlat (s : State) (p page : Nat) (need : Need) : KeepsPod s (requestXlat s p page need) := by
  unfold requestXlat
  simp only
  split
  · exact keepsPod_refl s
  · split
    · exact keepsPod_freshPart rfl
    · exact keepsPod_freshPart rfl

theorem keepsPod_requestPage (s : State) (p page : Nat) (need : Need) : KeepsPod s (requestPage s p page need) := by
  unfold requestPage
  simp only
  split
  · exact keepsPod_refl s
  · exact keepsPod_freshPart rfl

theorem keepsPod_failTx (s : State) (t status : Nat) : KeepsPod s (failTx s t status) := by
  unfold failTx
  split
  · exact keepsPod_refl s
  · split
    · exact keepsPod_refl s
    · exact keepsPod_of_eq rfl rfl rfl rfl

theorem keepsPod_updTile (s : State) (t tile : Nat) (f : SetTile → SetTile) : KeepsPod s (updTile s t tile f) := by
  unfold updTile
  split
  · exact keepsPod_refl s
  · exact keepsPod_of_eq rfl rfl rfl rfl

theorem keepsPod_grantTile (s : State) (t : Nat) (tx : Tx) (e : SetTile) (data : Tile) :
    KeepsPod s (grantTile s t tx e data) := by
  unfold grantTile
  simp only
  have htile := keepsPod_updTile s t e.tile fun e => { e with
    granted := true, landed := e.push.isNone, snapshot := if snapshots tx e then some data else e.snapshot }
  split
  · exact htile
  · split
    · split
      · exact htile
      · exact keepsPod_trans htile (keepsPod_of_eq rfl rfl rfl rfl)
    · exact htile

theorem keepsPod_grantNow (s : State) (p tile t : Nat) : KeepsPod s (grantNow s p tile t).1 := by
  unfold grantNow
  split
  · next tx e _ _ =>
    split
    · exact keepsPod_grantTile ..
    · split
      · have hopen : KeepsPod s (if e.push.isSome then agentOpen s p false (chunkAddrs tile 4096) else (s, .ready)).1 := by
          split
          · exact keepsPod_agentOpen ..
          · exact keepsPod_refl s
        split
        · next h => rw [h] at hopen; exact keepsPod_trans hopen (keepsPod_grantTile ..)
        · next h => rw [h] at hopen; exact hopen
      · exact keepsPod_requestXlat ..
      · exact keepsPod_requestPage ..
      · exact keepsPod_failTx ..
  · exact keepsPod_refl s

/-- A grant, of a transaction of the device or over Stente. -/
theorem keepsPod_grant (s : State) (p tile : Nat) (q : LockReq) :
    KeepsPod s (if foreign q.tx then (sendFlit s (q.key / 256 % 256) 3, true) else grantNow s p tile q.tx).1 := by
  split
  · exact keepsPod_sent (sendFlit_only ..)
  · exact keepsPod_grantNow ..

theorem keepsPod_grantLoop (p tile : Nat) (qs before : List LockReq) (s : State) :
    KeepsPod s (grantLoop s p tile before qs).1 := by
  induction qs generalizing s before with
  | nil => exact keepsPod_refl s
  | cons q qs ih =>
    have hgrant := keepsPod_grant s p tile q
    unfold grantLoop
    split
    · exact ih ..
    · split
      · exact keepsPod_refl s
      · generalize (if q.excl = true then !before.isEmpty else before.any fun b => b.excl) = held
        split
        · exact keepsPod_refl s
        · split
          · next h => rw [h] at hgrant; exact keepsPod_trans hgrant (ih ..)
          · next h => rw [h] at hgrant; exact keepsPod_trans hgrant (keepsPod_postOnce ..)

theorem keepsPod_tryGrant (s : State) (p tile : Nat) : KeepsPod s (tryGrant s p tile) := by
  have hloop := keepsPod_grantLoop p tile (look (s.part p).locks [] tile) [] s
  unfold tryGrant
  exact keepsPod_trans hloop (keepsPod_setPart rfl)

/-- Looking at the queues of any tiles leaves slots, time and membership alone. -/
theorem keepsPod_tryGrants (p : Nat) (tiles : List Nat) (s : State) : KeepsPod s (tryGrants s p tiles) := by
  induction tiles generalizing s with
  | nil => exact keepsPod_refl s
  | cons tile tiles ih => exact keepsPod_trans (keepsPod_tryGrant s p tile) (ih _)

/-! ## A change of membership (R385) -/

theorem closeBefore_onlyParts (p round : Nat) (ms : List Nat) (s : State) : OnlyParts s (closeBefore s p round ms) := by
  induction ms generalizing s with
  | nil => exact onlyParts_refl s
  | cons m ms ih => exact onlyParts_trans (onlyParts_setPart ..) (ih _)

/-- The rounds of members that join closed before a round, by the key that every manager looks at. -/
def closedUpTo (m : SMap Nat) (round : Nat) : List Nat → SMap Nat
  | [] => m
  | d :: ds => closedUpTo (put m (2 ^ 20 + d) round) round ds

theorem closeBefore_part (p round : Nat) (ms : List Nat) (s : State) :
    (closeBefore s p round ms).part p = { s.part p with closed := closedUpTo (s.part p).closed round ms } := by
  induction ms generalizing s with
  | nil => rfl
  | cons m ms ih => rw [closeBefore, ih, part_setPart_same]; rfl

theorem look_closedUpTo_kept (ds : List Nat) {m : SMap Nat} {round d : Nat} (h : look m 0 (2 ^ 20 + d) = round) :
    look (closedUpTo m round ds) 0 (2 ^ 20 + d) = round := by
  induction ds generalizing m with
  | nil => exact h
  | cons e ds ih =>
    apply ih
    by_cases hd : d = e
    · subst hd
      exact look_put_same ..
    · rw [look_put_ne _ _ _ (by omega), h]

theorem look_closedUpTo {ds : List Nat} {d : Nat} (h : d ∈ ds) (m : SMap Nat) (round : Nat) :
    look (closedUpTo m round ds) 0 (2 ^ 20 + d) = round := by
  induction ds generalizing m with
  | nil => cases h
  | cons e ds ih =>
    rcases List.mem_cons.mp h with rfl | hd
    · exact look_closedUpTo_kept ds (look_put_same ..)
    · exact ih hd _

/-- What the partition knows of its pod once a change has taken effect. -/
theorem changeMembers_part (s : State) (p : Nat) (c : Membership) :
    podFields ((changeMembers s p c).part p) = (c.members, none,
      closedUpTo (s.part p).closed c.round (c.members.filter fun m => !(s.part p).members.contains m),
      (s.part p).round, (s.part p).pos) := by
  unfold changeMembers
  rw [(keepsPod_tryGrants ..).part p, part_setPart_same]
  simp only [podFields, closeBefore_part]

/-- A change of membership leaves slots, time and the hub's registers of the pod alone. -/
theorem changeMembers_frame (s : State) (p : Nat) (c : Membership) : let t := changeMembers s p c
    t.slots = s.slots ∧ t.tick = s.tick ∧ t.hub.mpod = s.hub.mpod ∧ t.hub.offset = s.hub.offset := by
  intro t
  obtain ⟨ps, hps⟩ := closeBefore_onlyParts p c.round (c.members.filter fun m => !(s.part p).members.contains m) s
  have hk : KeepsPod _ t := keepsPod_tryGrants ..
  rw [hps] at hk
  exact ⟨hk.slots, hk.tick, hk.mpod, hk.offset⟩

/-- The new members stand in the partition, the change is no longer to come, and the earlier rounds of those that join are
closed (R385). -/
def MembersChanged (s t : State) (p : Nat) (c : Membership) : Prop :=
  (t.part p).members = c.members ∧ (t.part p).newMembers = none ∧ t.slots = s.slots ∧
    ∀ d ∈ c.members, d ∉ (s.part p).members → look (t.part p).closed 0 (2 ^ 20 + d) = c.round

theorem membersChanged_of_fields {s t : State} {p : Nat} {c : Membership} {r o : Nat} (hs : t.slots = s.slots)
    (h : podFields (t.part p) = (c.members, none,
      closedUpTo (s.part p).closed c.round (c.members.filter fun m => !(s.part p).members.contains m), r, o)) :
    MembersChanged s t p c := by
  simp only [podFields, Prod.mk.injEq] at h
  obtain ⟨hm, hn, hc, -, -⟩ := h
  refine ⟨hm, hn, hs, fun d hd hnew => ?_⟩
  rw [hc]
  exact look_closedUpTo (List.mem_filter.mpr ⟨hd, by simpa using hnew⟩) ..

theorem changeMembers_changed (s : State) (p : Nat) (c : Membership) : MembersChanged s (changeMembers s p c) p c :=
  membersChanged_of_fields (changeMembers_frame s p c).1 (changeMembers_part s p c)

end Sys2Proof.Machine
end

section
/-! SUPPORT. The events of the links (R382, R385 to R388): snoops and host accesses, the choice of a plane, flits that arrive,
the time base and membership of the pod. -/

namespace Sys2Proof.Machine

/-! ## The host (R382) -/

theorem hostSnoop_held {s : State} {a : Nat} (k : SnoopKind) (hr : s.hub.ready.getLsbD 8 = true)
    (h : sectorHeld s (2 * (a / 64) + 1) = true) : exec (.hostSnoop a k) s = .next (s.post (.hostSnoop a k)) := by
  simp [execHostSnoop, hr, h]

theorem hostSnoop_read {s : State} {a : Nat} (hr : s.hub.ready.getLsbD 8 = true)
    (h : sectorHeld s (2 * (a / 64) + 1) = false) : exec (.hostSnoop a .read) s = .next s := by
  simp [execHostSnoop, hr, h]

theorem hostSnoop_write {s : State} {a : Nat} (v : Vec) (hr : s.hub.ready.getLsbD 8 = true)
    (h : sectorHeld s (2 * (a / 64) + 1) = false) :
    exec (.hostSnoop a (.write v)) s = .next { s with hostMem := writeBytes s.hostMem (a / 64 * 64) (vecBytes v) } := by
  simp [execHostSnoop, hr, h]

section
variable {s u : State} {a p : Nat} (hr : s.hub.ready.getLsbD 7 = true) (hp : partOfPa s a = some p)
  (hl : s.hub.lostStacks.contains (stackOf a) = false)
include hr hp hl

theorem hostDeviceAccess_read {n : Nat} (h : hostReady s p a false n = (u, true)) :
    exec (.hostDeviceAccess a (.read n)) s = .next { u with hub := { u.hub with answer := hostRead u p a n } } := by
  rw [exec_hostDeviceAccess, execHostDeviceAccess]
  simp only [hr, hp, hl, h, Bool.not_true, Bool.false_eq_true, if_false]

theorem hostDeviceAccess_write {bs : List Byte} (h : hostReady s p a true bs.length = (u, true)) :
    exec (.hostDeviceAccess a (.write bs)) s = .next (hostWrite u p a bs) := by
  rw [exec_hostDeviceAccess, execHostDeviceAccess]
  simp only [hr, hp, hl, h, Bool.not_true, Bool.false_eq_true, if_false]

end

/-- A host access outside every carve-out, or to a stack that is lost, has no effect. -/
theorem hostDeviceAccess_nowhere {s : State} {a : Nat} (d : HostData) (hr : s.hub.ready.getLsbD 7 = true)
    (h : partOfPa s a = none ∨ s.hub.lostStacks.contains (stackOf a) = true) : exec (.hostDeviceAccess a d) s = .next s := by
  rw [exec_hostDeviceAccess, execHostDeviceAccess]
  simp only [hr, Bool.not_true, Bool.false_eq_true, if_false]
  cases hp : partOfPa s a with
  | none => rfl
  | some p => exact if_pos (h.resolve_left (by simp [hp]))

/-- A host store to the state block of a relayout that is RUNNING is dropped (R118). -/
theorem hostWrite_onBlock {u : State} {p a va : Nat} (b : Byte) (hva : (virtualsOf (u.part p) a).head? = some va)
    (h : onRunningBlock (u.part p) va 1 = true) : hostWrite u p a [b] = u := by
  obtain ⟨vas, hvas⟩ := List.head?_eq_some_iff.mp hva
  simp only [hostWrite, hostByte, hvas, h, AccessOp.isStore, Bool.and_self, if_true]

/-! ## Planes (R387) -/

/-- The plane chosen is the first one up from the hashed one on. -/
theorem planeOf_up {downs : List (Nat × Nat)} {src dst cls peer : Nat} (h : ∃ r < 16, downs.contains (peer, r) = false) :
    let q := planeOf downs src dst cls peer
    q < 16 ∧ downs.contains (peer, q) = false ∧
      ∀ i < (q + 16 - (src + dst + cls) % 16) % 16, downs.contains (peer, ((src + dst + cls) % 16 + i) % 16) = true := by
  have hb : (src + dst + cls) % 16 < 16 := Nat.mod_lt _ (by decide)
  unfold planeOf
  simp only
  generalize (src + dst + cls) % 16 = b at hb ⊢
  rw [List.find?_map]
  cases hf : (List.range 16).find? ((fun q => !downs.contains (peer, q)) ∘ fun i => (b + i) % 16) with
  | none =>
    obtain ⟨r, hr, hup⟩ := h
    have hdown := List.find?_eq_none.mp hf ((r + 16 - b) % 16) (List.mem_range.mpr (Nat.mod_lt _ (by decide)))
    rw [Function.comp_apply, show (b + (r + 16 - b) % 16) % 16 = r by omega, hup] at hdown
    exact absurd rfl hdown
  | some i =>
    obtain ⟨hup, hi, hbefore⟩ := List.find?_range_eq_some.mp hf
    have hi16 : i < 16 := List.mem_range.mp hi
    simp only [Option.map_some, Option.getD_some]
    have hsteps : ((b + i) % 16 + 16 - b) % 16 = i := by omega
    refine ⟨Nat.mod_lt _ (by decide), by simpa using hup, fun j hj => ?_⟩
    simpa using hbefore j (hsteps ▸ hj)

theorem planeOf_hashed {downs : List (Nat × Nat)} {src dst cls peer : Nat}
    (h : downs.contains (peer, (src + dst + cls) % 16) = false) : planeOf downs src dst cls peer = (src + dst + cls) % 16 := by
  have hb : (src + dst + cls) % 16 < 16 := Nat.mod_lt _ (by decide)
  obtain ⟨hlt, -, hbefore⟩ := planeOf_up (src := src) (dst := dst) (cls := cls) ⟨_, hb, h⟩
  by_contra hne
  have h0 := hbefore 0 (by omega)
  rw [Nat.add_zero, Nat.mod_mod, h] at h0
  cases h0

/-- The flits of the classes below `n` that travelled on a plane sent again, in order. -/
theorem resendAll_eq (s : State) (before : List (Nat × Nat)) (dev plane n : Nat) :
    resendAll s before dev plane n = { s with hub := { s.hub with outFlits := s.hub.outFlits ++ (List.range n).flatMap (fun c =>
      (linkOf s dev c).unacked.filter fun f => planeOf before (flitSrc f) (flitDst f) c dev == plane) } } := by
  induction n with
  | zero => simp [resendAll]
  | succ n ih =>
    rw [resendAll, ih, resendDown, List.range_succ, List.flatMap_append, ← List.append_assoc]
    simp only [List.flatMap_cons, List.flatMap_nil, List.append_nil]
    rfl

/-- What a direction could not send goes out, class by class. -/
theorem sendKept_eq (dev : Nat) (cs : List Nat) (s : State) :
    cs.foldl (fun s c => { s with hub := { s.hub with outFlits := s.hub.outFlits ++ (linkOf s dev c).unacked } }) s =
      { s with hub := { s.hub with outFlits := s.hub.outFlits ++ cs.flatMap fun c => (linkOf s dev c).unacked } } := by
  induction cs generalizing s with
  | nil => simp
  | cons c cs ih =>
    rw [List.foldl_cons, ih, List.flatMap_cons, ← List.append_assoc]
    rfl

/-! ## Flits that arrive (R386, R387) -/

theorem flit_refused {s : State} {f : Flit} (h : flitGood f = false ∨ 5 < flitClass f ∨ flitDst f ≠ myDev s) :
    exec (.stenteFlitReceive f) s = .next s := by
  rw [exec_stenteFlitReceive, execStenteFlitReceive]
  simp only
  rw [if_pos (by simpa [or_assoc] using h)]

/-- The number of places that a flit is ahead of the last one received. -/
def flitAhead (s : State) (f : Flit) : Nat :=
  (flitSeq f + 65536 - (linkOf s (flitSrc f) (flitClass f)).received) % 65536

/-- The flits that a flit acknowledges are kept no longer. -/
def ackTaken (s : State) (f : Flit) : State :=
  setLink s (flitSrc f) (flitClass f) { linkOf s (flitSrc f) (flitClass f) with
    unacked := acknowledged (linkOf s (flitSrc f) (flitClass f)).unacked (flitAck f) }

/-- A flit delivered: the last number received of its direction, and the record of it. -/
def flitTaken (s : State) (f : Flit) : State :=
  let s := setLink s (flitSrc f) (flitClass f) { linkOf s (flitSrc f) (flitClass f) with received := flitSeq f }
  { s with hub := { s.hub with delivered := s.hub.delivered ++ [f] } }

section
variable {s : State} {f : Flit} (hg : flitGood f = true) (hc : flitClass f ≤ 5) (hd : flitDst f = myDev s)
include hg hc hd

/-- A flit that is taken acknowledges; then its number decides. -/
theorem flit_accepted : exec (.stenteFlitReceive f) s =
    if flitAhead s f = 0 ∨ 32768 ≤ flitAhead s f then .next (ackTaken s f)
    else if flitAhead s f ≠ 1 then .next ((ackTaken s f).post (.stenteFlitReceive f))
    else match deliverFlit (ackTaken s f) f with
      | (s, false) => .next (s.post (.stenteFlitReceive f))
      | (s, true) => .next (flitTaken s f) := by
  have hok : ¬ (!flitGood f || decide (5 < flitClass f) || flitDst f != myDev s) = true := by
    simp [hg, hc, hd]
  rw [exec_stenteFlitReceive, execStenteFlitReceive]
  exact if_neg hok

theorem flit_duplicate (h : flitAhead s f = 0 ∨ 32768 ≤ flitAhead s f) :
    exec (.stenteFlitReceive f) s = .next (ackTaken s f) := by
  rw [flit_accepted hg hc hd, if_pos h]

theorem flit_early (h1 : 1 < flitAhead s f) (h2 : flitAhead s f < 32768) :
    exec (.stenteFlitReceive f) s = .next ((ackTaken s f).post (.stenteFlitReceive f)) := by
  rw [flit_accepted hg hc hd, if_neg (by omega), if_pos (by omega)]

theorem flit_delivered (h : flitAhead s f = 1) {t : State} (ht : deliverFlit (ackTaken s f) f = (t, true)) :
    exec (.stenteFlitReceive f) s = .next (flitTaken t f) := by
  rw [flit_accepted hg hc hd, if_neg (by omega), if_neg (by omega), ht]

end

theorem deliverFlit_time {s : State} {f : Flit} (hc : flitClass f = 4) (h : timeMaster (podMembers s) = some (flitSrc f)) :
    deliverFlit s f = (timeSync s (Config.payload f 0), true) := by
  simp only [deliverFlit, hc, h, beq_self_eq_true, if_true]

theorem deliverFlit_management {s : State} {f : Flit} (hc : flitClass f = 5) : deliverFlit s f = (s, true) := by
  simp only [deliverFlit, hc]

@[simp] theorem linkOf_flitTaken (s : State) (f : Flit) :
    linkOf (flitTaken s f) (flitSrc f) (flitClass f) =
      { linkOf s (flitSrc f) (flitClass f) with received := flitSeq f } := linkOf_setLink_same ..

@[simp] theorem linkOf_ackTaken (s : State) (f : Flit) :
    linkOf (ackTaken s f) (flitSrc f) (flitClass f) = { linkOf s (flitSrc f) (flitClass f) with
      unacked := acknowledged (linkOf s (flitSrc f) (flitClass f)).unacked (flitAck f) } := linkOf_setLink_same ..

/-! ## The time base of the pod (R388) -/

/-- The offset to the time master's value. -/
def timeOffset (s : State) (master : Nat) : Int := (master : Int) - s.tick

/-- A value within 2,048 ticks is slewed to. -/
theorem timeSync_near {s : State} {master : Nat} (h : (timeOffset s master).natAbs ≤ 2048) :
    timeSync s master = { s with hub := { s.hub with offset := timeOffset s master } } := if_pos h

/-- A member further off reports and leaves the pod at a later round. -/
theorem timeSync_far {s : State} {master : Nat} (h : 2048 < (timeOffset s master).natAbs) :
    ∃ c r d, timeSync s master = { s with
        draws := d, agenda := s.agenda ++ [.membershipChange c]
        hub := { s.hub with offset := timeOffset s master, reports := r } } ∧
      c.members = (podMembers s).filter (· ≠ myDev s) ∧ (s.part (podPart s)).round < c.round := by
  refine ⟨_, _, _, if_neg (by simpa [timeOffset] using h), rfl, ?_⟩
  show (s.part (podPart s)).round < (s.part (podPart s)).round + 1 + _
  omega

/-- Flits sent to each device of a list leave all but the links, and each different device's direction takes a number. -/
theorem sendAll_sent {ms : List Nat} (cls : Nat) (hn : ms.Nodup) (s : State) :
    ∀ d ∈ ms, (linkOf (ms.foldl (fun s m => sendFlit s m cls) s) d cls).sent = ((linkOf s d cls).sent + 1) % 65536 := by
  have hkept (ms : List Nat) (s : State) (d : Nat) (hd : d ∉ ms) :
      linkOf (ms.foldl (fun s m => sendFlit s m cls) s) d cls = linkOf s d cls := by
    induction ms generalizing s with
    | nil => rfl
    | cons m ms ih =>
      obtain ⟨hm, hms⟩ := List.ne_and_not_mem_of_not_mem_cons hd
      rw [List.foldl_cons, ih _ hms, sendFlit_other s (by omega)]
  induction ms generalizing s with
  | nil => exact fun d hd => absurd hd (List.not_mem_nil)
  | cons m ms ih =>
    obtain ⟨hm, hms⟩ := List.nodup_cons.mp hn
    intro d hd
    rw [List.foldl_cons]
    rcases List.mem_cons.mp hd with rfl | hd
    · rw [hkept ms _ d hm, sendFlit_sent]
    · have hne : d ≠ m := fun e => hm (e ▸ hd)
      rw [ih hms _ d hd, sendFlit_other s (by omega)]

theorem sendAll_only (cls : Nat) (ms : List Nat) (s : State) : OnlySent s (ms.foldl (fun s m => sendFlit s m cls) s) := by
  induction ms generalizing s with
  | nil => exact onlySent_refl s
  | cons m ms ih => exact onlySent_trans (sendFlit_only ..) (ih _)

/-- The state in which the time master sends: the check is on the agenda again, and the send is noted. -/
def syncNoted (s : State) : State :=
  { s.post .timeSyncSend with hub := { s.hub with lastSync := s.tick } }

theorem timeSyncSend_due {s : State} (h : s.hub.lastSync + 65536 ≤ s.tick) :
    exec .timeSyncSend s = .next (if inPod s (podPart s) && timeMaster (podMembers s) == some (myDev s) then
      ((podMembers s).filter (· ≠ myDev s)).foldl (fun s m => sendFlit s m 4) (syncNoted s) else syncNoted s) := by
  rw [exec_timeSyncSend, execTimeSyncSend]
  simp only
  rw [if_neg (by omega)]
  exact (apply_ite Host.Outcome.next _ _ _).symm

/-! ## Joining a pod (R46, R380, R388) -/

/-- The device in the pod: its time base has stepped forward, its round is that of the tick, and MEMBER is set. -/
theorem joinPod_joined (s : State) (p : Nat) (c : Membership) : let t := joinPod s p c
    MembersChanged s t p c ∧ t.tick = s.tick + s.hub.offset.toNat ∧ t.hub.offset = 0 ∧
      t.hub.mpod = s.hub.mpod ||| 0x8000 ∧ (t.part p).round = t.tick / 2048 ∧ (t.part p).pos = 0 := by
  intro t
  let u : State := { s with tick := s.tick + s.hub.offset.toNat, hub := { s.hub with offset := 0, mpod := s.hub.mpod ||| 0x8000 } }
  let v : State := u.setPart p { u.part p with round := u.tick / 2048, pos := 0, roundAt := none }
  have hv : v.part p = { s.part p with round := u.tick / 2048, pos := 0, roundAt := none } := part_setPart_same ..
  obtain ⟨hslots, htick, hmpod, hoffset⟩ := changeMembers_frame v p c
  have hfields := changeMembers_part v p c
  rw [hv] at hfields
  obtain ⟨a, ha, -⟩ := postOnce_cases (changeMembers v p c) (.podCloseMarkerSend p)
  obtain ⟨b, hb, -⟩ := postOnce_cases { changeMembers v p c with agenda := a } .timeSyncSend
  have ht : t = { changeMembers v p c with agenda := b } := by
    show postOnce (postOnce (changeMembers v p c) (.podCloseMarkerSend p)) .timeSyncSend = _
    rw [ha, hb]
  have hpart : t.part p = (changeMembers v p c).part p := by rw [ht]; rfl
  have hround : (t.part p).round = u.tick / 2048 ∧ (t.part p).pos = 0 := by
    rw [hpart]
    simp only [podFields, Prod.mk.injEq] at hfields
    exact hfields.2.2.2
  have htick' : t.tick = s.tick + s.hub.offset.toNat := by rw [ht]; exact htick
  refine ⟨membersChanged_of_fields (by rw [ht]; exact hslots) (by rw [hpart]; exact hfields), htick', by rw [ht]; exact hoffset,
    by rw [ht]; exact hmpod, by rw [htick']; exact hround.1, hround.2⟩

end Sys2Proof.Machine
end

section
/-! SUPPORT. Host accesses, flits, planes, the time base and membership (O58). -/

namespace Sys2Proof.Machine

/-- A snoop of a sector that nobody holds goes through, and a host write stands in host memory (R382). -/
theorem hostSnoop_does (s : State) (a : Nat) (k : SnoopKind) (hr : s.hub.ready.getLsbD 8 = true)
    (hfree : sectorHeld s (2 * (a / 64) + 1) = false) : (k = .read → exec (.hostSnoop a k) s = .next s) ∧
      ∀ v, k = .write v → ∃ t, exec (.hostSnoop a k) s = .next t ∧ StoredAt s t (.host (a / 64 * 64) true) (vecBytes v) ∧
        t.slots = s.slots := by
  refine ⟨?_, ?_⟩
  · rintro rfl
    exact hostSnoop_read hr hfree
  · rintro v rfl
    exact ⟨_, hostSnoop_write v hr hfree, storedAt_host _ _ _ rfl rfl, rfl⟩

/-- A host access to an extent of a partition reads or writes device memory (R382). -/
theorem hostDeviceAccess_does (s : State) (a n p : Nat) (u : State) (hr : s.hub.ready.getLsbD 7 = true)
    (hp : partOfPa s a = some p) (hl : s.hub.lostStacks.contains (stackOf a) = false) (hplain : PlainBytes u p a n) :
    (hostReady s p a false n = (u, true) →
      exec (.hostDeviceAccess a (.read n)) s = .next { u with hub := { u.hub with answer := readBytes u.devMem a n } }) ∧
    (∀ bs, bs.length = n → hostReady s p a true n = (u, true) →
      ∃ t, exec (.hostDeviceAccess a (.write bs)) s = .next t ∧ StoredAt s t (.dev a) bs ∧ t.slots = s.slots) := by
  refine ⟨fun hready => ?_, ?_⟩
  · rw [hostDeviceAccess_read hr hp hl hready, hostRead_plain n hplain]
  · rintro bs rfl hready
    obtain ⟨ps, rfl⟩ := hostReady_goes _ hready
    obtain ⟨r, hwrite⟩ := hostWrite_plain bs hplain
    exact ⟨_, (hostDeviceAccess_write hr hp hl hready).trans (congrArg _ hwrite), storedAt_dev a bs rfl rfl, rfl⟩

/-- The time master's flit gives the offset, and a member too far off leaves the pod (R388). -/
theorem flit_time {s : State} {f : Flit} (hg : flitGood f = true) (hc : flitClass f ≤ 5) (hd : flitDst f = myDev s)
    (hnext : flitAhead s f = 1) (hcls : flitClass f = 4) (hm : timeMaster (podMembers s) = some (flitSrc f)) :
    ∃ t, exec (.stenteFlitReceive f) s = .next t ∧ t.hub.offset = (Config.payload f 0 : Int) - s.tick ∧
      (linkOf t (flitSrc f) (flitClass f)).received = flitSeq f ∧ t.hub.delivered = s.hub.delivered ++ [f] ∧
      t.tick = s.tick ∧ t.slots = s.slots ∧ (t.hub.offset.natAbs ≤ 2048 → t.agenda = s.agenda) ∧
      (2048 < t.hub.offset.natAbs → ∃ c, t.agenda = s.agenda ++ [.membershipChange c] ∧
        c.members = (podMembers s).filter (· ≠ myDev s) ∧ (s.part (podPart s)).round < c.round) := by
  have hrun := flit_delivered hg hc hd hnext (deliverFlit_time (s := ackTaken s f) hcls hm)
  refine ⟨_, hrun, ?_⟩
  rcases Nat.lt_or_ge 2048 (timeOffset (ackTaken s f) (Config.payload f 0)).natAbs with hfar | hnear
  · obtain ⟨c, r, d, hsync, hmembers, hround⟩ := timeSync_far hfar
    rw [hsync, linkOf_flitTaken]
    exact ⟨rfl, rfl, rfl, rfl, rfl, fun hle => absurd hle (Nat.not_le.mpr hfar), fun _ => ⟨c, rfl, hmembers, hround⟩⟩
  · rw [timeSync_near hnear, linkOf_flitTaken]
    exact ⟨rfl, rfl, rfl, rfl, rfl, fun _ => rfl, fun hlt => absurd hlt (Nat.not_lt.mpr hnear)⟩

/-- A management flit is Starter's: it is noted and acknowledged, and nothing else follows (R387). -/
theorem flit_management {s : State} {f : Flit} (hg : flitGood f = true) (hc : flitClass f ≤ 5) (hd : flitDst f = myDev s)
    (hnext : flitAhead s f = 1) (hcls : flitClass f = 5) : ∃ t, exec (.stenteFlitReceive f) s = .next t ∧
      linkOf t (flitSrc f) (flitClass f) = { linkOf s (flitSrc f) (flitClass f) with
        received := flitSeq f, unacked := acknowledged (linkOf s (flitSrc f) (flitClass f)).unacked (flitAck f) } ∧
      t.hub.delivered = s.hub.delivered ++ [f] ∧ t.slots = s.slots ∧ t.txs = s.txs ∧ t.devMem = s.devMem ∧
      t.agenda = s.agenda := by
  refine ⟨_, flit_delivered hg hc hd hnext (deliverFlit_management hcls), ?_, rfl, rfl, rfl, rfl, rfl⟩
  rw [linkOf_flitTaken, linkOf_ackTaken]

/-- A plane that goes down has the flits that travelled on it sent again on the next plane up (R387). -/
theorem planeDown_does (s : State) (dev plane : Nat) (h : s.hub.planesDown.contains (dev, plane) = false) :
    ∃ t, exec (.planeDown dev plane) s = .next t ∧ t.hub.planesDown = s.hub.planesDown ++ [(dev, plane)] ∧
      t.hub.links = s.hub.links ∧ t.slots = s.slots ∧ (linkDown t dev = true → t.hub.outFlits = s.hub.outFlits) ∧
      (linkDown t dev = false → t.hub.outFlits = s.hub.outFlits ++ (List.range 16).flatMap fun c =>
        (linkOf s dev c).unacked.filter fun f => planeOf s.hub.planesDown (flitSrc f) (flitDst f) c dev == plane) := by
  let u : State := { s with hub := { s.hub with planesDown := s.hub.planesDown ++ [(dev, plane)] } }
  have hrun : exec (.planeDown dev plane) s =
      .next (if linkDown u dev then u else resendAll u s.hub.planesDown dev plane 16) := by
    rw [exec_planeDown, execPlaneDown]
    simp only [h, Bool.false_eq_true, if_false, u]
  rw [resendAll_eq] at hrun
  cases hdown : linkDown u dev with
  | true =>
    rw [hdown, if_pos rfl] at hrun
    exact ⟨u, hrun, rfl, rfl, rfl, fun _ => rfl, fun hup => absurd (hdown.symm.trans hup) (by decide)⟩
  | false =>
    rw [hdown, if_neg Bool.false_ne_true] at hrun
    exact ⟨_, hrun, rfl, rfl, rfl, fun hup => absurd (hdown.symm.trans hup) (by decide), fun _ => rfl⟩

/-- A plane that is up again carries what could not be sent (R387). -/
theorem stentePlaneUp_does (s : State) (dev plane : Nat) :
    ∃ t, exec (.stentePlaneUp dev plane) s = .next t ∧ t.hub.planesDown = s.hub.planesDown.filter (· ≠ (dev, plane)) ∧
      t.hub.links = s.hub.links ∧ t.slots = s.slots ∧ t.hub.outFlits = s.hub.outFlits ++
        (if linkDown s dev = true ∧ linkDown t dev = false then
          (List.range 16).flatMap fun c => (linkOf s dev c).unacked else []) := by
  let u : State := { s with hub := { s.hub with planesDown := s.hub.planesDown.filter (· ≠ (dev, plane)) } }
  have hrun : exec (.stentePlaneUp dev plane) s = .next (if linkDown s dev && !linkDown u dev then
      { u with hub := { u.hub with outFlits := u.hub.outFlits ++ (List.range 16).flatMap (fun c => (linkOf u dev c).unacked) } }
      else u) := by
    rw [← sendKept_eq, exec_stentePlaneUp]
    rfl
  by_cases hup : linkDown s dev = true ∧ linkDown u dev = false
  · rw [if_pos (by simpa using hup)] at hrun
    exact ⟨_, hrun, rfl, rfl, rfl, congrArg (s.hub.outFlits ++ ·) (if_pos hup).symm⟩
  · rw [if_neg (by simpa using hup)] at hrun
    exact ⟨u, hrun, rfl, rfl, rfl, by rw [if_neg hup, List.append_nil]⟩

/-- A remote access without an answer for 50,000 ticks gets LINK_TIMEOUT in its slot (R338, R387). -/
theorem linkTimeout_remote (s : State) (c i d : Nat) (ea : Word) (r : Reg) (q : LoadKind)
    (h : (s.slot (slotKey c i)).wait = some (.remote d ea r q)) :
    (s.tick < (s.slot (slotKey c i)).waitSince + 50000 →
      ∃ a, exec (.linkTimeout c i) s = .next { s with agenda := a } ∧ .linkTimeout c i ∈ a) ∧
    ((s.slot (slotKey c i)).waitSince + 50000 ≤ s.tick → exec (.linkTimeout c i) s =
      .next (s.setSlot (slotKey c i) { s.slot (slotKey c i) with
        st := .ready, wait := none, causes := (s.slot (slotKey c i)).causes ++ [⟨0xE1, ea, false⟩] })) := by
  rw [exec_linkTimeout, execLinkTimeout]
  simp only [h]
  refine ⟨fun hlt => ?_, fun hle => if_neg (Nat.not_lt.mpr hle)⟩
  obtain ⟨a, ha, hmem⟩ := postOnce_cases s (.linkTimeout c i)
  exact ⟨a, by rw [if_pos hlt, ha], hmem⟩

theorem linkTimeout_gone (s : State) (c i : Nat) (h : ∀ d ea r q, (s.slot (slotKey c i)).wait ≠ some (.remote d ea r q)) :
    exec (.linkTimeout c i) s = .next s := by
  -- `h` rules the first alternative of the match out.
  simp only [exec_linkTimeout, execLinkTimeout]

/-- The time master sends its time base to each other member (R388). -/
theorem timeSyncSend_does (s : State) (h : s.hub.lastSync + 65536 ≤ s.tick) :
    ∃ t, exec .timeSyncSend s = .next t ∧ t.hub.lastSync = s.tick ∧ .timeSyncSend ∈ t.agenda ∧ t.tick = s.tick ∧
      t.slots = s.slots ∧
      (if inPod s (podPart s) = true ∧ timeMaster (podMembers s) = some (myDev s) then (podMembers s).Nodup →
          ∀ d ∈ podMembers s, d ≠ myDev s → (linkOf t d 4).sent = ((linkOf s d 4).sent + 1) % 65536
        else t.hub.links = s.hub.links ∧ t.hub.outFlits = s.hub.outFlits) := by
  have hrun := timeSyncSend_due h
  by_cases hm : inPod s (podPart s) = true ∧ timeMaster (podMembers s) = some (myDev s)
  · rw [if_pos (by simpa using hm)] at hrun
    have hsent (hn : (podMembers s).Nodup) :=
      sendAll_sent (ms := (podMembers s).filter (· ≠ myDev s)) 4 (hn.filter _) (syncNoted s)
    obtain ⟨d, l, o, ht⟩ := sendAll_only 4 ((podMembers s).filter (· ≠ myDev s)) (syncNoted s)
    rw [ht] at hrun hsent
    refine ⟨_, hrun, rfl, mem_post s _, rfl, rfl, ?_⟩
    rw [if_pos hm]
    exact fun hn d hd hne => hsent hn d (List.mem_filter.mpr ⟨hd, by simpa using hne⟩)
  · rw [if_neg (by simpa using hm)] at hrun
    exact ⟨_, hrun, rfl, mem_post s _, rfl, rfl, by rw [if_neg hm]; exact ⟨rfl, rfl⟩⟩

/-! ## A membership change (R385, R388) -/

/-- The round by which a change is judged: the partition's in a pod, that of the tick outside. -/
def roundNow (s : State) : Nat := if inPod s (podPart s) then (s.part (podPart s)).round else s.tick / 2048

/-- The change noted in the partition, and looked at again later. -/
def changeWaiting (s : State) (c : Membership) : State :=
  (s.setPart (podPart s) { s.part (podPart s) with newMembers := some c }).post (.membershipChange c)

/-- A change that waits is on the agenda and noted, with the members, the slots and MEMBER as they were. -/
def ChangeWaits (s t : State) (c : Membership) : Prop :=
  .membershipChange c ∈ t.agenda ∧ (t.part (podPart s)).members = (s.part (podPart s)).members ∧
    (t.part (podPart s)).newMembers = some c ∧ t.slots = s.slots ∧ t.hub.mpod = s.hub.mpod

theorem changeWaits (s : State) (c : Membership) : ChangeWaits s (changeWaiting s c) c := by
  have hpart : (changeWaiting s c).part (podPart s) = { s.part (podPart s) with newMembers := some c } := part_setPart_same ..
  exact ⟨mem_post .., by rw [hpart], by rw [hpart], rfl, rfl⟩

theorem membershipChange_early {s : State} {c : Membership} (h : roundNow s < c.round) :
    exec (.membershipChange c) s = .next (changeWaiting s c) := by
  rw [exec_membershipChange]
  exact if_pos h

/-- At its round a change that does not let the device join takes effect. -/
theorem membershipChange_applied {s : State} {c : Membership} (h : c.round ≤ roundNow s)
    (hj : (c.members.contains (myDev s) && !inPod s (podPart s)) = false) :
    exec (.membershipChange c) s = .next (if inPod s (podPart s) && !c.members.contains (myDev s) then
      { changeMembers s (podPart s) c with hub := { (changeMembers s (podPart s) c).hub with
          mpod := (changeMembers s (podPart s) c).hub.mpod &&& ~~~0x8000#64, offset := 0 } }
      else changeMembers s (podPart s) c) := by
  rw [exec_membershipChange]
  exact (if_neg (Nat.not_lt.mpr h)).trans (if_neg (by rw [hj]; exact Bool.false_ne_true))

section
variable {s : State} {c : Membership} (h : c.round ≤ roundNow s) (hin : inPod s (podPart s) = false)
  (hmine : c.members.contains (myDev s) = true)
include h hin hmine

/-- At its round a change that lets the device join brings its time base in step first. -/
theorem membershipChange_joining : exec (.membershipChange c) s =
    if s.hub.hold ≠ 0 then .next (changeWaiting s c)
    else if s.hub.offset < 0 then
      .next { changeWaiting s c with hub := { s.hub with hold := s.hub.offset.natAbs, offset := 0 } }
    else .next (joinPod s (podPart s) c) := by
  rw [exec_membershipChange]
  exact (if_neg (Nat.not_lt.mpr h)).trans (if_pos (by rw [hin, hmine]; rfl))

theorem membershipChange_joins (p : Nat) (hp : p = podPart s) :
    (s.hub.hold ≠ 0 → ∃ t, exec (.membershipChange c) s = .next t ∧ ChangeWaits s t c) ∧
    (s.hub.hold = 0 → s.hub.offset < 0 → ∃ t, exec (.membershipChange c) s = .next t ∧ ChangeWaits s t c ∧
      t.hub.hold = s.hub.offset.natAbs ∧ t.hub.offset = 0) ∧
    (s.hub.hold = 0 → 0 ≤ s.hub.offset → ∃ t, exec (.membershipChange c) s = .next t ∧ MembersChanged s t p c ∧
      t.tick = s.tick + s.hub.offset.toNat ∧ t.hub.offset = 0 ∧ t.hub.mpod = s.hub.mpod ||| 0x8000 ∧
      (t.part p).round = t.tick / 2048 ∧ (t.part p).pos = 0) := by
  subst hp
  rw [membershipChange_joining h hin hmine]
  refine ⟨fun hhold => ⟨_, if_pos hhold, changeWaits s c⟩, fun hhold hoff =>
      ⟨_, (if_neg (not_not.mpr hhold)).trans (if_pos hoff), changeWaits s c, rfl, rfl⟩,
    fun hhold hoff => ⟨_, (if_neg (not_not.mpr hhold)).trans (if_neg (Int.not_lt.mpr hoff)), joinPod_joined s (podPart s) c⟩⟩

end

/-- A change takes effect in a pod: MEMBER is cleared on a device that is no longer listed (R388). -/
theorem membershipChange_inside {s : State} {c : Membership} (h : c.round ≤ roundNow s) (hin : inPod s (podPart s) = true) :
    ∃ t, exec (.membershipChange c) s = .next t ∧ MembersChanged s t (podPart s) c ∧ t.tick = s.tick ∧
      t.hub.mpod = (if c.members.contains (myDev s) then s.hub.mpod else s.hub.mpod &&& ~~~0x8000#64) := by
  have hrun := membershipChange_applied (s := s) (c := c) h (by rw [hin]; simp)
  obtain ⟨-, htick, hmpod, -⟩ := changeMembers_frame s (podPart s) c
  rw [hin, Bool.true_and] at hrun
  cases hmine : c.members.contains (myDev s) with
  | true =>
    rw [hmine, Bool.not_true, if_neg Bool.false_ne_true] at hrun
    exact ⟨_, hrun, changeMembers_changed s _ c, htick, hmpod⟩
  | false =>
    rw [hmine, Bool.not_false, if_pos rfl] at hrun
    exact ⟨_, hrun, changeMembers_changed s _ c, htick, congrArg (· &&& ~~~0x8000#64) hmpod⟩

theorem membershipChange_outside {s : State} {c : Membership} (h : c.round ≤ roundNow s)
    (hin : inPod s (podPart s) = false) (hmine : c.members.contains (myDev s) = false) :
    ∃ t, exec (.membershipChange c) s = .next t ∧ MembersChanged s t (podPart s) c ∧ t.hub.mpod = s.hub.mpod := by
  have hrun := membershipChange_applied (s := s) (c := c) h (by rw [hmine, Bool.false_and])
  rw [hin, Bool.false_and, if_neg Bool.false_ne_true] at hrun
  exact ⟨_, hrun, changeMembers_changed s _ c, (changeMembers_frame s _ c).2.2.1⟩

/-- Settles O58: each clause is the equation of one event of the links. -/
theorem linksAndTheHost : Obligations.LinksAndTheHost := by
  unfold Obligations.LinksAndTheHost
  intro later plain
  refine ⟨fun s a k hr => ⟨hostSnoop_held k hr, hostSnoop_does s a k hr⟩, hostDeviceAccess_does, ?_,
    fun s a d hr h => hostDeviceAccess_nowhere d hr h, fun s f h => flit_refused h, ?_,
    fun downs src dst cls peer => ⟨planeOf_hashed, planeOf_up⟩, ?_, ?_, ?_, ?_⟩
  · intro s u a p va b hr hp hl hready hva hblock
    rw [hostDeviceAccess_write (bs := [b]) hr hp hl hready, hostWrite_onBlock b hva hblock]
  · intro s f hg hc hd dev cls l ahead taken
    exact ⟨flit_duplicate hg hc hd, flit_early hg hc hd, flit_time hg hc hd, flit_management hg hc hd⟩
  · intro s dev plane downs
    refine ⟨fun h => ?_, planeDown_does s dev plane, stentePlaneUp_does s dev plane⟩
    rw [exec_planeDown]
    exact if_pos h
  · intro s c i k sl
    exact ⟨linkTimeout_remote s c i, linkTimeout_gone s c i⟩
  · intro s
    refine ⟨fun hlt => ?_, timeSyncSend_does s⟩
    show exec .timeSyncSend s = .next (s.post .timeSyncSend)
    rw [exec_timeSyncSend]
    exact if_pos hlt
  · intro s ch p inside mine now closed waits
    exact ⟨fun h => ⟨_, membershipChange_early h, changeWaits s ch, rfl⟩, membershipChange_inside,
      fun h hin hmine => membershipChange_joins h hin hmine p rfl, membershipChange_outside⟩

end Sys2Proof.Machine
end

section
/-! SUPPORT. Starter's state operations: the mailbox, islands and their points, the cores that change their partition, and
what a reset or a function level reset leaves. -/

namespace Sys2Proof.Machine

/-! ## The mailbox (R407, R409) -/

theorem mailbox_starting {s : State} (cmd : Instr) (act : State → State) (h : s.hub.activating ≠ none) :
    mailbox s cmd act = .next { s with hub := { s.hub with waitingCmds := s.hub.waitingCmds ++ [cmd] } } :=
  if_pos (Option.isSome_iff_ne_none.mpr h)

theorem mailbox_closed {s : State} (cmd : Instr) (act : State → State) (ha : s.hub.activating = none)
    (hr : s.hub.ready.getLsbD 0 = false) :
    mailbox s cmd act = .next (if stepEnded s 32 then { s with hub := { s.hub with status := .refused } } else s.post cmd) :=
  (if_neg (by rw [ha]; decide)).trans (if_neg (by rw [hr]; decide))

/-- The mailbox is open: Starter runs and has set READY.MGMT. -/
def MailOpen (s : State) : Prop := s.hub.activating = none ∧ s.hub.ready.getLsbD 0 = true

theorem mailbox_open {s : State} (h : MailOpen s) (cmd : Instr) (act : State → State) : mailbox s cmd act = .next (act s) := by
  obtain ⟨ha, hr⟩ := h
  simp only [mailbox, ha, hr, Option.isSome_none, Bool.false_eq_true, if_false, if_true]

/-- The commands of the mailbox. -/
def IsMail (e : Instr) : Prop := (∃ k r, e = .partSet k r) ∨ (∃ k, e = .partClear k) ∨ (∃ i f, e = .ivfSet i f) ∨ (∃ w, e = .capSet w) ∨
  (∃ i, e = .fwStage i) ∨ e = .fwActivate ∨ e = .fwCommit ∨ (∃ n, e = .attest n) ∨ e = .journalClear ∨ ∃ u, e = .retire u

/-- Every command goes through the mailbox. -/
theorem exec_mail {e : Instr} (h : IsMail e) : ∃ act, ∀ s, exec e s = mailbox s e act := by
  rcases h with ⟨k, r, rfl⟩ | ⟨k, rfl⟩ | ⟨i, f, rfl⟩ | ⟨w, rfl⟩ | ⟨i, rfl⟩ | rfl | rfl | ⟨n, rfl⟩ | rfl | ⟨u, rfl⟩ <;>
    exact ⟨_, fun _ => rfl⟩

/-! ## Partitions (R400) -/

theorem partRefused_iff (s : State) (k : Nat) (r : PartRecord) : partRefused s k r = true ↔ 8 ≤ k ∨ recordReserved r = true ∨
    (partValid r = true ∧ (recordIslands r = 0 ∨ recordExtents r = 0)) ∨
    (∃ q < 8, q ≠ k ∧ (recordIslands r &&& recordIslands (s.part q).record ≠ 0 ∨
      recordExtents r &&& recordExtents (s.part q).record ≠ 0)) ∨
    ∃ e < 288, holdsExtent r e = true ∧ isReserved s e = true := by
  simp only [partRefused, Bool.or_eq_true, Bool.and_eq_true, decide_eq_true_eq, List.any_eq_true, List.mem_range,
    beq_iff_eq, bne_iff_ne, or_assoc]

theorem mem_coresIn {m : BitVec 32} {c : Nat} : c ∈ coresIn m ↔ c < 512 ∧ m.getLsbD (islandOf c) = true := by
  simp [coresIn]

/-- A core does not join and leave a partition at once. -/
theorem coresIn_disjoint {a b : BitVec 32} {c : Nat} (h : c ∈ coresIn (a &&& ~~~b)) : c ∉ coresIn (b &&& ~~~a) := by
  simp only [mem_coresIn, BitVec.getLsbD_and, Bool.and_eq_true] at h ⊢
  obtain ⟨hc, ha, -⟩ := h
  rintro ⟨-, -, hb⟩
  simp [ha] at hb

/-- Two states that differ in the cores, device memory and the copies of its lines at most. -/
def OnlyCores (s t : State) : Prop := ∃ cs m r, t = { s with cores := cs, devMem := m, rdc := r }

theorem onlyCores_refl (s : State) : OnlyCores s s := ⟨s.cores, s.devMem, s.rdc, rfl⟩

theorem onlyCores_trans {s t u : State} (h : OnlyCores s t) (g : OnlyCores t u) : OnlyCores s u := by
  obtain ⟨cs, m, r, rfl⟩ := h
  obtain ⟨cs', m', r', rfl⟩ := g
  exact ⟨cs', m', r', rfl⟩

theorem onlyCores_setCore (s : State) (c : Nat) (v : Core) : OnlyCores s (s.setCore c v) := ⟨_, _, _, rfl⟩

theorem flushLines_onlyCores (s : State) (c : Nat) (sel : Nat → Bool) : OnlyCores s (flushLines s c sel) := by
  rcases flushLines_cases s c sel with h | ⟨m, r, h⟩
  · rw [h]
    exact onlyCores_refl s
  · exact ⟨_, m, r, h⟩

theorem l1_flushLines (s : State) (c : Nat) (sel : Nat → Bool) :
    (flushLines s c sel).core c = { s.core c with l1 := (s.core c).l1.filter fun e => !sel e.1 } := by
  cases hl : (s.core c).l1.filter fun e => sel e.1 with
  | nil =>
    have hkept : (s.core c).l1.filter (fun e => !sel e.1) = (s.core c).l1 := by
      rw [List.filter_eq_self]
      simpa [List.filter_eq_nil_iff] using hl
    simp only [flushLines, hl, hkept]
  | cons e es =>
    obtain ⟨m, r, hw⟩ := writeBackAll_only (e :: es) (s.setCore c { s.core c with l1 := (s.core c).l1.filter fun e => !sel e.1 })
    simp only [flushLines, hl]
    rw [hw]
    exact core_setCore_same ..

/-- A core emptied of its first-level lines. -/
theorem core_flushAll (s : State) (c : Nat) : (flushLines s c fun _ => true).core c = { s.core c with l1 := [] } := by
  rw [l1_flushLines]
  simp

/-- One core that changes its partition. -/
def movedCore (s : State) (v : Word) (c : Nat) : State :=
  (flushLines s c fun _ => true).setCore c
    { (flushLines s c fun _ => true).core c with mpart := v, rq := Vector.replicate 4 [] }

theorem setMparts_cons (s : State) (v : Word) (c : Nat) (cs : List Nat) :
    setMparts s v (c :: cs) = setMparts (movedCore s v c) v cs := rfl

theorem movedCore_same (s : State) (v : Word) (c : Nat) :
    (movedCore s v c).core c = { s.core c with mpart := v, rq := Vector.replicate 4 [], l1 := [] } := by
  rw [movedCore, core_setCore_same, core_flushAll]

theorem movedCore_ne (s : State) (v : Word) {c d : Nat} (h : d ≠ c) : (movedCore s v c).core d = s.core d := by
  rw [movedCore, core_setCore_ne _ _ h, flushLines_core_ne s _ h]

theorem setMparts_onlyCores (v : Word) (cs : List Nat) (s : State) : OnlyCores s (setMparts s v cs) := by
  induction cs generalizing s with
  | nil => exact onlyCores_refl s
  | cons c cs ih =>
    exact onlyCores_trans (onlyCores_trans (flushLines_onlyCores ..) (onlyCores_setCore ..)) (ih _)

/-- Each core of the list has its partition and nothing in its ready queue and its first-level cache; the others are as
before. -/
theorem setMparts_core (v : Word) (cs : List Nat) (s : State) (d : Nat) : (setMparts s v cs).core d =
    if d ∈ cs then { s.core d with mpart := v, rq := Vector.replicate 4 [], l1 := [] } else s.core d := by
  induction cs generalizing s with
  | nil => rfl
  | cons c cs ih =>
    rw [setMparts_cons, ih]
    by_cases hd : d = c
    · subst hd
      simp [movedCore_same]
    · simp [movedCore_ne _ _ hd, hd]

/-- No core has a first-level line to write back. -/
def NoLines (s : State) : Prop := ∀ c, (s.core c).l1 = []

theorem noLines_setCore {s : State} (h : NoLines s) {c : Nat} {v : Core} (hv : v.l1 = []) : NoLines (s.setCore c v) := by
  intro d
  by_cases hd : d = c
  · subst hd
    rw [core_setCore_same, hv]
  · rw [core_setCore_ne s v hd, h d]

theorem setMparts_devMem (v : Word) (cs : List Nat) {s : State} (h : NoLines s) :
    (setMparts s v cs).devMem = s.devMem ∧ NoLines (setMparts s v cs) := by
  induction cs generalizing s with
  | nil => exact ⟨rfl, h⟩
  | cons c cs ih =>
    have hmoved : movedCore s v c = s.setCore c { s.core c with mpart := v, rq := Vector.replicate 4 [] } := by
      rw [movedCore, flushLines_empty _ (h c)]
    rw [setMparts_cons, hmoved]
    exact ih (noLines_setCore h (h c))

/-- A partition record written: the cores that join have the partition's number, those that leave some number, and nothing
else of the state but the partition and what their caches held changes. -/
theorem writeRecord_writes (s : State) (k : Nat) (r : PartRecord) : let old := (s.part k).record
    let t := writeRecord s k r
    let joins := coresIn (recordIslands r &&& ~~~recordIslands old)
    let leaves := coresIn (recordIslands old &&& ~~~recordIslands r)
    t.hub = s.hub ∧ t.slots = s.slots ∧ t.tick = s.tick ∧ (NoLines s → t.devMem = s.devMem) ∧
    (∀ q, q ≠ k → t.part q = s.part q) ∧
    t.part k = { (if partValid old && partValid r then s.part k else Part.reset k) with record := r } ∧
    ∀ c, t.core c = if c ∈ joins then { s.core c with mpart := BitVec.ofNat 64 k, rq := Vector.replicate 4 [], l1 := [] }
      else if c ∈ leaves then { s.core c with mpart := (t.core c).mpart, rq := Vector.replicate 4 [], l1 := [] }
      else s.core c := by
  intro old t joins leaves
  let u := (s.setPart k { (if partValid old && partValid r then s.part k else Part.reset k) with record := r }).draw
  let v := setMparts u (Config.freeWord s.draws &&& 7) leaves
  obtain ⟨cs, m, w, hv⟩ : OnlyCores u v := setMparts_onlyCores ..
  obtain ⟨cs', m', w', ht⟩ : OnlyCores v t := setMparts_onlyCores ..
  have hcore (c : Nat) : t.core c = _ := setMparts_core (BitVec.ofNat 64 k) joins v c
  have hcore' (c : Nat) : v.core c = _ := setMparts_core (Config.freeWord s.draws &&& 7) leaves u c
  have hparts (q : Nat) : t.part q = u.part q := by rw [ht, hv]; rfl
  refine ⟨by rw [ht, hv]; rfl, by rw [ht, hv]; rfl, by rw [ht, hv]; rfl, fun hl => ?_, fun q hq => ?_, ?_, fun c => ?_⟩
  · obtain ⟨hd, hlv⟩ := setMparts_devMem (Config.freeWord s.draws &&& 7) leaves (s := u) hl
    exact (setMparts_devMem (BitVec.ofNat 64 k) joins hlv).1.trans hd
  · rw [hparts]
    exact part_setPart_ne s _ hq
  · rw [hparts]
    exact part_setPart_same ..
  · have hc := hcore c
    by_cases hj : c ∈ joins
    · have hnot : c ∉ leaves := coresIn_disjoint hj
      rw [if_pos hj] at hc ⊢
      rw [hc, hcore', if_neg hnot]
      rfl
    · rw [if_neg hj] at hc ⊢
      by_cases hv : c ∈ leaves
      · rw [if_pos hv, hc, hcore', if_pos hv]
        rfl
      · rw [if_neg hv, hc, hcore', if_neg hv]
        rfl

/-! ## Islands, power and heat (R402, R403) -/

/-- Two states that differ in the islands and the free values drawn at most. -/
def OnlyIslands (s t : State) : Prop := ∃ d i, t = { s with draws := d, hub := { s.hub with islands := i } }

theorem onlyIslands_refl (s : State) : OnlyIslands s s := ⟨s.draws, s.hub.islands, rfl⟩

theorem onlyIslands_trans {s t u : State} (h : OnlyIslands s t) (g : OnlyIslands t u) : OnlyIslands s u := by
  obtain ⟨d, i, rfl⟩ := h
  obtain ⟨d', i', rfl⟩ := g
  exact ⟨d', i', rfl⟩

theorem onlyIslands_setIsland (s : State) (i : Nat) (v : Island) : OnlyIslands s (setIsland s i v) := ⟨_, _, rfl⟩

theorem retune_onlyIslands (s : State) (i : Nat) : OnlyIslands s (retune s i) := by
  unfold retune
  simp only
  split
  · exact ⟨_, _, rfl⟩
  · exact ⟨_, _, rfl⟩

/-- Island `i` of `t` is `v` run at frequency `f`: the voltage follows, and the clock goes on, or stands for at most 5 µs while
it changes (R402). -/
def Retuned (s t : State) (i : Nat) (v : Island) (f : Nat) : Prop := let u := islandAt t i
  u = { v with freq := f, mv := minVoltage f, since := u.since, base := u.base } ∧
    (v.freq = f → u.since = v.since ∧ u.base = v.base) ∧
    (v.freq ≠ f → u.base = v.phase s.ns ∧ s.ns ≤ u.since ∧ u.since ≤ s.ns + 5000)

theorem retune_retuned (s : State) (i : Nat) : Retuned s (retune s i) i (islandAt s i) (islandPoint s i) := by
  unfold Retuned retune
  simp only
  by_cases hf : (islandAt s i).freq = islandPoint s i
  · rw [if_pos hf, islandAt_setIsland_same]
    exact ⟨by rw [← hf], fun _ => ⟨rfl, rfl⟩, fun hne => absurd hf hne⟩
  · rw [if_neg hf, islandAt_setIsland_same]
    refine ⟨rfl, fun he => absurd he hf, fun _ => ⟨rfl, Nat.le_add_right .., ?_⟩⟩
    show s.ns + (Config.freeWord s.draws).toNat % 5001 ≤ s.ns + 5000
    omega

theorem retune_other (s : State) {i j : Nat} (h : j ≠ i) : islandAt (retune s i) j = islandAt s j := by
  unfold retune
  simp only
  split <;> exact islandAt_setIsland_ne _ _ h

/-- The point of an island with this request and thermal drop under the steps of the cap (R403). -/
def pointOf (lowered : List (List Nat)) (i : Nat) (v : Island) : Nat :=
  if v.tripped then 50 else max 50 (v.asked - 5 * (lowered.filter fun g => g.contains i).length)

theorem islandPoint_eq (s : State) (i : Nat) : islandPoint s i = pointOf s.hub.lowered i (islandAt s i) := rfl

/-- Running at another frequency does not move the point. -/
theorem Retuned.point {s t u : State} {i f : Nat} {v : Island} (h : Retuned u t i v f) (hl : t.hub.lowered = s.hub.lowered) :
    islandPoint t i = pointOf s.hub.lowered i v := by
  obtain ⟨hu, -, -⟩ := h
  rw [islandPoint_eq, hl, hu]
  rfl

/-- An island retuned twice to one point is as after the first time. -/
theorem retuned_again {s u t : State} {i f : Nat} {v : Island} (h : Retuned s u i v f) (g : Retuned u t i (islandAt u i) f) :
    Retuned s t i v f := by
  obtain ⟨hu, hsame, hnew⟩ := h
  obtain ⟨ht, hkept, -⟩ := g
  have hfreq : (islandAt u i).freq = f := by rw [hu]
  obtain ⟨hs, hb⟩ := hkept hfreq
  refine ⟨?_, ?_, ?_⟩
  · rw [ht, hu]
  · rw [hs, hb]
    exact hsame
  · rw [hs, hb]
    exact hnew

theorem retuneAll_onlyIslands (is : List Nat) (s : State) : OnlyIslands s (retuneAll s is) := by
  induction is generalizing s with
  | nil => exact onlyIslands_refl s
  | cons i is ih => exact onlyIslands_trans (retune_onlyIslands s i) (ih _)

theorem retuneAll_other (is : List Nat) (s : State) {j : Nat} (h : j ∉ is) : islandAt (retuneAll s is) j = islandAt s j := by
  induction is generalizing s with
  | nil => rfl
  | cons i is ih =>
    obtain ⟨hi, his⟩ := List.ne_and_not_mem_of_not_mem_cons h
    rw [retuneAll, ih _ his, retune_other s hi]

theorem onlyIslands_lowered {s t : State} (h : OnlyIslands s t) : t.hub.lowered = s.hub.lowered ∧ t.ns = s.ns := by
  obtain ⟨d, i, rfl⟩ := h
  exact ⟨rfl, rfl⟩

/-- Each island of the list runs at its point. -/
theorem retuneAll_retuned (is : List Nat) (s : State) {j : Nat} (h : j ∈ is) :
    Retuned s (retuneAll s is) j (islandAt s j) (islandPoint s j) := by
  induction is generalizing s with
  | nil => cases h
  | cons i is ih =>
    obtain ⟨hlow, hns⟩ := onlyIslands_lowered (retune_onlyIslands s i)
    rw [retuneAll]
    by_cases hj : j = i
    · subst hj
      have hfirst := retune_retuned s j
      by_cases hmem : j ∈ is
      · have hnext := ih (retune s j) hmem
        rw [hfirst.point hlow, ← islandPoint_eq] at hnext
        exact retuned_again hfirst hnext
      · unfold Retuned
        rw [retuneAll_other is _ hmem]
        exact hfirst
    · have hnext := ih (retune s i) ((List.mem_cons.mp h).resolve_left hj)
      rw [islandPoint_eq, retune_other s hj, hlow, ← islandPoint_eq] at hnext
      unfold Retuned at hnext ⊢
      rw [hns] at hnext
      exact hnext

theorem foldl_max_le {l : List Nat} {a b : Nat} : l.foldl Nat.max a ≤ b ↔ a ≤ b ∧ ∀ x ∈ l, x ≤ b := by
  induction l generalizing a with
  | nil => simp
  | cons x l ih =>
    rw [List.foldl_cons, ih]
    show max a x ≤ b ∧ _ ↔ _
    simp [and_assoc]

/-- With an island above 0.50 GHz, the fastest islands are those that no island is faster than. -/
theorem mem_fastest {s : State} (h : ∃ i < 32, 50 < (islandAt s i).freq) (i : Nat) :
    i ∈ fastest s ↔ i < 32 ∧ ∀ j < 32, (islandAt s j).freq ≤ (islandAt s i).freq := by
  have hle (b : Nat) : ((List.range 32).map fun i => (islandAt s i).freq).foldl Nat.max 0 ≤ b ↔
      ∀ j < 32, (islandAt s j).freq ≤ b := by
    simp [foldl_max_le]
  unfold fastest
  simp only [List.mem_filter, List.mem_range, Bool.and_eq_true, beq_iff_eq, decide_eq_true_eq]
  generalize ((List.range 32).map fun i => (islandAt s i).freq).foldl Nat.max 0 = top at hle ⊢
  have htop := (hle top).mp le_rfl
  obtain ⟨k, hk, hfast⟩ := h
  have hkt := htop k hk
  constructor
  · rintro ⟨hi, he, -⟩
    exact ⟨hi, fun j hj => he ▸ htop j hj⟩
  · rintro ⟨hi, hmax⟩
    exact ⟨hi, le_antisymm (htop i hi) ((hle _).mpr hmax), by omega⟩

/-- With every island at 0.50 GHz or below there is none to take down. -/
theorem fastest_none {s : State} (h : ¬ ∃ i < 32, 50 < (islandAt s i).freq) : fastest s = [] := by
  rw [fastest, List.filter_eq_nil_iff]
  intro i hi
  simp only [Bool.and_eq_true, beq_iff_eq, decide_eq_true_eq, not_and]
  exact fun he htop => h ⟨i, List.mem_range.mp hi, he ▸ htop⟩

/-- The minimum voltage does not fall as the frequency rises within the range of R402. -/
theorem minVoltage_mono : ∀ f g, 50 ≤ f → f ≤ g → g ≤ 160 → minVoltage f ≤ minVoltage g := by
  have hstep : ∀ f < 160, 50 ≤ f → minVoltage f ≤ minVoltage (f + 1) := by decide +kernel
  intro f g hf hfg hg
  induction g, hfg using Nat.le_induction with
  | base => exact le_rfl
  | succ g hfg ih => exact (ih (by omega)).trans (hstep g (by omega) (by omega))

theorem between_grid (f f0 v0 f1 v1 : Nat) (h : v0 % 5 = 0) : between f f0 v0 f1 v1 % 5 = 0 := by
  unfold between
  simp only
  omega

/-- The voltage is a multiple of 5 mV (R402). -/
theorem minVoltage_grid (f : Nat) : minVoltage f % 5 = 0 := by
  unfold minVoltage
  repeat' split
  all_goals exact between_grid _ _ _ _ _ (by decide)

end Sys2Proof.Machine
end

section
/-! SUPPORT. What the resets leave (R11, R380), and the checks of power and heat (R403). -/

namespace Sys2Proof.Machine

/-! ## The device starts again (R11, R410) -/

theorem loseExtents_onlyParts (j n : Nat) (s : State) : OnlyParts s (loseExtents s j n) := by
  induction n generalizing s with
  | zero => exact onlyParts_refl s
  | succ n ih => exact onlyParts_trans (onlyParts_setPart ..) (ih _)

theorem loseAll_onlyParts (js : List Nat) (s : State) : OnlyParts s (loseAll s js) := by
  induction js generalizing s with
  | nil => exact onlyParts_refl s
  | cons j js ih =>
    unfold loseAll
    exact onlyParts_trans (loseExtents_onlyParts j 8 s) (ih _)

/-- The device that starts again, before the extents of lost stacks leave partition 0. -/
def restarted (s : State) (mem : List Host.Cell) : State :=
  { State.reset with
    tick := s.tick, draws := s.draws, nextId := s.nextId, turn := s.turn, hostMem := s.hostMem, devMem := mem
    cores := (s.cores.filter fun e => e.2.physOver.isSome || e.2.absent).map (keptCore s.hub)
    hub := keptHub s.hub }

theorem startAgain_restarts (s : State) (mem : List Host.Cell) :
    ∃ ps, startAgain s mem = { restarted s mem with parts := ps } ∧ (s.hub.lostStacks = [] → ps = []) := by
  obtain ⟨ps, h⟩ := loseAll_onlyParts (keptHub s.hub).lostStacks (restarted s mem)
  refine ⟨ps, h, fun hnone => ?_⟩
  have hkept : (keptHub s.hub).lostStacks = [] := by simp [keptHub, hnone]
  rw [hkept] at h
  exact (congrArg State.parts h).symm

/-- Power-on and fundamental reset set everything but what survives to its initial value. -/
theorem reset_does (s : State) (e : Instr) (h : e = .powerOnReset ∨ e = .fundamentalReset) :
    ∃ t, exec e s = .next t ∧ t.tick = 0 ∧ t.agenda = [.bringup] ∧ t.slots = [] ∧
    t.txs = [] ∧ t.copies = [] ∧ t.fabric = [] ∧ t.saved = [] ∧ t.hostMem = s.hostMem ∧ (e = .powerOnReset → t.devMem = []) ∧
    (e = .fundamentalReset → t.devMem = s.devMem) ∧ t.hub.ready = 0 ∧ t.hub.mpod = 0 ∧ t.hub.cap = 1400 ∧ t.hub.islands = [] ∧
    t.hub.step = some (0, true, 0) ∧ t.hub.journal = s.hub.journal ∧ t.hub.svn = s.hub.svn ∧ t.hub.activeB = s.hub.activeB ∧
    (s.hub.lostStacks = [] → t.parts = []) ∧ ((∀ c ∈ s.cores, c.2.physOver = none ∧ c.2.absent = false) → t.cores = []) := by
  have hcores (hwhole : ∀ c ∈ s.cores, c.2.physOver = none ∧ c.2.absent = false) :
      (s.cores.filter fun e => e.2.physOver.isSome || e.2.absent).map (keptCore s.hub) = [] := by
    rw [List.map_eq_nil_iff, List.filter_eq_nil_iff]
    intro c hc
    obtain ⟨hover, habsent⟩ := hwhole c hc
    simp [hover, habsent]
  rcases h with rfl | rfl
  · obtain ⟨ps, ht, hps⟩ := startAgain_restarts { s with tick := 0 } []
    exact ⟨_, congrArg Host.Outcome.next ht, rfl, rfl, rfl, rfl, rfl, rfl, rfl, rfl, fun _ => rfl, by simp, rfl, rfl, rfl, rfl,
      rfl, rfl, rfl, rfl, hps, hcores⟩
  · obtain ⟨ps, ht, hps⟩ := startAgain_restarts { s with tick := 0 } s.devMem
    exact ⟨_, congrArg Host.Outcome.next ht, rfl, rfl, rfl, rfl, rfl, rfl, rfl, rfl, by simp, fun _ => rfl, rfl, rfl, rfl, rfl,
      rfl, rfl, rfl, rfl, hps, hcores⟩

/-! ## `SPASID` written (R378, R380) -/

/-- A property of the values that a change of every value keeps is the same at each key. -/
theorem look_map_of_keeps {α β : Type} (φ : α → β) {g : Nat × α → Nat × α} (hkey : ∀ e, (g e).1 = e.1)
    (hval : ∀ e, φ (g e).2 = φ e.2) (m : SMap α) (d : α) (k : Nat) : φ (look (m.map g) d k) = φ (look m d k) := by
  induction m with
  | nil => rfl
  | cons e m ih =>
    obtain ⟨j, v⟩ := e
    have hk := hkey (j, v)
    have hv := hval (j, v)
    rw [List.map_cons]
    generalize g (j, v) = x at hk hv ⊢
    obtain ⟨i, w⟩ := x
    cases hk
    simp only [look]
    split
    · exact hv
    · exact ih

/-- What reports of final faults to those who wait for a page in partition `p` leave alone: every other partition, and of `p`
all but its queues; first-level caches, memories, time and the hub. -/
def Reported (s t : State) (p : Nat) : Prop :=
  (∃ sl cs ag cp ps, t = { s with slots := sl, cores := cs, agenda := ag, copies := cp, parts := ps }) ∧
    (∀ c, (t.core c).l1 = (s.core c).l1) ∧ (∀ q, q ≠ p → t.part q = s.part q) ∧ ∃ qs, t.part p = { s.part p with queues := qs }

theorem reported_of_parts {s t : State} (p : Nat)
    (h : ∃ sl cs ag cp, t = { s with slots := sl, cores := cs, agenda := ag, copies := cp })
    (hl : ∀ c, (t.core c).l1 = (s.core c).l1) : Reported s t p := by
  obtain ⟨sl, cs, ag, cp, rfl⟩ := h
  exact ⟨⟨_, _, _, _, _, rfl⟩, hl, fun _ _ => rfl, _, rfl⟩

/-- Slots, agenda and copies may change freely. -/
theorem reported_of_eq (s : State) (p : Nat) (sl : SMap Slot) (ag : List Instr) (cp : List CopyJob) :
    Reported s { s with slots := sl, agenda := ag, copies := cp } p :=
  reported_of_parts p ⟨sl, s.cores, ag, cp, rfl⟩ fun _ => rfl

theorem reported_refl (s : State) (p : Nat) : Reported s s p := reported_of_eq s p s.slots s.agenda s.copies

theorem reported_trans {s t u : State} {p : Nat} (h : Reported s t p) (g : Reported t u p) : Reported s u p := by
  obtain ⟨⟨sl, cs, ag, cp, ps, rfl⟩, hl, hq, qs, hp⟩ := h
  obtain ⟨⟨sl', cs', ag', cp', ps', rfl⟩, hl', hq', qs', hp'⟩ := g
  exact ⟨⟨_, _, _, _, _, rfl⟩, fun c => (hl' c).trans (hl c), fun q hne => (hq' q hne).trans (hq q hne), qs', by rw [hp', hp]⟩

theorem reported_post (s : State) (p : Nat) (e : Instr) : Reported s (s.post e) p := reported_of_eq ..

theorem reported_markParked (p page status : Nat) (cs : List Nat) (s : State) :
    Reported s (markParked s page status cs) p := by
  induction cs generalizing s with
  | nil => exact reported_refl s p
  | cons c cs ih =>
    refine reported_trans ?_ (ih _)
    split
    · refine reported_of_parts p ⟨_, _, _, _, rfl⟩ fun d => ?_
      by_cases hd : d = c
      · subst hd
        rw [core_post, core_setCore_same]
      · rw [core_post, core_setCore_ne s _ hd]
    · exact reported_refl s p

theorem reported_markSpills (s : State) (p page : Nat) : Reported s (markSpills s p page) p :=
  reported_of_parts p ⟨_, _, _, _, rfl⟩ fun c =>
    look_map_of_keeps Core.l1 (fun e => by dsimp only; split <;> rfl) (fun e => by dsimp only; split <;> rfl) s.cores Core.reset c

theorem reported_setQueues (s : State) (p : Nat) (qs : SMap QueueSt) :
    Reported s (s.setPart p { s.part p with queues := qs }) p :=
  ⟨⟨_, _, _, _, _, rfl⟩, fun _ => rfl, fun _ hq => part_setPart_ne s _ hq, qs, part_setPart_same ..⟩

theorem reported_pokeTiles (p : Nat) (fault : Bool) (es : List (Nat × Nat)) (s : State) :
    Reported s (pokeTiles s fault es) p := by
  induction es generalizing s with
  | nil => exact reported_refl s p
  | cons e es ih => exact reported_trans (reported_post ..) (ih _)

theorem reported_kneadFaults (p page : Nat) (cs : List Conv) (s : State) :
    Reported s (cs.foldl (fun s c => s.post (.kneadFault c.id page)) s) p := by
  induction cs generalizing s with
  | nil => exact reported_refl s p
  | cons c cs ih => exact reported_trans (reported_post ..) (ih _)

theorem reported_reportFinal (s : State) (p page : Nat) : Reported s (reportFinal s p page) p :=
  reported_trans (reported_of_eq s p _ s.agenda s.copies) <|
    reported_trans (reported_markParked p page 2 _ _) <|
    reported_trans (reported_markSpills _ p page) <|
    reported_trans (reported_of_eq _ p _ _ _) <|
    reported_trans (reported_setQueues _ p _) <|
    reported_trans (reported_pokeTiles p true _ _) (reported_kneadFaults p page _ _)

theorem reported_reportAll (p : Nat) (gs : List Nat) (s : State) : Reported s (reportAll s p gs) p := by
  induction gs generalizing s with
  | nil => exact reported_refl s p
  | cons g gs ih =>
    unfold reportAll
    exact reported_trans (reported_reportFinal s p g) (ih _)

theorem dropCode_onlyCores (va len : Nat) (cs : List Nat) (s : State) : OnlyCores s (dropCode s va len cs) := by
  induction cs generalizing s with
  | nil => exact onlyCores_refl s
  | cons c cs ih => exact onlyCores_trans (onlyCores_setCore ..) (ih _)

theorem dropCode_keeps (va len : Nat) (cs : List Nat) (s : State) :
    (dropCode s va len cs).devMem = s.devMem ∧ ∀ d, ((dropCode s va len cs).core d).l1 = (s.core d).l1 := by
  induction cs generalizing s with
  | nil => exact ⟨rfl, fun _ => rfl⟩
  | cons c cs ih =>
    obtain ⟨hm, hl⟩ := ih (s.setCore c { s.core c with icache := (s.core c).icache.filter fun e => !inRange va len e.1 64 })
    refine ⟨hm, fun d => (hl d).trans ?_⟩
    by_cases hd : d = c
    · subst hd
      rw [core_setCore_same]
    · rw [core_setCore_ne s _ hd]

/-- Does a tag belong to an address space and a granule of the range? -/
def tagInRange (space va len t : Nat) : Bool :=
  decide (space ≤ t) && decide (t < space + 2 ^ 50) && inRange va len ((t - space) / 32 * 4096) 4096

theorem flushRange_cons (s : State) (p va len c : Nat) (cs : List Nat) : flushRange s p va len (c :: cs) =
    flushRange (flushLines s c (tagInRange (l1Tag (s.part p) 0) va len)) p va len cs := rfl

theorem flushRange_onlyCores (p va len : Nat) (cs : List Nat) (s : State) : OnlyCores s (flushRange s p va len cs) := by
  induction cs generalizing s with
  | nil => exact onlyCores_refl s
  | cons c cs ih => exact onlyCores_trans (flushLines_onlyCores ..) (ih _)

/-- The cores of the list keep no line of the range. -/
theorem flushRange_l1 (p va len : Nat) (cs : List Nat) (s : State) (d : Nat) :
    ((flushRange s p va len cs).core d).l1 = if d ∈ cs then
      (s.core d).l1.filter (fun e => !tagInRange (l1Tag (s.part p) 0) va len e.1) else (s.core d).l1 := by
  induction cs generalizing s with
  | nil => rfl
  | cons c cs ih =>
    have hpart : (flushLines s c (tagInRange (l1Tag (s.part p) 0) va len)).part p = s.part p := by
      rw [State.part, flushLines_parts]
      rfl
    rw [flushRange_cons, ih, hpart]
    by_cases hd : d = c
    · subst hd
      simp [l1_flushLines]
    · simp [flushLines_core_ne s _ hd, hd]

theorem flushRange_empty (p va len : Nat) (cs : List Nat) {s : State} (h : NoLines s) : flushRange s p va len cs = s := by
  induction cs with
  | nil => rfl
  | cons c cs ih => rw [flushRange_cons, flushLines_empty _ (h c), ih]

/-- Every tag of a space lies in the range of all 64-bit addresses. -/
theorem tagInRange_all {space t : Nat} (hlo : space ≤ t) (hhi : t < space + 2 ^ 50) : tagInRange space 0 (2 ^ 64) t = true := by
  simp only [tagInRange, inRange, Bool.and_eq_true, decide_eq_true_eq]
  omega

/-- Every translation of the partition dropped: only the partition's translations and what the caches of its cores held are
gone. -/
theorem dropXlat_drops (s : State) (p : Nat) : OnlyCores (s.setPart p { s.part p with xlat := [] }) (dropXlat s p) ∧
    (NoLines s → (dropXlat s p).devMem = s.devMem) ∧ ∀ c ∈ coresOf s p, ∀ e ∈ ((dropXlat s p).core c).l1,
      ¬ (l1Tag (s.part p) 0 ≤ e.1 ∧ e.1 < l1Tag (s.part p) 0 + 2 ^ 50) := by
  unfold dropXlat
  simp only
  generalize hu : s.setPart p { s.part p with xlat := [] } = u
  have hcores : coresOf s p = coresOf u p := by subst hu; rfl
  have htag : l1Tag (u.part p) 0 = l1Tag (s.part p) 0 := by
    subst hu
    rw [part_setPart_same]
    rfl
  have hlines : NoLines s → NoLines u := by subst hu; exact id
  have hdev : u.devMem = s.devMem := by subst hu; rfl
  rw [hcores]
  generalize coresOf u p = cs
  have hcode := dropCode_onlyCores 0 (2 ^ 64) cs u
  obtain ⟨hmem, hl1⟩ := dropCode_keeps 0 (2 ^ 64) cs u
  generalize dropCode u 0 (2 ^ 64) cs = v at hcode hmem hl1 ⊢
  refine ⟨onlyCores_trans hcode (flushRange_onlyCores ..), fun hn => ?_, fun c hc e he => ?_⟩
  · rw [flushRange_empty _ _ _ _ fun c => (hl1 c).trans (hlines hn c), hmem, hdev]
  · have hpart : v.part p = u.part p := by
      obtain ⟨cs', m, r, rfl⟩ := hcode
      rfl
    rw [flushRange_l1, if_pos hc, hpart, htag] at he
    obtain ⟨-, hgone⟩ := List.mem_filter.mp he
    rintro ⟨hlo, hhi⟩
    rw [tagInRange_all hlo hhi] at hgone
    cases hgone

/-- Function level reset clears `SPASID` and the cached translations of the function's partition (R380). -/
theorem functionLevelReset_does (s : State) (p : Nat) : ∃ t, exec (.functionLevelReset p) s = .next t ∧ (t.part p).spasid = 0 ∧
    (t.part p).xlat = [] ∧ (t.part p).xreqs = [] ∧ (∀ q, q ≠ p → t.part q = s.part q) ∧ t.tick = s.tick ∧
    (NoLines s → t.devMem = s.devMem) ∧ t.hostMem = s.hostMem ∧ t.hub = s.hub ∧
    (∀ c ∈ coresOf s p, ∀ e ∈ (t.core c).l1, ¬ (l1Tag (s.part p) 0 ≤ e.1 ∧ e.1 < l1Tag (s.part p) 0 + 2 ^ 50)) ∧
    (∀ va need, translate (t.part p) va need = .final) ∧
    ((∀ r ∈ (s.part p).xreqs, r.paging = false) → t.slots = s.slots ∧ t.agenda = s.agenda) := by
  obtain ⟨hdrop, hmem, hl1⟩ := dropXlat_drops s p
  rw [exec_functionLevelReset, execFunctionLevelReset, spasidWritten]
  simp only
  generalize dropXlat s p = w at hdrop hmem hl1 ⊢
  obtain ⟨cs, m, r, rfl⟩ := hdrop
  generalize hu : State.setPart _ p _ = u
  have hpart : u.part p = { s.part p with xlat := [], spasid := 0, pagesOff := false, xreqs := [] } := by
    subst hu
    rw [part_setPart_same]
    show ({ (s.setPart p { s.part p with xlat := [] }).part p with spasid := 0, pagesOff := false, xreqs := [] } : Part) = _
    rw [part_setPart_same]
  have hrest (q : Nat) (hq : q ≠ p) : u.part q = s.part q := by
    subst hu
    rw [part_setPart_ne _ _ hq]
    exact part_setPart_ne s _ hq
  have hpages (hnone : ∀ r ∈ (s.part p).xreqs, r.paging = false) : pagingPages (s.part p) = [] := by
    rw [pagingPages, List.map_eq_nil_iff, List.filter_eq_nil_iff]
    exact fun q hq => by simp [hnone q hq]
  have hreport := reported_reportAll p (pagingPages (s.part p)) u
  refine ⟨_, rfl, ?_⟩
  have hnothing (hnone : ∀ r ∈ (s.part p).xreqs, r.paging = false) : reportAll u p (pagingPages (s.part p)) = u := by
    rw [hpages hnone]
    rfl
  generalize reportAll u p (pagingPages (s.part p)) = t at hreport hnothing ⊢
  obtain ⟨hframe, hcaches, hothers, qs, hp⟩ := hreport
  rw [hpart] at hp
  have hspasid : (t.part p).spasid = 0 := by rw [hp]
  have hfinal (va : Nat) (need : Need) : translate (t.part p) va need = .final := by
    unfold translate
    rw [hspasid]
    rfl
  have hlast (hnone : ∀ r ∈ (s.part p).xreqs, r.paging = false) : t.slots = s.slots ∧ t.agenda = s.agenda := by
    rw [hnothing hnone, ← hu]
    exact ⟨rfl, rfl⟩
  refine ⟨hspasid, by rw [hp], by rw [hp], fun q hq => (hothers q hq).trans (hrest q hq), ?_, ?_, ?_, ?_, ?_, hfinal, hlast⟩
  all_goals obtain ⟨sl, cs', ag, cp, ps, rfl⟩ := hframe
  · rw [← hu]
    rfl
  · rw [← hu]
    exact hmem
  · rw [← hu]
    rfl
  · rw [← hu]
    rfl
  · intro c hc e he
    rw [hcaches c, ← hu] at he
    exact hl1 c hc e he

/-! ## An island changed and run at its point (R402, R403) -/

theorem retune_setIsland (s : State) (i : Nat) (v : Island) : let t := retune (setIsland s i v) i
    Retuned s t i v (pointOf s.hub.lowered i v) ∧ islandPoint t i = pointOf s.hub.lowered i v ∧ OnlyIslands s t ∧
      ∀ j, j ≠ i → islandAt t j = islandAt s j := by
  intro t
  have hset : islandAt (setIsland s i v) i = v := islandAt_setIsland_same ..
  have hre : Retuned s t i v (pointOf s.hub.lowered i v) := by
    have h := retune_retuned (setIsland s i v) i
    rw [islandPoint_eq, hset] at h
    exact h
  have honly : OnlyIslands s t := onlyIslands_trans (onlyIslands_setIsland s i v) (retune_onlyIslands _ i)
  refine ⟨hre, hre.point (onlyIslands_lowered honly).1, honly, fun j hj => ?_⟩
  rw [retune_other _ hj, islandAt_setIsland_ne s v hj]

/-- What no operation on islands touches. -/
def IslandFrame (s t : State) : Prop :=
  t.slots = s.slots ∧ t.cores = s.cores ∧ t.parts = s.parts ∧ t.devMem = s.devMem ∧ t.hostMem = s.hostMem ∧ t.tick = s.tick

theorem islandFrame_of_only {s t : State} (h : OnlyIslands s t) : IslandFrame s t := by
  obtain ⟨d, i, rfl⟩ := h
  exact ⟨rfl, rfl, rfl, rfl, rfl, rfl⟩

/-- An island without a thermal drop and in no step of the cap runs as it was asked. -/
theorem pointOf_asked {lowered : List (List Nat)} {i : Nat} {v : Island} (ht : v.tripped = false) (ha : 50 ≤ v.asked)
    (hl : ∀ g ∈ lowered, i ∉ g) : pointOf lowered i v = v.asked := by
  have hnone : lowered.filter (fun g => g.contains i) = [] := by
    rw [List.filter_eq_nil_iff]
    exact fun g hg => by simpa using hl g hg
  rw [pointOf, ht, if_neg Bool.false_ne_true, hnone]
  simp [ha]

/-- One more step of the cap takes an island that runs at its point above 0.50 GHz down by 50 MHz, not below it. -/
theorem pointOf_lower {lowered : List (List Nat)} {g : List Nat} {i : Nat} {v : Island} (hg : i ∈ g) (hf : 50 < v.freq)
    (hp : v.freq = pointOf lowered i v) : pointOf (lowered ++ [g]) i v = max 50 (v.freq - 5) := by
  have hstep : ((lowered ++ [g]).filter fun g => g.contains i).length = (lowered.filter fun g => g.contains i).length + 1 := by
    simp [List.filter_append, hg]
  unfold pointOf at hp ⊢
  split at hp
  · omega
  · next ht =>
    rw [if_neg ht, hstep]
    omega

/-! ## The check of the cap (R403, R407) -/

/-- The check noted, with these steps of the cap in force. -/
def capNoted (s : State) (l : List (List Nat)) : State :=
  { s.draw with hub := { s.hub with lastCap := s.tick, lowered := l } }

/-- The islands of a list run at their points under the steps of the cap, and the check is on the agenda again. -/
def capChecked (s : State) (l : List (List Nat)) (g : List Nat) : State := (retuneAll (capNoted s l) g).post .powerCapCheck

/-- The islands of a list at their points, the others as they were. -/
def Tuned (s t : State) (g : List Nat) : Prop :=
  ∀ i, (i ∈ g → Retuned s t i (islandAt s i) (islandPoint t i)) ∧ (i ∉ g → islandAt t i = islandAt s i)

theorem capChecked_frame (s : State) (l : List (List Nat)) (g : List Nat) : let t := capChecked s l g
    .powerCapCheck ∈ t.agenda ∧ IslandFrame s t ∧ t.hub.lastCap = s.tick ∧ t.hub.cap = s.hub.cap ∧ t.hub.lowered = l := by
  intro t
  obtain ⟨d, i, h⟩ := retuneAll_onlyIslands g (capNoted s l)
  have ht : t = State.post { capNoted s l with draws := d, hub := { (capNoted s l).hub with islands := i } } .powerCapCheck :=
    congrArg (fun u : State => u.post .powerCapCheck) h
  exact ⟨mem_post .., by rw [ht]; exact ⟨rfl, rfl, rfl, rfl, rfl, rfl⟩, by rw [ht]; rfl, by rw [ht]; rfl, by rw [ht]; rfl⟩

theorem capChecked_island (s : State) (l : List (List Nat)) {g : List Nat} {i : Nat} (h : i ∈ g) :
    Retuned s (capChecked s l g) i (islandAt s i) (pointOf l i (islandAt s i)) :=
  retuneAll_retuned g (capNoted s l) h

theorem capChecked_tuned (s : State) (l : List (List Nat)) (g : List Nat) : Tuned s (capChecked s l g) g := by
  intro i
  refine ⟨fun hi => ?_, fun hi => retuneAll_other g (capNoted s l) hi⟩
  have hre := capChecked_island s l hi
  have hp : islandPoint (capChecked s l g) i = pointOf l i (islandAt s i) :=
    hre.point (s := capNoted s l) (capChecked_frame s l g).2.2.2.2
  rw [hp]
  exact hre

theorem powerCapCheck_early {s : State} (h : s.tick < s.hub.lastCap + 1000000 ∨ s.hub.activating ≠ none) :
    exec .powerCapCheck s = .next (s.post .powerCapCheck) := by
  rw [exec_powerCapCheck]
  exact if_pos (h.imp_right Option.isSome_iff_ne_none.mpr)

section
variable {s : State} (hd : s.hub.lastCap + 1000000 ≤ s.tick) (ha : s.hub.activating = none)
include hd ha

/-- The check is neither early nor paused. -/
theorem powerCapCheck_runs : ¬ (s.tick < s.hub.lastCap + 1000000 ∨ s.hub.activating.isSome = true) := by
  rw [ha]
  rintro (h | h)
  · omega
  · cases h

/-- Over the cap the fastest islands go down by a step. -/
theorem powerCapCheck_over (hw : s.hub.cap < Config.power s.draws) (htop : ∃ i < 32, 50 < (islandAt s i).freq) :
    exec .powerCapCheck s = .next (capChecked s (s.hub.lowered ++ [fastest s]) (fastest s)) := by
  have hsome : (fastest s).isEmpty = false := by
    obtain ⟨i, hi, hmax⟩ := Finset.exists_max_image (Finset.range 32) (fun i => (islandAt s i).freq) ⟨0, by decide⟩
    have hmem : i ∈ fastest s :=
      (mem_fastest htop i).mpr ⟨Finset.mem_range.mp hi, fun j hj => hmax j (Finset.mem_range.mpr hj)⟩
    rw [List.isEmpty_eq_false_iff]
    exact List.ne_nil_of_mem hmem
  rw [exec_powerCapCheck]
  refine (if_neg (powerCapCheck_runs hd ha)).trans ((if_pos hw).trans ?_)
  show Host.Outcome.next (State.post (retuneAll (if (fastest s).isEmpty = true then _ else _) (fastest s)) _) = _
  rw [hsome]
  rfl

theorem powerCapCheck_floor (hw : s.hub.cap < Config.power s.draws) (htop : ¬ ∃ i < 32, 50 < (islandAt s i).freq) :
    exec .powerCapCheck s = .next (capChecked s s.hub.lowered []) := by
  rw [exec_powerCapCheck]
  refine (if_neg (powerCapCheck_runs hd ha)).trans ((if_pos hw).trans ?_)
  show Host.Outcome.next (State.post (retuneAll (if (fastest s).isEmpty = true then _ else _) (fastest s)) _) = _
  rw [fastest_none htop]
  rfl

/-- Under 95 % of the cap the last step is taken back. -/
theorem powerCapCheck_under {l : List (List Nat)} {g : List Nat} (hw : Config.power s.draws ≤ s.hub.cap)
    (hlow : 100 * Config.power s.draws < 95 * s.hub.cap) (hl : s.hub.lowered = l ++ [g]) :
    exec .powerCapCheck s = .next (capChecked s l g) := by
  have hlast : s.hub.lowered.getLast? = some g := by rw [hl, List.getLast?_concat]
  have hdrop : s.hub.lowered.dropLast = l := by rw [hl, List.dropLast_concat]
  rw [exec_powerCapCheck]
  refine (if_neg (powerCapCheck_runs hd ha)).trans ((if_neg (Nat.not_lt.mpr hw)).trans ((if_pos hlow).trans ?_))
  show (match s.hub.lowered.getLast? with
    | none => _
    | some g => Host.Outcome.next (capChecked s s.hub.lowered.dropLast g)) = _
  rw [hlast, hdrop]

theorem powerCapCheck_rests (hw : Config.power s.draws ≤ s.hub.cap)
    (h : 95 * s.hub.cap ≤ 100 * Config.power s.draws ∨ s.hub.lowered = []) :
    exec .powerCapCheck s = .next (capChecked s s.hub.lowered []) := by
  rw [exec_powerCapCheck]
  refine (if_neg (powerCapCheck_runs hd ha)).trans ((if_neg (Nat.not_lt.mpr hw)).trans ?_)
  by_cases hlow : 100 * Config.power s.draws < 95 * s.hub.cap
  · have hlast : s.hub.lowered.getLast? = none := by rw [h.resolve_left (Nat.not_le.mpr hlow)]; rfl
    refine (if_pos hlow).trans ?_
    show (match s.hub.lowered.getLast? with
      | none => Host.Outcome.next (capChecked s s.hub.lowered [])
      | some _ => _) = _
    rw [hlast]
  · exact if_neg hlow

end

end Sys2Proof.Machine
end

section
/-! SUPPORT. Partitions, island power, the cap, thermal trips and the resets (O59). -/

namespace Sys2Proof.Machine

/-! ## Partitions (R400) -/

section
variable {s : State} (h : MailOpen s)
include h

theorem partSet_open (k : Nat) (r : PartRecord) : exec (.partSet k r) s = .next (setPartition k r s) := mailbox_open h ..

/-- Clearing a partition is writing the zero record (R400). -/
theorem partClear_open (k : Nat) : exec (.partClear k) s = exec (.partSet k 0) s :=
  (mailbox_open h (.partClear k) _).trans (partSet_open h k 0).symm

theorem partSet_refused {k : Nat} {r : PartRecord} (hr : partRefused s k r = true) :
    exec (.partSet k r) s = .next { s with hub := { s.hub with status := .refused } } := by
  rw [partSet_open h, setPartition, if_pos hr]
  rfl

theorem partSet_busy {k : Nat} {r : PartRecord} (hr : partRefused s k r = false)
    (hb : ∃ c ∈ coresIn (recordIslands (s.part k).record &&& ~~~recordIslands r), coreBusy s c = true) :
    exec (.partSet k r) s = .next { s with hub := { s.hub with status := .busy } } := by
  rw [partSet_open h, setPartition, if_neg (by rw [hr]; decide), if_pos (List.any_eq_true.mpr hb)]
  rfl

theorem partSet_written {k : Nat} {r : PartRecord} (hr : partRefused s k r = false)
    (hb : ∀ c ∈ coresIn (recordIslands (s.part k).record &&& ~~~recordIslands r), coreBusy s c = false) :
    exec (.partSet k r) s = .next (mailStatus (writeRecord s k r) .done) := by
  have hidle : ¬ (coresIn (recordIslands (s.part k).record &&& ~~~recordIslands r)).any (coreBusy s) = true := by
    rw [List.any_eq_true]
    rintro ⟨c, hc, hbusy⟩
    rw [hb c hc] at hbusy
    cases hbusy
  rw [partSet_open h, setPartition, if_neg (by rw [hr]; decide), if_neg hidle]

/-- A record that is not refused and meets no work is written, fresh when the partition comes or goes. -/
theorem partSet_does {k : Nat} {r : PartRecord} (hr : partRefused s k r = false)
    (hb : ∀ c ∈ coresIn (recordIslands (s.part k).record &&& ~~~recordIslands r), coreBusy s c = false) :
    ∃ t, exec (.partSet k r) s = .next t ∧ t.hub = { s.hub with status := .done } ∧
      (∀ q, q ≠ k → t.part q = s.part q) ∧ t.slots = s.slots ∧ (NoLines s → t.devMem = s.devMem) ∧ t.tick = s.tick ∧
      (partValid (s.part k).record = true → partValid r = true → t.part k = { s.part k with record := r }) ∧
      (partValid (s.part k).record = false ∨ partValid r = false → t.part k = { Part.reset k with record := r }) ∧
      (∀ c, t.core c = (if c ∈ coresIn (recordIslands r &&& ~~~recordIslands (s.part k).record) then
          { s.core c with mpart := BitVec.ofNat 64 k, rq := Vector.replicate 4 [], l1 := [] }
        else if c ∈ coresIn (recordIslands (s.part k).record &&& ~~~recordIslands r) then
          { s.core c with mpart := (t.core c).mpart, rq := Vector.replicate 4 [], l1 := [] } else s.core c)) := by
  have hrun := partSet_written h hr hb
  have hwrites := writeRecord_writes s k r
  generalize writeRecord s k r = w at hrun hwrites
  obtain ⟨hhub, hslots, htick, hmem, hothers, hpart, hcores⟩ := hwrites
  refine ⟨_, hrun, congrArg (fun u : Hub => { u with status := .done }) hhub, hothers, hslots, hmem, htick,
    fun ho hn => ?_, fun hnot => ?_, hcores⟩
  · refine hpart.trans ?_
    rw [ho, hn]
    rfl
  · have hfresh : (partValid (s.part k).record && partValid r) = false := by
      rw [Bool.and_eq_false_iff]
      exact hnot
    refine hpart.trans ?_
    rw [hfresh]
    rfl

/-! ## Power and heat (R402, R403) -/

/-- An island of another function's partition, or none. -/
def IslandForbidden (s : State) (i : Nat) : Prop := 32 ≤ i ∨ ∃ k < 8, k ≠ 0 ∧ holdsIsland (s.part k).record i = true

omit h in
theorem islandForbidden_iff (s : State) (i : Nat) : IslandForbidden s i ↔
    32 ≤ i ∨ ((List.range 8).any fun k => k != 0 && holdsIsland (s.part k).record i) = true := by
  simp only [IslandForbidden, List.any_eq_true, List.mem_range, Bool.and_eq_true, bne_iff_ne]

theorem ivfSet_refused {i : Nat} (f : Nat) (hi : IslandForbidden s i) :
    exec (.ivfSet i f) s = .next { s with hub := { s.hub with status := .refused } } := by
  rw [exec_ivfSet, execIvfSet, mailbox_open h]
  exact congrArg Host.Outcome.next (if_pos ((islandForbidden_iff s i).mp hi))

/-- The request is clamped to 0.50 to 1.60 GHz, and the island runs at its point. -/
theorem ivfSet_does {i : Nat} (f : Nat) (hi : ¬ IslandForbidden s i) :
    ∃ t, exec (.ivfSet i f) s = .next t ∧ t.hub.status = .done ∧ IslandFrame s t ∧ (∀ j, j ≠ i → islandAt t j = islandAt s j) ∧
      Retuned s t i { islandAt s i with asked := min 160 (max 50 f) } (islandPoint t i) ∧
      ((islandAt s i).tripped = true → islandPoint t i = 50) ∧
      ((islandAt s i).tripped = false → (∀ g ∈ s.hub.lowered, i ∉ g) → islandPoint t i = min 160 (max 50 f)) := by
  have hrun : exec (.ivfSet i f) s = .next (mailStatus
      (retune (setIsland s i { islandAt s i with asked := min 160 (max 50 f) }) i) .done) := by
    rw [exec_ivfSet, execIvfSet, mailbox_open h]
    exact congrArg Host.Outcome.next (if_neg fun hbad => hi ((islandForbidden_iff s i).mpr hbad))
  have hretuned := retune_setIsland s i { islandAt s i with asked := min 160 (max 50 f) }
  generalize retune _ i = w at hrun hretuned
  obtain ⟨hre, hpoint, honly, hothers⟩ := hretuned
  have hframe : IslandFrame s w := islandFrame_of_only honly
  refine ⟨_, hrun, rfl, hframe, hothers, ?_, fun ht => ?_, fun ht hl => ?_⟩
  · exact hpoint.symm ▸ hre
  · exact hpoint.trans (if_pos ht)
  · refine hpoint.trans (pointOf_asked ht ?_ hl)
    show 50 ≤ min 160 (max 50 f)
    omega

theorem capSet_refused {w : Nat} (hw : w < 700 ∨ 1400 < w) :
    exec (.capSet w) s = .next { s with hub := { s.hub with status := .refused } } := by
  rw [exec_capSet, execCapSet, mailbox_open h]
  exact congrArg Host.Outcome.next (if_pos hw)

theorem capSet_taken {w : Nat} (hlo : 700 ≤ w) (hhi : w ≤ 1400) :
    exec (.capSet w) s = .next { s with hub := { s.hub with cap := w, status := .done } } := by
  rw [exec_capSet, execCapSet, mailbox_open h]
  exact congrArg Host.Outcome.next (if_neg (by omega))

end

/-- The cap check: over the cap the fastest islands lose 50 MHz, under 95 % of it the last step is taken back (R403). -/
theorem powerCapCheck_does {s : State} (hd : s.hub.lastCap + 1000000 ≤ s.tick) (ha : s.hub.activating = none) :
    ∃ t, exec .powerCapCheck s = .next t ∧ .powerCapCheck ∈ t.agenda ∧
    IslandFrame s t ∧ t.hub.lastCap = s.tick ∧ t.hub.cap = s.hub.cap ∧ let w := Config.power s.draws
    let top := ∃ i < 32, 50 < (islandAt s i).freq
    (s.hub.cap < w → top → ∃ g, t.hub.lowered = s.hub.lowered ++ [g] ∧ Tuned s t g ∧
      (∀ i, i ∈ g ↔ i < 32 ∧ ∀ j < 32, (islandAt s j).freq ≤ (islandAt s i).freq) ∧
      ∀ i ∈ g, (islandAt s i).freq = islandPoint s i → (islandAt t i).freq = max 50 ((islandAt s i).freq - 5)) ∧
    (s.hub.cap < w → ¬ top → t.hub.lowered = s.hub.lowered ∧ t.hub.islands = s.hub.islands) ∧
    (w ≤ s.hub.cap → 100 * w < 95 * s.hub.cap → ∀ g l, s.hub.lowered = l ++ [g] → t.hub.lowered = l ∧ Tuned s t g) ∧
    (w ≤ s.hub.cap → 95 * s.hub.cap ≤ 100 * w ∨ s.hub.lowered = [] →
      t.hub.lowered = s.hub.lowered ∧ t.hub.islands = s.hub.islands) := by
  rcases Nat.lt_or_ge s.hub.cap (Config.power s.draws) with hw | hw
  · have hnot : ¬ Config.power s.draws ≤ s.hub.cap := Nat.not_le.mpr hw
    by_cases htop : ∃ i < 32, 50 < (islandAt s i).freq
    · obtain ⟨hmem, hframe, hlast, hcap, hlow⟩ := capChecked_frame s (s.hub.lowered ++ [fastest s]) (fastest s)
      refine ⟨_, powerCapCheck_over hd ha hw htop, hmem, hframe, hlast, hcap, fun _ _ => ⟨fastest s, hlow,
        capChecked_tuned s _ _, mem_fastest htop, fun i hi hp => ?_⟩, fun _ h => absurd htop h, fun h => absurd h hnot,
        fun h => absurd h hnot⟩
      obtain ⟨k, hk, hfast⟩ := htop
      have hmax := ((mem_fastest ⟨k, hk, hfast⟩ i).mp hi).2 k hk
      obtain ⟨hu, -, -⟩ := capChecked_island s (s.hub.lowered ++ [fastest s]) hi
      rw [hu, pointOf_lower hi (by omega) hp]
    · obtain ⟨hmem, hframe, hlast, hcap, hlow⟩ := capChecked_frame s s.hub.lowered []
      exact ⟨_, powerCapCheck_floor hd ha hw htop, hmem, hframe, hlast, hcap, fun _ h => absurd h htop, fun _ _ => ⟨hlow, rfl⟩,
        fun h => absurd h hnot, fun h => absurd h hnot⟩
  · have hnot : ¬ s.hub.cap < Config.power s.draws := Nat.not_lt.mpr hw
    by_cases hrest : 95 * s.hub.cap ≤ 100 * Config.power s.draws ∨ s.hub.lowered = []
    · obtain ⟨hmem, hframe, hlast, hcap, hlow⟩ := capChecked_frame s s.hub.lowered []
      refine ⟨_, powerCapCheck_rests hd ha hw hrest, hmem, hframe, hlast, hcap, fun h => absurd h hnot,
        fun h => absurd h hnot, fun _ hlt g l hl => ?_, fun _ _ => ⟨hlow, rfl⟩⟩
      rcases hrest with hle | hnil
      · exact absurd hlt (Nat.not_lt.mpr hle)
      · rw [hnil] at hl
        exact absurd hl.symm (by simp)
    · obtain ⟨hlt, hne⟩ := not_or.mp hrest
      obtain ⟨l, g, hl⟩ := (List.eq_nil_or_concat' _).resolve_left hne
      obtain ⟨hmem, hframe, hlast, hcap, hlow⟩ := capChecked_frame s l g
      refine ⟨_, powerCapCheck_under hd ha hw (Nat.not_le.mp hlt) hl, hmem, hframe, hlast, hcap, fun h => absurd h hnot,
        fun h => absurd h hnot, fun _ _ g' l' hl' => ?_, fun _ h => absurd h hrest⟩
      obtain ⟨rfl, hg⟩ := List.append_inj' (hl.symm.trans hl') rfl
      cases hg
      exact ⟨hlow, capChecked_tuned s _ _⟩

/-- A thermal trip drops the island to 0.50 GHz. -/
theorem thermalTrip_does (s : State) (i : Nat) : ∃ t, exec (.thermalTrip i) s = .next t ∧ IslandFrame s t ∧
    t.hub.lowered = s.hub.lowered ∧ Retuned s t i { islandAt s i with tripped := true } 50 ∧
    ∀ j, j ≠ i → islandAt t j = islandAt s j := by
  obtain ⟨hre, -, honly, hothers⟩ := retune_setIsland s i { islandAt s i with tripped := true }
  exact ⟨_, rfl, islandFrame_of_only honly, (onlyIslands_lowered honly).1, hre, hothers⟩

/-- An island that recovers returns to its point. -/
theorem thermalRecover_does (s : State) (i : Nat) : ∃ t, exec (.thermalRecover i) s = .next t ∧ IslandFrame s t ∧
    t.hub.lowered = s.hub.lowered ∧ (∀ j, j ≠ i → islandAt t j = islandAt s j) ∧
    Retuned s t i { islandAt s i with tripped := false }
      (max 50 ((islandAt s i).asked - 5 * (s.hub.lowered.filter fun g => g.contains i).length)) := by
  obtain ⟨hre, -, honly, hothers⟩ := retune_setIsland s i { islandAt s i with tripped := false }
  exact ⟨_, rfl, islandFrame_of_only honly, (onlyIslands_lowered honly).1, hothers, hre⟩

/-- Settles O59: each clause is what one command or event of Starter does. -/
theorem partitionsPowerAndResets : Obligations.PartitionsPowerAndResets := by
  unfold Obligations.PartitionsPowerAndResets
  intro mail up gone retuned tuned others
  refine ⟨fun s e he => ?_, partRefused_iff, ?_, ?_, ?_, fun s w h => ⟨capSet_refused h, capSet_taken h⟩,
    fun s h => powerCapCheck_early h, fun s hd ha => powerCapCheck_does hd ha,
    fun s i => ⟨thermalTrip_does s i, thermalRecover_does s i⟩, reset_does, functionLevelReset_does⟩
  · obtain ⟨act, hact⟩ := exec_mail he
    rw [hact]
    exact ⟨mailbox_starting e act, mailbox_closed e act⟩
  · intro s k r h old
    exact ⟨partClear_open h k, partSet_refused h, partSet_busy h, partSet_does h⟩
  · intro s i f h bad
    exact ⟨ivfSet_refused h f, ivfSet_does h f⟩
  · exact ⟨by decide, by decide, by decide, by decide, by decide, minVoltage_mono, minVoltage_grid⟩

end Sys2Proof.Machine
end

section
/-! SUPPORT. Repair in service (R405): what it is for a unit to be retired, a core replaced by a spare, a stack lost, and an
error raised in a slot. -/

namespace Sys2Proof.Machine

/-! ## Stacks and their extents (R399, R405) -/

/-- Distinct powers of two from 2^k on, summed, stay below the next one. -/
theorem sum_powers_lt (f : Nat → Bool) (k n : Nat) :
    ((List.range n).map fun e => if f e = true then 2 ^ (k + e) else 0).sum < 2 ^ (k + n) := by
  induction n with
  | zero => simp
  | succ n ih =>
    rw [List.range_succ, List.map_append, List.sum_append, ← Nat.add_assoc, Nat.pow_succ]
    simp only [List.map_cons, List.map_nil, List.sum_cons, List.sum_nil]
    split <;> omega

/-- The bits of a sum of distinct powers of two are the powers in it. -/
theorem testBit_sum_powers (f : Nat → Bool) (k n e : Nat) (he : e < n) :
    ((List.range n).map fun e => if f e = true then 2 ^ (k + e) else 0).sum.testBit (k + e) = f e := by
  induction n with
  | zero => omega
  | succ n ih =>
    have hlt := sum_powers_lt f k n
    rw [List.range_succ, List.map_append, List.sum_append]
    simp only [List.map_cons, List.map_nil, List.sum_cons, List.sum_nil, Nat.add_zero]
    generalize ((List.range n).map fun e => if f e = true then 2 ^ (k + e) else 0).sum = m at hlt ih ⊢
    rcases Nat.lt_or_ge e n with hen | hen
    · split
      · rw [Nat.add_comm m, Nat.testBit_two_pow_add_gt (by omega), ih hen]
      · exact ih hen
    · obtain rfl : e = n := by omega
      cases hf : f e with
      | true => rw [if_pos rfl, Nat.add_comm m, Nat.testBit_two_pow_add_eq, Nat.testBit_lt_two_pow hlt]; rfl
      | false => rw [if_neg Bool.false_ne_true, Nat.add_zero, Nat.testBit_lt_two_pow hlt]

/-- The mask of a stack has the bits of its extents. -/
theorem stackMask_bit (j e : Nat) (he : e < 288) : (stackMask j).getLsbD (64 + e) = (stackOf (e * 2 ^ 30) == j) := by
  have h := testBit_sum_powers (fun e => stackOf (e * 2 ^ 30) == j) 64 288 e he
  simp only [beq_iff_eq] at h
  rw [stackMask, BitVec.getLsbD_ofNat, h]
  simp only [Bool.and_eq_right_iff_imp, decide_eq_true_eq]
  omega

theorem holdsExtent_lost (r : PartRecord) (j e : Nat) (he : e < 288) :
    holdsExtent (r &&& ~~~stackMask j) e = (holdsExtent r e && stackOf (e * 2 ^ 30) != j) := by
  have hbit : 64 + e < 512 := by omega
  simp only [holdsExtent, he, decide_true, Bool.true_and, BitVec.getLsbD_and, BitVec.getLsbD_not, hbit, stackMask_bit j e he]
  rfl

/-- The partitions below `n` have lost the extents of the stack. -/
theorem loseExtents_part (j n : Nat) (s : State) (p : Nat) : ((loseExtents s j n).part p).record =
    if p < n then (s.part p).record &&& ~~~stackMask j else (s.part p).record := by
  induction n generalizing s with
  | zero => rfl
  | succ n ih =>
    unfold loseExtents
    rw [ih]
    by_cases hp : p = n
    · subst hp
      rw [if_neg (by omega), if_pos (by omega), part_setPart_same]
    · rw [part_setPart_ne _ _ hp]
      simp only [show p < n + 1 ↔ p < n by omega]

/-- A stack that is lost leaves every partition's record, and nothing else but the list of lost stacks changes. -/
theorem loseStack_loses (s : State) (j : Nat) (hj : j ∉ s.hub.lostStacks) :
    (∃ ps, loseStack s j = { s with parts := ps, hub := { s.hub with lostStacks := s.hub.lostStacks ++ [j] } }) ∧
      ∀ p < 8, ((loseStack s j).part p).record = (s.part p).record &&& ~~~stackMask j := by
  have hnot : ¬ s.hub.lostStacks.contains j = true := by simpa using hj
  have heq : loseStack s j = loseExtents { s with hub := { s.hub with lostStacks := s.hub.lostStacks ++ [j] } } j 8 := if_neg hnot
  have hparts := loseExtents_onlyParts j 8 { s with hub := { s.hub with lostStacks := s.hub.lostStacks ++ [j] } }
  have hrec := loseExtents_part j 8 { s with hub := { s.hub with lostStacks := s.hub.lostStacks ++ [j] } }
  rw [← heq] at hparts
  rw [← heq] at hrec
  refine ⟨hparts, fun p hp => ?_⟩
  rw [hrec p, if_pos hp]
  rfl

/-- Losing a stack leaves all but the partitions and the list of lost stacks. -/
theorem loseStack_frame (s : State) (j : Nat) : ∃ ps l, loseStack s j = { s with parts := ps, hub := { s.hub with lostStacks := l } } := by
  by_cases hj : j ∈ s.hub.lostStacks
  · exact ⟨s.parts, s.hub.lostStacks, if_pos (by simpa using hj)⟩
  · obtain ⟨⟨ps, h⟩, -⟩ := loseStack_loses s j hj
    exact ⟨ps, _, h⟩

/-! ## Spares (R9, R405) -/

theorem sparesUsed_useSpare (s : State) (key : Nat) : sparesUsed (useSpare s key) key = sparesUsed s key + 1 := look_put_same ..

/-- The physical cores picked for a die are taken from the list of them. -/
theorem physPicks_lt (die n b : Nat) (hb : 0 < b) (l : List Nat) (h : ∀ x ∈ l, x < b) : ∀ x ∈ physPicks die n l, x < b := by
  induction n generalizing l with
  | zero => exact fun x hx => absurd hx List.not_mem_nil
  | succ n ih =>
    have hpick (i : Nat) : l.getD i 0 < b := by
      rw [List.getD_eq_getElem?_getD]
      cases hi : l[i]? with
      | none => exact hb
      | some x => exact h x (List.mem_of_getElem? hi)
    intro x hx
    rcases List.mem_cons.mp hx with rfl | hx
    · exact hpick _
    · exact ih _ (fun y hy => h y (List.mem_of_mem_erase hy)) x hx

/-- A spare is of the die (R9). -/
theorem physIndex_die (die i : Nat) : physIndex die i / 256 = die := by
  have hlt : (physPicks die 136 (List.range 136)).getD i 0 < 256 := by
    have hall := physPicks_lt die 136 136 (by decide) (List.range 136) fun x hx => List.mem_range.mp hx
    rw [List.getD_eq_getElem?_getD]
    cases hi : (physPicks die 136 (List.range 136))[i]? with
    | none => decide
    | some x => exact (hall x (List.mem_of_getElem? hi)).trans (by decide)
  unfold physIndex
  omega

theorem gateIsland_onlyIslands (s : State) (i : Nat) : OnlyIslands s (gateIsland s i) := by
  unfold gateIsland
  simp only
  split
  · exact onlyIslands_refl s
  · exact onlyIslands_setIsland ..

/-- What takes over a retired core's number: its state without operand slots, code lines and first-level lines, not parked. -/
def replacedCore (co : Core) : Core := { co with os := [], icache := [], isParked := false, l1 := [] }

/-- A spare of the die takes over the number of a core, or with none left the core is absent; besides, only the failed cores
of transactions, the spares, the islands and what the core's cache held change. -/
theorem replaceCore_replaces (s : State) (c : Nat) : let t := replaceCore s c
    let n := sparesUsed s (c / 128)
    (∃ cs m r x d i sp, t = { s with cores := cs, devMem := m, rdc := r, txs := x, draws := d, hub := { s.hub with
        islands := i, spares := sp } }) ∧
      (NoLines s → t.devMem = s.devMem) ∧ (∀ k, k ≠ c → t.core k = s.core k) ∧
      (n < 8 → (∃ x, t.core c = { replacedCore (s.core c) with physOver := some x } ∧ x / 256 = c / 128) ∧
        sparesUsed t (c / 128) = n + 1) ∧
      (8 ≤ n → t.core c = { replacedCore (s.core c) with absent := true }) := by
  have hflush := core_flushAll s c
  have hothers (k : Nat) (hk : k ≠ c) := flushLines_core_ne s (fun _ => true) hk
  have hmem (hn : NoLines s) : (flushLines s c fun _ => true).devMem = s.devMem := by rw [flushLines_empty _ (hn c)]
  have hframe := flushLines_onlyCores s c fun _ => true
  unfold replaceCore
  simp only
  generalize (flushLines s c fun _ => true) = u at hflush hothers hmem hframe ⊢
  obtain ⟨cs, m, r, rfl⟩ := hframe
  rw [hflush]
  split
  · next hn =>
    generalize hv : useSpare (State.setCore _ c _) (c / 128) = v
    obtain ⟨d, i, hgate⟩ := gateIsland_onlyIslands v (islandOf c)
    rw [hgate, ← hv]
    refine ⟨⟨_, _, _, _, _, _, _, rfl⟩, hmem, fun k hk => (core_setCore_ne _ _ hk).trans (hothers k hk),
      fun _ => ⟨⟨_, core_setCore_same .., physIndex_die ..⟩, look_put_same ..⟩, fun h => absurd hn (Nat.not_lt.mpr h)⟩
  · next hn =>
    generalize hv : useSpare (State.setCore _ c _) (100 + c) = v
    obtain ⟨d, i, hgate⟩ := gateIsland_onlyIslands v (islandOf c)
    rw [hgate, ← hv]
    refine ⟨⟨_, _, _, _, _, _, _, rfl⟩, hmem, fun k hk => (core_setCore_ne _ _ hk).trans (hothers k hk),
      fun h => absurd h hn, fun _ => core_setCore_same ..⟩

/-! ## Errors told to slots and transactions (R63, R338) -/

/-- An error on a core put on the agenda for each transaction of a list, with nothing else changed. -/
theorem postErrors_posts (c : Nat) (ts : List Nat) (s : State) :
    ∃ a, postErrors s c ts = { s with agenda := a } ∧ (∀ e ∈ s.agenda, e ∈ a) ∧ ∀ t ∈ ts, .txHardwareError t c ∈ a := by
  induction ts generalizing s with
  | nil => exact ⟨s.agenda, rfl, fun _ h => h, fun t ht => absurd ht List.not_mem_nil⟩
  | cons t ts ih =>
    obtain ⟨a, ha, hold, hnew⟩ := ih (s.post (.txHardwareError t c))
    refine ⟨a, ha, fun e he => hold e (List.mem_append_left _ he), fun x hx => ?_⟩
    rcases List.mem_cons.mp hx with rfl | hx
    · exact hold _ (mem_post ..)
    · exact hnew x hx

/-- A slot told that its core retires. -/
def toldRetired (c : Nat) (sl : Slot) : Slot :=
  if sl.st = .free ∨ sl.st = .away then sl else { sl with causes := sl.causes ++ [⟨0xC2, BitVec.ofNat 64 c, false⟩] }

/-- One slot of a core told. -/
def tellSlot (s : State) (c i : Nat) : State :=
  if (s.slot (slotKey c i)).st = .free ∨ (s.slot (slotKey c i)).st = .away then s
  else s.setSlot (slotKey c i) { s.slot (slotKey c i) with
    causes := (s.slot (slotKey c i)).causes ++ [⟨0xC2, BitVec.ofNat 64 c, false⟩] }

theorem tellSlot_tells (s : State) (c i : Nat) : (∃ sl, tellSlot s c i = { s with slots := sl }) ∧
    (tellSlot s c i).slot (slotKey c i) = toldRetired c (s.slot (slotKey c i)) ∧
    ∀ k, k ≠ slotKey c i → (tellSlot s c i).slot k = s.slot k := by
  unfold tellSlot toldRetired
  split
  · exact ⟨⟨s.slots, rfl⟩, rfl, fun _ _ => rfl⟩
  · exact ⟨⟨_, rfl⟩, slot_setSlot_same .., fun k hk => slot_setSlot_ne s _ hk⟩

/-- The slots of a core below `n` are told, and nothing else changes. -/
theorem raiseRetired_tells (c n : Nat) (s : State) : (∃ sl, raiseRetired s c n = { s with slots := sl }) ∧
    (∀ i < n, (raiseRetired s c n).slot (slotKey c i) = toldRetired c (s.slot (slotKey c i))) ∧
    ∀ k, (∀ i < n, k ≠ slotKey c i) → (raiseRetired s c n).slot k = s.slot k := by
  induction n generalizing s with
  | zero => exact ⟨⟨s.slots, rfl⟩, fun i hi => absurd hi (Nat.not_lt_zero i), fun _ _ => rfl⟩
  | succ n ih =>
    have hnext : raiseRetired s c (n + 1) = raiseRetired (tellSlot s c n) c n := rfl
    obtain ⟨⟨sl, hsl⟩, hsame, hother⟩ := tellSlot_tells s c n
    obtain ⟨⟨sl', hsl'⟩, htold, hrest⟩ := ih (tellSlot s c n)
    rw [hnext]
    refine ⟨⟨sl', by rw [hsl', hsl]⟩, fun i hi => ?_, fun k hk => ?_⟩
    · rcases Nat.lt_succ_iff_lt_or_eq.mp hi with hlt | rfl
      · rw [htold i hlt, hother _ (by simp only [slotKey]; omega)]
      · rw [hrest _ fun j hj => by simp only [slotKey]; omega, hsame]
    · rw [hrest k fun j hj => hk j (by omega), hother k (hk n (by omega))]

/-- The transaction of a slot is among those that an error there concerns. -/
theorem mem_txsOn (s : State) (c t : Nat) : t ∈ txsOn s c (some t) := by
  unfold txsOn
  dsimp only
  split
  · next h => simpa using h
  · exact List.mem_cons_self ..

/-- A hardware cause stands in the slot, and the transactions of its core are told (R63, R338). -/
theorem hardwareCause_raises (s : State) (k code : Nat) (v : Word) : let t := hardwareCause s k code v
    (∃ sl a, t = { s with slots := sl, agenda := a }) ∧ (∀ x, x ≠ k → t.slot x = s.slot x) ∧
      t.slot k = { s.slot k with causes := (s.slot k).causes ++ [⟨code, v, false⟩] } ∧
      ∀ x, (s.slot k).tx = some x → .txHardwareError x (k / 16) ∈ t.agenda := by
  let u := s.setSlot k { s.slot k with causes := (s.slot k).causes ++ [⟨code, v, false⟩] }
  have hu : u.slot k = { s.slot k with causes := (s.slot k).causes ++ [⟨code, v, false⟩] } := slot_setSlot_same ..
  obtain ⟨a, ha, -, hmem⟩ := postErrors_posts (k / 16) (txsOn u (k / 16) (u.slot k).tx) u
  have ht : hardwareCause s k code v = { u with agenda := a } := ha
  simp only [ht]
  refine ⟨⟨_, a, rfl⟩, fun x hx => slot_setSlot_ne s _ hx, hu, fun x hx => hmem x ?_⟩
  have htx : (u.slot k).tx = some x := by rw [hu]; exact hx
  rw [htx]
  exact mem_txsOn ..

end Sys2Proof.Machine
end

section
/-! SUPPORT. The retirement of a unit (R405), the firmware's events and the attestation report (R406 to R408). -/

namespace Sys2Proof.Machine

/-! ## Retirement by the table of R405 -/

/-- What the repair of a memory or a link leaves alone. -/
def RepairFrame (s t : State) : Prop :=
  t.slots = s.slots ∧ t.cores = s.cores ∧ t.parts = s.parts ∧ t.txs = s.txs ∧ t.devMem = s.devMem ∧ t.tick = s.tick

theorem repairFrame_refl (s : State) : RepairFrame s s := ⟨rfl, rfl, rfl, rfl, rfl, rfl⟩

/-- One look at the retirement of a core: it parks and tells its slots and transactions, waits while one has work there, and
then hands over to a spare of its die or becomes absent. -/
def CoreRetires (s t : State) (c : Nat) : Prop :=
  (s.present c = false → RepairFrame s t ∧ t.hub.retiring = s.hub.retiring ∧ t.agenda = s.agenda) ∧
  (s.present c = true → s.hub.retiring.contains c = false → (t.core c).isParked = true ∧
    t.hub.retiring = s.hub.retiring ++ [c] ∧ .retire (.core c) ∈ t.agenda ∧
    (∀ i < 16, t.slot (slotKey c i) = toldRetired c (s.slot (slotKey c i))) ∧
    ∀ x ∈ workingOn s c, .txHardwareError x c ∈ t.agenda) ∧
  (s.present c = true → s.hub.retiring.contains c = true → workingOn s c ≠ [] →
    RepairFrame s t ∧ .retire (.core c) ∈ t.agenda ∧ t.hub.retiring = s.hub.retiring) ∧
  (s.present c = true → s.hub.retiring.contains c = true → workingOn s c = [] →
    t.hub.retiring = s.hub.retiring.filter (· ≠ c) ∧ t.slots = s.slots ∧ (∀ k, k ≠ c → t.core k = s.core k) ∧
    (sparesUsed s (c / 128) < 8 → (∃ x, t.core c = { replacedCore (s.core c) with physOver := some x } ∧ x / 256 = c / 128) ∧
      sparesUsed t (c / 128) = sparesUsed s (c / 128) + 1) ∧
    (8 ≤ sparesUsed s (c / 128) → t.core c = { replacedCore (s.core c) with absent := true }))

theorem retireCore_absent {s : State} {c : Nat} (h : s.present c = false) : retireCore s c = s := if_pos h

/-- A core parked and on the list of those that retire. -/
def retireBegun (s : State) (c : Nat) : State :=
  { setParked s c true with hub := { s.hub with retiring := s.hub.retiring ++ [c] } }

theorem retireBegun_parks (s : State) (c : Nat) : let t := retireBegun s c
    (t.core c).isParked = true ∧ t.hub.retiring = s.hub.retiring ++ [c] ∧ t.slots = s.slots ∧ workingOn t c = workingOn s c := by
  obtain ⟨d, i, hgate⟩ : OnlyIslands _ (setParked s c true) := gateIsland_onlyIslands ..
  simp only [retireBegun, hgate]
  exact ⟨congrArg Core.isParked (core_setCore_same s c { s.core c with isParked := true }), trivial, rfl, rfl⟩

theorem retireCore_first {s : State} {c : Nat} (hp : s.present c = true) (hr : s.hub.retiring.contains c = false) :
    retireCore s c = (postErrors (raiseRetired (retireBegun s c) c 16) c (workingOn (retireBegun s c) c)).post (.retire (.core c)) :=
  (if_neg (by rw [hp]; decide)).trans (if_neg (by rw [hr]; decide))

/-- A core whose retirement begins is parked, and its slots and transactions are told. -/
theorem retireCore_begins {s : State} {c : Nat} (hp : s.present c = true) (hr : s.hub.retiring.contains c = false) :
    let t := retireCore s c
    (t.core c).isParked = true ∧ t.hub.retiring = s.hub.retiring ++ [c] ∧ .retire (.core c) ∈ t.agenda ∧
    (∀ i < 16, t.slot (slotKey c i) = toldRetired c (s.slot (slotKey c i))) ∧
    ∀ x ∈ workingOn s c, .txHardwareError x c ∈ t.agenda := by
  obtain ⟨hparked, hlist, hslots, hwork⟩ := retireBegun_parks s c
  simp only [retireCore_first hp hr, hwork]
  generalize retireBegun s c = u at hparked hlist hslots ⊢
  obtain ⟨⟨sl, hsl⟩, htold, -⟩ := raiseRetired_tells c 16 u
  generalize raiseRetired u c 16 = v at hsl htold ⊢
  obtain ⟨a, ha, -, hmem⟩ := postErrors_posts c (workingOn s c) v
  rw [ha]
  have hslot (i : Nat) : u.slot (slotKey c i) = s.slot (slotKey c i) := by rw [State.slot, hslots]; rfl
  refine ⟨?_, ?_, mem_post .., fun i hi => ?_, fun x hx => List.mem_append_left _ (hmem x hx)⟩
  · rw [hsl]
    exact hparked
  · rw [hsl]
    exact hlist
  · rw [← hslot i, ← htold i hi]
    rfl

theorem retireCore_waits {s : State} {c : Nat} (hp : s.present c = true) (hr : s.hub.retiring.contains c = true)
    (hw : workingOn s c ≠ []) : retireCore s c = s.post (.retire (.core c)) := by
  have hbusy : (workingOn s c).isEmpty = false := List.isEmpty_eq_false_iff.mpr hw
  exact (if_neg (by rw [hp]; decide)).trans ((if_pos hr).trans (if_neg (by rw [hbusy]; decide)))

theorem retireCore_replaces {s : State} {c : Nat} (hp : s.present c = true) (hr : s.hub.retiring.contains c = true)
    (hw : workingOn s c = []) : retireCore s c =
      { replaceCore s c with hub := { (replaceCore s c).hub with retiring := s.hub.retiring.filter (· ≠ c) } } :=
  (if_neg (by rw [hp]; decide)).trans ((if_pos hr).trans (if_pos (by rw [hw]; rfl)))

theorem retireCore_retires (s : State) (c : Nat) : CoreRetires s (retireCore s c) c := by
  refine ⟨fun hp => ?_, retireCore_begins, fun hp hr hw => ?_, fun hp hr hw => ?_⟩
  · rw [retireCore_absent hp]
    exact ⟨repairFrame_refl s, rfl, rfl⟩
  · rw [retireCore_waits hp hr hw]
    exact ⟨⟨rfl, rfl, rfl, rfl, rfl, rfl⟩, mem_post .., rfl⟩
  · rw [retireCore_replaces hp hr hw]
    have hreplace := replaceCore_replaces s c
    generalize replaceCore s c = w at hreplace ⊢
    obtain ⟨⟨cs, m, r, x, d, i, sp, hframe⟩, -, hothers, hspare, habsent⟩ := hreplace
    have hslots : w.slots = s.slots := by rw [hframe]
    exact ⟨rfl, hslots, hothers, hspare, habsent⟩

/-- The effect of R405's table on a unit. -/
def UnitRetires (s t : State) (u : HwUnit) : Prop := match u with
  | .core c => CoreRetires s t c
  | .slice n => RepairFrame s t ∧ ∀ b, b ∈ t.hub.absentBanks ↔ b ∈ s.hub.absentBanks ∨ b / 4 = n
  | .hbmRow j r => RepairFrame s t ∧ t.hub.repairs = s.hub.repairs ++ [(j, r)]
  | .hbmChannel j _ => sparesUsed t (16 + j) = sparesUsed s (16 + j) + 1 ∧
      (sparesUsed s (16 + j) = 0 → RepairFrame s t ∧ t.hub.lostStacks = s.hub.lostStacks) ∧
      (sparesUsed s (16 + j) ≠ 0 → j ∉ s.hub.lostStacks → t.hub.lostStacks = s.hub.lostStacks ++ [j] ∧
        ∀ p < 8, ∀ e < 288, holdsExtent (t.part p).record e = (holdsExtent (s.part p).record e && stackOf (e * 2 ^ 30) != j))
  | .lane l n => RepairFrame s t ∧ t.hub.deadLanes = s.hub.deadLanes ++ [(l, n)]
  | .consumed _ _ _ => RepairFrame s t

/-- The four banks of a slice. -/
theorem retireSlice_banks (s : State) (n b : Nat) :
    b ∈ (retireSlice s n).hub.absentBanks ↔ b ∈ s.hub.absentBanks ∨ b / 4 = n := by
  have hfour : b ∈ (List.range 4).map (fun i => 4 * n + i) ↔ b / 4 = n := by
    simp only [List.mem_map, List.mem_range]
    exact ⟨fun ⟨i, hi, h⟩ => by omega, fun h => ⟨b % 4, by omega, by omega⟩⟩
  show b ∈ s.hub.absentBanks ++ _ ↔ _
  rw [List.mem_append, List.mem_filter, hfour]
  simp only [Bool.not_eq_true', List.contains_eq_mem, decide_eq_false_iff_not]
  tauto

/-- A stack's channel has one spare; the second loss takes the stack (R405). -/
theorem retireUnit_channel (s : State) (j c : Nat) : retireUnit s (.hbmChannel j c) =
    if sparesUsed s (16 + j) = 0 then useSpare s (16 + j) else useSpare (loseStack s j) (16 + j) := rfl

theorem retireChannel_retires (s : State) (j c : Nat) : UnitRetires s (retireUnit s (.hbmChannel j c)) (.hbmChannel j c) := by
  by_cases h0 : sparesUsed s (16 + j) = 0
  · rw [retireUnit_channel, if_pos h0]
    exact ⟨sparesUsed_useSpare .., fun _ => ⟨⟨rfl, rfl, rfl, rfl, rfl, rfl⟩, rfl⟩, fun h => absurd h0 h⟩
  · rw [retireUnit_channel, if_neg h0]
    refine ⟨?_, fun h => absurd h h0, fun _ hj => ?_⟩
    · rw [sparesUsed_useSpare]
      obtain ⟨ps, l, h⟩ := loseStack_frame s j
      rw [h]
      rfl
    · obtain ⟨⟨ps, h⟩, hrec⟩ := loseStack_loses s j hj
      refine ⟨congrArg (fun u : State => u.hub.lostStacks) h, fun p hp e he => ?_⟩
      rw [← holdsExtent_lost _ _ _ he, ← hrec p hp]
      rfl

theorem retireUnit_retires (s : State) (u : HwUnit) : UnitRetires s (retireUnit s u) u := by
  cases u with
  | core c => exact retireCore_retires s c
  | slice n => exact ⟨⟨rfl, rfl, rfl, rfl, rfl, rfl⟩, retireSlice_banks s n⟩
  | hbmRow j r => exact ⟨⟨rfl, rfl, rfl, rfl, rfl, rfl⟩, rfl⟩
  | hbmChannel j c => exact retireChannel_retires s j c
  | lane l n => exact ⟨⟨rfl, rfl, rfl, rfl, rfl, rfl⟩, rfl⟩
  | consumed c k a => exact repairFrame_refl s

end Sys2Proof.Machine
end

section
/-! SUPPORT. The errors that retire a unit or reach a slot (R338, R405), and the retirement that the mailbox asks for. -/

namespace Sys2Proof.Machine

/-! ## Corrected errors (R405) -/

theorem retireCore_errors (s : State) (c : Nat) : (retireCore s c).hub.errors = s.hub.errors := by
  cases hp : s.present c with
  | false => rw [retireCore_absent hp]
  | true => cases hr : s.hub.retiring.contains c with
    | false =>
      rw [retireCore_first hp hr]
      obtain ⟨a, ha, -⟩ := postErrors_posts c (workingOn (retireBegun s c) c) (raiseRetired (retireBegun s c) c 16)
      obtain ⟨⟨sl, hsl⟩, -⟩ := raiseRetired_tells c 16 (retireBegun s c)
      rw [ha, hsl]
      rfl
    | true =>
      by_cases hw : workingOn s c = []
      · rw [retireCore_replaces hp hr hw]
        obtain ⟨⟨cs, m, r, x, d, i, sp, hframe⟩, -⟩ := replaceCore_replaces s c
        rw [hframe]
      · rw [retireCore_waits hp hr hw]
        rfl

/-- A retirement counts no errors. -/
theorem retireUnit_errors (s : State) (u : HwUnit) : (retireUnit s u).hub.errors = s.hub.errors := by
  cases u with
  | core c => exact retireCore_errors s c
  | slice n => rfl
  | hbmRow j r => rfl
  | hbmChannel j c =>
    rw [retireUnit_channel]
    split
    · rfl
    · obtain ⟨ps, l, h⟩ := loseStack_frame s j
      rw [h]
      rfl
  | lane l n => rfl
  | consumed c k a => rfl

/-- The errors of a unit in the last 24 hours, with one now. -/
def errorsNow (s : State) (u : HwUnit) : List Nat :=
  ((look s.hub.errors [] (unitKey u)).filter fun t => decide (s.tick < t + 86400000000000)) ++ [s.tick]

/-- The state with a further error of a unit counted. -/
def errorCounted (s : State) (u : HwUnit) : State :=
  { s with hub := { s.hub with errors := put s.hub.errors (unitKey u) (errorsNow s u) } }

/-- What a retirement does is the same whether or not the error has been counted. -/
theorem unitRetires_of_counted {s t : State} {u : HwUnit} (h : UnitRetires (errorCounted s u) t u) : UnitRetires s t u := by
  cases u <;> exact h

theorem softError_starting {s : State} (u : HwUnit) (h : s.hub.activating ≠ none) : exec (.softError u) s =
    .next (if queuedErrors s < 64 then { s with hub := { s.hub with waitingCmds := s.hub.waitingCmds ++ [.softError u] } } else s) :=
  if_pos (Option.isSome_iff_ne_none.mpr h)

/-- An error counts, and the unit retires with more than 16 in 24 hours. -/
theorem softError_counts {s : State} (u : HwUnit) (h : s.hub.activating = none) : ∃ t, exec (.softError u) s = .next t ∧
    look t.hub.errors [] (unitKey u) = errorsNow s u ∧ ((errorsNow s u).length ≤ 16 → RepairFrame s t ∧ t.agenda = s.agenda) ∧
    (16 < (errorsNow s u).length → UnitRetires s t u) := by
  have hcounts : exec (.softError u) s =
      .next (if 16 < (errorsNow s u).length then retireUnit (errorCounted s u) u else errorCounted s u) :=
    if_neg (by rw [h]; decide)
  by_cases hmany : 16 < (errorsNow s u).length
  · rw [if_pos hmany] at hcounts
    refine ⟨_, hcounts, ?_, fun hfew => absurd hmany (Nat.not_lt.mpr hfew), fun _ =>
      unitRetires_of_counted (retireUnit_retires ..)⟩
    rw [retireUnit_errors]
    exact look_put_same ..
  · rw [if_neg hmany] at hcounts
    exact ⟨_, hcounts, look_put_same .., fun _ => ⟨repairFrame_refl s, rfl⟩, fun hm => absurd hm hmany⟩

/-! ## Uncorrectable errors (R338, R405) -/

/-- A slot whose access consumed the data no longer waits for it. -/
def accessAborted (sl : Slot) : Slot :=
  if sl.wait = some .access then { sl with wait := none, st := .ready, answer := none } else sl

theorem accessAborted_causes (sl : Slot) : (accessAborted sl).causes = sl.causes := by
  unfold accessAborted
  split <;> rfl

theorem accessAborted_tx (sl : Slot) : (accessAborted sl).tx = sl.tx := by
  unfold accessAborted
  split <;> rfl

theorem consumedError_dead {s : State} {c k : Nat} (a : Nat) (h : (s.slot (slotKey c k)).st = .free ∨
    (s.slot (slotKey c k)).st = .away) : exec (.uncorrectableError (.consumed c k a)) s = .next s :=
  congrArg Host.Outcome.next (if_pos h)

/-- The slot that consumed the data has the cause, and its transactions are told. -/
theorem consumedError_raises {s : State} {c k : Nat} (a : Nat) (hf : (s.slot (slotKey c k)).st ≠ .free)
    (ha : (s.slot (slotKey c k)).st ≠ .away) : let sl := s.slot (slotKey c k)
    ∃ t, exec (.uncorrectableError (.consumed c k a)) s = .next t ∧ t.devMem = s.devMem ∧
      (∀ x, x ≠ slotKey c k → t.slot x = s.slot x) ∧
      t.slot (slotKey c k) = { accessAborted sl with causes := sl.causes ++ [⟨0xC1, BitVec.ofNat 64 a, false⟩] } ∧
      ∀ x, sl.tx = some x → .txHardwareError x (slotKey c k / 16) ∈ t.agenda := by
  intro sl
  have hexec : exec (.uncorrectableError (.consumed c k a)) s = .next (hardwareCause
      (s.setSlot (slotKey c k) (accessAborted sl)) (slotKey c k) 0xC1 (BitVec.ofNat 64 a)) :=
    congrArg Host.Outcome.next (if_neg (not_or.mpr ⟨hf, ha⟩))
  obtain ⟨⟨ss, g, hframe⟩, hothers, hslot, htold⟩ :=
    hardwareCause_raises (s.setSlot (slotKey c k) (accessAborted sl)) (slotKey c k) 0xC1 (BitVec.ofNat 64 a)
  rw [slot_setSlot_same] at hslot htold
  refine ⟨_, hexec, ?_, fun x hx => (hothers x hx).trans (slot_setSlot_ne s _ hx), ?_, fun x hx => htold x ?_⟩
  · rw [hframe]
    rfl
  · rw [hslot, accessAborted_causes]
  · rw [accessAborted_tx, hx]

theorem uncorrectableError_due {s : State} {u : HwUnit} (hu : ∀ c k a, u ≠ .consumed c k a) :
    exec (.uncorrectableError u) s = .next (dueRetirement s u) := by
  cases u with
  | consumed c k a => exact absurd rfl (hu c k a)
  | core c => rfl
  | slice n => rfl
  | hbmRow j r => rfl
  | hbmChannel j c => rfl
  | lane l n => rfl

/-- An uncorrectable error of a unit queues its retirement while a new Starter starts. -/
theorem uncorrectableError_starting {s : State} {u : HwUnit} (hu : ∀ c k a, u ≠ .consumed c k a) (h : s.hub.activating ≠ none) :
    exec (.uncorrectableError u) s = .next { s with hub := { s.hub with waitingCmds := s.hub.waitingCmds ++ [.retire u] } } :=
  (uncorrectableError_due hu).trans (congrArg Host.Outcome.next (if_pos (Option.isSome_iff_ne_none.mpr h)))

theorem uncorrectableError_retires {s : State} {u : HwUnit} (hu : ∀ c k a, u ≠ .consumed c k a) (h : s.hub.activating = none) :
    ∃ t, exec (.uncorrectableError u) s = .next t ∧ UnitRetires s t u :=
  ⟨_, (uncorrectableError_due hu).trans (congrArg Host.Outcome.next (if_neg (by rw [h]; decide))), retireUnit_retires s u⟩

/-! ## Retirement by command (R405, R407) -/

theorem unitRetires_mailStatus {s t : State} {u : HwUnit} (st : MailStatus) (h : UnitRetires s t u) :
    UnitRetires s (mailStatus t st) u := by
  cases u <;> exact h

theorem retire_retires {s : State} (h : MailOpen s) (u : HwUnit) : ∃ t, exec (.retire u) s = .next t ∧ t.hub.status = .done ∧
    UnitRetires s t u := by
  have hunit := retireUnit_retires s u
  have hexec : exec (.retire u) s = .next (mailStatus (retireUnit s u) .done) := by
    rw [exec_retire, execRetire, mailbox_open h]
  rw [hexec]
  generalize retireUnit s u = t at hunit ⊢
  exact ⟨_, rfl, rfl, unitRetires_mailStatus .done hunit⟩

/-! ## Firmware (R406, R407) -/

/-- What an image has to be to be accepted. -/
theorem imageOk_iff (i : FwImage) (n : Nat) : imageOk i n = true ↔ Config.signatureOk i.header = true ∧
    n ≤ (i.header.extractLsb' 128 32).toNat ∧
    Config.sha3 (i.body.take (i.header.extractLsb' 192 64).toNat) = i.header.extractLsb' 256 256 ∧
    i.header.extractLsb' 20128 12640 = 0 := by
  show imageOk i n = true ↔ _ ∧ n ≤ imageSvn i ∧ _ ∧ _
  simp only [imageOk, Bool.and_eq_true, beq_iff_eq, decide_eq_true_eq]
  tauto

theorem fwStage_stages {s : State} (h : MailOpen s) (i : FwImage) : ∃ t, exec (.fwStage i) s = .next t ∧ inactiveImage t.hub = i ∧
    activeImage t.hub = activeImage s.hub ∧ t.hub.staged = imageOk i s.hub.svn ∧
    t.hub.status = (if imageOk i s.hub.svn then .done else .refused) ∧ RepairFrame s t := by
  rw [exec_fwStage, execFwStage, mailbox_open h]
  refine ⟨_, rfl, ?_⟩
  cases hb : s.hub.activeB with
  | false => simp [inactiveImage, activeImage, mailStatus, hb, RepairFrame]
  | true => simp [inactiveImage, activeImage, mailStatus, hb, RepairFrame]

theorem fwActivate_unstaged {s : State} (h : MailOpen s) (hs : s.hub.staged = false) :
    exec .fwActivate s = .next { s with hub := { s.hub with status := .refused } } := by
  rw [exec_fwActivate, execFwActivate, mailbox_open h]
  exact congrArg Host.Outcome.next (if_pos (by rw [hs]; rfl))

theorem fwActivate_switches {s : State} (h : MailOpen s) (hs : s.hub.staged = true) : ∃ t, exec .fwActivate s = .next t ∧
    t.hub = { s.hub with
      status := .done, activeB := !s.hub.activeB, activating := some s.tick, ready := s.hub.ready &&& ~~~1#64 } ∧
    .starterReady ∈ t.agenda ∧ .fwActivateTimeout ∈ t.agenda ∧ RepairFrame s t := by
  rw [exec_fwActivate, execFwActivate, mailbox_open h]
  refine ⟨_, congrArg Host.Outcome.next (if_neg (by rw [hs]; decide)), rfl, ?_, mem_post .., repairFrame_refl s⟩
  exact List.mem_append_left _ (mem_post ..)

theorem fwCommit_raises {s : State} (h : MailOpen s) : exec .fwCommit s =
    .next { s with hub := { s.hub with svn := max s.hub.svn (imageSvn (activeImage s.hub)), status := .done } } := by
  rw [exec_fwCommit, execFwCommit, mailbox_open h]
  rfl

theorem journalClear_clears {s : State} (h : MailOpen s) :
    exec .journalClear s = .next { s with hub := { s.hub with journal := [], status := .done } } := by
  rw [exec_journalClear, execJournalClear, mailbox_open h]
  rfl

theorem starter_running {s : State} (h : s.hub.activating = none) :
    exec .starterReady s = .next s ∧ exec .fwActivateTimeout s = .next s := by
  simp only [exec_starterReady, execStarterReady, exec_fwActivateTimeout, execFwActivateTimeout, h, Option.isSome_none,
    Bool.false_eq_true, if_false, and_self]

/-- A starting Starter gets ready, has time yet, or gives way to the old slot. -/
theorem starter_starting {s : State} {a : Nat} (hs : s.hub.activating = some a) :
    let h := { s.hub with activating := none, ready := s.hub.ready ||| 1, waitingCmds := [] }
    exec .starterReady s = .next { s with agenda := s.agenda ++ s.hub.waitingCmds, hub := h } ∧
    (s.tick < a + 2000000000 → ∃ g, exec .fwActivateTimeout s = .next { s with agenda := g } ∧ .fwActivateTimeout ∈ g) ∧
    (a + 2000000000 ≤ s.tick → exec .fwActivateTimeout s = .next { s with
      agenda := s.agenda ++ s.hub.waitingCmds, hub := { h with activeB := !s.hub.activeB } }) := by
  simp only [exec_starterReady, execStarterReady, exec_fwActivateTimeout, execFwActivateTimeout, hs]
  refine ⟨rfl, fun hlt => ?_, fun hle => ?_⟩
  · obtain ⟨g, hg, hmem⟩ := postOnce_cases s .fwActivateTimeout
    rw [if_pos hlt, hg]
    exact ⟨g, rfl, hmem⟩
  · rw [if_neg (Nat.not_lt.mpr hle)]
    rfl

end Sys2Proof.Machine
end

section
/-! SUPPORT. The fields of the attestation report (R408). -/

namespace Sys2Proof.Machine

/-! ## Little-endian fields of a string of bytes (R2) -/

theorem bytesToNat_natToBytes_mod (n v : Nat) : bytesToNat (natToBytes n v) = v % 256 ^ n := by
  induction n generalizing v with
  | zero => rw [Nat.pow_zero, Nat.mod_one]; rfl
  | succ n ih =>
    rw [natToBytes, bytesToNat, ih, BitVec.toNat_ofNat, Nat.pow_succ' (m := 256), Nat.mod_mul (a := 256)]

/-- The number in `k` bytes from byte `o` on. -/
def fieldAt (b : List Byte) (o k : Nat) : Nat := bytesToNat ((b.drop o).take k)

theorem fieldAt_first (k v : Nat) (l : List Byte) : fieldAt (natToBytes k v ++ l) 0 k = v % 256 ^ k := by
  rw [fieldAt, List.drop_zero, List.take_left' (natToBytes_length k v), bytesToNat_natToBytes_mod]

theorem fieldAt_skip (m v o k : Nat) (l : List Byte) : fieldAt (natToBytes m v ++ l) (o + m) k = fieldAt l o k := by
  rw [fieldAt, Nat.add_comm, ← List.drop_drop, List.drop_left' (natToBytes_length m v), fieldAt]

/-- The string of the report's fields (R408). -/
def reportOf (nonce active inactive parts repair image minimum serial : Nat) : List Byte :=
  natToBytes 32 nonce ++ (natToBytes 32 active ++ (natToBytes 32 inactive ++ (natToBytes 32 parts ++ (natToBytes 32 repair ++
    (natToBytes 4 image ++ (natToBytes 4 minimum ++ (natToBytes 16 serial ++ [])))))))

/-- Each field stands at its place. -/
theorem reportOf_fields (n a i p r v w z : Nat) : let b := reportOf n a i p r v w z
    b.length = 184 ∧ fieldAt b 0 32 = n % 256 ^ 32 ∧ fieldAt b 32 32 = a % 256 ^ 32 ∧ fieldAt b 64 32 = i % 256 ^ 32 ∧
      fieldAt b 96 32 = p % 256 ^ 32 ∧ fieldAt b 160 4 = v % 256 ^ 4 ∧ fieldAt b 164 4 = w % 256 ^ 4 ∧
      fieldAt b 168 16 = z % 256 ^ 16 := by
  have skip (o k m : Nat) (l : List Byte) (h : m ≤ o) (x : Nat) : fieldAt (natToBytes m x ++ l) o k = fieldAt l (o - m) k := by
    rw [← fieldAt_skip m x (o - m) k l, Nat.sub_add_cancel h]
  refine ⟨by simp [reportOf], fieldAt_first .., ?_, ?_, ?_, ?_, ?_, ?_⟩ <;>
    simp [reportOf, skip, fieldAt_first, -List.append_nil]

/-- The report's body is made of these fields. -/
theorem reportBody_eq (s : State) (n : Nat) : reportBody s n = reportOf n (Config.sha3 (imageBytes (activeImage s.hub))).toNat
    (Config.sha3 (imageBytes (inactiveImage s.hub))).toNat
    (Config.sha3 ((List.range 8).flatMap fun k => natToBytes 64 (s.part k).record.toNat)).toNat
    (Config.sha3 (repairBytes s.hub)).toNat (imageSvn (activeImage s.hub)) s.hub.svn Config.serial.toNat := by
  simp only [reportBody, reportOf, List.append_assoc, List.append_nil]

/-- The answer is a signed report of the nonce, the two slots, the partition records, the numbers and the serial. -/
theorem attest_reports {s : State} (h : MailOpen s) (n : Nat) :
    ∃ b sig, exec (.attest n) s = .next { s with hub := { s.hub with answer := b ++ sig, status := .done } } ∧
      sig = Config.sign b ∧ b.length = 184 ∧ fieldAt b 0 32 = n % 2 ^ 256 ∧
      fieldAt b 32 32 = (Config.sha3 (imageBytes (activeImage s.hub))).toNat ∧
      fieldAt b 64 32 = (Config.sha3 (imageBytes (inactiveImage s.hub))).toNat ∧
      fieldAt b 96 32 = (Config.sha3 ((List.range 8).flatMap fun k => natToBytes 64 (s.part k).record.toNat)).toNat ∧
      fieldAt b 160 4 = imageSvn (activeImage s.hub) ∧ fieldAt b 164 4 = s.hub.svn % 2 ^ 32 ∧
      fieldAt b 168 16 = Config.serial.toNat := by
  have hexec : exec (.attest n) s = .next { s with hub := { s.hub with
      answer := reportBody s n ++ Config.sign (reportBody s n), status := .done } } := by
    rw [exec_attest, execAttest, mailbox_open h]
    rfl
  have digest_mod (x : BitVec 256) : x.toNat % 256 ^ 32 = x.toNat := Nat.mod_eq_of_lt x.isLt
  have svn_mod : imageSvn (activeImage s.hub) % 256 ^ 4 = imageSvn (activeImage s.hub) :=
    Nat.mod_eq_of_lt (((activeImage s.hub).header.extractLsb' 128 32).isLt)
  have serial_mod : Config.serial.toNat % 256 ^ 16 = Config.serial.toNat := Nat.mod_eq_of_lt Config.serial.isLt
  refine ⟨reportBody s n, _, hexec, rfl, ?_⟩
  rw [reportBody_eq]
  have hfields := reportOf_fields n (Config.sha3 (imageBytes (activeImage s.hub))).toNat
    (Config.sha3 (imageBytes (inactiveImage s.hub))).toNat
    (Config.sha3 ((List.range 8).flatMap fun k => natToBytes 64 (s.part k).record.toNat)).toNat
    (Config.sha3 (repairBytes s.hub)).toNat (imageSvn (activeImage s.hub)) s.hub.svn Config.serial.toNat
  simp only [digest_mod, svn_mod, serial_mod] at hfields
  exact hfields

end Sys2Proof.Machine
end

section
/-! SUPPORT. Bring-up (R409, R410): the READY bits, what a step passed over or passed does, and the step that runs next. -/

namespace Sys2Proof.Machine

/-! ## READY (R409) -/

theorem ready_setReady (s : State) {b : Nat} (hb : b < 64) (x : Nat) :
    (setReady s b).hub.ready.getLsbD x = (s.hub.ready.getLsbD x || decide (x = b)) := by
  show (s.hub.ready ||| BitVec.ofNat 64 (2 ^ b)).getLsbD x = _
  rw [BitVec.getLsbD_or, BitVec.getLsbD_ofNat, Nat.testBit_two_pow]
  congr 1
  by_cases hx : x = b
  · subst hx
    simp [hb]
  · simp [hx, Ne.symm hx]

/-! ## Steps passed over (R410) -/

/-- What a pass over steps leaves alone: all but the cores, the partitions and READY's bits 1 and 2, which may be set. -/
structure PassedOver (s t : State) : Prop where
  slots : t.slots = s.slots
  devMem : t.devMem = s.devMem
  tick : t.tick = s.tick
  journal : t.hub.journal = s.hub.journal
  activeB : t.hub.activeB = s.hub.activeB
  deadLanes : t.hub.deadLanes = s.hub.deadLanes
  mpod : t.hub.mpod = s.hub.mpod
  kept : ∀ b, s.hub.ready.getLsbD b = true → t.hub.ready.getLsbD b = true
  same : ∀ b, b ≠ 1 → b ≠ 2 → t.hub.ready.getLsbD b = s.hub.ready.getLsbD b

theorem PassedOver.refl (s : State) : PassedOver s s := ⟨rfl, rfl, rfl, rfl, rfl, rfl, rfl, fun _ h => h, fun _ _ _ => rfl⟩

theorem PassedOver.trans {s t u : State} (h : PassedOver s t) (g : PassedOver t u) : PassedOver s u where
  slots := g.slots.trans h.slots
  devMem := g.devMem.trans h.devMem
  tick := g.tick.trans h.tick
  journal := g.journal.trans h.journal
  activeB := g.activeB.trans h.activeB
  deadLanes := g.deadLanes.trans h.deadLanes
  mpod := g.mpod.trans h.mpod
  kept b hb := g.kept b (h.kept b hb)
  same b h1 h2 := (g.same b h1 h2).trans (h.same b h1 h2)

theorem setAbsent_cores (l : List Nat) (s : State) : ∃ cs, setAbsent s l = { s with cores := cs } := by
  induction l generalizing s with
  | nil => exact ⟨s.cores, rfl⟩
  | cons c l ih => exact ih (s.setCore c { s.core c with absent := true })

theorem skipStep_passedOver (s : State) (c : Nat) : PassedOver s (skipStep s c) := by
  unfold skipStep
  split
  · obtain ⟨ps, l, h⟩ := loseStack_frame s (c % 32)
    rw [h]
    exact ⟨rfl, rfl, rfl, rfl, rfl, rfl, rfl, fun _ h => h, fun _ _ _ => rfl⟩
  · obtain ⟨cs, h⟩ := setAbsent_cores ((List.range 128).map fun i => 128 * (c % 32) + i) s
    rw [h]
    exact ⟨rfl, rfl, rfl, rfl, rfl, rfl, rfl, fun _ h => h, fun _ _ _ => rfl⟩
  · exact .refl s

/-- After the last of the core tests the sequencer and the Peel are ready (R409). -/
theorem ready_afterStep (s : State) (c x : Nat) :
    (afterStep s c).hub.ready.getLsbD x = (s.hub.ready.getLsbD x || decide (x ∈ if c = 131 then [1, 2] else [])) := by
  unfold afterStep
  split
  · rw [ready_setReady _ (by decide), ready_setReady _ (by decide), Bool.or_assoc]
    simp
  · simp

theorem afterStep_passedOver (s : State) (c : Nat) : PassedOver s (afterStep s c) := by
  have hframe : ∃ r, afterStep s c = { s with hub := { s.hub with ready := r } } := by
    unfold afterStep
    split
    · exact ⟨_, rfl⟩
    · exact ⟨s.hub.ready, rfl⟩
  have hready := ready_afterStep s c
  obtain ⟨r, h⟩ := hframe
  rw [h] at hready ⊢
  refine ⟨rfl, rfl, rfl, rfl, rfl, rfl, rfl, fun b hb => ?_, fun b h1 h2 => ?_⟩
  · rw [hready, hb, Bool.true_or]
  · rw [hready]
    split <;> simp [h1, h2]

/-! ## The step that runs next (R410) -/

/-- The first step that the journal does not skip has begun, or with none left the bring-up is over. -/
def NextBegun (t : State) (tick : Nat) (j : List JournalEntry) (cs : List Nat) : Prop :=
  (cs.find? (fun c => (stepPath j c).isSome) = none → t.hub.step = none ∧ .powerCapCheck ∈ t.agenda) ∧
  ∀ c, cs.find? (fun c => (stepPath j c).isSome) = some c → t.hub.step = some (c, (stepPath j c).getD true, tick) ∧
    (∃ ok, .bringupStepDone c ok ∈ t.agenda) ∧ .bringupStepTimeout c ∈ t.agenda

theorem runSteps_runs (cs : List Nat) (s : State) :
    PassedOver s (runSteps s cs) ∧ NextBegun (runSteps s cs) s.tick s.hub.journal cs := by
  induction cs generalizing s with
  | nil =>
    exact ⟨⟨rfl, rfl, rfl, rfl, rfl, rfl, rfl, fun _ h => h, fun _ _ _ => rfl⟩, fun _ => ⟨rfl, mem_post ..⟩,
      fun c h => absurd h (by simp)⟩
  | cons c cs ih =>
    cases hp : stepPath s.hub.journal c with
    | none =>
      have hrun : runSteps s (c :: cs) = runSteps (afterStep (skipStep s c) c) cs := by rw [runSteps, hp]
      have hskip := (skipStep_passedOver s c).trans (afterStep_passedOver _ c)
      obtain ⟨hover, hnext⟩ := ih (afterStep (skipStep s c) c)
      rw [hskip.tick, hskip.journal] at hnext
      rw [hrun, NextBegun, List.find?_cons_of_neg (by simp [hp])]
      exact ⟨hskip.trans hover, hnext⟩
    | some pr =>
      let u : State := { s with hub := { s.hub with step := some (c, pr, s.tick) } }
      have hrun : runSteps s (c :: cs) =
          (u.draw.post (.bringupStepDone c (Config.freeBool s.draws))).post (.bringupStepTimeout c) := by
        rw [runSteps, hp]
      rw [hrun, NextBegun, List.find?_cons_of_pos (by simp [hp])]
      refine ⟨⟨rfl, rfl, rfl, rfl, rfl, rfl, rfl, fun _ h => h, fun _ _ _ => rfl⟩, fun h => absurd h (by simp), fun x hx => ?_⟩
      obtain rfl := Option.some.inj hx
      rw [hp]
      exact ⟨rfl, ⟨_, List.mem_append_left _ (mem_post ..)⟩, mem_post ..⟩

/-! ## A step that passed (R409, R410) -/

/-- The bits that a step that passed sets, besides those of the sequencer and the Peel. -/
def passBits (c : Nat) (pr : Bool) : List Nat := match c / 32 with
  | 1 => [0] | 2 => [14 + c % 32] | 3 => [10 + c % 32] | 5 => if pr then [7, 8, 9] else [7] | 6 => [22 + c % 32]
  | 7 => if pr then [38] else [] | 8 => [39] | _ => []

/-- What a step that passed on a path does. -/
structure StepPassed (s t : State) (c : Nat) (pr : Bool) : Prop where
  slots : t.slots = s.slots
  devMem : NoLines s → t.devMem = s.devMem
  tick : t.tick = s.tick
  journal : t.hub.journal = s.hub.journal
  ready : ∀ b, t.hub.ready.getLsbD b = (s.hub.ready.getLsbD b || decide (b ∈ passBits c pr))
  activeB : t.hub.activeB = if c = 32 ∧ pr = false then !s.hub.activeB else s.hub.activeB
  deadLanes : t.hub.deadLanes = s.hub.deadLanes ++ (if c / 32 = 6 ∧ pr = false then [(c % 32, 3)] else [])
  mpod : t.hub.mpod = if c = 224 ∧ pr = false then s.hub.mpod &&& ~~~0x8000#64 else s.hub.mpod

/-- The kinds of steps, with the numbers of their bits in range. -/
theorem bringupSteps_kinds : ∀ c ∈ bringupSteps, c ≠ 0 ∧
    (c / 32 = 1 ∧ c = 32 ∨ c / 32 = 2 ∧ c % 32 < 8 ∨ c / 32 = 3 ∧ c % 32 < 4 ∨
    c / 32 = 4 ∨ c / 32 = 5 ∨ c / 32 = 6 ∧ c % 32 < 16 ∨ c / 32 = 7 ∧ c = 224 ∨ c / 32 = 8) := by decide

/-! The kinds one by one. -/

/-- Starter's step; its alternate path is the other slot. -/
theorem starterStep_passed (s : State) (pr : Bool) : StepPassed s (passStep s 32 pr) 32 pr := by
  have hready (w : State) (x : Nat) : (setReady w 0).hub.ready.getLsbD x = (w.hub.ready.getLsbD x || decide (x ∈ passBits 32 pr)) := by
    rw [ready_setReady w (by decide)]
    simp [passBits]
  cases pr with
  | true => exact ⟨rfl, fun _ => rfl, rfl, rfl, hready _, rfl, (List.append_nil _).symm, rfl⟩
  | false => exact ⟨rfl, fun _ => rfl, rfl, rfl, hready _, rfl, (List.append_nil _).symm, rfl⟩

/-- A step of another kind than Starter's, the links' and the pod's that sets one bit. -/
theorem setReady_passed (s : State) {c b : Nat} {pr : Bool} (hb : b < 64) (hbits : passBits c pr = [b])
    (h1 : ¬ (c = 32 ∧ pr = false)) (h6 : ¬ (c / 32 = 6 ∧ pr = false)) (h7 : ¬ (c = 224 ∧ pr = false)) :
    StepPassed s (setReady s b) c pr where
  slots := rfl
  devMem _ := rfl
  tick := rfl
  journal := rfl
  ready x := by rw [ready_setReady s hb, hbits]; simp
  activeB := (if_neg h1).symm
  deadLanes := by rw [if_neg h6, List.append_nil]; rfl
  mpod := (if_neg h7).symm

/-- A die's step; its alternate path is a spare core. -/
theorem dieStep_passed (s : State) {c : Nat} (pr : Bool) (hk : c / 32 = 3) (hu : c % 32 < 4) : StepPassed s (passStep s c pr) c pr := by
  have hpass : passStep s c pr = setReady (if pr then s
      else replaceCore s.draw (128 * (c % 32) + Config.choose s.draws % 128)) (10 + c % 32) := by
    simp only [passStep, hk]
  have hone (w : State) : StepPassed w (setReady w (10 + c % 32)) c pr :=
    setReady_passed w (by omega) (by simp only [passBits, hk]) (by omega) (by omega) (by omega)
  rw [hpass]
  cases pr with
  | true => exact hone s
  | false =>
    obtain ⟨⟨cs, m, r, x, d, i, sp, hframe⟩, hmem, -⟩ :=
      replaceCore_replaces s.draw (128 * (c % 32) + Config.choose s.draws % 128)
    have hpassed := hone (replaceCore s.draw (128 * (c % 32) + Config.choose s.draws % 128))
    rw [if_neg Bool.false_ne_true]
    generalize replaceCore s.draw (128 * (c % 32) + Config.choose s.draws % 128) = w at hframe hmem hpassed ⊢
    exact
      { slots := hpassed.slots.trans (by rw [hframe]; rfl)
        devMem := fun hn => hmem hn
        tick := hpassed.tick.trans (by rw [hframe]; rfl)
        journal := hpassed.journal.trans (by rw [hframe]; rfl)
        ready := by rw [show s.hub.ready = w.hub.ready by rw [hframe]; rfl]; exact hpassed.ready
        activeB := by rw [show s.hub.activeB = w.hub.activeB by rw [hframe]; rfl]; exact hpassed.activeB
        deadLanes := by rw [show s.hub.deadLanes = w.hub.deadLanes by rw [hframe]; rfl]; exact hpassed.deadLanes
        mpod := by rw [show s.hub.mpod = w.hub.mpod by rw [hframe]; rfl]; exact hpassed.mpod }

/-- The host's step sets three bits, on its alternate path one. -/
theorem hostStep_passed (s : State) {c : Nat} (pr : Bool) (hk : c / 32 = 5) : StepPassed s (passStep s c pr) c pr := by
  have hpass : passStep s c pr = if pr then setReady (setReady (setReady s 7) 8) 9 else setReady s 7 := by
    simp only [passStep, hk]
  rw [hpass]
  cases pr with
  | true =>
    have hbits : passBits c true = [7, 8, 9] := by simp only [passBits, hk, if_true]
    refine ⟨rfl, fun _ => rfl, rfl, rfl, fun x => ?_, by simp; rfl, by simp; rfl, by simp; rfl⟩
    rw [if_pos rfl, ready_setReady _ (by decide), ready_setReady _ (by decide), ready_setReady _ (by decide), hbits,
      Bool.or_assoc, Bool.or_assoc]
    simp
  | false => exact setReady_passed s (by decide) (by simp [passBits, hk]) (by omega) (by omega) (by omega)

/-- A link's step; its alternate path leaves out the fourth lane. -/
theorem linkStep_passed (s : State) {c : Nat} (pr : Bool) (hk : c / 32 = 6) (hu : c % 32 < 16) :
    StepPassed s (passStep s c pr) c pr := by
  have hpass : passStep s c pr = setReady (if pr then s
      else { s with hub := { s.hub with deadLanes := s.hub.deadLanes ++ [(c % 32, 3)] } }) (22 + c % 32) := by
    simp only [passStep, hk]
  have hbits : passBits c pr = [22 + c % 32] := by simp only [passBits, hk]
  have hready (w : State) (x : Nat) : (setReady w (22 + c % 32)).hub.ready.getLsbD x =
      (w.hub.ready.getLsbD x || decide (x ∈ passBits c pr)) := by
    rw [ready_setReady w (by omega), hbits]
    simp
  rw [hpass]
  cases pr with
  | true => exact ⟨rfl, fun _ => rfl, rfl, rfl, hready s, (if_neg (by omega)).symm, by simp; rfl, (if_neg (by omega)).symm⟩
  | false =>
    refine ⟨rfl, fun _ => rfl, rfl, rfl, hready _, (if_neg (by omega)).symm, ?_, (if_neg (by omega)).symm⟩
    rw [if_neg Bool.false_ne_true, if_pos ⟨hk, rfl⟩]
    rfl

/-- The pod's step; its alternate path clears MEMBER. -/
theorem podStep_passed (s : State) (pr : Bool) : StepPassed s (passStep s 224 pr) 224 pr := by
  cases pr with
  | true =>
    refine ⟨rfl, fun _ => rfl, rfl, rfl, fun x => ?_, rfl, (List.append_nil _).symm, rfl⟩
    show (setReady s 38).hub.ready.getLsbD x = _
    rw [ready_setReady s (by decide)]
    simp [passBits]
  | false => exact ⟨rfl, fun _ => rfl, rfl, rfl, fun x => (Bool.or_false _).symm, rfl, (List.append_nil _).symm, rfl⟩

theorem passStep_passed (s : State) {c : Nat} (pr : Bool) (hc : c ∈ bringupSteps) : StepPassed s (passStep s c pr) c pr := by
  obtain ⟨-, ⟨-, rfl⟩ | ⟨hk, hu⟩ | ⟨hk, hu⟩ | hk | hk | ⟨hk, hu⟩ | ⟨-, rfl⟩ | hk⟩ := bringupSteps_kinds c hc
  case inr.inl =>
    have hpass : passStep s c pr = setReady s (14 + c % 32) := by simp only [passStep, hk]
    rw [hpass]
    exact setReady_passed s (by omega) (by simp only [passBits, hk]) (by omega) (by omega) (by omega)
  · exact starterStep_passed s pr
  · exact dieStep_passed s pr hk hu
  · have hpass : passStep s c pr = s := by simp only [passStep, hk]
    have hbits : passBits c pr = [] := by simp only [passBits, hk]
    rw [hpass]
    exact ⟨rfl, fun _ => rfl, rfl, rfl, fun b => by rw [hbits]; simp, (if_neg (by omega)).symm, by
      rw [if_neg (by omega), List.append_nil], (if_neg (by omega)).symm⟩
  · exact hostStep_passed s pr hk
  · exact linkStep_passed s pr hk hu
  · exact podStep_passed s pr
  · have hpass : passStep s c pr = setReady s 39 := by simp only [passStep, hk]
    rw [hpass]
    exact setReady_passed s (by decide) (by simp only [passBits, hk]) (by omega) (by omega) (by omega)

end Sys2Proof.Machine
end

section
/-! SUPPORT. The events of bring-up (R410), and the obligation about repair, firmware, attestation and bring-up (O60). -/

namespace Sys2Proof.Machine

/-! ## The events of bring-up (R410) -/

/-- The bring-up goes on with the steps of a list under a journal. -/
def BringupGoes (s t : State) (j : List JournalEntry) (cs : List Nat) : Prop :=
  t.slots = s.slots ∧ (NoLines s → t.devMem = s.devMem) ∧ t.tick = s.tick ∧ NextBegun t s.tick j cs

theorem runSteps_bringupGoes (s : State) (cs : List Nat) : BringupGoes s (runSteps s cs) s.hub.journal cs :=
  have ⟨hover, hnext⟩ := runSteps_runs cs s
  ⟨hover.slots, fun _ => hover.devMem, hover.tick, hnext⟩

theorem bringup_begins {s : State} {pr : Bool} {a : Nat} (h : s.hub.step = some (0, pr, a)) :
    exec .bringup s = .next (runSteps s bringupSteps) := by
  simp only [exec_bringup, execBringup, h]

theorem bringup_idle {s : State} (h : ∀ pr a, s.hub.step ≠ some (0, pr, a)) : exec .bringup s = .next s := by
  rw [exec_bringup, execBringup]
  split
  · next hstep => exact absurd hstep (h _ _)
  · rfl

/-- The end of a step that does not run, or its limit, is late and changes nothing. -/
theorem step_late {s : State} {c : Nat} (ok : Bool) (h : c = 0 ∨ ∀ pr a, s.hub.step ≠ some (c, pr, a)) :
    exec (.bringupStepDone c ok) s = .next s ∧ exec (.bringupStepTimeout c) s = .next s := by
  simp only [exec_bringupStepDone, execBringupStepDone, exec_bringupStepTimeout, execBringupStepTimeout]
  cases hstep : s.hub.step with
  | none => exact ⟨rfl, rfl⟩
  | some x =>
    obtain ⟨now, pr, a⟩ := x
    have hother : now ≠ c ∨ c = 0 := by
      rcases h with h | h
      · exact .inr h
      · exact .inl fun hnow => h pr a (by rw [hstep, hnow])
    exact ⟨if_pos hother, if_pos hother⟩

/-- The device starts again after a step that failed. -/
def StepFailed (s t : State) (c : Nat) (pr : Bool) : Prop :=
  t.hub.journal = (writeJournal s c pr false).hub.journal ∧ t.hub.ready = 0 ∧ t.hub.step = some (0, true, 0) ∧
    t.agenda = [.bringup] ∧ t.slots = [] ∧ t.txs = [] ∧ t.tick = s.tick ∧ t.devMem = s.devMem ∧ t.hostMem = s.hostMem

theorem failStep_failed (s : State) (c : Nat) (pr : Bool) : StepFailed s (failStep s c pr) c pr := by
  obtain ⟨ps, h, -⟩ := startAgain_restarts (writeJournal s c pr false) (writeJournal s c pr false).devMem
  have hfail : failStep s c pr = { restarted (writeJournal s c pr false) s.devMem with parts := ps } := h
  rw [hfail]
  exact ⟨rfl, rfl, rfl, rfl, rfl, rfl, rfl, rfl, rfl⟩

section
variable {s : State} {c a : Nat} {pr : Bool} (hstep : s.hub.step = some (c, pr, a)) (h0 : c ≠ 0)
include hstep h0

theorem stepDone_failed : exec (.bringupStepDone c false) s = .next (failStep s c pr) := by
  simp only [exec_bringupStepDone, execBringupStepDone, hstep]
  exact (if_neg (by simp [h0])).trans (if_pos rfl)

theorem stepDone_passed : exec (.bringupStepDone c true) s = .next (runSteps
    (afterStep (passStep (writeJournal s c pr true) c pr) c) (bringupSteps.filter fun x => decide (c < x))) := by
  simp only [exec_bringupStepDone, execBringupStepDone, hstep]
  exact (if_neg (by simp [h0])).trans (if_neg Bool.false_ne_true)

theorem stepTimeout_early (h : s.tick < a + stepLimit c) :
    exec (.bringupStepTimeout c) s = .next (postOnce s (.bringupStepTimeout c)) := by
  simp only [exec_bringupStepTimeout, execBringupStepTimeout, hstep]
  exact (if_neg (by simp [h0])).trans (if_pos h)

theorem stepTimeout_due (h : a + stepLimit c ≤ s.tick) : exec (.bringupStepTimeout c) s = .next (failStep s c pr) := by
  simp only [exec_bringupStepTimeout, execBringupStepTimeout, hstep]
  exact (if_neg (by simp [h0])).trans (if_neg (Nat.not_lt.mpr h))

end

/-- The READY bits of a step that passed. -/
def stepBits (c : Nat) (pr : Bool) : List Nat := passBits c pr ++ if c = 131 then [1, 2] else []

/-- What the end of a step that passed does. -/
structure StepEnds (s t : State) (c : Nat) (pr : Bool) : Prop where
  journal : t.hub.journal = (writeJournal s c pr true).hub.journal
  goesOn : BringupGoes s t (writeJournal s c pr true).hub.journal (bringupSteps.filter fun x => decide (c < x))
  set : ∀ b ∈ stepBits c pr, t.hub.ready.getLsbD b = true
  same : ∀ b, b ∉ stepBits c pr → b ≠ 1 → b ≠ 2 → t.hub.ready.getLsbD b = s.hub.ready.getLsbD b
  activeB : t.hub.activeB = if c = 32 ∧ pr = false then !s.hub.activeB else s.hub.activeB
  deadLanes : t.hub.deadLanes = s.hub.deadLanes ++ (if c / 32 = 6 ∧ pr = false then [(c % 32, 3)] else [])
  mpod : t.hub.mpod = if c = 224 ∧ pr = false then s.hub.mpod &&& ~~~0x8000#64 else s.hub.mpod

theorem passedStep_ends (s : State) {c : Nat} (pr : Bool) (hc : c ∈ bringupSteps) : StepEnds s (runSteps
    (afterStep (passStep (writeJournal s c pr true) c pr) c) (bringupSteps.filter fun x => decide (c < x))) c pr := by
  have hpass := passStep_passed (writeJournal s c pr true) pr hc
  generalize passStep (writeJournal s c pr true) c pr = w at hpass ⊢
  have hafter := afterStep_passedOver w c
  have hready := ready_afterStep w c
  generalize afterStep w c = u at hafter hready ⊢
  obtain ⟨hover, hnext⟩ := runSteps_runs (bringupSteps.filter fun x => decide (c < x)) u
  generalize runSteps u (bringupSteps.filter fun x => decide (c < x)) = t at hover hnext ⊢
  have hall := hafter.trans hover
  have htick : u.tick = s.tick := hafter.tick.trans hpass.tick
  have hjournal : u.hub.journal = (writeJournal s c pr true).hub.journal := hafter.journal.trans hpass.journal
  have hbits (b : Nat) : u.hub.ready.getLsbD b = (s.hub.ready.getLsbD b || decide (b ∈ stepBits c pr)) := by
    rw [hready, hpass.ready, Bool.or_assoc, ← Bool.decide_or, stepBits]
    simp only [List.mem_append]
    rfl
  rw [htick, hjournal] at hnext
  exact
    { journal := hover.journal.trans hjournal
      goesOn := ⟨hall.slots.trans hpass.slots, fun hn => hall.devMem.trans (hpass.devMem hn), hall.tick.trans hpass.tick, hnext⟩
      set := fun b hb => hover.kept b (by rw [hbits, decide_eq_true hb, Bool.or_true])
      same := fun b hb h1 h2 => by rw [hover.same b h1 h2, hbits, decide_eq_false hb, Bool.or_false]
      activeB := hall.activeB.trans hpass.activeB
      deadLanes := hall.deadLanes.trans hpass.deadLanes
      mpod := hall.mpod.trans hpass.mpod }

theorem stepLimit_table : stepLimit 32 = 1000000000 ∧ (∀ i < 8, stepLimit (64 + i) = 2000000000) ∧
    (∀ i < 4, stepLimit (96 + i) = 5000000000 ∧ stepLimit (128 + i) = 1000000000) ∧ stepLimit 160 = 3000000000 ∧
    (∀ i < 16, stepLimit (192 + i) = 2000000000) ∧ stepLimit 224 = 1000000000 ∧ stepLimit 256 = 500000000 := by decide

/-- The run of a step: it may fail, exceed its limit, or pass. -/
theorem step_runs {s : State} {c a : Nat} {pr : Bool} (hstep : s.hub.step = some (c, pr, a)) (hc : c ∈ bringupSteps) :
    (∃ t, exec (.bringupStepDone c false) s = .next t ∧ StepFailed s t c pr) ∧
    (s.tick < a + stepLimit c → ∃ g, exec (.bringupStepTimeout c) s = .next { s with agenda := g } ∧ .bringupStepTimeout c ∈ g) ∧
    (a + stepLimit c ≤ s.tick → ∃ t, exec (.bringupStepTimeout c) s = .next t ∧ StepFailed s t c pr) ∧
    ∃ t, exec (.bringupStepDone c true) s = .next t ∧ StepEnds s t c pr := by
  obtain ⟨h0, -⟩ := bringupSteps_kinds c hc
  refine ⟨⟨_, stepDone_failed hstep h0, failStep_failed s c pr⟩, fun hlt => ?_,
    fun hle => ⟨_, stepTimeout_due hstep h0 hle, failStep_failed s c pr⟩,
    _, stepDone_passed hstep h0, passedStep_ends s pr hc⟩
  obtain ⟨g, hg, hmem⟩ := postOnce_cases s (.bringupStepTimeout c)
  rw [stepTimeout_early hstep h0 hlt, hg]
  exact ⟨g, rfl, hmem⟩

/-! ## The obligation -/

/-- Settles O60: each event is taken apart by the lemma about it above. -/
theorem repairFirmwareAndBringUp : Obligations.RepairFirmwareAndBringUp := by
  unfold Obligations.RepairFirmwareAndBringUp
  intro up frame coreOut effect kept failed goes bits
  have heffect (s t : State) (u : HwUnit) (h : UnitRetires s t u) : effect s t u := by
    cases u <;> exact h
  have hgoes (s t : State) (j : List JournalEntry) (cs : List Nat) (h : BringupGoes s t j cs) : goes s t j cs := by
    obtain ⟨hslots, hmem, htick, hover, hruns⟩ := h
    refine ⟨hslots, hmem, htick, ?_⟩
    split
    · next hfind => exact hover hfind
    · next hfind => exact hruns _ hfind
  have hbits (c : Nat) (pr : Bool) : bits c pr = stepBits c pr := rfl
  refine ⟨fun s u => ⟨softError_starting u, fun h => ?_⟩, fun s c k a => ⟨consumedError_dead a, consumedError_raises a⟩,
    fun s u hu => ⟨uncorrectableError_starting hu, fun h => ?_⟩, fun s u h => ?_, imageOk_iff,
    fun s h => ⟨fwStage_stages h, fwActivate_unstaged h, fwActivate_switches h, fwCommit_raises h, journalClear_clears h,
      attest_reports h⟩, fun s => ⟨starter_running, fun a => starter_starting⟩,
    fun s => ⟨fun pr a h => ⟨_, bringup_begins h, hgoes _ _ _ _ (runSteps_bringupGoes ..)⟩, bringup_idle⟩,
    fun s c ok => step_late ok, fun s c a pr hstep hc => ?_, stepLimit_table⟩
  · obtain ⟨t, hexec, hcount, hfew, hmany⟩ := softError_counts u h
    exact ⟨t, hexec, hcount, hfew, fun hm => heffect s t u (hmany hm)⟩
  · obtain ⟨t, hexec, hretires⟩ := uncorrectableError_retires hu h
    exact ⟨t, hexec, heffect s t u hretires⟩
  · obtain ⟨t, hexec, hdone, hretires⟩ := retire_retires h u
    exact ⟨t, hexec, hdone, heffect s t u hretires⟩
  · obtain ⟨hfails, hearly, hdue, t, hexec, hends⟩ := step_runs hstep hc
    refine ⟨hfails, hearly, hdue, t, hexec, hends.journal, hgoes _ _ _ _ hends.goesOn, fun b hb => ?_, fun b hb => ?_,
      hends.activeB, hends.deadLanes, hends.mpod⟩
    · exact hends.set b (hbits c pr ▸ hb)
    · exact hends.same b (hbits c pr ▸ hb)

end Sys2Proof.Machine
end

section
/-! SUPPORT. Entry to a trap (O16): what leaving a queue and abandoning a lease leave alone, and what entry makes of a slot. -/

namespace Sys2Proof.Machine

/-! ## Queues left and leases abandoned (R86, R133) -/

theorem freeLine_onlyParts (s : State) (p line k : Nat) : OnlyParts s (freeLine s p line k) := onlyParts_setPart s p _

theorem freeLines_onlyParts (p k : Nat) (ls : List LeaseLine) (s : State) : OnlyParts s (freeLines s p k ls) := by
  induction ls generalizing s with
  | nil => exact onlyParts_refl s
  | cons l ls ih => exact onlyParts_trans (freeLine_onlyParts s p l.line k) (ih _)

theorem leaveQueue_onlyParts (s : State) (k : Nat) : OnlyParts s (leaveQueue s k) := by
  unfold leaveQueue
  split
  · exact freeLine_onlyParts ..
  · exact onlyParts_setPart s _ _
  · exact onlyParts_refl s

/-- `t` is `s` with the lease of slot `k` gone: besides, partitions alone may differ. -/
def LeaseGone (s t : State) (k : Nat) : Prop :=
  (∃ ps sl, t = { s with parts := ps, slots := sl }) ∧ t.slot k = { s.slot k with lease := none } ∧
    ∀ j, j ≠ k → t.slot j = s.slot j

theorem leaseGone_of_onlyParts {s t u : State} {k : Nat} (h : OnlyParts s t) (g : LeaseGone t u k) : LeaseGone s u k := by
  obtain ⟨ps, rfl⟩ := h
  obtain ⟨⟨qs, sl, rfl⟩, hk, hne⟩ := g
  exact ⟨⟨qs, sl, rfl⟩, hk, hne⟩

theorem abandonLease_gone (s : State) (k : Nat) : LeaseGone s (abandonLease s k) k := by
  unfold abandonLease
  split
  · next hnone =>
    exact ⟨⟨s.parts, s.slots, rfl⟩, by rw [← hnone], fun _ _ => rfl⟩
  · next l _ =>
    refine leaseGone_of_onlyParts (freeLines_onlyParts (s.partOf (k / 16)) k l.lines s) ?_
    exact ⟨⟨_, _, rfl⟩, slot_setSlot_same .., fun j hj => slot_setSlot_ne _ _ hj⟩

/-- What trap entry does first, before it looks at the level: it leaves the queue and abandons the lease (R133, R333). -/
theorem abandonLease_leaveQueue (s : State) : LeaseGone s (abandonLease (leaveQueue s s.cur) s.cur) s.cur :=
  leaseGone_of_onlyParts (leaveQueue_onlyParts s s.cur) (abandonLease_gone ..)

/-! ## The slot after entry (R331, R333) -/

@[simp] theorem trapRegs_setTrapRegs_same (sl : Slot) (l : Level) (r : TrapRegs) : (sl.setTrapRegs l r).trapRegs l = r := by
  cases l <;> rfl

theorem trapRegs_setTrapRegs_ne (sl : Slot) {l o : Level} (r : TrapRegs) (h : o ≠ l) :
    (sl.setTrapRegs l r).trapRegs o = sl.trapRegs o := by
  cases l <;> cases o <;> simp_all [Slot.setTrapRegs, Slot.trapRegs]

/-- The fields of xTSTAT after entry: the level before, BUSY, LAB, ASYNC, DLG, and EVT and the rest 0 (R331). -/
theorem entryStatus_fields (l : Level) (dlg async lab : Bool) : let w := entryStatus l dlg async lab
    (w.extractLsb' 0 2).toNat = l.rank ∧ w.getLsbD 2 = true ∧ w.getLsbD 3 = lab ∧ w.getLsbD 4 = async ∧
      w.getLsbD 5 = dlg ∧ w.extractLsb' 6 58 = 0 := by
  cases l <;> cases dlg <;> cases async <;> cases lab <;> decide

section Enter
variable (sl : Slot) (l : Level) (cause : Nat) (tval tpc : Word) (async lab : Bool) (tag : Word) (cyc : Nat)

/-- The trap CSRs that entry leaves in its level (R333). -/
def entryRegs : TrapRegs :=
  ⟨(sl.trapRegs l).tvec, BitVec.ofNat 64 cause, tval, tpc, entryStatus sl.level (l == .u) async lab⟩

theorem enter_trapRegs (o : Level) : (sl.enter l cause tval tpc async lab tag cyc).trapRegs o =
    (sl.setTrapRegs l (entryRegs sl l cause tval tpc async lab)).trapRegs o := by
  cases o <;> rfl

/-- What entry settles of a slot besides the trap CSRs, and what it leaves. -/
theorem enter_fields : let n := sl.enter l cause tval tpc async lab tag cyc
    n.level = l ∧ n.pc = (sl.trapRegs l).tvec ∧ n.st = .ready ∧ n.wait = none ∧ n.lease = sl.lease ∧
      n.tag = (if l = .s then tag else sl.tag) ∧ n.x = sl.x ∧ n.f = sl.f ∧ n.h = sl.h ∧ n.csr = sl.csr ∧
      n.streams = sl.streams ∧ n.vpend = sl.vpend ∧ n.relaxed = sl.relaxed := by
  cases l <;> exact ⟨rfl, rfl, rfl, rfl, rfl, rfl, rfl, rfl, rfl, rfl, rfl, rfl, rfl⟩

end Enter

/-! ## Taking a trap (R332, R333) -/

theorem mustDrain_leaveQueue (s : State) (j k : Nat) : mustDrain (leaveQueue s j) k = mustDrain s k := by
  obtain ⟨ps, h⟩ := leaveQueue_onlyParts s j
  rw [h]; rfl

theorem takeTrap_enters {s : State} (cause : Nat) (tval tpc : Word) (async : Bool) (h : mustDrain s s.cur = false) :
    takeTrap s cause tval tpc async = enterTrap (leaveQueue s s.cur) ⟨cause, tval, tpc, async⟩ := by
  obtain ⟨ps, hq⟩ := leaveQueue_onlyParts s s.cur
  have hcur : (leaveQueue s s.cur).cur = s.cur := by rw [hq]; rfl
  simp [takeTrap, hcur, mustDrain_leaveQueue, h]

/-- Entry at a level that takes the trap: the slot enters it, with its lease gone (R333). -/
theorem takeTrap_taken {s : State} {cause : Nat} (tval tpc : Word) (async : Bool) {l : Level}
    (hd : mustDrain s s.cur = false) (hr : route s.me s.myCore.mdlg cause = some l) :
    let t := takeTrap s cause tval tpc async
    t.me = { s.me with lease := none }.enter l cause tval tpc async s.me.lease.isSome (txTag s s.me.tx) s.myCore.cyc ∧
      t.cores = s.cores ∧ t.devMem = s.devMem ∧ t.hostMem = s.hostMem ∧ ∀ k, k ≠ s.cur → t.slot k = s.slot k := by
  obtain ⟨ps, hq⟩ := leaveQueue_onlyParts s s.cur
  have hcur : (leaveQueue s s.cur).cur = s.cur := by rw [hq]; rfl
  have hlease : (leaveQueue s s.cur).me.lease = s.me.lease := by rw [hq]; rfl
  obtain ⟨⟨qs, sl, hu⟩, hme, hne⟩ := abandonLease_leaveQueue s
  generalize hv : abandonLease (leaveQueue s s.cur) s.cur = u at hu hme hne
  have hm : u.me = { s.me with lease := none } := by subst hu; exact hme
  have hc : u.cur = s.cur := by subst hu; rfl
  have hrt : route u.me u.myCore.mdlg cause = some l := by rw [hm]; subst hu; exact hr
  have hent : takeTrap s cause tval tpc async =
      u.setMe (u.me.enter l cause tval tpc async s.me.lease.isSome (txTag u u.me.tx) u.myCore.cyc) := by
    rw [takeTrap_enters _ _ _ _ hd, enterTrap, hcur, hv, hlease, hrt]
  intro t
  have ht : t = _ := hent
  refine ⟨?_, ?_, ?_, ?_, fun k hk => ?_⟩
  · rw [ht, me_setMe, hm]; subst hu; rfl
  · rw [ht]; subst hu; rfl
  · rw [ht]; subst hu; rfl
  · rw [ht]; subst hu; rfl
  · rw [ht, slot_setMe_ne _ _ (hc ▸ hk), hne k hk]

/-- Holding the issuing slot touches, of all slots, that one alone, and there only what a wait settles (R31, R33). -/
theorem hold_holds (s : State) (w : Wait) :
    (∃ at_, (hold s w).me = { s.me with
      st := if w.inWait then .wait else .ready, wait := some w,
      waitSince := if s.me.wait = some w then s.me.waitSince else s.tick, readyAt := at_ }) ∧
    ∀ k, k ≠ s.cur → (hold s w).slot k = s.slot k := by
  have hq : OnlyParts s (if s.me.wait = some w then s else leaveQueue s s.cur) := by
    split
    · exact onlyParts_refl s
    · exact leaveQueue_onlyParts ..
  obtain ⟨ps, hq⟩ := hq
  simp only [hold, hq]
  split
  · exact ⟨⟨_, me_setMe ..⟩, fun k hk => slot_setMe_ne { s with parts := ps } _ hk⟩
  · exact ⟨⟨_, me_setMe ..⟩, fun k hk => slot_setMe_ne { s with parts := ps } _ hk⟩

/-- A trap that has to wait for results holds the slot, which stays as it was but for the trap it keeps (R333 step 1). -/
theorem takeTrap_held {s : State} (cause : Nat) (tval tpc : Word) (async : Bool) (h : mustDrain s s.cur = true) :
    (∃ since at_, (takeTrap s cause tval tpc async).me = { s.me with
      trapping := some ⟨cause, tval, tpc, async⟩, st := .ready, wait := some .drain, waitSince := since, readyAt := at_ }) ∧
    ∀ k, k ≠ s.cur → (takeTrap s cause tval tpc async).slot k = s.slot k := by
  have hdrain := mustDrain_leaveQueue s s.cur s.cur
  have hq := leaveQueue_onlyParts s s.cur
  generalize hu : leaveQueue s s.cur = u at hdrain hq
  obtain ⟨hcur, hme, hslot⟩ : u.cur = s.cur ∧ u.me = s.me ∧ ∀ k, u.slot k = s.slot k := by
    obtain ⟨ps, rfl⟩ := hq
    exact ⟨rfl, rfl, fun _ => rfl⟩
  have htake : takeTrap s cause tval tpc async = hold (u.setMe { s.me with trapping := some ⟨cause, tval, tpc, async⟩ }) .drain := by
    rw [takeTrap, hu, hcur, hdrain, h, hme, if_pos rfl]
  obtain ⟨⟨at_, hheld⟩, hother⟩ := hold_holds (u.setMe { s.me with trapping := some ⟨cause, tval, tpc, async⟩ }) .drain
  rw [me_setMe] at hheld
  rw [htake]
  exact ⟨⟨_, at_, hheld⟩, fun k hk => (hother k (hcur ▸ hk)).trans ((slot_setMe_ne u _ (hcur ▸ hk)).trans (hslot k))⟩

/-- A kept trap is taken as if it were raised once the wait for results is over (R179, R333). -/
theorem resumeSlot_trapping {s : State} {h : HeldTrap} (ht : s.me.trapping = some h) (hd : mustDrain s s.cur = false)
    (hw : s.me.wait = some .drain) :
    resumeSlot s = .next (takeTrap (s.setMe { s.me with trapping := none }) h.cause h.tval h.tpc h.async) := by
  have hslot (v : Slot) : (s.setMe v).slot s.cur = v := me_setMe s v
  have hpend : mustDrain (s.setMe { s.me with trapping := none }) s.cur = mustDrain s s.cur := by
    simp only [mustDrain, hslot]
    rfl
  have hstays : leaveQueue (s.setMe { s.me with trapping := none }) s.cur = s.setMe { s.me with trapping := none } := by
    simp only [leaveQueue, hslot, hw]
  rw [takeTrap_enters _ _ _ _ (hpend.trans hd), cur_setMe, hstays, resumeSlot, ht]

/-- Settles O16: entry is one update of the slot, a trap that waits for results is one hold of it. -/
theorem trapEntry : Obligations.TrapEntry := by
  refine ⟨fun s cause tval tpc async l hd hc hr => ?_, fun s cause tval tpc async hd => ?_,
    fun s h ht hd hw => resumeSlot_trapping ht hd hw⟩
  · obtain ⟨hme, hcores, hdev, hhost, hother⟩ := takeTrap_taken tval tpc async hd hr
    intro t r
    have hregs (o : Level) : t.me.trapRegs o = (s.me.setTrapRegs l (entryRegs s.me l cause tval tpc async s.me.lease.isSome)).trapRegs o := by
      rw [hme, enter_trapRegs]
      cases l <;> cases o <;> rfl
    have hr : r = entryRegs s.me l cause tval tpc async s.me.lease.isSome := (hregs l).trans (trapRegs_setTrapRegs_same ..)
    obtain ⟨hlevel, hbusy, hlab, hasync, hdlg, hrest⟩ := entryStatus_fields s.me.level (l == .u) async s.me.lease.isSome
    obtain ⟨nlevel, npc, nst, nwait, nlease, ntag, nx, nf, nh, ncsr, nstreams, nvpend, nrelaxed⟩ :=
      enter_fields { s.me with lease := none } l cause tval tpc async s.me.lease.isSome (txTag s s.me.tx) s.myCore.cyc
    rw [← hme] at nlevel npc nst nwait nlease ntag nx nf nh ncsr nstreams nvpend nrelaxed
    have hcause : (BitVec.ofNat 64 cause).toNat = cause := by simp; omega
    rw [hr]
    refine ⟨rfl, hcause, rfl, rfl, hlevel, hbusy, hlab, hasync, hdlg, hrest, nlevel, npc.trans ?_, nst, nwait, nlease,
      fun o ho => (hregs o).trans (trapRegs_setTrapRegs_ne _ _ ho), ntag, nx, nf, nh, ncsr, nstreams, nvpend, nrelaxed, hother,
      hcores, hdev, hhost⟩
    cases l <;> rfl
  · obtain ⟨⟨since, at_, hme⟩, hother⟩ := takeTrap_held cause tval tpc async hd
    intro t
    simp only [t, hme, true_and]
    exact hother

end Sys2Proof.Machine
end

section
/-! SUPPORT. Translation requests and what a slice stores (O55): the tables of R371 and R372, a request taken out of its
partition, and an answer stored. -/

namespace Sys2Proof.Machine

/-! ## Maps of optional values -/

/-- The values of a map, each present. -/
def presentValues {α : Type} (m : SMap α) : SMap (Option α) := m.map fun e => (e.1, some e.2)

theorem presentValues_remove {α : Type} (m : SMap α) (k : Nat) : presentValues (remove m k) = remove (presentValues m) k := by
  induction m with
  | nil => rfl
  | cons e m ih =>
    obtain ⟨j, v⟩ := e
    by_cases h : j = k <;> simp_all [presentValues, remove]

theorem presentValues_place {α : Type} (m : SMap α) (k : Nat) (v : α) : presentValues (place m k v) = place (presentValues m) k (some v) := by
  induction m with
  | nil => rfl
  | cons e m ih =>
    obtain ⟨j, w⟩ := e
    by_cases h : k < j
    · simp [presentValues, place, h]
    · have hm : presentValues (place m k v) = place (presentValues m) k (some v) := ih
      simp only [presentValues, place, h, if_false, List.map_cons] at hm ⊢
      rw [hm]

theorem presentValues_put {α : Type} (m : SMap α) (k : Nat) (v : α) : presentValues (put m k v) = put (presentValues m) k (some v) := by
  rw [put, presentValues_place, presentValues_remove, put]

theorem mem_remove_of_ne {α : Type} {m : SMap α} {k : Nat} {e : Nat × α} (he : e ∈ m) (h : e.1 ≠ k) : e ∈ remove m k := by
  induction m with
  | nil => exact he
  | cons x m ih =>
    obtain ⟨j, v⟩ := x
    by_cases hj : j = k
    · rcases List.mem_cons.mp he with rfl | he
      · exact absurd hj h
      · simpa [remove, hj] using ih he
    · rcases List.mem_cons.mp he with rfl | he
      · simp [remove, hj]
      · simp [remove, hj, ih he]

theorem mem_place_of_mem {α : Type} {m : SMap α} (k : Nat) (v : α) {e : Nat × α} (he : e ∈ m) : e ∈ place m k v := by
  induction m with
  | nil => cases he
  | cons x m ih =>
    obtain ⟨j, w⟩ := x
    by_cases hj : k < j
    · simp only [place, hj, if_true]
      exact List.mem_cons_of_mem _ he
    · rcases List.mem_cons.mp he with rfl | he
      · simp [place, hj]
      · simp [place, hj, ih he]

theorem mem_put_of_ne {α : Type} {m : SMap α} {k : Nat} (v : α) {e : Nat × α} (he : e ∈ m) (h : e.1 ≠ k) : e ∈ put m k v :=
  mem_place_of_mem k v (mem_remove_of_ne he h)

theorem mem_put {α : Type} {m : SMap α} {k : Nat} {v : α} {e : Nat × α} (he : e ∈ put m k v) : e = (k, v) ∨ e ∈ m :=
  (mem_place _ k v he).imp id (mem_remove m k)

/-- A removal keeps the order, and so at most the counts, of what is left. -/
theorem remove_eq_filter {α : Type} (m : SMap α) (k : Nat) : remove m k = m.filter fun e => e.1 != k := by
  induction m with
  | nil => rfl
  | cons e m ih =>
    obtain ⟨j, v⟩ := e
    by_cases h : j = k <;> simp [remove, h, ih]

theorem place_perm {α : Type} (m : SMap α) (k : Nat) (v : α) : (place m k v).Perm ((k, v) :: m) := by
  induction m with
  | nil => exact List.Perm.refl _
  | cons e m ih =>
    obtain ⟨j, w⟩ := e
    by_cases h : k < j
    · simp only [place, h, if_true]
      exact List.Perm.refl _
    · simp only [place, h, if_false]
      exact (List.Perm.cons _ ih).trans (List.Perm.swap ..)

/-- Putting an entry adds one at most to those that pass a test. -/
theorem filter_put_length_le {α : Type} (f : Nat × α → Bool) (m : SMap α) (k : Nat) (v : α) :
    ((put m k v).filter f).length ≤ (m.filter f).length + 1 := by
  have hperm := ((place_perm (remove m k) k v).filter f).length_eq
  have hsub : ((remove m k).filter f).length ≤ (m.filter f).length := by
    rw [remove_eq_filter]
    exact (List.filter_sublist.filter f).length_le
  rw [put, hperm, List.filter_cons]
  split
  · exact Nat.succ_le_succ hsub
  · exact Nat.le_succ_of_le hsub

/-! ## The tables of R371, R372 and R378 -/

theorem sliceOf_lt (r : PartRecord) (va : Nat) : sliceOf r va < 128 := by
  have hall : ∀ i ∈ slicesOf r, i < 128 := fun i hi => List.mem_range.mp (List.mem_filter.mp hi).1
  unfold sliceOf
  simp only
  split
  · omega
  · split
    · decide
    · generalize hn : _ % (slicesOf r).length = n
      rw [List.getD_eq_getElem?_getD]
      cases hg : (slicesOf r)[n]? with
      | none => decide
      | some i => exact hall i (List.mem_of_getElem? hg)

/-- Where a partition holds slices of every die, the hash of R371 names the slice. -/
theorem sliceOf_whole {r : PartRecord} (h : r.extractLsb' 32 32 = BitVec.allOnes 32) (va : Nat) :
    sliceOf r va = 32 * ((va / 2 ^ 12 ^^^ va / 2 ^ 22) % 4) +
      (va / 2 ^ 14 ^^^ va / 2 ^ 24 ^^^ va / 2 ^ 34 ^^^ va / 2 ^ 44) % 32 := by
  have hdies (die : Nat) (hd : die < 4) : holdsDie r die = true := by
    have hbyte : r.extractLsb' (32 + 8 * die) 8 = BitVec.allOnes 8 := by
      apply BitVec.eq_of_getLsbD_eq
      intro i hi
      have hbit := congrArg (fun w => w.getLsbD (8 * die + i)) h
      simp only [BitVec.getLsbD_extractLsb', BitVec.getLsbD_allOnes] at hbit ⊢
      rw [← Nat.add_assoc] at hbit
      have hlt : 8 * die + i < 32 := by omega
      simpa [hlt, hi] using hbit
    rw [holdsDie, hbyte]
    decide
  simp only [sliceOf, hdies _ (Nat.mod_lt _ (by decide)), if_true, Nat.shiftRight_eq_div_pow]

/-- The page size stored is the largest that a slice has and the returned range reaches (R372). -/
theorem storedSize_largest (n : Nat) :
    storedSize n ∈ pageSizes ∧ storedSize n ≤ max n 12 ∧ ∀ l ∈ pageSizes, l ≤ max n 12 → l ≤ storedSize n := by
  simp only [storedSize, pageSizes, List.mem_cons, List.not_mem_nil, or_false]
  split_ifs <;> refine ⟨by omega, by omega, ?_⟩ <;> omega

/-! ## One partition, the agenda and the counters -/

/-- A partition with other requests, and with other translations. -/
def Part.withXreqs (pt : Part) (xs : List XReq) : Part := { pt with xreqs := xs }
def Part.withXlat (pt : Part) (m : SMap XEntry) : Part := { pt with xlat := m }

/-- `t` is `s` with partition `p` at `v`, besides which only other partitions, the agenda, which keeps its events, and the
model's counters may differ. -/
def AtPart (s t : State) (p : Nat) (v : Part) : Prop :=
  (∃ d n ag ps, t = { s with draws := d, nextId := n, agenda := ag, parts := ps }) ∧ t.part p = v ∧ ∀ e ∈ s.agenda, e ∈ t.agenda

theorem atPart_refl (s : State) (p : Nat) : AtPart s s p (s.part p) := ⟨⟨_, _, _, _, rfl⟩, rfl, fun _ => id⟩

section
variable {s t u : State} {p : Nat} {v w : Part}

theorem AtPart.frame (h : AtPart s t p v) :
    t.slots = s.slots ∧ t.cores = s.cores ∧ t.devMem = s.devMem ∧ t.hostMem = s.hostMem ∧ t.tick = s.tick := by
  obtain ⟨⟨d, n, ag, ps, rfl⟩, -, -⟩ := h
  exact ⟨rfl, rfl, rfl, rfl, rfl⟩

theorem AtPart.part (h : AtPart s t p v) : t.part p = v := h.2.1

theorem AtPart.agenda (h : AtPart s t p v) : ∀ e ∈ s.agenda, e ∈ t.agenda := h.2.2

theorem AtPart.trans (h : AtPart s t p v) (g : AtPart t u p w) : AtPart s u p w := by
  obtain ⟨⟨d, n, ag, ps, rfl⟩, -, ha⟩ := h
  obtain ⟨⟨d', n', ag', ps', rfl⟩, hw, hb⟩ := g
  exact ⟨⟨_, _, _, _, rfl⟩, hw, fun e he => hb e (ha e he)⟩

theorem AtPart.set (h : AtPart s t p v) (w : Part) : AtPart s (t.setPart p w) p w :=
  h.trans ⟨⟨_, _, _, _, rfl⟩, part_setPart_same .., fun _ => id⟩

theorem AtPart.post (h : AtPart s t p v) (e : Instr) : AtPart s (t.post e) p v :=
  h.trans ⟨⟨_, _, _, _, rfl⟩, h.part, fun _ he => List.mem_append_left _ he⟩

theorem AtPart.draw (h : AtPart s t p v) : AtPart s t.draw p v := h.trans ⟨⟨_, _, _, _, rfl⟩, h.part, fun _ => id⟩

theorem AtPart.fresh (h : AtPart s t p v) : AtPart s t.fresh.2 p v := h.trans ⟨⟨_, _, _, _, rfl⟩, h.part, fun _ => id⟩

end

/-! ## A request taken out (R371, R375) -/

/-- Every request of a list is one of another list as to serial number, page and kind. -/
def FromRequests (xs old : List XReq) : Prop :=
  ∀ q ∈ xs, ∃ q' ∈ old, q.id = q'.id ∧ q.page = q'.page ∧ q.paging = q'.paging

theorem fromRequests_refl (xs : List XReq) : FromRequests xs xs := fun q hq => ⟨q, hq, rfl, rfl, rfl⟩

/-- A request that waited for its place is sent now. -/
def sentNow (tick id : Nat) (xs : List XReq) : List XReq :=
  xs.map fun q => if q.id = id then { q with queued := false, sent := tick } else q

theorem fromRequests_sentNow (tick id : Nat) (xs : List XReq) : FromRequests (sentNow tick id xs) xs := by
  intro q hq
  obtain ⟨q', hq', rfl⟩ := List.mem_map.mp hq
  refine ⟨q', hq', ?_⟩
  split <;> exact ⟨rfl, rfl, rfl⟩

/-- Only the requests of a partition differ, and each of them is one of before. -/
def RequestsSent (s t : State) (p : Nat) : Prop :=
  ∃ xs, AtPart s t p ((s.part p).withXreqs xs) ∧ FromRequests xs (s.part p).xreqs

theorem requestsSent_refl (s : State) (p : Nat) : RequestsSent s s p := ⟨_, atPart_refl s p, fromRequests_refl _⟩

theorem requestsSent_one (s : State) (p id : Nat) (e : Instr) :
    RequestsSent s ((s.setPart p ((s.part p).withXreqs (sentNow s.tick id (s.part p).xreqs))).post e) p :=
  ⟨_, ((atPart_refl s p).set _).post e, fromRequests_sentNow s.tick id _⟩

theorem sendQueued_sends (s : State) (p slice : Nat) : RequestsSent s (sendQueued s p slice) p := by
  unfold sendQueued
  split
  · exact requestsSent_refl s p
  · split
    · exact requestsSent_refl s p
    · exact requestsSent_one ..

theorem sendQueuedPage_sends (s : State) (p : Nat) : RequestsSent s (sendQueuedPage s p) p := by
  unfold sendQueuedPage
  split
  · exact requestsSent_refl s p
  · split
    · exact requestsSent_refl s p
    · exact requestsSent_one ..

theorem dropRequest_drops (s : State) (p : Nat) (r : XReq) : ∃ xs, AtPart s (dropRequest s p r) p ((s.part p).withXreqs xs) ∧
    FromRequests xs (s.part p).xreqs ∧ ∀ q ∈ xs, q.id ≠ r.id := by
  have hsent : RequestsSent (s.setPart p ((s.part p).withXreqs ((s.part p).xreqs.filter fun q => q.id != r.id)))
      (dropRequest s p r) p := by
    unfold dropRequest
    split
    · exact sendQueuedPage_sends ..
    · exact sendQueued_sends ..
  obtain ⟨xs, hat, hfrom⟩ := hsent
  rw [part_setPart_same] at hat hfrom
  refine ⟨xs, ((atPart_refl s p).set _).trans hat, fun q hq => ?_, fun q hq => ?_⟩
  · obtain ⟨q', hq', heq⟩ := hfrom q hq
    exact ⟨q', (List.mem_filter.mp hq').1, heq⟩
  · obtain ⟨q', hq', hid, -⟩ := hfrom q hq
    have hne := (List.mem_filter.mp hq').2
    rw [hid]
    simpa using hne

/-- The request that a serial number names has that number. -/
theorem id_of_requestOf {s : State} {id p : Nat} {r : XReq} (h : requestOf s id = some (p, r)) : r.id = id := by
  unfold requestOf at h
  split at h
  · cases h
  · obtain ⟨q, hq, heq⟩ := Option.map_eq_some_iff.mp h
    cases heq
    simpa using List.find?_some hq

/-! ## Translations that cover a page (R372) -/

/-- Does an entry of a slice cover an address? -/
def Covers (e : Nat × XEntry) (slice va : Nat) : Prop :=
  e.1 / 2 ^ 64 = slice ∧ xbase e.1 e.2.log2 ≤ va ∧ va < xbase e.1 e.2.log2 + 2 ^ e.2.log2

theorem mem_dropCovering {m : SMap XEntry} {slice page : Nat} {e : Nat × XEntry} :
    e ∈ dropCovering m slice page ↔ e ∈ m ∧ ¬ Covers e slice page := by
  simp only [dropCovering, List.mem_filter, Covers, Bool.not_eq_true', Bool.and_eq_false_iff, beq_eq_false_iff_ne, ne_eq,
    decide_eq_false_iff_not]
  tauto

/-- The number of translations that a slice holds. -/
def sliceHolds (m : SMap XEntry) (slice : Nat) : Nat := (m.filter fun e => e.1 / 2 ^ 64 == slice).length

/-- Room is made where a slice is full, by giving up some of its entries (R371). -/
theorem evictXlat_makesRoom (s : State) (p slice : Nat) : ∃ m, AtPart s (evictXlat s p slice) p ((s.part p).withXlat m) ∧
    (∀ e ∈ m, e ∈ (s.part p).xlat) ∧ (sliceHolds (s.part p).xlat slice < 4096 → m = (s.part p).xlat) ∧
    (sliceHolds (s.part p).xlat slice ≤ 4096 → sliceHolds m slice < 4096) := by
  unfold evictXlat
  simp only
  split
  · next hroom => exact ⟨_, atPart_refl s p, fun _ h => h, fun _ => rfl, fun _ => hroom⟩
  · next hfull =>
    split
    · next x hx =>
      have hmem := List.mem_of_getElem? hx
      refine ⟨remove (s.part p).xlat x.1, (atPart_refl s p).draw.set _,
        fun e he => mem_remove _ _ he, fun h => absurd h hfull, fun hle => lt_of_lt_of_le ?_ hle⟩
      have hcomm : (remove (s.part p).xlat x.1).filter (fun e => e.1 / 2 ^ 64 == slice) =
          ((s.part p).xlat.filter fun e => e.1 / 2 ^ 64 == slice).filter fun e => e.1 != x.1 := by
        rw [remove_eq_filter, List.filter_filter, List.filter_filter]
        exact List.filter_congr fun e _ => Bool.and_comm ..
      rw [sliceHolds, sliceHolds, hcomm]
      exact List.length_filter_lt_length_iff_exists.mpr ⟨x, hmem, by simp⟩
    · next hnone =>
      have hpos : 0 < ((s.part p).xlat.filter fun e => e.1 / 2 ^ 64 == slice).length := by omega
      exact absurd (List.getElem?_eq_none_iff.mp hnone) (Nat.not_le_of_lt (Nat.mod_lt _ hpos))

/-- The entry that an answer leaves at its slice: of the returned range the aligned part that holds the page (R372). -/
def answerEntry (page : Nat) (a : AtsAnswer) : XEntry :=
  ⟨storedSize a.log2, a.read, a.write, a.exec,
    a.pa + (page / 2 ^ storedSize a.log2 * 2 ^ storedSize a.log2 - page / 2 ^ max a.log2 12 * 2 ^ max a.log2 12)⟩

/-- The key of that entry. -/
def answerKey (slice page : Nat) (a : AtsAnswer) : Nat :=
  xkey slice (page / 2 ^ storedSize a.log2 * 2 ^ storedSize a.log2) (storedSize a.log2)

/-- A slice without the translations of a page, and with room (R371, R372). -/
def clearedFor (s : State) (p slice page : Nat) : State :=
  evictXlat (s.setPart p ((s.part p).withXlat (dropCovering (s.part p).xlat slice page))) p slice

theorem storeAnswer_eq (s : State) (p slice page : Nat) (a : AtsAnswer) : let u := clearedFor s p slice page
    storeAnswer s p slice page a =
      u.setPart p ((u.part p).withXlat (put (u.part p).xlat (answerKey slice page a) (answerEntry page a))) := rfl

/-- An answer stored: its entry is the only one of the slice that covers the page, and of the others one at most is given up,
where the slice is full (R371, R372). -/
theorem storeAnswer_stores (s : State) (p slice page : Nat) (a : AtsAnswer) :
    ∃ m, AtPart s (storeAnswer s p slice page a) p ((s.part p).withXlat m) ∧
      xentryAt m slice page (storedSize a.log2) = some (answerEntry page a) ∧
      (∀ x ∈ m, Covers x slice page → x = (answerKey slice page a, answerEntry page a)) ∧
      (sliceHolds (s.part p).xlat slice < 4096 → ∀ x ∈ (s.part p).xlat, ¬ Covers x slice page → x.1 ≠ answerKey slice page a → x ∈ m) ∧
      (sliceHolds (s.part p).xlat slice ≤ 4096 → sliceHolds m slice ≤ 4096) := by
  have hdropped : sliceHolds (dropCovering (s.part p).xlat slice page) slice ≤ sliceHolds (s.part p).xlat slice :=
    (List.filter_sublist.filter _).length_le
  obtain ⟨m, hat, hold, hroom, hfew⟩ := evictXlat_makesRoom
    (s.setPart p ((s.part p).withXlat (dropCovering (s.part p).xlat slice page))) p slice
  rw [part_setPart_same] at hat hold hroom hfew
  have hcleared : AtPart s (clearedFor s p slice page) p ((s.part p).withXlat m) := ((atPart_refl s p).set _).trans hat
  refine ⟨put m (answerKey slice page a) (answerEntry page a), ?_, ?_, fun x hx hcov => ?_, fun hlt x hx hcov hne => ?_, fun hle => ?_⟩
  · rw [storeAnswer_eq, hcleared.part]
    exact hcleared.set _
  · have hkey : xkey slice page (storedSize a.log2) = answerKey slice page a := by
      rw [answerKey, xkey, xkey, Nat.mul_div_cancel _ (Nat.two_pow_pos _)]
    rw [xentryAt, hkey, ← presentValues, presentValues_put, look_put_same]
  · rcases mem_put hx with h | h
    · exact h
    · exact absurd hcov (mem_dropCovering.mp (hold x h)).2
  · exact mem_put_of_ne _ (hroom (lt_of_le_of_lt hdropped hlt) ▸ mem_dropCovering.mpr ⟨hx, hcov⟩) hne
  · exact (filter_put_length_le ..).trans (hfew (hdropped.trans hle))

end Sys2Proof.Machine
end

section
/-! SUPPORT. Who is told of an answer or a final fault (R377, R378): slots, parked continuations, and the events on the way. -/

namespace Sys2Proof.Machine

/-! ## Every slot changed at once -/

/-- A change of every value of a map that keeps the default shows at each key. -/
theorem look_map_keyed {α : Type} (f : Nat → α → α) (m : SMap α) {d : α} (k : Nat) (h : f k d = d) :
    look (m.map fun e => (e.1, f e.1 e.2)) d k = f k (look m d k) := by
  induction m with
  | nil => exact h.symm
  | cons e m ih =>
    obtain ⟨j, v⟩ := e
    by_cases hj : j = k
    · simp [look, hj]
    · simpa [look, hj] using ih

theorem slot_mapSlots (s : State) {f : Nat → Slot → Slot} (k : Nat) (h : f k Slot.reset = Slot.reset) :
    (mapSlots s f).slot k = f k (s.slot k) := look_map_keyed f s.slots k h

/-- A slot that waits for no page is left alone by a final fault. -/
theorem finalSlot_idle {sl : Slot} (h : sl.wait = none) (p page : Nat) : finalSlot p page sl = sl := by
  simp only [finalSlot, h]

/-- A slot that waits for the page takes the fault. -/
theorem finalSlot_waiting {sl : Slot} {p page : Nat} (h : sl.wait = some (.xlat p page) ∨ sl.wait = some (.xlatHeld p page)) :
    finalSlot p page sl = { sl with xfault := some page } := by
  rcases h with h | h <;> simp only [finalSlot, h, and_self, if_true]

/-- A slot that fetches a line of the page takes the fault and its fetch ends. -/
theorem finalSlot_fetching {sl : Slot} {p page line : Nat} (h : sl.wait = some (.fetch line)) (hp : pageOf line = page) :
    finalSlot p page sl = { sl with xfault := some page, wait := none } := by
  simp only [finalSlot, h, hp, if_true]

/-- A slot that waits for another page is left alone. -/
theorem finalSlot_other {sl : Slot} {p page g : Nat} (h : sl.wait = some (.xlat p g)) (hg : g ≠ page) :
    finalSlot p page sl = sl := by
  simp only [finalSlot, h, hg, and_false, if_false]

/-! ## Parked continuations (R377, R378) -/

/-- The parked continuations of a core that wait for a page, with the status that they take. -/
def parkedMarked (page status : Nat) (l : List (Nat × Nat × Nat)) : List (Nat × Nat × Nat) :=
  l.map fun e => if e.2.1 = page ∧ e.2.2 = 0 then (e.1, page, status) else e

/-- Does a continuation wait for the page? -/
def waitsParked (page : Nat) (l : List (Nat × Nat × Nat)) : Prop := ∃ e ∈ l, e.2.1 = page ∧ e.2.2 = 0

theorem parkedMarked_idle {page status : Nat} {l : List (Nat × Nat × Nat)} (h : ¬ waitsParked page l) :
    parkedMarked page status l = l :=
  (List.map_congr_left fun e he => if_neg fun hp => h ⟨e, he, hp⟩).trans (List.map_id l)

/-- The present cores of a partition have their continuations marked, and those of them with one replay. -/
def Marked (s t : State) (p page status : Nat) : Prop := ∀ c, c < 512 → s.present c = true → s.partOf c = p →
  (t.core c).parked = parkedMarked page status (s.core c).parked ∧ (waitsParked page (s.core c).parked → .replay c ∈ t.agenda)

/-- One core told of an answer. -/
def markCore (s : State) (page status c : Nat) : State :=
  if (s.core c).parked.any fun e => e.2.1 == page && e.2.2 == 0 then
    (s.setCore c { s.core c with parked := parkedMarked page status (s.core c).parked }).post (.replay c)
  else s

theorem markParked_cons (s : State) (page status c : Nat) (cs : List Nat) :
    markParked s page status (c :: cs) = markParked (markCore s page status c) page status cs := rfl

theorem waitsParked_iff (page : Nat) (l : List (Nat × Nat × Nat)) :
    (l.any fun e => e.2.1 == page && e.2.2 == 0) = true ↔ waitsParked page l := by
  simp [waitsParked, List.any_eq_true]

/-- Telling a core changes its parked continuations and puts its replay on the agenda. -/
theorem markCore_marks (s : State) (page status c : Nat) : let t := markCore s page status c
    (∃ cs ag, t = { s with cores := cs, agenda := ag }) ∧ (∀ e ∈ s.agenda, e ∈ t.agenda) ∧
      t.core c = { s.core c with parked := parkedMarked page status (s.core c).parked } ∧ (∀ d, d ≠ c → t.core d = s.core d) ∧
      (waitsParked page (s.core c).parked → .replay c ∈ t.agenda) := by
  unfold markCore
  split
  · exact ⟨⟨_, _, rfl⟩, fun _ he => List.mem_append_left _ he, core_setCore_same .., fun d hd => core_setCore_ne s _ hd,
      fun _ => mem_post ..⟩
  · next hidle =>
    rw [waitsParked_iff] at hidle
    exact ⟨⟨_, _, rfl⟩, fun _ => id, by rw [parkedMarked_idle hidle], fun _ _ => rfl, fun h => absurd h hidle⟩

/-- The cores of a list told. -/
theorem markParked_marks (page status : Nat) (cs : List Nat) (hn : cs.Nodup) (s : State) : let t := markParked s page status cs
    (∃ co ag, t = { s with cores := co, agenda := ag }) ∧ (∀ e ∈ s.agenda, e ∈ t.agenda) ∧
      (∀ c, t.core c = if c ∈ cs then { s.core c with parked := parkedMarked page status (s.core c).parked } else s.core c) ∧
      ∀ c ∈ cs, waitsParked page (s.core c).parked → .replay c ∈ t.agenda := by
  induction cs generalizing s with
  | nil => exact ⟨⟨_, _, rfl⟩, fun _ => id, fun _ => rfl, fun c hc => absurd hc List.not_mem_nil⟩
  | cons d cs ih =>
    obtain ⟨hd, hn⟩ := List.nodup_cons.mp hn
    obtain ⟨⟨co, ag, hone⟩, hkeep, hcore, hother, hreplay⟩ := markCore_marks s page status d
    obtain ⟨⟨co', ag', hrest⟩, hkeep', hcores, hreplays⟩ := ih hn (markCore s page status d)
    rw [markParked_cons]
    refine ⟨⟨co', ag', by rw [hrest, hone]⟩, fun e he => hkeep' e (hkeep e he), fun c => ?_, fun c hc hw => ?_⟩
    · rw [hcores]
      by_cases hc : c = d
      · subst hc
        simp [hd, hcore]
      · simp [hc, hother c hc]
    · rcases List.mem_cons.mp hc with rfl | hc
      · exact hkeep' _ (hreplay hw)
      · have hcd : c ≠ d := fun h => hd (h ▸ hc)
        exact hreplays c hc (by rwa [hother c hcd])

theorem coresOf_nodup (s : State) (p : Nat) : (coresOf s p).Nodup := List.nodup_range.filter _

theorem mem_coresOf {s : State} {p c : Nat} : c ∈ coresOf s p ↔ c < 512 ∧ s.present c = true ∧ s.partOf c = p := by
  simp [coresOf]

/-! ## What tells the rest leaves alone -/

/-- `t` has the slots, the parked continuations, the partitions of cores and the memories of `s`, and its events and more. -/
structure Told (s t : State) : Prop where
  slots : t.slots = s.slots
  parked : ∀ c, (t.core c).parked = (s.core c).parked
  mpart : ∀ c, (t.core c).mpart = (s.core c).mpart
  memory : t.devMem = s.devMem ∧ t.hostMem = s.hostMem
  agenda : ∀ e ∈ s.agenda, e ∈ t.agenda

theorem Told.trans {s t u : State} (h : Told s t) (g : Told t u) : Told s u where
  slots := g.slots.trans h.slots
  parked c := (g.parked c).trans (h.parked c)
  mpart c := (g.mpart c).trans (h.mpart c)
  memory := ⟨g.memory.1.trans h.memory.1, g.memory.2.trans h.memory.2⟩
  agenda e he := g.agenda e (h.agenda e he)

theorem told_post (s : State) (e : Instr) : Told s (s.post e) :=
  ⟨rfl, fun _ => rfl, fun _ => rfl, ⟨rfl, rfl⟩, fun _ he => List.mem_append_left _ he⟩

theorem told_refl (s : State) : Told s s := ⟨rfl, fun _ => rfl, fun _ => rfl, ⟨rfl, rfl⟩, fun _ => id⟩

theorem told_setPart (s : State) (p : Nat) (v : Part) : Told s (s.setPart p v) :=
  ⟨rfl, fun _ => rfl, fun _ => rfl, ⟨rfl, rfl⟩, fun _ => id⟩

theorem told_copies (s : State) (cp : List CopyJob) : Told s { s with copies := cp } :=
  ⟨rfl, fun _ => rfl, fun _ => rfl, ⟨rfl, rfl⟩, fun _ => id⟩

theorem told_agenda {s : State} {ag : List Instr} (h : ∀ e ∈ s.agenda, e ∈ ag) : Told s { s with agenda := ag } :=
  ⟨rfl, fun _ => rfl, fun _ => rfl, ⟨rfl, rfl⟩, h⟩

theorem pokeTiles_posts (fault : Bool) (es : List (Nat × Nat)) (s : State) :
    ∃ ag, pokeTiles s fault es = { s with agenda := ag } ∧ ∀ e ∈ s.agenda, e ∈ ag := by
  induction es generalizing s with
  | nil => exact ⟨_, rfl, fun _ => id⟩
  | cons e es ih =>
    obtain ⟨ag, heq, hkeep⟩ := ih (s.post (.setTileTranslationDone e.1 e.2 fault))
    exact ⟨ag, heq, fun x hx => hkeep x (List.mem_append_left _ hx)⟩

theorem told_pokeTiles (fault : Bool) (es : List (Nat × Nat)) (s : State) : Told s (pokeTiles s fault es) := by
  obtain ⟨ag, heq, hkeep⟩ := pokeTiles_posts fault es s
  exact heq ▸ told_agenda hkeep

theorem told_kneadFaults (page : Nat) (cs : List Conv) (s : State) :
    Told s (cs.foldl (fun s c => s.post (.kneadFault c.id page)) s) := by
  induction cs generalizing s with
  | nil => exact told_refl s
  | cons c cs ih => exact (told_post ..).trans (ih _)

theorem told_markSpills (s : State) (p page : Nat) : Told s (markSpills s p page) where
  slots := rfl
  parked c := look_map_of_keeps Core.parked (fun e => by dsimp only; split <;> rfl) (fun e => by dsimp only; split <;> rfl) s.cores _ c
  mpart c := look_map_of_keeps Core.mpart (fun e => by dsimp only; split <;> rfl) (fun e => by dsimp only; split <;> rfl) s.cores _ c
  memory := ⟨rfl, rfl⟩
  agenda _ := id

theorem Told.partOf {s t : State} (h : Told s t) (c : Nat) : t.partOf c = s.partOf c := by
  rw [State.partOf, State.partOf, h.mpart]

/-! ## A final fault told (R378) -/

/-- The slots of a partition told of a final fault. -/
def slotsTold (s : State) (p page : Nat) : State :=
  mapSlots s fun k sl => if s.partOf (k / 16) = p then finalSlot p page sl else sl

theorem slot_slotsTold (s : State) (p page k : Nat) :
    (slotsTold s p page).slot k = if s.partOf (k / 16) = p then finalSlot p page (s.slot k) else s.slot k :=
  slot_mapSlots s k (by
    split
    · exact finalSlot_idle rfl p page
    · rfl)

/-- Slots, then parked continuations, and then those whose telling shows in neither. -/
theorem reportFinal_told (s : State) (p page : Nat) :
    Told (markParked (slotsTold s p page) page 2 (coresOf (slotsTold s p page) p)) (reportFinal s p page) :=
  (told_markSpills _ p page).trans <| (told_copies _ _).trans <| (told_setPart _ p _).trans <|
    (told_pokeTiles true _ _).trans (told_kneadFaults page _ _)

/-- Every waiting slot and parked continuation of the partition is told that the fault on a page is final. -/
def FinalTold (s t : State) (p page : Nat) : Prop := Marked s t p page 2 ∧ (t.devMem = s.devMem ∧ t.hostMem = s.hostMem) ∧
  ∀ k, t.slot k = if s.partOf (k / 16) = p then finalSlot p page (s.slot k) else s.slot k

theorem reportFinal_tells (s : State) (p page : Nat) : FinalTold s (reportFinal s p page) p page := by
  have htold := reportFinal_told s p page
  obtain ⟨⟨co, ag, heq⟩, -, hcore, hreplay⟩ := markParked_marks page 2 (coresOf (slotsTold s p page) p) (coresOf_nodup ..) (slotsTold s p page)
  refine ⟨fun c hc hp hq => ?_, ?_, fun k => ?_⟩
  · have hmem : c ∈ coresOf (slotsTold s p page) p := mem_coresOf.mpr ⟨hc, hp, hq⟩
    refine ⟨(htold.parked c).trans ?_, fun hw => htold.agenda _ (hreplay c hmem hw)⟩
    rw [hcore, if_pos hmem]
    rfl
  · obtain ⟨hdev, hhost⟩ := htold.memory
    rw [heq] at hdev hhost
    exact ⟨hdev, hhost⟩
  · rw [← slot_slotsTold, State.slot, htold.slots, heq]
    rfl

theorem reportFinal_partOf (s : State) (p page c : Nat) : (reportFinal s p page).partOf c = s.partOf c := by
  obtain ⟨-, -, hcore, -⟩ := markParked_marks page 2 (coresOf (slotsTold s p page) p) (coresOf_nodup ..) (slotsTold s p page)
  rw [(reportFinal_told s p page).partOf, State.partOf, hcore]
  split <;> rfl

/-- A final fault told after a change of the partition's requests is told of the state before it. -/
theorem FinalTold.of_atPart {s t u : State} {p page : Nat} {v : Part} (h : AtPart s t p v) (g : FinalTold t u p page) :
    FinalTold s u p page := by
  obtain ⟨⟨d, n, ag, ps, rfl⟩, -, -⟩ := h
  exact g

/-- A slot that waits for one of the pages whose faults are reported final takes it. -/
theorem reportAll_tells {p g k : Nat} (gs : List Nat) {s : State} (hk : s.partOf (k / 16) = p)
    (hw : (s.slot k).wait = some (.xlat p g)) (hg : g ∈ gs ∨ (s.slot k).xfault = some g) :
    ((reportAll s p gs).slot k).xfault = some g := by
  induction gs generalizing s with
  | nil => exact hg.resolve_left List.not_mem_nil
  | cons x gs ih =>
    obtain ⟨-, -, hslot⟩ := reportFinal_tells s p x
    have hnew := (hslot k).trans (if_pos hk)
    unfold reportAll
    by_cases hx : g = x
    · subst hx
      rw [finalSlot_waiting (.inl hw)] at hnew
      exact ih ((reportFinal_partOf ..).trans hk) (by rw [hnew]; exact hw) (.inr (by rw [hnew]))
    · rw [finalSlot_other hw hx] at hnew
      refine ih ((reportFinal_partOf ..).trans hk) (by rw [hnew]; exact hw) ?_
      rw [hnew]
      exact hg.imp (fun hm => (List.mem_cons.mp hm).resolve_left hx) id

/-- An answer told to the parked continuations of its page, unless a page request for it is out (R377). -/
def parkedTold (u : State) (p page : Nat) : State :=
  if (u.part p).xreqs.any (fun q => q.page == page && q.paging) then u else markParked u page 1 (coresOf u p)

/-! ## The answers to a request (R374, R375, R377, R378) -/

section Answers
variable {s : State} {id p : Nat} {r : XReq}

/-- An answer to a request that is gone, or that was not sent yet, does nothing. -/
theorem answer_gone (h : requestOf s id = none ∨ ∃ e, requestOf s id = some e ∧ e.2.queued = true) (a : AtsAnswer) (b : Bool) :
    exec (.atsResponse id a) s = .next s ∧ exec (.atsTimeout id) s = .next s ∧ exec (.prgResponseSuccess id) s = .next s ∧
      exec (.prgResponseFailure id b) s = .next s ∧ exec (.pageRequestTimeout id) s = .next s := by
  rw [exec_atsResponse, exec_atsTimeout, exec_prgResponseSuccess, exec_prgResponseFailure, exec_pageRequestTimeout, execAtsResponse,
    execAtsTimeout, execPrgResponseSuccess, execPrgResponseFailure, execPageRequestTimeout]
  rcases h with h | ⟨⟨p, r⟩, h, hq⟩
  · simp only [h, and_self]
  · simp only [h, show r.queued = true from hq, Bool.or_true, if_true, and_self]

section Translation
variable (h : requestOf s id = some (p, r)) (hp : r.paging = false) (hq : r.queued = false)
include h hp hq

theorem atsResponse_held (a : AtsAnswer) (hh : heldByInvalidate (s.part p) r.page = true) :
    exec (.atsResponse id a) s = .next (s.post (.atsResponse id a)) := by
  simp [exec_atsResponse, execAtsResponse, h, hp, hq, hh]

/-- The state in which an answer is stored and its request gone. -/
def answerStored (s : State) (p : Nat) (r : XReq) (a : AtsAnswer) : State := storeAnswer (dropRequest s p r) p r.slice r.page a

omit h hp hq in
theorem answerStored_stores (s : State) (p : Nat) (r : XReq) (a : AtsAnswer) :
    ∃ xs m, AtPart s (answerStored s p r a) p (((s.part p).withXreqs xs).withXlat m) ∧ FromRequests xs (s.part p).xreqs ∧
      (∀ q ∈ xs, q.id ≠ r.id) ∧ xentryAt m r.slice r.page (storedSize a.log2) = some (answerEntry r.page a) ∧
      (∀ x ∈ m, Covers x r.slice r.page → x = (answerKey r.slice r.page a, answerEntry r.page a)) ∧
      (sliceHolds (s.part p).xlat r.slice < 4096 →
        ∀ x ∈ (s.part p).xlat, ¬ Covers x r.slice r.page → x.1 ≠ answerKey r.slice r.page a → x ∈ m) ∧
      (sliceHolds (s.part p).xlat r.slice ≤ 4096 → sliceHolds m r.slice ≤ 4096) := by
  obtain ⟨xs, hat, hfrom, hne⟩ := dropRequest_drops s p r
  obtain ⟨m, hat', hentry⟩ := storeAnswer_stores (dropRequest s p r) p r.slice r.page a
  rw [hat.part] at hat' hentry
  exact ⟨xs, m, hat.trans hat', hfrom, hne, hentry⟩

omit h hp hq in
/-- Parked continuations are told of an answer unless a page request for the page is out (R377). -/
theorem parkedTold_tells (u : State) (p page : Nat) : (∃ co ag, parkedTold u p page = { u with cores := co, agenda := ag }) ∧
    ((∀ q ∈ (u.part p).xreqs, q.page = page → q.paging = false) → Marked u (parkedTold u p page) p page 1) := by
  obtain ⟨hframe, -, hcore, hreplay⟩ := markParked_marks page 1 (coresOf u p) (coresOf_nodup ..) u
  unfold parkedTold
  split
  · next hout =>
    refine ⟨⟨_, _, rfl⟩, fun hnone => ?_⟩
    obtain ⟨q, hq, hpage⟩ := List.any_eq_true.mp hout
    obtain ⟨hpage, hpaging⟩ := Bool.and_eq_true_iff.mp hpage
    rw [hnone q hq (beq_iff_eq.mp hpage)] at hpaging
    cases hpaging
  · refine ⟨hframe, fun _ c hc hp hq => ?_⟩
    have hmem := mem_coresOf.mpr ⟨hc, hp, hq⟩
    exact ⟨by rw [hcore, if_pos hmem], hreplay c hmem⟩

/-- An answer that is not held back is stored, and then parked continuations and tiles are told (R374, R377). -/
theorem atsResponse_told (a : AtsAnswer) (hh : heldByInvalidate (s.part p) r.page = false) :
    ∃ t, exec (.atsResponse id a) s = .next t ∧ t.slots = s.slots ∧ (t.devMem = s.devMem ∧ t.hostMem = s.hostMem) ∧
      t.part p = (answerStored s p r a).part p ∧
      ((∀ q ∈ (s.part p).xreqs, q.page = r.page → q.paging = false) → Marked s t p r.page 1) := by
  obtain ⟨xs, m, hat, hfrom, -⟩ := answerStored_stores s p r a
  have hexec : exec (.atsResponse id a) s = .next (pokeTiles (parkedTold (answerStored s p r a) p r.page) false
      (waitingTiles (parkedTold (answerStored s p r a) p r.page) p)) := by
    simp only [exec_atsResponse, execAtsResponse, h, hp, hq, hh, Bool.or_self, Bool.false_eq_true, if_false]
    rfl
  generalize answerStored s p r a = u at hat hexec ⊢
  obtain ⟨⟨co, ag, hv⟩, hmarks⟩ := parkedTold_tells u p r.page
  obtain ⟨ag', ht, hkeep⟩ := pokeTiles_posts false (waitingTiles (parkedTold u p r.page) p) (parkedTold u p r.page)
  generalize parkedTold u p r.page = v at hexec hv hmarks ht hkeep
  generalize pokeTiles v false (waitingTiles v p) = w at hexec ht
  have hpart := hat.part
  have hfewer (hnone : ∀ q ∈ (s.part p).xreqs, q.page = r.page → q.paging = false) :
      ∀ q ∈ (u.part p).xreqs, q.page = r.page → q.paging = false := by
    intro q hmem hpage
    rw [hpart] at hmem
    obtain ⟨q', hmem', -, hpage', hpaging⟩ := hfrom q hmem
    exact hpaging.trans (hnone q' hmem' (hpage' ▸ hpage))
  obtain ⟨⟨d, n, ag'', ps, rfl⟩, -, -⟩ := hat
  subst ht hv
  refine ⟨_, hexec, rfl, ⟨rfl, rfl⟩, rfl, fun hnone c hc hpres hq => ?_⟩
  obtain ⟨hparked, hreplay⟩ := hmarks (hfewer hnone) c hc hpres hq
  exact ⟨hparked, fun hw => hkeep _ (hreplay hw)⟩

theorem atsTimeout_early (ht : s.tick < r.sent + 50000) : exec (.atsTimeout id) s = .next (s.post (.atsTimeout id)) := by
  simp [exec_atsTimeout, execAtsTimeout, h, hp, hq, ht]

/-- A first timeout sends the request once more (R374). -/
theorem atsTimeout_again (ht : r.sent + 50000 ≤ s.tick) (ha : r.again = false) : exec (.atsTimeout id) s =
    .next ((s.setPart p ((s.part p).withXreqs ((s.part p).xreqs.map fun q =>
      if q.id = id then { q with again := true, sent := s.tick } else q))).post (.atsTimeout id)) := by
  simp only [exec_atsTimeout, execAtsTimeout, h, hp, hq, ha, Nat.not_lt.mpr ht, Bool.or_self, Bool.false_eq_true, if_false]
  rfl

/-- A second timeout is a fault reported final (R374). -/
theorem atsTimeout_final (ht : r.sent + 50000 ≤ s.tick) (ha : r.again = true) :
    exec (.atsTimeout id) s = .next (reportFinal (dropRequest s p r) p r.page) := by
  simp only [exec_atsTimeout, execAtsTimeout, h, hp, hq, ha, Nat.not_lt.mpr ht, Bool.or_self, Bool.false_eq_true, if_false, if_true]

end Translation

/-- A request dropped and its page reported final: everyone who waits is told, and of the partition only requests and queues
have changed (R378). -/
theorem dropped_final (s : State) (p : Nat) (r : XReq) : let t := reportFinal (dropRequest s p r) p r.page
    FinalTold s t p r.page ∧ (t.part p).pagesOff = (s.part p).pagesOff ∧ ∀ q ∈ (t.part p).xreqs, q.id ≠ r.id := by
  obtain ⟨xs, hat, -, hne⟩ := dropRequest_drops s p r
  obtain ⟨-, -, -, qs, hpart⟩ := reported_reportFinal (dropRequest s p r) p r.page
  rw [hat.part] at hpart
  refine ⟨(reportFinal_tells ..).of_atPart hat, ?_, ?_⟩
  · rw [hpart]; rfl
  · rw [hpart]; exact hne

section Paging
variable (h : requestOf s id = some (p, r)) (hp : r.paging = true) (hq : r.queued = false)
include h hp hq

theorem prgResponseSuccess_asks : exec (.prgResponseSuccess id) s = .next (let t := dropRequest s p r
    requestXlat (t.setPart p ((t.part p).withXlat (dropCovering (t.part p).xlat r.slice r.page))) p r.page r.need) := by
  simp only [exec_prgResponseSuccess, execPrgResponseSuccess, h, hp, hq, Bool.not_true, Bool.or_self, Bool.false_eq_true, if_false]
  rfl

theorem prgResponseFailure_invalid :
    exec (.prgResponseFailure id true) s = .next (reportFinal (dropRequest s p r) p r.page) := by
  simp only [exec_prgResponseFailure, execPrgResponseFailure, h, hp, hq, Bool.not_true, Bool.or_self, Bool.false_eq_true, if_false,
    if_true]

theorem prgResponseFailure_stops : exec (.prgResponseFailure id false) s =
    .next (reportAll (s.setPart p { s.part p with pagesOff := true, xreqs := (s.part p).xreqs.filter fun q => !q.paging }) p
      (pagingPages (s.part p))) := by
  simp only [exec_prgResponseFailure, execPrgResponseFailure, h, hp, hq, Bool.not_true, Bool.or_self, Bool.false_eq_true, if_false]

theorem pageRequestTimeout_early (ht : ((s.part p).sprto.extractLsb' 0 40).toNat = 0 ∨
    s.tick < r.sent + ((s.part p).sprto.extractLsb' 0 40).toNat) :
    exec (.pageRequestTimeout id) s = .next (s.post (.pageRequestTimeout id)) := by
  simp only [exec_pageRequestTimeout, execPageRequestTimeout, h, hp, hq, ht, Bool.not_true, Bool.or_self, Bool.false_eq_true, if_false,
    if_true]

theorem pageRequestTimeout_final (h0 : ((s.part p).sprto.extractLsb' 0 40).toNat ≠ 0)
    (ht : r.sent + ((s.part p).sprto.extractLsb' 0 40).toNat ≤ s.tick) :
    exec (.pageRequestTimeout id) s = .next (reportFinal (dropRequest s p r) p r.page) := by
  simp only [exec_pageRequestTimeout, execPageRequestTimeout, h, hp, hq, h0, Nat.not_lt.mpr ht, or_self, Bool.not_true, Bool.or_self,
    Bool.false_eq_true, if_false]

end Paging
end Answers

/-- A translation asked for: nothing but requests changes, and one for the page is out (R374). -/
theorem requestXlat_asks (s : State) (p page : Nat) (need : Need) : ∃ xs, AtPart s (requestXlat s p page need) p ((s.part p).withXreqs xs) ∧
    ∃ q ∈ xs, q.page = page ∧ q.paging = false := by
  unfold requestXlat
  dsimp only [State.fresh]
  split
  · next hout =>
    obtain ⟨q, hq, hpage⟩ := List.any_eq_true.mp hout
    simp only [Bool.and_eq_true, beq_iff_eq, Bool.not_eq_true'] at hpage
    obtain ⟨⟨hpage, hpaging⟩, -⟩ := hpage
    exact ⟨_, atPart_refl s p, q, hq, hpage, hpaging⟩
  · have hset (q : XReq) := (atPart_refl s p).fresh.set ((s.part p).withXreqs ((s.part p).xreqs ++ [q]))
    split
    · exact ⟨_, hset _, _, List.mem_append_right _ (List.mem_singleton_self _), rfl, rfl⟩
    · exact ⟨_, (hset _).post _, _, List.mem_append_right _ (List.mem_singleton_self _), rfl, rfl⟩

/-- A page that came in: its translations are gone and one is asked for anew (R377). -/
theorem pageArrived_asks (s : State) (p : Nat) (r : XReq) : ∃ v, AtPart s (let t := dropRequest s p r
    requestXlat (t.setPart p ((t.part p).withXlat (dropCovering (t.part p).xlat r.slice r.page))) p r.page r.need) p v ∧
      (∃ q ∈ v.xreqs, q.page = r.page ∧ q.paging = false) ∧ ∀ x ∈ v.xlat, ¬ Covers x r.slice r.page := by
  obtain ⟨xs, hat, -, -⟩ := dropRequest_drops s p r
  have hcleared := hat.set (((s.part p).withXreqs xs).withXlat (dropCovering (s.part p).xlat r.slice r.page))
  have hpart := hat.part
  generalize dropRequest s p r = t at hat hcleared hpart ⊢
  obtain ⟨ys, hasked, hout⟩ := requestXlat_asks (t.setPart p ((t.part p).withXlat (dropCovering (t.part p).xlat r.slice r.page))) p r.page r.need
  refine ⟨_, hat.trans (((atPart_refl t p).set _).trans hasked), hout, fun x hx => ?_⟩
  rw [part_setPart_same] at hx
  exact (mem_dropCovering.mp hx).2

/-- All page requests of a partition ended with final faults (R378). -/
theorem allEnded_does (s : State) (p : Nat) :
    let t := reportAll (s.setPart p { s.part p with pagesOff := true, xreqs := (s.part p).xreqs.filter fun q => !q.paging }) p
      (pagingPages (s.part p))
    (t.part p).pagesOff = true ∧ (∀ q ∈ (t.part p).xreqs, q.paging = false) ∧ (t.devMem = s.devMem ∧ t.hostMem = s.hostMem) ∧
      ∀ q ∈ (s.part p).xreqs, q.paging = true → ∀ k, s.partOf (k / 16) = p → (s.slot k).wait = some (.xlat p q.page) →
        (t.slot k).xfault = some q.page := by
  intro t
  obtain ⟨⟨sl, cs, ag, cp, ps, heq⟩, -, -, qs, hpart⟩ := reported_reportAll p (pagingPages (s.part p))
    (s.setPart p { s.part p with pagesOff := true, xreqs := (s.part p).xreqs.filter fun q => !q.paging })
  rw [part_setPart_same] at hpart
  refine ⟨?_, fun q hq => ?_, ?_, fun q hq hpaging k hk hw => ?_⟩
  · simp only [t, hpart]
  · simp only [t, hpart, List.mem_filter, Bool.not_eq_true'] at hq
    exact hq.2
  · simp only [t, heq, setPart_devMem, setPart_hostMem, and_self]
  · have hmem : q.page ∈ pagingPages (s.part p) := List.mem_map.mpr ⟨q, List.mem_filter.mpr ⟨hq, hpaging⟩, rfl⟩
    exact reportAll_tells (pagingPages (s.part p)) (s := s.setPart p _) hk hw (.inl hmem)

end Sys2Proof.Machine
end

section
/-! SUPPORT. Invalidations (R381), the replay of a parked continuation (R377), and what O55 says of both and of the answers. -/

namespace Sys2Proof.Machine

/-! ## Code and first-level lines of a range dropped (R381) -/

/-- A core without the code lines of a range, and one without the first-level lines of a range. -/
def withoutCode (va len : Nat) (co : Core) : Core := { co with icache := co.icache.filter fun e => !inRange va len e.1 64 }
def withoutLines (space va len : Nat) (co : Core) : Core := { co with l1 := co.l1.filter fun e => !tagInRange space va len e.1 }

theorem withoutCode_twice (va len : Nat) (co : Core) : withoutCode va len (withoutCode va len co) = withoutCode va len co := by
  simp [withoutCode, List.filter_filter]

theorem withoutLines_twice (space va len : Nat) (co : Core) :
    withoutLines space va len (withoutLines space va len co) = withoutLines space va len co := by
  simp [withoutLines, List.filter_filter]

theorem dropCode_core (va len : Nat) (cs : List Nat) (s : State) (d : Nat) :
    (dropCode s va len cs).core d = if d ∈ cs then withoutCode va len (s.core d) else s.core d := by
  induction cs generalizing s with
  | nil => rfl
  | cons c cs ih =>
    refine (ih (s.setCore c (withoutCode va len (s.core c)))).trans ?_
    by_cases hd : d = c
    · subst hd
      simp [withoutCode_twice]
    · simp [core_setCore_ne s _ hd, hd]

theorem flushRange_core (p va len : Nat) (cs : List Nat) (s : State) (d : Nat) : (flushRange s p va len cs).core d =
    if d ∈ cs then withoutLines (l1Tag (s.part p) 0) va len (s.core d) else s.core d := by
  induction cs generalizing s with
  | nil => rfl
  | cons c cs ih =>
    have hpart : (flushLines s c (tagInRange (l1Tag (s.part p) 0) va len)).part p = s.part p := by
      rw [State.part, flushLines_parts]
      rfl
    have hcore := l1_flushLines s c (tagInRange (l1Tag (s.part p) 0) va len)
    rw [flushRange_cons, ih, hpart]
    by_cases hd : d = c
    · subst hd
      rw [hcore, ← withoutLines]
      simp [withoutLines_twice]
    · simp [flushLines_core_ne s _ hd, hd]

/-! ## An invalidation in one partition and in several (R381) -/

/-- The translations that an invalidation leaves. -/
def xlatOutside (va len : Nat) (m : SMap XEntry) : SMap XEntry :=
  m.filter fun e => !inRange va len (xbase e.1 e.2.log2) (2 ^ e.2.log2)

/-- A partition whose translations of a range are dropped, with the invalidations under way. -/
def Part.invalidated (pt : Part) (va len : Nat) (inv : List (Nat × Nat)) : Part :=
  { pt with xlat := xlatOutside va len pt.xlat, invalidating := inv }

/-- What an invalidation in the partitions of a list does: translations, code lines and first-level lines of the range are gone
there, and where accesses are still to be performed it is noted as under way. -/
structure Invalidated (s t : State) (va len : Nat) (ps : List Nat) : Prop where
  frame : ∃ pa co m r, t = { s with parts := pa, cores := co, devMem := m, rdc := r }
  memory : NoLines s → t.devMem = s.devMem ∧ NoLines t
  part : ∀ p ∈ ps, ∃ inv, t.part p = (s.part p).invalidated va len inv ∧ (rangeBusy s p va len = true → (va, len) ∈ inv)
  partElse : ∀ p, p ∉ ps → t.part p = s.part p
  core : ∀ p ∈ ps, ∀ c ∈ coresOf s p, t.core c = withoutLines (l1Tag (s.part p) 0) va len (withoutCode va len (s.core c))
  coreElse : ∀ c, (∀ p ∈ ps, c ∉ coresOf s p) → t.core c = s.core c

/-- The cores keep their partitions and stay present. -/
theorem Invalidated.coreStays {s t : State} {va len : Nat} {ps : List Nat} (h : Invalidated s t va len ps) (c : Nat) :
    (t.core c).mpart = (s.core c).mpart ∧ (t.core c).absent = (s.core c).absent := by
  by_cases hc : ∀ p ∈ ps, c ∉ coresOf s p
  · rw [h.coreElse c hc]
    exact ⟨rfl, rfl⟩
  · push Not at hc
    obtain ⟨p, hp, hmem⟩ := hc
    rw [h.core p hp c hmem]
    exact ⟨rfl, rfl⟩

theorem Invalidated.partOf {s t : State} {va len : Nat} {ps : List Nat} (h : Invalidated s t va len ps) (c : Nat) :
    t.partOf c = s.partOf c := by
  rw [State.partOf, State.partOf, (h.coreStays c).1]

theorem Invalidated.coresStay {s t : State} {va len : Nat} {ps : List Nat} (h : Invalidated s t va len ps) (p : Nat) :
    coresOf t p = coresOf s p := by
  refine List.filter_congr fun c _ => ?_
  rw [h.partOf, State.present, State.present, (h.coreStays c).2]

theorem Invalidated.busy {s t : State} {va len : Nat} {ps : List Nat} (h : Invalidated s t va len ps) (p v l : Nat) :
    rangeBusy t p v l = rangeBusy s p v l := by
  have hof := h.partOf
  obtain ⟨pa, co, m, r, rfl⟩ := h.frame
  simp only [rangeBusy, hof]

theorem invalidated_refl (s : State) (va len : Nat) : Invalidated s s va len [] where
  frame := ⟨_, _, _, _, rfl⟩
  memory h := ⟨rfl, h⟩
  part _ h := absurd h List.not_mem_nil
  partElse _ _ := rfl
  core _ h := absurd h List.not_mem_nil
  coreElse _ _ := rfl

/-- One more partition. -/
theorem Invalidated.cons {s t u : State} {va len p : Nat} {ps : List Nat} (hp : p ∉ ps) (h : Invalidated s t va len [p])
    (g : Invalidated t u va len ps) : Invalidated s u va len (p :: ps) where
  frame := by
    obtain ⟨pa, co, m, r, rfl⟩ := h.frame
    obtain ⟨pa', co', m', r', rfl⟩ := g.frame
    exact ⟨_, _, _, _, rfl⟩
  memory hn := by
    obtain ⟨hdev, hnone⟩ := h.memory hn
    obtain ⟨hdev', hnone'⟩ := g.memory hnone
    exact ⟨hdev'.trans hdev, hnone'⟩
  part q hq := by
    rcases List.mem_cons.mp hq with rfl | hq
    · rw [g.partElse q hp]
      exact h.part q (List.mem_singleton_self q)
    · have hne : q ∉ [p] := fun hm => hp (List.mem_singleton.mp hm ▸ hq)
      obtain ⟨inv, hpart, hbusy⟩ := g.part q hq
      rw [h.partElse q hne] at hpart
      exact ⟨inv, hpart, fun hb => hbusy (by rwa [h.busy])⟩
  partElse q hq := by
    have hqs : q ∉ ps := fun hm => hq (List.mem_cons_of_mem _ hm)
    have hqp : q ∉ [p] := fun hm => hq (List.mem_singleton.mp hm ▸ List.mem_cons_self)
    rw [g.partElse q hqs, h.partElse q hqp]
  core q hq c hc := by
    rcases List.mem_cons.mp hq with rfl | hq
    · have helse : ∀ x ∈ ps, c ∉ coresOf t x := fun x hx hm => by
        rw [h.coresStay] at hm
        exact hp ((mem_coresOf.mp hc).2.2.symm.trans (mem_coresOf.mp hm).2.2 ▸ hx)
      rw [g.coreElse c helse, h.core q (List.mem_singleton_self q) c hc]
    · have hne : q ≠ p := fun he => hp (he ▸ hq)
      have helse : ∀ x ∈ [p], c ∉ coresOf s x := fun x hx hm => by
        rw [List.mem_singleton.mp hx] at hm
        exact hne ((mem_coresOf.mp hc).2.2.symm.trans (mem_coresOf.mp hm).2.2)
      rw [g.core q hq c (by rwa [h.coresStay]), h.coreElse c helse, h.partElse q (fun hm => hne (List.mem_singleton.mp hm))]
  coreElse c hc := by
    have helse : ∀ x ∈ ps, c ∉ coresOf t x := fun x hx hm => by
      rw [h.coresStay] at hm
      exact hc x (List.mem_cons_of_mem _ hx) hm
    rw [g.coreElse c helse, h.coreElse c fun x hx => List.mem_singleton.mp hx ▸ hc p List.mem_cons_self]

/-- The invalidation noted as under way. -/
def addInvalidating (va len : Nat) (l : List (Nat × Nat)) : List (Nat × Nat) :=
  if l.contains (va, len) then l else l ++ [(va, len)]

theorem mem_addInvalidating (va len : Nat) (l : List (Nat × Nat)) : (va, len) ∈ addInvalidating va len l := by
  unfold addInvalidating
  split
  · next h => exact List.contains_iff_mem.mp h
  · exact List.mem_append_right _ (List.mem_singleton_self _)

/-- The drops of one partition, before the look whether accesses are left. -/
def dropRange (s : State) (va len p : Nat) : State :=
  let t := s.setPart p ((s.part p).invalidated va len (addInvalidating va len (s.part p).invalidating))
  flushRange (dropCode t va len (coresOf t p)) p va len (coresOf t p)

theorem dropRange_invalidates (s : State) (va len p : Nat) : Invalidated s (dropRange s va len p) va len [p] := by
  have hmem := mem_addInvalidating va len (s.part p).invalidating
  unfold dropRange
  generalize addInvalidating va len (s.part p).invalidating = inv at hmem ⊢
  dsimp only
  generalize hu : s.setPart p ((s.part p).invalidated va len inv) = u
  have hcs : coresOf u p = coresOf s p := by subst hu; rfl
  have hcores (c : Nat) : u.core c = s.core c := by subst hu; rfl
  have hpart : u.part p = (s.part p).invalidated va len inv := by subst hu; exact part_setPart_same ..
  have helse (q : Nat) (hq : q ≠ p) : u.part q = s.part q := by subst hu; exact part_setPart_ne s _ hq
  have hcode := dropCode_core va len (coresOf u p) u
  obtain ⟨hmemory, hl1⟩ := dropCode_keeps va len (coresOf u p) u
  obtain ⟨co, m, r, hdrop⟩ := dropCode_onlyCores va len (coresOf u p) u
  generalize hv : dropCode u va len (coresOf u p) = v at hcode hmemory hl1 hdrop ⊢
  have hparts (q : Nat) : v.part q = u.part q := by rw [hdrop]; rfl
  have hflush := flushRange_core p va len (coresOf u p) v
  have hquiet : NoLines s → flushRange v p va len (coresOf u p) = v := fun hn =>
    flushRange_empty p va len _ fun c => (hl1 c).trans (hcores c ▸ hn c)
  obtain ⟨co', m', r', hflushed⟩ := flushRange_onlyCores p va len (coresOf u p) v
  have hend (q : Nat) : (flushRange v p va len (coresOf u p)).part q = u.part q := by rw [hflushed, ← hparts]; rfl
  have htag : l1Tag (v.part p) 0 = l1Tag (s.part p) 0 := by rw [hparts, hpart]; rfl
  refine ⟨?_, fun hn => ?_, fun q hq => ?_, fun q hq => ?_, fun q hq c hc => ?_, fun c hc => ?_⟩
  · rw [hflushed, hdrop, ← hu]
    exact ⟨_, _, _, _, rfl⟩
  · rw [hquiet hn]
    refine ⟨hmemory.trans (by rw [← hu]; rfl), fun c => (hl1 c).trans (hcores c ▸ hn c)⟩
  · cases List.mem_singleton.mp hq
    exact ⟨inv, (hend p).trans hpart, fun _ => hmem⟩
  · exact (hend q).trans (helse q fun h => hq (List.mem_singleton.mpr h))
  · cases List.mem_singleton.mp hq
    rw [hflush, hcode, hcs, if_pos hc, if_pos hc, hcores, htag]
  · have hout := hc p (List.mem_singleton_self p)
    rw [hflush, hcode, hcs, if_neg hout, if_neg hout, hcores]

/-- With nothing left to be performed the invalidation is no longer under way. -/
theorem invalidated_ends {s t : State} {va len p : Nat} (h : Invalidated s t va len [p]) (hb : rangeBusy s p va len = false)
    (inv : List (Nat × Nat)) : Invalidated s (t.setPart p { t.part p with invalidating := inv }) va len [p] where
  frame := by
    obtain ⟨pa, co, m, r, rfl⟩ := h.frame
    exact ⟨_, _, _, _, rfl⟩
  memory := h.memory
  part q hq := by
    cases List.mem_singleton.mp hq
    obtain ⟨inv', hpart, -⟩ := h.part p hq
    refine ⟨inv, ?_, fun hbusy => absurd (hb.symm.trans hbusy) Bool.false_ne_true⟩
    rw [part_setPart_same, hpart]
    rfl
  partElse q hq := (part_setPart_ne t _ fun he => hq (List.mem_singleton.mpr he)).trans (h.partElse q hq)
  core := h.core
  coreElse := h.coreElse

theorem invalidateIn_cons (s : State) (va len p : Nat) (ps : List Nat) : invalidateIn s va len (p :: ps) =
    if rangeBusy (dropRange s va len p) p va len then ((invalidateIn (dropRange s va len p) va len ps).1, true)
    else invalidateIn ((dropRange s va len p).setPart p { (dropRange s va len p).part p with
      invalidating := ((dropRange s va len p).part p).invalidating.erase (va, len) }) va len ps := rfl

/-- An invalidation in the partitions of a list, and whether it waits. -/
theorem invalidateIn_invalidates (va len : Nat) (ps : List Nat) (hn : ps.Nodup) (s : State) :
    Invalidated s (invalidateIn s va len ps).1 va len ps ∧
      ((invalidateIn s va len ps).2 = true ↔ ∃ p ∈ ps, rangeBusy s p va len = true) := by
  induction ps generalizing s with
  | nil => exact ⟨invalidated_refl s va len, by simp [invalidateIn]⟩
  | cons p ps ih =>
    obtain ⟨hp, hn⟩ := List.nodup_cons.mp hn
    have hone := dropRange_invalidates s va len p
    rw [invalidateIn_cons, hone.busy]
    by_cases hb : rangeBusy s p va len = true
    · obtain ⟨hrest, -⟩ := ih hn (dropRange s va len p)
      rw [if_pos hb]
      exact ⟨hone.cons hp hrest, by simp [hb]⟩
    · have hends := invalidated_ends hone (Bool.eq_false_iff.mpr hb) (((dropRange s va len p).part p).invalidating.erase (va, len))
      obtain ⟨hrest, hwaits⟩ := ih hn ((dropRange s va len p).setPart p { (dropRange s va len p).part p with
        invalidating := ((dropRange s va len p).part p).invalidating.erase (va, len) })
      rw [if_neg hb, hwaits]
      refine ⟨hends.cons hp hrest, ?_⟩
      simp only [hends.busy, List.mem_cons, exists_eq_or_imp, hb, Bool.false_eq_true, false_or]

/-! ## ATS_INVALIDATE -/

theorem mem_pasidParts {s : State} {pasid p : Nat} (h : p ∈ pasidParts s pasid) :
    p < 8 ∧ (s.part p).spasid.getLsbD 63 = true ∧ ((s.part p).spasid.extractLsb' 0 20).toNat = pasid := by
  obtain ⟨hlt, hok⟩ := List.mem_filter.mp h
  obtain ⟨hvalid, hpasid⟩ := Bool.and_eq_true_iff.mp hok
  exact ⟨List.mem_range.mp hlt, hvalid, beq_iff_eq.mp hpasid⟩

theorem look_none_of_no_key {α : Type} {m : SMap (Option α)} {k : Nat} (h : ∀ e ∈ m, e.1 ≠ k) : look m none k = none := by
  induction m with
  | nil => rfl
  | cons e m ih =>
    obtain ⟨j, v⟩ := e
    simp only [look, h (j, v) List.mem_cons_self, if_false]
    exact ih fun e he => h e (List.mem_cons_of_mem _ he)

/-- No first-level cache of the partitions holds a line of the range. -/
theorem Invalidated.noLine {s t : State} {va len p c x : Nat} {ps : List Nat} (h : Invalidated s t va len ps) (hp : p ∈ ps)
    (hc : c ∈ coresOf s p) (hx : x < 2 ^ 57) (hlo : va < x / 4096 * 4096 + 4096) (hhi : x / 4096 * 4096 < va + len) :
    l1At t c x = none := by
  obtain ⟨inv, hpart, -⟩ := h.part p hp
  have hof : t.partOf c = p := (h.partOf c).trans (mem_coresOf.mp hc).2.2
  have htag : l1Tag (t.part p) x = l1Tag (s.part p) 0 + x / 128 := by
    rw [hpart]
    simp [l1Tag, Part.invalidated]
  refine look_none_of_no_key fun e he hkey => ?_
  rw [hof, htag] at hkey
  rw [h.core p hp c hc] at he
  obtain ⟨e', he', rfl⟩ := List.mem_map.mp he
  obtain ⟨-, hout⟩ := List.mem_filter.mp he'
  have hin : tagInRange (l1Tag (s.part p) 0) va len e'.1 = true := by
    simp only [tagInRange, inRange, Bool.and_eq_true, decide_eq_true_eq]
    have : e'.1 = l1Tag (s.part p) 0 + x / 128 := hkey
    omega
  rw [hin] at hout
  cases hout

/-- An invalidation ends at once, or it is tried again where accesses are still to be performed. -/
theorem atsInvalidate_does (s : State) (pasid va len : Nat) : let ps := pasidParts s pasid
    let u := (invalidateIn s va len ps).1
    Invalidated s u va len ps ∧
      ((∃ p ∈ ps, rangeBusy s p va len = true) → exec (.atsInvalidate pasid va len) s = .next (u.post (.atsInvalidate pasid va len))) ∧
      ((∀ p ∈ ps, rangeBusy s p va len = false) → exec (.atsInvalidate pasid va len) s = .next u) := by
  intro ps u
  obtain ⟨hinv, hwaits⟩ := invalidateIn_invalidates va len ps (List.nodup_range.filter _) s
  have hexec : exec (.atsInvalidate pasid va len) s =
      if (invalidateIn s va len ps).2 = true then .next (u.post (.atsInvalidate pasid va len)) else .next u := by
    rw [exec_atsInvalidate, execAtsInvalidate]
    split <;> simp_all [u, ps]
  refine ⟨hinv, fun hb => ?_, fun hb => ?_⟩
  · rw [hexec, if_pos (hwaits.mpr hb)]
  · refine hexec.trans (if_neg fun h => ?_)
    obtain ⟨p, hp, hbusy⟩ := hwaits.mp h
    exact absurd ((hb p hp).symm.trans hbusy) Bool.false_ne_true

/-! ## REPLAY (R377, R378) -/

theorem nextReplay_parked {s : State} {c i : Nat} {e : Nat × Nat × Nat} {sl : Slot} (l : List (Nat × Nat × Nat))
    (h : nextReplay s c l = some (e, i, sl)) : e ∈ l ∧ e.2.2 ≠ 0 ∧ parkedCont s c e.1 = some sl := by
  induction l with
  | nil => cases h
  | cons x l ih =>
    have hlater (h : nextReplay s c l = some (e, i, sl)) : e ∈ x :: l ∧ e.2.2 ≠ 0 ∧ parkedCont s c e.1 = some sl :=
      (ih h).imp (List.mem_cons_of_mem _) id
    unfold nextReplay at h
    split at h
    · exact hlater h
    · next sl' hsl =>
      split at h
      · next hturn =>
        split at h
        · cases h
          exact ⟨List.mem_cons_self, hturn.1, hsl⟩
        · exact hlater h
      · exact hlater h

end Sys2Proof.Machine
end

section
/-! SUPPORT. The replay of a parked continuation (R377, R378), and O55 put together. -/

namespace Sys2Proof.Machine

/-! ## Events put on the agenda -/

/-- Two states that differ in the agenda at most. -/
def OnlyAgenda (s t : State) : Prop := ∃ a, t = { s with agenda := a }

theorem onlyAgenda_refl (s : State) : OnlyAgenda s s := ⟨_, rfl⟩

theorem onlyAgenda_post {s t : State} (h : OnlyAgenda s t) (e : Instr) : OnlyAgenda s (t.post e) := by
  obtain ⟨a, rfl⟩ := h
  exact ⟨_, rfl⟩

theorem onlyAgenda_trans {s t u : State} (h : OnlyAgenda s t) (g : OnlyAgenda t u) : OnlyAgenda s u := by
  obtain ⟨a, rfl⟩ := h
  obtain ⟨b, rfl⟩ := g
  exact ⟨_, rfl⟩

theorem onlyAgenda_ite {s t u : State} {c : Prop} [Decidable c] (h : OnlyAgenda s t) (g : OnlyAgenda s u) :
    OnlyAgenda s (if c then t else u) := by
  split
  · exact h
  · exact g

theorem postStreams_onlyAgenda (k n : Nat) (s : State) : OnlyAgenda s (postStreams s k n) := by
  induction n generalizing s with
  | zero => exact onlyAgenda_refl s
  | succ n ih =>
    exact onlyAgenda_trans (onlyAgenda_ite (onlyAgenda_post (onlyAgenda_refl s) _) (onlyAgenda_refl s)) (ih _)

theorem arrivals_onlyAgenda (k : Nat) (vs : List VPend) (s : State) :
    OnlyAgenda s (vs.foldl (fun s v => s.post (.variableResultArrival (k / 16) (k % 16) v.id)) s) := by
  induction vs generalizing s with
  | nil => exact onlyAgenda_refl s
  | cons v vs ih => exact onlyAgenda_trans (onlyAgenda_post (onlyAgenda_refl s) _) (ih _)

theorem postKnown_onlyAgenda (s : State) (k : Nat) : OnlyAgenda s (postKnown s k) := by
  have hfirst : OnlyAgenda s (if (s.slot k).pctb = 0 then s else s.post (.timer (k / 16) (k % 16))) :=
    onlyAgenda_ite (onlyAgenda_refl s) (onlyAgenda_post (onlyAgenda_refl s) _)
  unfold postKnown
  dsimp only
  generalize (if (s.slot k).pctb = 0 then s else s.post (.timer (k / 16) (k % 16))) = u at hfirst ⊢
  refine onlyAgenda_trans hfirst (onlyAgenda_trans ?_
    (onlyAgenda_trans (postStreams_onlyAgenda k 4 _) (arrivals_onlyAgenda k _ _)))
  split
  · exact onlyAgenda_ite (onlyAgenda_refl u) (onlyAgenda_post (onlyAgenda_refl u) _)
  · exact onlyAgenda_refl u

/-! ## A continuation filled into its slot (R345, R377) -/

/-- What a fill makes of a slot before its KIND is looked at: the area's values, with what the slot and the transaction give
(R345). -/
def filledSlot (s : State) (k area : Nat) (bs : List Byte) (e : Option (Nat × Tx)) : Slot :=
  let c := k / 16
  let old := s.slot k
  let base := look s.saved Slot.reset (areaKey (s.partOf c) area)
  let sl := restore base bs
  let given := txCsrs (match e with
    | some e => e.2
    | none => ⟨s.partOf c, 0, none, [], Vector.replicate 4 0, Vector.replicate 4 0, 0, [], none, .running, none, [], 0, false, 0, 0, 0, 0,
        0, 0, [], 0⟩) c
  { sl with
    st := .ready, wait := base.wait, resv := old.resv, redIdx := old.redIdx, relaxed := old.relaxed, copies := old.copies, home := c
    tx := e.map fun e => e.1, readyAt := (s.core c).cyc, cont := s.nextId, answer := none, replay := none, xfault := none
    csr := { sl.csr with tray := given.tray, txn := given.txn } }

/-- The state with the slot filled and its area forgotten. -/
def filledState (s : State) (k area : Nat) (bs : List Byte) (e : Option (Nat × Tx)) : State :=
  { State.setSlot { s with nextId := s.nextId + 1 } k (filledSlot s k area bs e) with
    saved := remove s.saved (areaKey (s.partOf (k / 16)) area) }

theorem fillSlot_eq (s : State) (k area : Nat) (bs : List Byte) (e : Option (Nat × Tx)) :
    fillSlot s k area bs e = resumeKind (postKnown (filledState s k area bs e) k) k bs := rfl

/-- An area of KIND 0 makes its slot READY and leaves its values (R345). -/
theorem resumeKind_ready {bs : List Byte} (h : areaField bs 16 1 = 0) (s : State) (k : Nat) : let t := resumeKind s k bs
    t.cores = s.cores ∧ t.devMem = s.devMem ∧ t.hostMem = s.hostMem ∧ t.slot k = { s.slot k with st := .ready, wait := none } := by
  have hcur : slotKey (k / 16) (k % 16) = k := Nat.div_add_mod ..
  have hkind : resumeKind s k bs = State.setMe { s with curCore := k / 16, curSlot := k % 16 }
      { s.slot (slotKey (k / 16) (k % 16)) with st := .ready, wait := none } := by
    simp only [resumeKind, h]
    rfl
  rw [hkind, hcur]
  refine ⟨rfl, rfl, rfl, ?_⟩
  have hme := me_setMe { s with curCore := k / 16, curSlot := k % 16 } { s.slot k with st := .ready, wait := none }
  rwa [State.me, cur_setMe, State.cur, hcur] at hme

/-- A slot filled from an area of KIND 0 is READY with the values the area holds (R344, R345). -/
theorem fillSlot_ready (s : State) (k area : Nat) {bs : List Byte} (e : Option (Nat × Tx)) (h : areaField bs 16 1 = 0) :
    let t := fillSlot s k area bs e
    t.cores = s.cores ∧ t.devMem = s.devMem ∧ t.hostMem = s.hostMem ∧
      t.slot k = { filledSlot s k area bs e with st := .ready, wait := none } := by
  rw [fillSlot_eq]
  obtain ⟨a, hknown⟩ := postKnown_onlyAgenda (filledState s k area bs e) k
  obtain ⟨hcores, hdev, hhost, hslot⟩ := resumeKind_ready h (postKnown (filledState s k area bs e) k) k
  rw [hknown] at hcores hdev hhost hslot
  have hfilled : (filledState s k area bs e).slot k = filledSlot s k area bs e := slot_setSlot_same ..
  rw [← hfilled, hknown]
  exact ⟨hcores, hdev, hhost, hslot⟩

/-- The transaction of a parked continuation, as the fill needs it. -/
def contTx (s : State) (sl : Slot) : Option (Nat × Tx) :=
  match sl.tx with
  | some t => match s.tx? t with
    | some tx => some (t, tx)
    | none => none
  | none => none

/-- The core without the continuation of one park area. -/
def unparked (s : State) (c n : Nat) : State :=
  s.setCore c { s.core c with parked := (s.core c).parked.filter fun e => e.1 != n }

/-- The state after a parked continuation is filled into its slot. -/
def replayed (s : State) (c n page status i : Nat) (sl : Slot) (bs : List Byte) : State :=
  let t := fillSlot (unparked s c n) (slotKey c i) (parkBase (s.core c) + 8192 * n) bs (contTx (unparked s c n) sl)
  t.setSlot (slotKey c i) { t.slot (slotKey c i) with
    level := sl.level, ts := sl.ts, tm := sl.tm, home := sl.home
    replay := if status = 1 then some page else none
    xfault := if status = 2 then some page else none }

/-- A replay that finds its area fills the slot, and comes back while another continuation is to be filled. -/
theorem replay_fills {s : State} {c n page status i : Nat} {sl : Slot} {bs : List Byte} (hq : (s.core c).spillq = [])
    (hn : nextReplay s c (s.core c).parked = some ((n, page, status), i, sl))
    (ha : areaPages s (s.partOf c) c (parkBase (s.core c) + 8192 * n) false = (s, .ready))
    (hr : readSpace s (s.partOf c) (parkBase (s.core c) + 8192 * n) 8192 = some bs) :
    ∃ t, exec (.replay c) s = .next t ∧ OnlyAgenda (replayed s c n page status i sl bs) t := by
  have hexec : exec (.replay c) s = .next
      (if ((replayed s c n page status i sl bs).core c).parked.any fun e => e.2.2 != 0
        then postOnce (replayed s c n page status i sl bs) (.replay c) else replayed s c n page status i sl bs) := by
    rw [exec_replay, execReplay, hq]
    simp only [hn]
    rw [ha]
    dsimp only
    rw [hr]
    rfl
  refine ⟨_, hexec, ?_⟩
  split
  · obtain ⟨a, hp, -⟩ := postOnce_cases (replayed s c n page status i sl bs) (.replay c)
    exact ⟨a, hp⟩
  · exact onlyAgenda_refl _

/-- What a fill for a replay makes of the core and the slot. -/
theorem replayed_does (s : State) {c n page status i : Nat} {sl : Slot} {bs : List Byte} (hk : areaField bs 16 1 = 0) :
    let t := replayed s c n page status i sl bs
    let x := t.slot (slotKey c i)
    (t.core c).parked = (s.core c).parked.filter (fun e => e.1 != n) ∧ t.devMem = s.devMem ∧ t.hostMem = s.hostMem ∧
      x.st = .ready ∧ x.wait = none ∧ x.pc = areaWord bs 0 ∧ x.ctx = areaWord bs 8 ∧ x.level = sl.level ∧ x.home = sl.home ∧
      (∀ j : Fin 16, x.x[j] = if j.val = 0 then 0 else areaWord bs (24 + 8 * j.val)) ∧
      x.xfault = (if status = 2 then some page else none) ∧ x.replay = (if status = 1 then some page else none) := by
  obtain ⟨hcores, hdev, hhost, hslot⟩ := fillSlot_ready (unparked s c n) (slotKey c i) (parkBase (s.core c) + 8192 * n)
    (contTx (unparked s c n) sl) hk
  unfold replayed
  dsimp only
  generalize fillSlot (unparked s c n) (slotKey c i) (parkBase (s.core c) + 8192 * n) bs (contTx (unparked s c n) sl) = u at *
  rw [slot_setSlot_same, core_setSlot, hslot]
  refine ⟨?_, hdev, hhost, rfl, rfl, ?_, rfl, rfl, rfl, fun j => ?_, rfl, rfl⟩
  · rw [State.core, hcores]
    exact congrArg Core.parked (core_setCore_same ..)
  · simp [filledSlot, restore, hk]
  · simp [filledSlot, restore]

/-- With nothing parked and nothing spilt a replay does nothing. -/
theorem replay_idle {s : State} {c : Nat} (hp : (s.core c).parked = []) (hq : (s.core c).spillq = []) : exec (.replay c) s = .next s := by
  simp [exec_replay, execReplay, hp, hq, nextReplay]

/-! ## O55 -/

theorem Invalidated.same {s u : State} {va len : Nat} {ps : List Nat} (h : Invalidated s u va len ps) :
    u.slots = s.slots ∧ u.hostMem = s.hostMem ∧ u.agenda = s.agenda := by
  obtain ⟨pa, co, m, r, rfl⟩ := h.frame
  exact ⟨rfl, rfl, rfl⟩

/-- What an invalidation of a range leaves in the partitions of a list, whatever it put on the agenda (R381). -/
theorem Invalidated.leaves {s u t : State} {va len : Nat} {ps : List Nat} (h : Invalidated s u va len ps) (ht : OnlyAgenda u t) :
    t.slots = s.slots ∧ t.hostMem = s.hostMem ∧ (NoLines s → t.devMem = s.devMem) ∧
      (∀ p ∈ ps, ∀ c ∈ coresOf s p, ∀ x, x < 2 ^ 57 → va < x / 4096 * 4096 + 4096 → x / 4096 * 4096 < va + len → l1At t c x = none) ∧
      (∀ p ∈ ps, (t.part p).xlat = xlatOutside va len (s.part p).xlat) ∧
      (∀ p ∈ ps, ∀ c, c < 512 → s.present c = true → s.partOf c = p → (t.core c).icache = (withoutCode va len (s.core c)).icache) ∧
      ∀ p ∈ ps, rangeBusy s p va len = true → (va, len) ∈ (t.part p).invalidating := by
  obtain ⟨a, rfl⟩ := ht
  obtain ⟨hslots, hhost, -⟩ := h.same
  refine ⟨hslots, hhost, fun hn => (h.memory hn).1,
    fun p hp c hc x hx hlo hhi => h.noLine hp hc hx hlo hhi, fun p hp => ?_, fun p hp c hlt hpres hof => ?_, fun p hp hb => ?_⟩
  · obtain ⟨inv, hpart, -⟩ := h.part p hp
    exact congrArg Part.xlat hpart
  · show (u.core c).icache = _
    rw [h.core p hp c (mem_coresOf.mpr ⟨hlt, hpres, hof⟩)]
    rfl
  · obtain ⟨inv, hpart, hmem⟩ := h.part p hp
    have hinv : (u.part p).invalidating = inv := congrArg Part.invalidating hpart
    exact hinv.symm ▸ hmem hb

/-- Settles O55: each clause is what one answer, timeout, response, invalidation or replay does. -/
theorem translationAndFaults : Obligations.TranslationAndFaults := by
  unfold Obligations.TranslationAndFaults
  intro later base covers held sameMemory marked final
  refine ⟨fun r va => ⟨sliceOf_lt r va, fun h => sliceOf_whole h va⟩,
    fun p page sl => ⟨finalSlot_waiting, fun line => finalSlot_fetching, fun h => finalSlot_idle h p page⟩,
    fun s id pasid a b h => answer_gone h a b, storedSize_largest, fun s id p r a h hp hq => ?_, fun s id p r h hp hq => ?_,
    fun s id p r h hp hq => ?_, fun s pasid va len => ?_, fun s c => ⟨fun h => replay_idle h.1 h.2, ?_⟩⟩
  · intro l lo e
    refine ⟨atsResponse_held h hp hq a, fun hh => ?_⟩
    obtain ⟨t, hexec, hslots, hmem, hpart, hmarked⟩ := atsResponse_told h hp hq a hh
    obtain ⟨xs, m, hat, -, hne, hentry, honly, hkept, hfew⟩ := answerStored_stores s p r a
    rw [hat.part] at hpart
    refine ⟨t, hexec, hslots, hmem, ?_⟩
    rw [hpart]
    exact ⟨hentry, honly, hkept, hfew, fun q hq => id_of_requestOf h ▸ hne q hq, hmarked⟩
  · refine ⟨atsTimeout_early h hp hq, fun ht => ⟨fun ha => ?_, fun ha => ?_⟩⟩
    · exact ⟨_, atsTimeout_again h hp hq ht ha, rfl, ⟨rfl, rfl⟩, mem_post .., congrArg Part.xreqs (part_setPart_same ..)⟩
    · obtain ⟨htold, -, hne⟩ := dropped_final s p r
      exact ⟨_, atsTimeout_final h hp hq ht ha, htold, fun q hq => id_of_requestOf h ▸ hne q hq⟩
  · obtain ⟨htold, hpages, hne⟩ := dropped_final s p r
    rw [id_of_requestOf h] at hne
    refine ⟨?_, ⟨_, prgResponseFailure_invalid h hp hq, htold, hpages, hne⟩, ⟨_, prgResponseFailure_stops h hp hq, allEnded_does s p⟩,
      pageRequestTimeout_early h hp hq, fun h0 ht => ⟨_, pageRequestTimeout_final h hp hq h0 ht, htold, hne⟩⟩
    obtain ⟨v, hat, hout, hgone⟩ := pageArrived_asks s p r
    obtain ⟨hslots, hcores, hdev, hhost, -⟩ := hat.frame
    refine ⟨_, prgResponseSuccess_asks h hp hq, hslots, hcores, ⟨hdev, hhost⟩, ?_⟩
    rw [hat.part]
    exact ⟨hout, hgone⟩
  · obtain ⟨hinv, hbusy, hquiet⟩ := atsInvalidate_does s pasid va len
    refine ⟨fun p hp => mem_pasidParts hp, ?_⟩
    generalize pasidParts s pasid = ps at hinv hbusy hquiet ⊢
    generalize (invalidateIn s va len ps).1 = u at hinv hbusy hquiet
    by_cases hb : ∃ p ∈ ps, rangeBusy s p va len = true
    · obtain ⟨hslots, hhost, hdev, hline, hxlat, hcode, hway⟩ := hinv.leaves ⟨_, rfl⟩
      exact ⟨_, hbusy hb, hslots, hhost, hdev, hline, hxlat, hcode, fun _ => mem_post .., hway,
        fun hq => absurd hb (by simpa using hq)⟩
    · obtain ⟨hslots, hhost, hdev, hline, hxlat, hcode, hway⟩ := hinv.leaves (onlyAgenda_refl u)
      obtain ⟨-, -, hagenda⟩ := hinv.same
      exact ⟨u, hquiet (by simpa using hb), hslots, hhost, hdev, hline, hxlat, hcode, fun h => absurd h hb, hway,
        fun _ => hagenda⟩
  · intro n page status i sl bs hspill hnext p area hpages hread hkind hfree hi
    obtain ⟨hmem, hstatus, hcont⟩ := nextReplay_parked _ hnext
    obtain ⟨t, hexec, ht⟩ := replay_fills hspill hnext hpages hread
    obtain ⟨hparked, hdev, hhost, hslot⟩ := replayed_does s (c := c) (n := n) (page := page) (status := status) (i := i) (sl := sl) hkind
    obtain ⟨a, rfl⟩ := ht
    exact ⟨hstatus, hmem, hcont, _, hexec, hparked, ⟨hdev, hhost⟩, hslot⟩

end Sys2Proof.Machine
end

section
/-! SUPPORT. Rounds and numbers (O56): what the close of a round does (R46, R50), how a transaction is numbered (R45, R48, R49), and
how its crews are reserved (R21, R54). -/

namespace Sys2Proof.Machine

/-! ## Transactions by number -/

theorem tx?_eq (s : State) (t : Nat) : s.tx? t = look (presentValues s.txs) none t := rfl

@[simp] theorem tx?_setTx_same (s : State) (t : Nat) (v : Tx) : (s.setTx t v).tx? t = some v := by
  rw [tx?_eq, State.setTx, presentValues_put, look_put_same]

/-! ## The messages and markers of a round (R46, R50, R64) -/

/-- Messages on the fabrics and on Stente may differ, nothing else. -/
def OnlyMessages (s t : State) : Prop := ∃ d hb fb, t = { s with draws := d, hub := hb, fabric := fb }

theorem onlyMessages_refl (s : State) : OnlyMessages s s := ⟨_, _, _, rfl⟩

theorem onlyMessages_trans {s t u : State} (h : OnlyMessages s t) (g : OnlyMessages t u) : OnlyMessages s u := by
  obtain ⟨d, hb, fb, rfl⟩ := h
  obtain ⟨d', hb', fb', rfl⟩ := g
  exact ⟨_, _, _, rfl⟩

theorem onlyMessages_sent {s t : State} (h : OnlySent s t) : OnlyMessages s t := by
  obtain ⟨d, l, o, rfl⟩ := h
  exact ⟨_, _, _, rfl⟩

theorem sendFarRequests_only (p : Nat) (ms : List Msg) (s : State) : OnlyMessages s (sendFarRequests s p ms) := by
  induction ms generalizing s with
  | nil => exact onlyMessages_refl s
  | cons m ms ih =>
    refine onlyMessages_trans ?_ (ih _)
    split
    · split
      · exact onlyMessages_trans ⟨_, _, _, rfl⟩ (onlyMessages_sent (sendFlit_only ..))
      · exact onlyMessages_refl s
    · exact onlyMessages_refl s

theorem sendFarMarkers_only (s : State) (p : Nat) : OnlyMessages s (sendFarMarkers s p) := by
  unfold sendFarMarkers
  split
  · exact onlyMessages_sent (sendAll_only 2 _ s)
  · exact onlyMessages_refl s

/-- Outside a pod no tile is locked by another device (R386). -/
theorem awayDev_outside {s : State} {p : Nat} (h : inPod s p = false) (tile : Nat) : awayDev s p tile = none := by
  have haway (d : Nat) : podOf s p tile ≠ .away d := by
    simp only [podOf]
    split
    · exact PodRes.noConfusion
    · split
      · exact PodRes.noConfusion
      · next hin =>
        simp only [inPod, Bool.and_eq_false_iff, beq_eq_false_iff_ne] at h
        exact absurd h hin
  unfold awayDev
  split
  · next d hd => exact absurd hd (haway d)
  · rfl

theorem sendFarRequests_outside {s : State} {p : Nat} (h : inPod s p = false) (ms : List Msg) : sendFarRequests s p ms = s := by
  induction ms with
  | nil => rfl
  | cons m ms ih =>
    unfold sendFarRequests
    simp only [awayDev_outside h]
    refine Eq.trans (congrArg (fun u => sendFarRequests u p ms) ?_) ih
    split
    · split
      · next hnone => cases hnone
      · rfl
    · rfl

/-- The markers of a round are on their way to each manager. -/
theorem sendMarkers_sends (p dev round n : Nat) (s : State) : ∃ ag, sendMarkers s p dev round n = { s with agenda := ag } ∧
    (∀ e ∈ s.agenda, e ∈ ag) ∧ ∀ k, k < n → .closeMarker p k dev round ∈ ag := by
  induction n generalizing s with
  | zero => exact ⟨_, rfl, fun _ => id, fun k hk => absurd hk (Nat.not_lt_zero k)⟩
  | succ n ih =>
    obtain ⟨ag, heq, hkeep, hsent⟩ := ih (s.post (.closeMarker p n dev round))
    refine ⟨ag, heq, fun e he => hkeep e (List.mem_append_left _ he), fun k hk => ?_⟩
    by_cases hkn : k = n
    · exact hkn ▸ hkeep _ (mem_post ..)
    · exact hsent k (by omega)

/-! ## The close of a round (R46) -/

/-- The round of a partition is closed: the next one is open and empty, a held `SLQD` took effect, and the markers are on their
way. -/
def RoundClosed (s t : State) (p : Nat) : Prop := (t.part p).round = (s.part p).round + 1 ∧ (t.part p).pos = 0 ∧
  (t.part p).roundAt = none ∧ (t.part p).slqd = (s.part p).slqdHeld.getD (s.part p).slqd ∧ t.slots = s.slots ∧ t.txs = s.txs ∧
  t.devMem = s.devMem ∧ ∀ n, n < managers s p → .closeMarker p n (ownDev s p) (s.part p).round ∈ t.agenda

/-- The state in which the messages of a round have gone out. -/
def roundSent (s : State) (p : Nat) : State :=
  sendMarkers (sendFarMarkers (sendPendingRequests s p) p) p (ownDev s p) (s.part p).round (managers s p)

/-- The partition with its next round open. -/
def Part.nextRound (pt : Part) : Part :=
  { pt with round := pt.round + 1, pos := 0, roundAt := none, slqd := pt.slqdHeld.getD pt.slqd, slqdHeld := none }

theorem closeRound_eq (s : State) (p : Nat) : closeRound s p =
    let t := readWindows ((roundSent s p).setPart p ((roundSent s p).part p).nextRound) p
    if (t.part p).slqd.extractLsb' 0 9 = 0 then t else postOnce t (.pick p) := rfl

theorem roundSent_sends (s : State) (p : Nat) : let t := roundSent s p
    (∃ d hb fb ag, t = { s with draws := d, hub := hb, fabric := fb, agenda := ag }) ∧ (∀ e ∈ s.agenda, e ∈ t.agenda) ∧
      (∀ n, n < managers s p → .closeMarker p n (ownDev s p) (s.part p).round ∈ t.agenda) ∧ (inPod s p = false → t.fabric = s.fabric) := by
  have hquiet (h : inPod s p = false) : sendFarMarkers (sendPendingRequests s p) p = s := by
    rw [sendPendingRequests, sendFarRequests_outside h, sendFarMarkers, h, if_neg Bool.false_ne_true]
  have hmsg : OnlyMessages s (sendFarMarkers (sendPendingRequests s p) p) :=
    onlyMessages_trans (sendFarRequests_only ..) (sendFarMarkers_only ..)
  unfold roundSent
  generalize sendFarMarkers (sendPendingRequests s p) p = u at hquiet hmsg ⊢
  obtain ⟨ag, heq, hkeep, hsent⟩ := sendMarkers_sends p (ownDev s p) (s.part p).round (managers s p) u
  rw [heq]
  have hfabric (h : inPod s p = false) : u.fabric = s.fabric := by rw [hquiet h]
  obtain ⟨d, hb, fb, rfl⟩ := hmsg
  exact ⟨⟨_, _, _, _, rfl⟩, hkeep, hsent, hfabric⟩

/-- An event put on the agenda where its condition holds. -/
theorem postUnless_cases (s : State) (c : Prop) [Decidable c] (e : Instr) : ∃ a, (if c then s else postOnce s e) = { s with agenda := a } ∧
    ∀ x ∈ s.agenda, x ∈ a := by
  split
  · exact ⟨_, rfl, fun _ => id⟩
  · unfold postOnce
    split
    · exact ⟨_, rfl, fun _ => id⟩
    · exact ⟨_, rfl, fun _ he => List.mem_append_left _ he⟩

/-- What closing a round does, with what it leaves of the agenda and, outside a pod, of the messages. -/
theorem closeRound_closes (s : State) (p : Nat) : RoundClosed s (closeRound s p) p ∧ (∀ e ∈ s.agenda, e ∈ (closeRound s p).agenda) ∧
    (inPod s p = false → (closeRound s p).fabric = s.fabric) := by
  obtain ⟨hframe, hkeep, hmarkers, hfabric⟩ := roundSent_sends s p
  rw [closeRound_eq]
  generalize roundSent s p = u at hframe hkeep hmarkers hfabric ⊢
  have hpart : u.part p = s.part p := by
    obtain ⟨d, hb, fb, ag, rfl⟩ := hframe
    rfl
  obtain ⟨w, hread⟩ : ∃ w, readWindows (u.setPart p (u.part p).nextRound) p =
      (u.setPart p (u.part p).nextRound).setPart p { (u.part p).nextRound with hwin := w } :=
    ⟨_, by rw [readWindows, part_setPart_same]⟩
  dsimp only
  rw [hread, hpart]
  generalize hv : (u.setPart p (s.part p).nextRound).setPart p { (s.part p).nextRound with hwin := w } = v
  have hvpart : v.part p = { (s.part p).nextRound with hwin := w } := by subst hv; exact part_setPart_same ..
  obtain ⟨a, hpost, hstay⟩ := postUnless_cases v ((v.part p).slqd.extractLsb' 0 9 = 0) (.pick p)
  rw [hpost]
  have hnew (x : Instr) (hx : x ∈ u.agenda) : x ∈ a := hstay x (by subst hv; exact hx)
  have hslots : v.slots = s.slots ∧ v.txs = s.txs ∧ v.devMem = s.devMem ∧ v.fabric = u.fabric := by
    obtain ⟨d, hb, fb, ag, rfl⟩ := hframe
    subst hv
    exact ⟨rfl, rfl, rfl, rfl⟩
  obtain ⟨hslots, htxs, hdev, hmsgs⟩ := hslots
  refine ⟨⟨congrArg Part.round hvpart, congrArg Part.pos hvpart, congrArg Part.roundAt hvpart, congrArg Part.slqd hvpart,
    hslots, htxs, hdev, fun n hn => hnew _ (hmarkers n hn)⟩, fun e he => hnew _ (hkeep e he), fun hin => hmsgs.trans (hfabric hin)⟩

end Sys2Proof.Machine
end

section
/-! SUPPORT. Numbers and crews (O56): how a transaction is numbered (R45, R48, R49), and how its crews are reserved (R21, R54). -/

namespace Sys2Proof.Machine

/-! ## Lock requests (R49, R50) -/

/-- Each tile's request is on its way to its manager. -/
def RequestsOut (s t : State) (p id : Nat) (tiles : List SetTile) : Prop :=
  ∀ e ∈ tiles, ∃ m ∈ t.fabric, m.body = .lockReq id e.tile ∧ m.dst = managerOf s p e.tile ∧ .lockRequest m.id ∈ t.agenda

theorem sendRequests_sends (p id : Nat) (es : List SetTile) (s : State) : let t := sendRequests s p id es
    (∃ n fb ag, t = { s with nextId := n, fabric := fb, agenda := ag }) ∧ (∀ m ∈ s.fabric, m ∈ t.fabric) ∧
      (∀ e ∈ s.agenda, e ∈ t.agenda) ∧ RequestsOut s t p id es := by
  induction es generalizing s with
  | nil => exact ⟨⟨_, _, _, rfl⟩, fun _ h => h, fun _ h => h, fun e he => absurd he List.not_mem_nil⟩
  | cons e es ih =>
    unfold sendRequests
    simp only [State.fresh]
    generalize hm : (⟨s.nextId, 1025 + p, 0, managerOf { s with nextId := s.nextId + 1 } p e.tile, .lockReq id e.tile, none⟩ : Msg) = m
    obtain ⟨⟨n, fb, ag, heq⟩, hfabric, hagenda, hout⟩ :=
      ih (State.post { s with nextId := s.nextId + 1, fabric := s.fabric ++ [m] } (.lockRequest s.nextId))
    refine ⟨⟨n, fb, ag, heq⟩, fun x hx => hfabric x (List.mem_append_left _ hx), fun x hx => hagenda x (List.mem_append_left _ hx), ?_⟩
    intro x hx
    rcases List.mem_cons.mp hx with rfl | hx
    · refine ⟨m, hfabric m (List.mem_append_right _ (List.mem_singleton_self m)), ?_⟩
      subst hm
      exact ⟨rfl, rfl, hagenda _ (mem_post ..)⟩
    · exact hout x hx

/-! ## A number (R45, R46, R48) -/

/-- The transaction is numbered from the open round, its lock requests are out, and its dispatch is on the way. -/
def Numbered (s t : State) (p id : Nat) (tiles : List SetTile) : Prop :=
  (∃ tx, t.tx? id = some tx ∧ tx.st = .waiting ∧ tx.tiles = tiles ∧
    tx.key = some ((s.part p).round * 2 ^ 16 + ownDev s p * 256 + (s.part p).pos)) ∧ .dispatch id ∈ t.agenda ∧
  RequestsOut s t p id tiles

/-- What a number depends on: the round, its next place, the device's place in the pod, and the partition's managers. -/
theorem Numbered.of_same {s s' t : State} {p id : Nat} {tiles : List SetTile} (h : Numbered s t p id tiles)
    (hr : (s'.part p).round = (s.part p).round) (hp : (s'.part p).pos = (s.part p).pos)
    (hrec : (s'.part p).record = (s.part p).record) (hm : s'.hub = s.hub) : Numbered s' t p id tiles := by
  have hdev : ownDev s' p = ownDev s p := by rw [ownDev, ownDev, inPod, inPod, hm]
  have hman (tile : Nat) : managerOf s' p tile = managerOf s p tile := by simp only [managerOf, managers, hrec]
  obtain ⟨⟨tx, htx, hst, htiles, hkey⟩, hdisp, hout⟩ := h
  refine ⟨⟨tx, htx, hst, htiles, by rw [hkey, hr, hp, hdev]⟩, hdisp, fun e he => ?_⟩
  obtain ⟨m, hm, hbody, hdst, hag⟩ := hout e he
  exact ⟨m, hm, hbody, hdst.trans (hman e.tile).symm, hag⟩

/-- The state in which a transaction has its number, before its round may close. -/
def numberedState (s : State) (t : Nat) (tx : Tx) : State :=
  let u := s.setTx t { tx with key := some (nextKey s tx.part), st := .waiting }
  let v := u.setPart tx.part { u.part tx.part with pos := (u.part tx.part).pos + 1, roundAt := match (u.part tx.part).roundAt with
    | some a => some a
    | none => some u.tick }
  (sendRequests v tx.part t tx.tiles).post (.dispatch t)

theorem numberTx_eq {s : State} {t : Nat} {tx : Tx} (h : s.tx? t = some tx) : numberTx s t =
    let u := numberedState s t tx
    if inPod u tx.part then u else if (u.part tx.part).pos = 256 then closeRound u tx.part
    else postOnce (postOnce u (.roundCloseWindow tx.part)) (.roundCloseIdle tx.part) := by
  simp only [numberTx, h] <;> rfl

theorem numberedState_numbers (s : State) (t : Nat) (tx : Tx) : Numbered s (numberedState s t tx) tx.part t tx.tiles ∧
    (numberedState s t tx).tx? t = some { tx with key := some (nextKey s tx.part), st := .waiting } ∧
    (numberedState s t tx).slots = s.slots := by
  unfold numberedState
  dsimp only
  generalize hv : State.setPart _ tx.part _ = v
  have htx : v.tx? t = some { tx with key := some (nextKey s tx.part), st := .waiting } := by
    subst hv
    exact tx?_setTx_same ..
  have hslots : v.slots = s.slots := by subst hv; rfl
  have hman (tile : Nat) : managerOf v tx.part tile = managerOf s tx.part tile := by
    subst hv
    simp only [managerOf, managers, part_setPart_same]
    rfl
  obtain ⟨⟨n, fb, ag, heq⟩, -, -, hout⟩ := sendRequests_sends tx.part t tx.tiles v
  have hsent : ((sendRequests v tx.part t tx.tiles).post (.dispatch t)).tx? t = v.tx? t := by rw [heq]; rfl
  refine ⟨⟨⟨_, hsent.trans htx, rfl, rfl, rfl⟩, mem_post .., fun e he => ?_⟩, hsent.trans htx, ?_⟩
  · obtain ⟨m, hm, hbody, hdst, hag⟩ := hout e he
    exact ⟨m, hm, hbody, hdst.trans (hman e.tile), List.mem_append_left _ hag⟩
  · rw [← hslots, heq]
    rfl

/-- A transaction is numbered, whether or not its round is full with it: outside a pod the close of the round leaves its
messages. -/
theorem numberTx_numbers {s : State} {t : Nat} {tx : Tx} (h : s.tx? t = some tx) : Numbered s (numberTx s t) tx.part t tx.tiles ∧
    (numberTx s t).tx? t = some { tx with key := some (nextKey s tx.part), st := .waiting } ∧ (numberTx s t).slots = s.slots := by
  obtain ⟨hnum, htx, hslots⟩ := numberedState_numbers s t tx
  rw [numberTx_eq h]
  generalize numberedState s t tx = u at hnum htx hslots ⊢
  obtain ⟨⟨x, hx, hst, htiles, hkey⟩, hdisp, hout⟩ := hnum
  have hkeeps (v : State) (htxs : v.txs = u.txs) (hs : v.slots = u.slots) (hf : v.fabric = u.fabric) (ha : ∀ e ∈ u.agenda, e ∈ v.agenda) :
      Numbered s v tx.part t tx.tiles ∧ v.tx? t = some { tx with key := some (nextKey s tx.part), st := .waiting } ∧ v.slots = s.slots := by
    have hv : v.tx? t = u.tx? t := by rw [tx?_eq, tx?_eq, htxs]
    refine ⟨⟨⟨x, hv.trans hx, hst, htiles, hkey⟩, ha _ hdisp, fun e he => ?_⟩, hv.trans htx, hs.trans hslots⟩
    obtain ⟨m, hm, hbody, hdst, hag⟩ := hout e he
    exact ⟨m, hf ▸ hm, hbody, hdst, ha _ hag⟩
  dsimp only
  split
  · exact hkeeps u rfl rfl rfl fun _ => id
  · next hout =>
    split
    · obtain ⟨⟨-, -, -, -, hs, htxs, -, -⟩, hag, hfab⟩ := closeRound_closes u tx.part
      exact hkeeps _ htxs hs (hfab (Bool.eq_false_iff.mpr hout)) hag
    · obtain ⟨a, ha, hka⟩ := postUnless_cases u False (.roundCloseWindow tx.part)
      obtain ⟨b, hb, hkb⟩ := postUnless_cases { u with agenda := a } False (.roundCloseIdle tx.part)
      rw [if_neg id] at ha hb
      rw [ha, hb]
      exact hkeeps { u with agenda := b } rfl rfl rfl fun e he => hkb e (hka e he)

/-! ## Crews (R21, R54) -/

/-- Crew slots given to a transaction. -/
def giveSlots (s : State) (t c : Nat) (l : List Nat) : State :=
  l.foldl (fun s i => s.setSlot (slotKey c i) { s.slot (slotKey c i) with resv := some t }) s

theorem giveSlots_gives (t c : Nat) (l : List Nat) (s : State) : let u := giveSlots s t c l
    (∃ sl, u = { s with slots := sl }) ∧ (∀ i ∈ l, (u.slot (slotKey c i)).resv = some t) ∧
      ∀ k, (∀ i ∈ l, k ≠ slotKey c i) → u.slot k = s.slot k := by
  induction l generalizing s with
  | nil => exact ⟨⟨_, rfl⟩, fun i hi => absurd hi List.not_mem_nil, fun _ _ => rfl⟩
  | cons i l ih =>
    obtain ⟨⟨sl, heq⟩, hgiven, hother⟩ := ih (s.setSlot (slotKey c i) { s.slot (slotKey c i) with resv := some t })
    refine ⟨⟨sl, heq⟩, fun j hj => ?_, fun k hk => ?_⟩
    · by_cases hjl : j ∈ l
      · exact hgiven j hjl
      · have hji : j = i := (List.mem_cons.mp hj).resolve_right hjl
        subst hji
        refine (congrArg Slot.resv (hother (slotKey c j) fun x hx he => hjl ?_)).trans ?_
        · rw [slotKey, slotKey] at he
          rwa [show j = x by omega]
        · rw [slot_setSlot_same]
    · refine (hother k fun x hx => hk x (List.mem_cons_of_mem _ hx)).trans ?_
      exact slot_setSlot_ne s _ (hk i List.mem_cons_self)

/-- Operand slots claimed for a transaction. -/
def claimSlots (s : State) (t c : Nat) (l : List Nat) : State := l.foldl (fun s os => setOs s c os ⟨.empty, some t, 0, []⟩) s

theorem claimSlots_claims (t c : Nat) (l : List Nat) (s : State) : let u := claimSlots s t c l
    (∃ co, u = { s with cores := co }) ∧ ∀ d, (u.core d).smsg = (s.core d).smsg := by
  induction l generalizing s with
  | nil => exact ⟨⟨_, rfl⟩, fun _ => rfl⟩
  | cons os l ih =>
    obtain ⟨⟨co, heq⟩, hsmsg⟩ := ih (setOs s c os ⟨.empty, some t, 0, []⟩)
    refine ⟨⟨co, heq⟩, fun d => (hsmsg d).trans ?_⟩
    by_cases hd : d = c
    · subst hd
      rw [setOs, core_setCore_same]
    · exact congrArg Core.smsg (core_setCore_ne s _ hd)

theorem unreservedSlots_lt {s : State} {c i : Nat} (h : i ∈ unreservedSlots s c) : i < 16 :=
  List.mem_range.mp (List.mem_filter.mp h).1

/-- One core's crew reserved: the lowest unreserved slots, and of the other cores nothing that a crew depends on changes. -/
theorem reserveCore_reserves (s : State) (t c n : Nat) (os : List Nat) : let r := reserveCore s t c n os
    r.2 = (unreservedSlots s c).take n ∧ (∃ sl co, r.1 = { s with slots := sl, cores := co }) ∧
      (∀ i ∈ r.2, (r.1.slot (slotKey c i)).resv = some t) ∧
      (∀ d, d ≠ c → ∀ i, i < 16 → r.1.slot (slotKey d i) = s.slot (slotKey d i)) ∧ ∀ d, (r.1.core d).smsg = (s.core d).smsg := by
  have heq : reserveCore s t c n os = (claimSlots (giveSlots s t c ((unreservedSlots s c).take n)) t c os, (unreservedSlots s c).take n) := rfl
  rw [heq]
  obtain ⟨⟨sl, hgive⟩, hgiven, hother⟩ := giveSlots_gives t c ((unreservedSlots s c).take n) s
  obtain ⟨⟨co, hclaim⟩, hsmsg⟩ := claimSlots_claims t c os (giveSlots s t c ((unreservedSlots s c).take n))
  have hslot (k : Nat) : (claimSlots (giveSlots s t c ((unreservedSlots s c).take n)) t c os).slot k =
      (giveSlots s t c ((unreservedSlots s c).take n)).slot k := by rw [hclaim]; rfl
  refine ⟨rfl, ⟨sl, co, by rw [hclaim, hgive]⟩, fun i hi => (hslot _).symm ▸ hgiven i hi, fun d hd i hi => ?_, fun d => ?_⟩
  · refine (hslot _).trans (hother _ fun j hj he => hd ?_)
    have hj16 := unreservedSlots_lt (List.mem_of_mem_take hj)
    rw [slotKey, slotKey] at he
    omega
  · rw [hsmsg, hgive]
    rfl

/-- The crews of different cores, each of its lowest unreserved slots. -/
theorem reserveCores_reserves (t n : Nat) (pushes : List (Nat × Nat)) (cs : List (Nat × Nat)) (hn : (cs.map (·.2)).Nodup) (s : State) :
    let r := reserveCores s t n pushes cs
    (∃ sl co, r.1 = { s with slots := sl, cores := co }) ∧
      (∀ c ∈ cs.map (·.2), (c, (unreservedSlots s c).take n) ∈ r.2 ∧
        ∀ i ∈ (unreservedSlots s c).take n, (r.1.slot (slotKey c i)).resv = some t) ∧
      ∀ d, d ∉ cs.map (·.2) → ∀ i, i < 16 → r.1.slot (slotKey d i) = s.slot (slotKey d i) := by
  induction cs generalizing s with
  | nil => exact ⟨⟨_, _, rfl⟩, fun c hc => absurd hc List.not_mem_nil, fun _ _ _ _ => rfl⟩
  | cons x cs ih =>
    obtain ⟨j, c⟩ := x
    obtain ⟨hc, hn⟩ := List.nodup_cons.mp hn
    obtain ⟨hcrew, ⟨sl, co, hone⟩, hgiven, hother, hsmsg⟩ :=
      reserveCore_reserves s t c n ((pushes.filter fun q => q.1 == j).map fun q => q.2)
    have heq : reserveCores s t n pushes ((j, c) :: cs) =
      let r := reserveCore s t c n ((pushes.filter fun q => q.1 == j).map fun q => q.2)
      ((reserveCores r.1 t n pushes cs).1, (c, r.2) :: (reserveCores r.1 t n pushes cs).2) := rfl
    rw [heq]
    generalize reserveCore s t c n ((pushes.filter fun q => q.1 == j).map fun q => q.2) = r at *
    obtain ⟨⟨sl', co', hrest⟩, hcrews, helse⟩ := ih hn r.1
    have hfree (d : Nat) (hd : d ≠ c) : unreservedSlots r.1 d = unreservedSlots s d :=
      List.filter_congr fun i hi => by rw [hother d hd i (List.mem_range.mp hi), hsmsg]
    refine ⟨⟨sl', co', by rw [hrest, hone]⟩, fun d hd => ?_, fun d hd i hi => ?_⟩
    · by_cases hdc : d = c
      · subst hdc
        refine ⟨hcrew ▸ List.mem_cons_self, fun i hi => ?_⟩
        rw [← hcrew] at hi
        rw [helse d hc i (unreservedSlots_lt (List.mem_of_mem_take (hcrew ▸ hi)))]
        exact hgiven i hi
      · have hdcs : d ∈ cs.map (·.2) := (List.mem_cons.mp hd).resolve_left hdc
        obtain ⟨hmem, hres⟩ := hcrews d hdcs
        rw [hfree d hdc] at hmem hres
        exact ⟨List.mem_cons_of_mem _ hmem, hres⟩
    · have hdc : d ≠ c := fun he => hd (he ▸ List.mem_cons_self)
      rw [helse d (fun hm => hd (List.mem_cons_of_mem _ hm)) i hi, hother d hdc i hi]

theorem reservePlace_only (s : State) (t c : Nat) : ∃ n co, reservePlace s t c = { s with nextId := n, cores := co } := by
  unfold reservePlace
  split
  · exact ⟨_, _, rfl⟩
  · exact ⟨_, _, rfl⟩

/-- The cores of a tray that lies within one die are different. -/
theorem trayCores_nodup {r w h : Nat} (hfit : rectFits w h r = true) : (trayCores r w h).Nodup := by
  simp only [rectFits, Bool.and_eq_true, decide_eq_true_eq] at hfit
  have hw : w ≤ 16 := by omega
  refine List.Nodup.map_on (fun i hi j hj he => ?_) List.nodup_range
  have hpos : 0 < w := Nat.pos_of_ne_zero fun h0 => by simp [h0] at hi
  have hi' := Nat.mod_lt i hpos
  have hj' := Nat.mod_lt j hpos
  have hdi := Nat.div_add_mod i w
  have hdj := Nat.div_add_mod j w
  have hq : i / w = j / w := by omega
  have hm : i % w = j % w := by omega
  rw [← hdi, ← hdj, hq, hm]

/-- A transaction placed: its root and crews are kept, and its crew slots are reserved (R54). -/
theorem placeTx_places (s : State) (t : Nat) (tx : Tx) {r w h : Nat} (n : Nat) (pushes : List (Nat × Nat)) (hfit : rectFits w h r = true) :
    let u := placeTx s t tx r w h n pushes
    (∃ m sl co txs, u = { s with nextId := m, slots := sl, cores := co, txs := txs }) ∧
      ∃ crews, u.tx? t = some { tx with root := some (r, w, h), crews := crews } ∧
        ∀ c ∈ trayCores r w h, (c, (unreservedSlots s c).take n) ∈ crews ∧
          ∀ i ∈ (unreservedSlots s c).take n, (u.slot (slotKey c i)).resv = some t := by
  have hcores : ((List.range (trayCores r w h).length).zip (trayCores r w h)).map (·.2) = trayCores r w h :=
    List.map_snd_zip (by simp)
  obtain ⟨⟨sl, co, hres⟩, hcrews, -⟩ := reserveCores_reserves t n pushes
    ((List.range (trayCores r w h).length).zip (trayCores r w h)) (hcores.symm ▸ trayCores_nodup hfit) s
  rw [hcores] at hcrews
  have heq : placeTx s t tx r w h n pushes =
    let q := reserveCores s t n pushes ((List.range (trayCores r w h).length).zip (trayCores r w h))
    reservePlace (q.1.setTx t { tx with root := some (r, w, h), crews := q.2 }) t r := rfl
  rw [heq]
  generalize reserveCores s t n pushes ((List.range (trayCores r w h).length).zip (trayCores r w h)) = q at *
  dsimp only
  obtain ⟨m, co', hplace⟩ := reservePlace_only (q.1.setTx t { tx with root := some (r, w, h), crews := q.2 }) t r
  rw [hplace]
  refine ⟨⟨m, sl, co', (q.1.setTx t { tx with root := some (r, w, h), crews := q.2 }).txs, by rw [hres]; rfl⟩, q.2, tx?_setTx_same .., hcrews⟩

/-- A transaction placed and numbered (R45, R48, R54). -/
theorem placed_numbered {s : State} {t : Nat} {tx : Tx} {r w h : Nat} (n : Nat) (pushes : List (Nat × Nat)) (hfit : rectFits w h r = true) :
    let u := numberTx (placeTx s t tx r w h n pushes) t
    Numbered s u tx.part t tx.tiles ∧ ∃ crews key, u.tx? t = some { tx with root := some (r, w, h), crews := crews, key := key, st := .waiting } ∧
      ∀ c ∈ trayCores r w h, (c, (unreservedSlots s c).take n) ∈ crews ∧
        ∀ i ∈ (unreservedSlots s c).take n, (u.slot (slotKey c i)).resv = some t := by
  obtain ⟨⟨m, sl, co, txs, hframe⟩, crews, htx, hcrews⟩ := placeTx_places s t tx n pushes hfit
  obtain ⟨hnum, hnew, hslots⟩ := numberTx_numbers htx
  refine ⟨hnum.of_same ?_ ?_ ?_ ?_, crews, _, hnew, fun c hc => ?_⟩
  · rw [hframe]; rfl
  · rw [hframe]; rfl
  · rw [hframe]; rfl
  · rw [hframe]
  · obtain ⟨hmem, hres⟩ := hcrews c hc
    refine ⟨hmem, fun i hi => ?_⟩
    rw [State.slot, hslots]
    exact hres i hi

end Sys2Proof.Machine
end

section
/-! SUPPORT. What outside agents and lock managers leave alone (O56): slots, cores, time and memory. -/

namespace Sys2Proof.Machine

/-! ## Beside slots, cores, time and memory -/

/-- `t` differs from `s` in what agents and managers keep at most: partitions, transactions, messages, events and the hub. -/
def Aside (s t : State) : Prop :=
  ∃ d n ag ps tx fb hb, t = { s with draws := d, nextId := n, agenda := ag, parts := ps, txs := tx, fabric := fb, hub := hb }

theorem aside_refl (s : State) : Aside s s := ⟨_, _, _, _, _, _, _, rfl⟩

theorem Aside.trans {s t u : State} (h : Aside s t) (g : Aside t u) : Aside s u := by
  obtain ⟨d, n, ag, ps, tx, fb, hb, rfl⟩ := h
  obtain ⟨d', n', ag', ps', tx', fb', hb', rfl⟩ := g
  exact ⟨_, _, _, _, _, _, _, rfl⟩

theorem Aside.frame {s t : State} (h : Aside s t) :
    t.slots = s.slots ∧ t.devMem = s.devMem ∧ t.hostMem = s.hostMem ∧ t.tick = s.tick := by
  obtain ⟨d, n, ag, ps, tx, fb, hb, rfl⟩ := h
  exact ⟨rfl, rfl, rfl, rfl⟩

theorem aside_setPart (s : State) (p : Nat) (v : Part) : Aside s (s.setPart p v) := ⟨_, _, _, _, _, _, _, rfl⟩

theorem aside_postOnce (s : State) (e : Instr) : Aside s (postOnce s e) := by
  obtain ⟨a, h, -⟩ := postOnce_cases s e
  exact ⟨_, _, _, _, _, _, _, h⟩

theorem aside_sendFlit (s : State) (dev cls : Nat) : Aside s (sendFlit s dev cls) := by
  obtain ⟨d, l, o, h⟩ := sendFlit_only s dev cls
  exact ⟨_, _, _, _, _, _, _, h⟩

/-! ## Agents (R85, R86, R121, R374, R375) -/

theorem aside_startReclass (s : State) (p va : Nat) (e : BitVec 16) : Aside s (startReclass s p va e) := by
  unfold startReclass
  split
  · exact aside_refl s
  · exact ⟨_, _, _, _, _, _, _, rfl⟩

theorem aside_touch (s : State) (p va : Nat) (l : Loc) (who : Option Nat) (store : Bool) : Aside s (touch s p va l who store).1 := by
  unfold touch
  split
  · exact aside_refl s
  · split
    · exact aside_refl s
    · split
      · exact aside_refl s
      · exact aside_setPart ..
      · exact aside_startReclass ..

theorem aside_agentLine (s : State) (p : Nat) (store : Bool) (va : Nat) : Aside s (agentLine s p store va).1 := by
  unfold agentLine
  split
  · next l _ =>
    have h := aside_touch s p va l none store
    split <;> next ht => rw [ht] at h; exact h
  · exact aside_refl s

theorem aside_forceAt (s : State) (p va u : Nat) : Aside s (forceAt s p va u) := by
  unfold forceAt
  split
  · exact aside_setPart ..
  · exact aside_refl s

theorem aside_agentOpen (p : Nat) (store : Bool) (vas : List Nat) (s : State) : Aside s (agentOpen s p store vas).1 := by
  induction vas generalizing s with
  | nil => exact aside_refl s
  | cons va vas ih =>
    have h := aside_agentLine s p store va
    unfold agentOpen
    split
    · next t ht =>
      rw [ht] at h
      split
      · exact h.trans (aside_forceAt ..)
      · exact h
      · exact h.trans (ih t)
    · exact h

theorem aside_requestXlat (s : State) (p page : Nat) (need : Need) : Aside s (requestXlat s p page need) := by
  unfold requestXlat
  dsimp only [State.fresh]
  split
  · exact aside_refl s
  · split <;> exact ⟨_, _, _, _, _, _, _, rfl⟩

theorem aside_requestPage (s : State) (p page : Nat) (need : Need) : Aside s (requestPage s p page need) := by
  unfold requestPage
  dsimp only [State.fresh]
  split
  · exact aside_refl s
  · exact ⟨_, _, _, _, _, _, _, rfl⟩

theorem aside_agentAsk (s : State) (p page : Nat) (need : Need) (r : XRes) : Aside s (agentAsk s p page need r) := by
  unfold agentAsk
  split
  · exact aside_requestXlat ..
  · exact aside_requestPage ..
  · exact aside_refl s

theorem aside_agentRead (s : State) (p va n : Nat) : Aside s (agentRead s p va n).1 := by
  have hopen := aside_agentOpen p false (chunkAddrs va n) s
  unfold agentRead
  split
  · next h => rw [h] at hopen; exact hopen
  · next h => rw [h] at hopen; exact hopen
  · next t page need r h =>
    replace hopen : Aside s t := by rw [h] at hopen; exact hopen
    split
    · exact hopen.trans (aside_agentAsk t p page need .miss)
    · exact hopen.trans (aside_agentAsk t p page need .fault)
    · exact hopen

/-! ## Grants (R51, R52, R58, R62) -/

theorem aside_failTx (s : State) (t status : Nat) : Aside s (failTx s t status) := by
  unfold failTx
  split
  · exact aside_refl s
  · split
    · exact aside_refl s
    · exact ⟨_, _, _, _, _, _, _, rfl⟩

theorem aside_updTile (s : State) (t tile : Nat) (f : SetTile → SetTile) : Aside s (updTile s t tile f) := by
  unfold updTile
  split
  · exact aside_refl s
  · exact ⟨_, _, _, _, _, _, _, rfl⟩

theorem aside_sendPush (s : State) (t core os : Nat) (data : Tile) : Aside s (sendPush s t core os data) :=
  ⟨_, _, _, _, _, _, _, rfl⟩

theorem aside_grantTile (s : State) (t : Nat) (tx : Tx) (e : SetTile) (data : Tile) : Aside s (grantTile s t tx e data) := by
  have htile := aside_updTile s t e.tile fun e => { e with
    granted := true, landed := e.push.isNone, snapshot := if snapshots tx e then some data else e.snapshot }
  unfold grantTile
  dsimp only
  split
  · exact htile
  · split
    · split
      · exact htile
      · exact htile.trans (aside_sendPush ..)
    · exact htile

theorem aside_grantNow (s : State) (p tile t : Nat) : Aside s (grantNow s p tile t).1 := by
  unfold grantNow
  split
  · next tx e _ _ =>
    have hopen : Aside s (if e.push.isSome then agentOpen s p false (chunkAddrs tile 4096) else (s, .ready)).1 := by
      split
      · exact aside_agentOpen ..
      · exact aside_refl s
    split
    · exact aside_grantTile ..
    · split
      · generalize (if e.push.isSome then agentOpen s p false (chunkAddrs tile 4096) else (s, .ready)) = o at hopen
        obtain ⟨u, o⟩ := o
        cases o with
        | ready => exact hopen.trans (aside_grantTile ..)
        | wait => exact hopen
        | closed _ _ _ => exact hopen
      · exact aside_requestXlat ..
      · exact aside_requestPage ..
      · exact aside_failTx ..
  · exact aside_refl s

/-- A grant, of a transaction of the device or over Stente. -/
theorem aside_grant (s : State) (p tile : Nat) (q : LockReq) :
    Aside s (if foreign q.tx then (sendFlit s (q.key / 256 % 256) 3, true) else grantNow s p tile q.tx).1 := by
  split
  · exact aside_sendFlit ..
  · exact aside_grantNow ..

theorem aside_grantLoop (p tile : Nat) (qs before : List LockReq) (s : State) : Aside s (grantLoop s p tile before qs).1 := by
  induction qs generalizing s before with
  | nil => exact aside_refl s
  | cons q qs ih =>
    have hgrant := aside_grant s p tile q
    unfold grantLoop
    generalize (if q.excl = true then !before.isEmpty else before.any fun b => b.excl) = held
    generalize (if foreign q.tx then (sendFlit s (q.key / 256 % 256) 3, true) else grantNow s p tile q.tx) = g at hgrant ⊢
    obtain ⟨u, granted⟩ := g
    split
    · exact ih ..
    · split
      · exact aside_refl s
      · split
        · exact aside_refl s
        · cases granted with
          | true => exact hgrant.trans (ih ..)
          | false => exact hgrant.trans (aside_postOnce ..)

theorem aside_tryGrants (p : Nat) (tiles : List Nat) (s : State) : Aside s (tryGrants s p tiles) := by
  induction tiles generalizing s with
  | nil => exact aside_refl s
  | cons tile tiles ih =>
    exact ((aside_grantLoop p tile (look (s.part p).locks [] tile) [] s).trans (aside_setPart ..)).trans (ih _)

/-! ## Close markers (R50, R51, R64) -/

/-- A manager knows `round` of a device as closed, its tables and transactions otherwise as they were. -/
def markedClosed (s : State) (p mgr dev round : Nat) : State :=
  s.setPart p { s.part p with
    closed := put (s.part p).closed (mgr * 256 + dev) (Nat.max (look (s.part p).closed 0 (mgr * 256 + dev)) (round + 1)) }

theorem closed_markedClosed (s : State) (p mgr dev round : Nat) :
    ((markedClosed s p mgr dev round).part p).closed =
      put (s.part p).closed (mgr * 256 + dev) (Nat.max (look (s.part p).closed 0 (mgr * 256 + dev)) (round + 1)) := by
  rw [markedClosed, part_setPart_same]

theorem exec_closeMarker_granting (s : State) (p mgr dev round : Nat) (h : ¬ (dev = ownDev s p ∧ requestBehind s p mgr round = true)) :
    ∃ tiles, exec (.closeMarker p mgr dev round) s = .next (tryGrants (markedClosed s p mgr dev round) p tiles) := by
  rw [exec_closeMarker, execCloseMarker, if_neg h]
  exact ⟨_, rfl⟩

/-- The manager that a marker reaches knows the round of its device as closed, and of the others what it knew (R51). -/
theorem closeMarker_does (s : State) (p mgr dev round : Nat) (h : dev ≠ ownDev s p ∨ requestBehind s p mgr round = false) :
    ∃ t, exec (.closeMarker p mgr dev round) s = .next t ∧ closeSeen t p mgr dev round = true ∧ t.slots = s.slots ∧
      t.devMem = s.devMem ∧ t.hostMem = s.hostMem ∧
      ∀ j, j ≠ mgr * 256 + dev → look (t.part p).closed 0 j = look (s.part p).closed 0 j := by
  have hgo : ¬ (dev = ownDev s p ∧ requestBehind s p mgr round = true) := fun ⟨hd, hr⟩ =>
    h.elim (fun hne => hne hd) fun hf => absurd (hf.symm.trans hr) Bool.false_ne_true
  obtain ⟨tiles, hexec⟩ := exec_closeMarker_granting s p mgr dev round hgo
  have hclosed : ((tryGrants (markedClosed s p mgr dev round) p tiles).part p).closed = _ :=
    (congrArg (·.2.2.1) ((keepsPod_tryGrants p tiles (markedClosed s p mgr dev round)).part p)).trans (closed_markedClosed ..)
  obtain ⟨hslots, hdev, hhost, -⟩ := ((aside_setPart s p _).trans (aside_tryGrants p tiles (markedClosed s p mgr dev round))).frame
  have hround : round < Nat.max (look (s.part p).closed 0 (mgr * 256 + dev)) (round + 1) :=
    Nat.lt_of_lt_of_le (Nat.lt_succ_self round) (Nat.le_max_right ..)
  refine ⟨_, hexec, ?_, hslots, hdev, hhost, fun j hj => ?_⟩
  · simp only [closeSeen, hclosed, look_put_same, hround, decide_true, Bool.true_or]
  · rw [hclosed, look_put_ne _ _ _ hj]

end Sys2Proof.Machine
end

section
/-! SUPPORT. Submission queues (O56): how a header is read, a queue's state kept, a queue chosen and an entry taken (R355, R357,
R358, R359). -/

namespace Sys2Proof.Machine

/-! ## Headers and the state of a queue (R355, R357) -/

theorem aside_readHeader (s : State) (p q : Nat) : Aside s (readHeader s p q).1 := by
  have hread := aside_agentRead s p (((s.part p).slqd &&& 0x01FFFFFFFFFFF000#64).toNat + 8 * q) 8
  unfold readHeader
  dsimp only
  split
  · exact aside_refl s
  · split
    · next hw => rw [hw] at hread; exact hread
    · next hw => rw [hw] at hread; exact hread
    · next hw => rw [hw] at hread; exact hread
    · next u w _ hw =>
      rw [hw] at hread
      have hline := aside_agentRead u p (w / 128 * 128) 128
      refine Aside.trans (t := u) hread ?_
      split <;> next hv => rw [hv] at hline; exact hline

@[simp] theorem queueSt_setQueue_same (s : State) (p q : Nat) (v : QueueSt) : queueSt (setQueue s p q v) p q = v := by
  rw [queueSt, setQueue, part_setPart_same, look_put_same]

/-- A queue whose `STAT` word is written has its new state. -/
theorem queueSt_setState {s : State} {p q hva : Nat} {v : QueueSt}
    (h : (agentWrite s p (hva + 72) (natToBytes 8 (statWord s v))).2 = true) : queueSt (setState s p q hva v) p q = v := by
  unfold setState
  split
  · exact queueSt_setQueue_same ..
  · next hw => rw [hw] at h; exact absurd h Bool.false_ne_true

theorem queueSt_post (s : State) (e : Instr) (p q : Nat) : queueSt (s.post e) p q = queueSt s p q := rfl

/-! ## Granules that a queue shares with the host (R85, R355) -/

/-- A granule is of class 3, or on its way through the reclassifier. -/
def Sharing (s : State) (p va : Nat) : Prop := classOf (classEntry (s.part p) va) = 3 ∨ reclassifying s p va = true

/-- One granule shared. -/
def shareGranule (s : State) (p va : Nat) : State :=
  if classOf (classEntry (s.part p) va) = 0 then setClass s p va shared
  else if classOf (classEntry (s.part p) va) = 3 then s
  else startReclass s p va shared

theorem shareQueue_cons (s : State) (p va : Nat) (vas : List Nat) : shareQueue s p (va :: vas) = shareQueue (shareGranule s p va) p vas := rfl

theorem setClass_shares (s : State) (p va : Nat) : Sharing (setClass s p va shared) p va ∧
    ∀ x, Sharing s p x → Sharing (setClass s p va shared) p x := by
  have hsame (x : Nat) (h : x / 4096 = va / 4096) : Sharing (setClass s p va shared) p x := by
    refine .inl ?_
    rw [setClass, part_setPart_same, classEntry, h, look_put_same]
    rfl
  refine ⟨hsame va rfl, fun x hx => ?_⟩
  by_cases h : x / 4096 = va / 4096
  · exact hsame x h
  · refine hx.imp (fun hc => ?_) fun hr => ?_
    · rw [setClass, part_setPart_same, classEntry, look_put_ne _ _ _ h]
      exact hc
    · rw [reclassifying, setClass, part_setPart_same]
      exact hr

/-- A granule that is not on its way through the reclassifier starts on it. -/
theorem reclass_startReclass {s : State} {p va : Nat} (h : reclassifying s p va = false) (e : BitVec 16) :
    ∃ r : Reclass, r.gran = va / 4096 ∧ r.ready = false ∧ (startReclass s p va e).part p =
      { s.part p with reclass := (s.part p).reclass.filter (fun r => !(r.gran == va / 4096)) ++ [r] } := by
  rw [startReclass, h, if_neg Bool.false_ne_true]
  simp only [State.fresh, List.partition_eq_filter_filter]
  exact ⟨⟨_, _, _, _, _⟩, rfl, rfl, part_setPart_same ..⟩

theorem startReclass_shares (s : State) (p va : Nat) (e : BitVec 16) : Sharing (startReclass s p va e) p va ∧
    ∀ x, Sharing s p x → Sharing (startReclass s p va e) p x := by
  by_cases hgoing : reclassifying s p va = true
  · rw [startReclass, if_pos hgoing]
    exact ⟨.inr hgoing, fun _ => id⟩
  obtain ⟨r, hgran, hready, hpart⟩ := reclass_startReclass (Bool.eq_false_iff.mpr hgoing) e
  have hsame (x : Nat) (h : x / 4096 = va / 4096) : Sharing (startReclass s p va e) p x := by
    refine .inr ?_
    rw [reclassifying, hpart]
    simp [hgran, hready, h]
  refine ⟨hsame va rfl, fun x hx => ?_⟩
  by_cases h : x / 4096 = va / 4096
  · exact hsame x h
  · refine hx.imp (fun hc => ?_) fun hr => ?_
    · rw [hpart]
      exact hc
    · rw [reclassifying, List.any_eq_true] at hr ⊢
      obtain ⟨m, hm, hmine⟩ := hr
      have hother : m.gran ≠ va / 4096 := fun he => h ((beq_iff_eq.mp (Bool.and_eq_true_iff.mp hmine).1).symm.trans he)
      exact ⟨m, by rw [hpart]; simp [hm, hother], hmine⟩

theorem shareGranule_shares (s : State) (p va : Nat) : Sharing (shareGranule s p va) p va ∧
    ∀ x, Sharing s p x → Sharing (shareGranule s p va) p x := by
  unfold shareGranule
  split
  · exact setClass_shares s p va
  · split
    · next h => exact ⟨.inl h, fun _ => id⟩
    · exact startReclass_shares s p va shared

theorem queues_shareGranule (s : State) (p va : Nat) : ((shareGranule s p va).part p).queues = (s.part p).queues := by
  unfold shareGranule
  split
  · rw [setClass, part_setPart_same]
  · split
    · rfl
    · by_cases hgoing : reclassifying s p va = true
      · rw [startReclass, if_pos hgoing]
      · obtain ⟨r, -, -, hpart⟩ := reclass_startReclass (Bool.eq_false_iff.mpr hgoing) shared
        rw [hpart]

/-- The granules of a queue are shared, and the queues stay as they were. -/
theorem shareQueue_shares (p : Nat) (vas : List Nat) (s : State) : (∀ va ∈ vas, Sharing (shareQueue s p vas) p va) ∧
    (∀ x, Sharing s p x → Sharing (shareQueue s p vas) p x) ∧ ((shareQueue s p vas).part p).queues = (s.part p).queues := by
  induction vas generalizing s with
  | nil => exact ⟨fun va h => absurd h List.not_mem_nil, fun _ => id, rfl⟩
  | cons va vas ih =>
    obtain ⟨hhere, hstay⟩ := shareGranule_shares s p va
    obtain ⟨hall, hkeep, hqueues⟩ := ih (shareGranule s p va)
    rw [shareQueue_cons]
    refine ⟨fun x hx => ?_, fun x hx => hkeep x (hstay x hx), hqueues.trans (queues_shareGranule s p va)⟩
    rcases List.mem_cons.mp hx with rfl | hx
    · exact hkeep x hhere
    · exact hall x hx

/-! ## The choice of a queue (R358) -/

/-- The place of `q` in the turn of queues that starts at `start`. -/
def turnOf (start q : Nat) : Nat := (q + 256 - start % 256) % 256

theorem turnOf_shifted (start : Nat) {i : Nat} (h : i < 256) : turnOf start ((start + i) % 256) = i := by
  unfold turnOf
  omega

theorem shifted_turnOf (start : Nat) {q : Nat} (h : q < 256) : (start + turnOf start q) % 256 = q := by
  unfold turnOf
  omega

/-- The first that is found in a turn comes before every other that could be. -/
theorem find?_turn {start q : Nat} {f : Nat → Bool} (h : ((List.range 256).map fun i => (start + i) % 256).find? f = some q) :
    f q = true ∧ ∀ x, f x = true → x < 256 → turnOf start q ≤ turnOf start x := by
  rw [List.find?_map, Option.map_eq_some_iff] at h
  obtain ⟨i, hfind, rfl⟩ := h
  obtain ⟨hi, hmem, hfirst⟩ := List.find?_range_eq_some.mp hfind
  have hi256 : i < 256 := List.mem_range.mp hmem
  refine ⟨hi, fun x hx hx256 => ?_⟩
  rw [turnOf_shifted start hi256]
  refine Nat.le_of_not_lt fun hlt => ?_
  have hx' := hfirst (turnOf start x) hlt
  simp only [Function.comp, shifted_turnOf start hx256, hx] at hx'
  exact Bool.noConfusion hx'

/-- The queue chosen is a candidate of the highest class, the first of them in the class's turn. -/
theorem chooseQueue_first {s : State} {p q e : Nat} {cs : List (Nat × Nat)} (h : chooseQueue s p cs = some (q, e)) :
    (q, e) ∈ cs ∧ (∀ x ∈ cs, x.2 ≤ e) ∧ ∀ he : e < 4, ∀ x ∈ cs, x.2 = e → x.1 < 256 →
      turnOf (s.part p).lastPick[e] q ≤ turnOf (s.part p).lastPick[e] x.1 := by
  simp only [chooseQueue, Option.map_eq_some_iff, Prod.mk.injEq] at h
  obtain ⟨q', hfind, rfl, hclass⟩ := h
  rw [hclass] at hfind
  obtain ⟨hq, hfirst⟩ := find?_turn hfind
  have hmem (x : Nat) : ((cs.filter fun c => c.2 == e).map fun c => c.1).contains x = true ↔ (x, e) ∈ cs := by
    simp
  refine ⟨(hmem q').mp hq, fun x hx => ?_, fun he x hx hxe hx256 => ?_⟩
  · exact (foldl_max_le.mp hclass.le).2 x.2 (List.mem_map_of_mem hx)
  · rw [dif_pos he] at hfirst
    exact hfirst x.1 ((hmem x.1).mpr (hxe ▸ hx)) hx256

/-! ## An entry taken (R359) -/

theorem devMem_setBytesAt (a : Nat) (bs : List Byte) (s : State) (o : Nat) :
    (s.setBytesAt (.dev a) (offsets o bs)).devMem = writeBytes s.devMem (a + o) bs := by
  induction bs generalizing s o with
  | nil => rfl
  | cons b bs ih => exact ih ..

/-- An agent's store into device memory outside any conversion and range. -/
theorem agentWrite_device {s : State} {p va a : Nat} {bs : List Byte} (hopen : agentOpen s p true (chunkAddrs va bs.length) = (s, .ready))
    (hplace : placeAt s p va .write = .dev a) (hconv : NoConversion (s.part p) va bs.length) (hrange : rangeAt s p va = none) :
    agentWrite s p va bs = (s.setBytesAt (.dev a) (offsets 0 bs), true) := by
  have hno : (convAt (s.part p) va).isSome = false := by rw [hconv va (Nat.le_refl va) (by omega)]; rfl
  rw [agentWrite, hopen]
  dsimp only
  rw [hplace, performGlobal, hno, if_neg Bool.false_ne_true, hrange]
  rfl

/-- An entry taken reads zero, and `HEAD` is one more. -/
theorem takeEntry_takes {s u : State} {p hva i a b : Nat} {ws : List Word} (hopen : agentOpen s p true [hdrEntry ws i, hva] = (u, .ready))
    (hentry : agentOpen u p true (chunkAddrs (hdrEntry ws i) 8) = (u, .ready)) (ha : placeAt u p (hdrEntry ws i) .write = .dev a)
    (hb : placeAt u p (hva + 16) .write = .dev b) (hapart : a + 8 ≤ b ∨ b + 8 ≤ a)
    (hplain : ∀ x ∈ [hdrEntry ws i, hva + 16], NoConversion (u.part p) x 8 ∧ rangeAt u p x = none)
    (hhead : ∀ v, agentWrite u p (hdrEntry ws i) (natToBytes 8 0) = (v, true) → agentOpen v p true (chunkAddrs (hva + 16) 8) = (v, .ready)) :
    ∃ t, takeEntry s p hva ws i = (t, true) ∧ readBytes t.devMem a 8 = natToBytes 8 0 ∧
      readBytes t.devMem b 8 = natToBytes 8 ((i + 1) % 2 ^ 64) := by
  obtain ⟨hconvA, hrangeA⟩ := hplain _ List.mem_cons_self
  obtain ⟨hconvB, hrangeB⟩ := hplain _ (List.mem_cons_of_mem _ List.mem_cons_self)
  generalize hv : u.setBytesAt (.dev a) (offsets 0 (natToBytes 8 0)) = v
  have hwriteA : agentWrite u p (hdrEntry ws i) (natToBytes 8 0) = (v, true) := by
    rw [← hv]
    exact agentWrite_device (by rwa [natToBytes_length]) ha (by rwa [natToBytes_length]) hrangeA
  have hpart : v.part p = u.part p := by rw [State.part, State.part, ← hv, setBytesAt_parts]
  have hwriteB : agentWrite v p (hva + 16) (natToBytes 8 ((i + 1) % 2 ^ 64)) =
      (v.setBytesAt (.dev b) (offsets 0 (natToBytes 8 ((i + 1) % 2 ^ 64))), true) := by
    refine agentWrite_device (by rw [natToBytes_length]; exact hhead v hwriteA) ?_ ?_ ?_
    · rw [placeAt, hpart]; exact hb
    · rw [natToBytes_length, hpart]; exact hconvB
    · rw [rangeAt, hpart]; exact hrangeB
  refine ⟨v.setBytesAt (.dev b) (offsets 0 (natToBytes 8 ((i + 1) % 2 ^ 64))), ?_, ?_, ?_⟩
  · rw [takeEntry, hopen]
    dsimp only
    rw [hwriteA]
    dsimp only
    rw [hwriteB]
  · rw [devMem_setBytesAt, readBytes_writeBytes_out _ _ _ _ _ (by rw [natToBytes_length]; omega), ← hv, devMem_setBytesAt]
    exact readBytes_writeBytes_same (natToBytes 8 0) ..
  · rw [devMem_setBytesAt]
    have h := readBytes_writeBytes_same (natToBytes 8 ((i + 1) % 2 ^ 64)) v.devMem (b + 0)
    rwa [natToBytes_length] at h

end Sys2Proof.Machine
end

section
/-! SUPPORT. The sequencer's transactions (O56): how one is started, and how a RECON transaction gets its slot, runs its pass and is
numbered (R54, R60, R359, R361). -/

namespace Sys2Proof.Machine

/-! ## A new transaction (R359) -/

/-- The transaction that an entry starts. -/
def entryTx (s : State) (p q : Nat) (d : Desc) (ws : List Word) (batch : Nat) : Tx := {
  part := p, txh := freeTxh { s with nextId := s.nextId + 1 } p, queue := some q, desc := d.words, scl := d.scl, sdlg := hdrSdlg ws,
  sftrap := hdrSftrap ws, tiles := d.tiles, key := none, st := .unnumbered, root := none, crews := [], live := 0, ended := false,
  checks := 0, reexec := 0, nEntries := 0, nNotes := 0, status := 0, order := 0, failedCores := [], batch := batch }

/-- The state in which it has been made, before it is placed. -/
def madeTx (s : State) (p q : Nat) (d : Desc) (ws : List Word) (batch : Nat) : State :=
  (State.setPart { s with nextId := s.nextId + 1 } p
    { s.part p with nextTxh := (freeTxh { s with nextId := s.nextId + 1 } p + 1) % 65536 }).setTx s.nextId (entryTx s p q d ws batch)

@[simp] theorem tx?_madeTx (s : State) (p q : Nat) (d : Desc) (ws : List Word) (batch : Nat) :
    (madeTx s p q d ws batch).tx? s.nextId = some (entryTx s p q d ws batch) := tx?_setTx_same ..

@[simp] theorem part_madeTx (s : State) (p q : Nat) (d : Desc) (ws : List Word) (batch : Nat) : (madeTx s p q d ws batch).part p =
    { s.part p with nextTxh := (freeTxh { s with nextId := s.nextId + 1 } p + 1) % 65536 } := part_setPart_same ..

theorem startTx_eq {s : State} {p q r batch : Nat} {d : Desc} {ws : List Word} (hrecon : descRecon d.words = false)
    (hdet : descDet d.words = false) : startTx s p q d ws (some r) batch =
      numberTx (placeTx (madeTx s p q d ws batch) s.nextId (entryTx s p q d ws batch) r (descW d.words) (descH d.words)
        (descSlots d.words) (pushesOf (entryTx s p q d ws batch))) s.nextId := by
  have hmade : newTx s p (some q) d d.tiles (hdrSdlg ws) (hdrSftrap ws) batch .unnumbered 0 = (s.nextId, madeTx s p q d ws batch) := rfl
  rw [startTx, hrecon, if_neg Bool.false_ne_true, hmade]
  dsimp only
  rw [hdet, if_neg Bool.false_ne_true, tx?_madeTx]

/-- An ordinary transaction started: numbered, with its root, its queue and its crews. -/
theorem startTx_starts {s : State} {p q r batch : Nat} {d : Desc} {ws : List Word} (hrecon : descRecon d.words = false)
    (hdet : descDet d.words = false) (hfit : rectFits (descW d.words) (descH d.words) r = true) :
    let t := startTx s p q d ws (some r) batch
    Numbered s t p s.nextId d.tiles ∧ ∃ tx, t.tx? s.nextId = some tx ∧ tx.root = some (r, descW d.words, descH d.words) ∧
      tx.desc = d.words ∧ tx.queue = some q ∧
      ∀ c ∈ trayCores r (descW d.words) (descH d.words), (c, (unreservedSlots s c).take (descSlots d.words)) ∈ tx.crews ∧
        ∀ i ∈ (unreservedSlots s c).take (descSlots d.words), (t.slot (slotKey c i)).resv = some s.nextId := by
  obtain ⟨hnum, crews, key, htx, hcrews⟩ := placed_numbered (s := madeTx s p q d ws batch) (t := s.nextId)
    (tx := entryTx s p q d ws batch) (descSlots d.words) (pushesOf (entryTx s p q d ws batch)) hfit
  have hpart := part_madeTx s p q d ws batch
  rw [startTx_eq hrecon hdet]
  refine ⟨?_, _, htx, rfl, rfl, rfl, hcrews⟩
  refine Numbered.of_same (s := madeTx s p q d ws batch) hnum ?_ ?_ ?_ rfl
  · rw [hpart]
  · rw [hpart]
  · rw [hpart]

/-! ## RECON transactions (R54, R60, R361) -/

theorem mem_of_bestOf {s : State} {w h r : Nat} {rs : List Nat} (hbest : bestOf s w h rs = some r) : r ∈ rs := by
  induction rs generalizing r with
  | nil => cases hbest
  | cons x xs ih =>
    unfold bestOf at hbest
    split at hbest
    · next b hb =>
      cases hbest
      split
      · exact List.mem_cons_of_mem _ (ih hb)
      · exact List.mem_cons_self
    · cases hbest
      exact List.mem_cons_self

/-- The best origin of a tray lies where the tray fits. -/
theorem rectFits_of_bestOrigin {s : State} {p w h n r : Nat} {pushes : List (Nat × Nat)} {excl : List Nat}
    (hbest : bestOrigin s p w h n pushes excl = some r) : rectFits w h r = true := by
  have hopen : originOpen s p w h n pushes excl r = true := (List.mem_filter.mp (mem_of_bestOf hbest)).2
  simp only [originOpen, Bool.and_eq_true] at hopen
  exact hopen.1.1.1

/-- What a RECON transaction's event does to the state, before it is put back. -/
def reconStep (s : State) (t : Nat) (tx : Tx) : State :=
  match tx.st with
  | .recon =>
    if tx.key.isSome then restartTx s t tx
    else match tx.crews with
      | [] => placePass s t tx
      | (c, slots) :: _ =>
        if tx.ended then endPass s t tx
        else if tx.live = 0 then startPass s t tx c (slots.headD 0)
        else s
  | .unnumbered => numberRecon s t tx
  | _ => s

theorem exec_reconNumbering_of_tx {s : State} {t : Nat} {tx : Tx} (h : s.tx? t = some tx) : exec (.reconNumbering t) s =
    .next (if reconGoesOn (reconStep s t tx) t then postOnce (reconStep s t tx) (.reconNumbering t) else reconStep s t tx) := by
  simp only [exec_reconNumbering, execReconNumbering, h] <;> rfl

/-- A RECON transaction that is still in its passes comes back. -/
theorem reconNumbering_again {s u : State} {t : Nat} {tx y : Tx} (h : s.tx? t = some tx) (hstep : reconStep s t tx = u)
    (hy : u.tx? t = some y) (hst : y.st = .recon) :
    ∃ a, exec (.reconNumbering t) s = .next { u with agenda := a } ∧ (∀ e ∈ u.agenda, e ∈ a) ∧ .reconNumbering t ∈ a := by
  have hon : reconGoesOn u t = true := by
    rw [reconGoesOn, hy]
    dsimp only
    rw [hst]
    rfl
  obtain ⟨a, hpost, hmem⟩ := postOnce_cases u (.reconNumbering t)
  obtain ⟨b, hpost', hkeep⟩ := postUnless_cases u False (.reconNumbering t)
  rw [if_neg id, hpost] at hpost'
  have hab : a = b := congrArg State.agenda hpost'
  rw [exec_reconNumbering_of_tx h, hstep, if_pos hon, hpost]
  exact ⟨a, rfl, hab ▸ hkeep, hmem⟩

/-- A RECON transaction's pass gets its slot. -/
theorem placePass_places {s : State} {t c : Nat} {tx : Tx} (hfree : replacing s tx.part = false)
    (hbest : bestOrigin s tx.part 1 1 1 [] (tx.failedCores ++ pinnedCores s tx.part tx.queue) = some c) :
    (placePass s t tx).tx? t = some { tx with crews := [(c, (unreservedSlots s c).take 1)] } ∧
      ∀ i ∈ (unreservedSlots s c).take 1, ((placePass s t tx).slot (slotKey c i)).resv = some t := by
  obtain ⟨hcrew, -, hgiven, -, -⟩ := reserveCore_reserves s t c 1 []
  have heq : placePass s t tx = reservePlace ((reserveCore s t c 1 []).1.setTx t { tx with crews := [(c, (reserveCore s t c 1 []).2)] }) t c := by
    rw [placePass, hfree, if_neg Bool.false_ne_true, hbest]
  rw [hcrew] at heq hgiven
  rw [heq]
  obtain ⟨n, co, hplace⟩ := reservePlace_only ((reserveCore s t c 1 []).1.setTx t { tx with crews := [(c, (unreservedSlots s c).take 1)] }) t c
  rw [hplace]
  exact ⟨tx?_setTx_same .., hgiven⟩

/-- The slot that a RECON transaction's entry is loaded into. -/
theorem slot_startEntry (s : State) (t : Nat) (tx : Tx) (c i : Nat) : ∃ old place id, (startEntry s t tx c i).slot (slotKey c i) =
    { loadSlot old (tx.word 0 :: entryContext tx :: (List.range 6).map fun j => tx.word (5 + j)) place id with tx := some t } :=
  ⟨_, _, _, slot_setSlot_same ..⟩

theorem loadSlot_loads (old : Slot) (w0 w1 : Word) (f : Nat → Word) (place : Option (Nat × Nat)) (id : Nat) :
    let sl := loadSlot old (w0 :: w1 :: (List.range 6).map f) place id
    sl.st = .load ∧ sl.pc = w0 ∧ ∀ j : Fin 6, sl.x[j.val + 1] = f j.val := by
  refine ⟨rfl, rfl, fun j => ?_⟩
  have hj := j.isLt
  simp only [loadSlot, Vector.getElem_ofFn, List.getD_cons_succ]
  rw [if_pos (by omega)]
  simp [hj]

/-- A RECON transaction's pass starts: its slot loads the entry. -/
theorem startPass_starts {s : State} {t c i : Nat} (tx : Tx) (hfree : (s.slot (slotKey c i)).st = .free) :
    (startPass s t tx c i).tx? t = some { tx with live := 1, nEntries := 0, nNotes := 0 } ∧ .pickUp c i ∈ (startPass s t tx c i).agenda ∧
      let sl := (startPass s t tx c i).slot (slotKey c i)
      sl.st = .load ∧ sl.tx = some t ∧ sl.pc = tx.word 0 ∧ ∀ j : Fin 6, sl.x[j.val + 1] = tx.word (5 + j.val) := by
  rw [startPass, if_pos hfree]
  refine ⟨tx?_setTx_same s t _, mem_post .., ?_⟩
  obtain ⟨old, place, id, hslot⟩ := slot_startEntry (s.setTx t { tx with live := 1, nEntries := 0, nNotes := 0 }) t tx c i
  obtain ⟨hst, hpc, hx⟩ := loadSlot_loads old (tx.word 0) (entryContext tx) (fun j => tx.word (5 + j)) place id
  rw [hslot]
  exact ⟨hst, rfl, hpc, hx⟩

/-- A RECON transaction whose passes are over is numbered and placed like any other (R60). -/
theorem numberRecon_numbers {s : State} {t r : Nat} {tx : Tx} (hdet : descDet tx.desc = false) (hcan : canNumber s tx.part = true)
    (hfree : replacing s tx.part = false)
    (hbest : bestOrigin s tx.part (descW tx.desc) (descH tx.desc) (descSlots tx.desc) (pushesOf tx) (pinnedCores s tx.part none) = some r) :
    Numbered s (numberRecon s t tx) tx.part t tx.tiles := by
  have heq : numberRecon s t tx =
      numberTx (placeTx s t tx r (descW tx.desc) (descH tx.desc) (descSlots tx.desc) (pushesOf tx)) t := by
    simp only [numberRecon, hcan, hdet, hfree, hbest, Bool.not_true, Bool.false_eq_true, if_false]
  rw [heq]
  exact (placed_numbered (descSlots tx.desc) (pushesOf tx) (rectFits_of_bestOrigin hbest)).1

end Sys2Proof.Machine
end

section
/-! O56. The events of the sequencer: what each does to the queues, the rounds and the transactions (R45 to R48, R60, R354 to R361). -/

namespace Sys2Proof.Machine

/-! ## Events that come back -/

/-- An event that only puts itself back is left for later. -/
theorem later_of_postOnce {s : State} {e : Instr} (h : exec e s = .next (postOnce s e)) :
    ∃ a, exec e s = .next { s with agenda := a } ∧ e ∈ a := by
  obtain ⟨a, ha, hmem⟩ := postOnce_cases s e
  exact ⟨a, by rw [h, ha], hmem⟩

/-! ## Enabling and watching (R354, R355, R357) -/

theorem queueEnable_absent {s v : State} {p q : Nat} (h : readHeader s p q = (v, .absent)) : exec (.queueEnable p q) s = .next v := by
  rw [exec_queueEnable, execQueueEnable, h]

theorem watchedLineWrite_absent {s v : State} {p q : Nat} (h : readHeader s p q = (v, .absent)) :
    exec (.watchedLineWrite p q) s = .next (v.setPart p { v.part p with queues := remove (v.part p).queues q }) := by
  rw [exec_watchedLineWrite, execWatchedLineWrite, examineQueue, h]

section Found

variable {s v : State} {p q hva : Nat} {bad : Bool} {ws : List Word}

theorem queueEnable_off (h : readHeader s p q = (v, .found hva bad ws)) (hen : hdrEn ws = false) (hbad : bad = false) :
    exec (.queueEnable p q) s = .next v := by
  rw [exec_queueEnable, execQueueEnable, h]
  dsimp only
  rw [hen, hbad]
  rfl

theorem queueEnable_malformed (h : readHeader s p q = (v, .found hva bad ws)) (hen : hdrEn ws = true ∨ bad = true)
    (hmal : hdrMalformed bad ws = true) : exec (.queueEnable p q) s = .next (setState v p q hva
      { queueSt v p q with state := 4, reason := 1, watched := false, header := hva }) := by
  have hon : ¬ (!hdrEn ws && !bad) = true := by rcases hen with h | h <;> simp [h]
  rw [exec_queueEnable, execQueueEnable, h]
  dsimp only
  rw [if_neg hon, if_pos hmal]

/-- A well-formed header outside device memory. -/
theorem queueEnable_elsewhere (h : readHeader s p q = (v, .found hva bad ws)) (hen : hdrEn ws = true) (hmal : hdrMalformed bad ws = false)
    (hloc : locate v p (queueGranules hva ws) = .elsewhere) : exec (.queueEnable p q) s = .next (setState v p q hva
      { queueSt v p q with state := 4, reason := 2, watched := false, header := hva }) := by
  have hon : ¬ (!hdrEn ws && !bad) = true := by simp [hen]
  rw [exec_queueEnable, execQueueEnable, h]
  dsimp only
  rw [if_neg hon, if_neg (Bool.eq_false_iff.mp hmal), hloc]

/-- A well-formed header in device memory. -/
theorem queueEnable_device (h : readHeader s p q = (v, .found hva bad ws)) (hen : hdrEn ws = true) (hmal : hdrMalformed bad ws = false)
    (hloc : locate v p (queueGranules hva ws) = .device) : exec (.queueEnable p q) s = .next (State.post
      (setState (shareQueue v p (queueGranules hva ws)) p q hva { queueSt v p q with
        state := 0, reason := if (queueSt v p q).state = 4 then 0 else (queueSt v p q).reason, watched := true, header := hva })
      (.watchedLineWrite p q)) := by
  have hon : ¬ (!hdrEn ws && !bad) = true := by simp [hen]
  rw [exec_queueEnable, execQueueEnable, h]
  dsimp only
  rw [if_neg hon, if_neg (Bool.eq_false_iff.mp hmal), hloc]

/-- A watched queue with its header and its entry at `HEAD` read. -/
theorem watchedLineWrite_read {w : State} {e : Nat} (h : readHeader s p q = (v, .found hva bad ws)) (hen : hdrEn ws = true)
    (hbad : bad = false) (hwatched : (queueSt v p q).watched = true) (hread : agentRead v p (hdrEntry ws (hdrHead ws)) 8 = (w, .val e)) :
    exec (.watchedLineWrite p q) s = .next (
      if !(e % 2 == 1 && !hdrHold ws) then
        if (queueSt v p q).state = 0 then w else setState w p q hva { queueSt v p q with state := 0, pinned := [], parkedOn := none }
      else if (queueSt v p q).state = 0 then setState w p q hva { queueSt v p q with state := 1, since := w.tick } else w) := by
  have hon : ¬ (!hdrEn ws && !bad) = true := by simp [hen]
  have hgood : ¬ (bad || !(queueSt v p q).watched) = true := by simp [hbad, hwatched]
  rw [exec_watchedLineWrite, execWatchedLineWrite, examineQueue, h]
  dsimp only
  rw [if_neg hon, if_neg hgood, hread]

/-- A well-formed header in device memory is watched, its granules being shared, and looked at at once. -/
theorem queueEnable_watches (h : readHeader s p q = (v, .found hva bad ws)) (hen : hdrEn ws = true) (hmal : hdrMalformed bad ws = false)
    (hloc : locate v p (queueGranules hva ws) = .device) {u : State} (hu : shareQueue v p (queueGranules hva ws) = u)
    (hw : (agentWrite u p (hva + 72) (natToBytes 8 (statWord u { queueSt u p q with
      state := 0, reason := if (queueSt v p q).state = 4 then 0 else (queueSt v p q).reason, watched := true, header := hva }))).2 = true) :
    ∃ t, exec (.queueEnable p q) s = .next t ∧ (queueSt t p q).state = 0 ∧ (queueSt t p q).watched = true ∧
      (queueSt t p q).header = hva ∧ .watchedLineWrite p q ∈ t.agenda := by
  have hsame : queueSt u p q = queueSt v p q := by
    rw [queueSt, ← hu, (shareQueue_shares p (queueGranules hva ws) v).2.2, queueSt]
  rw [hsame] at hw
  have hst := queueSt_setState (q := q) hw
  refine ⟨_, by rw [queueEnable_device h hen hmal hloc, hu], ?_, ?_, ?_, mem_post ..⟩ <;> rw [queueSt_post, hst]

/-- A queue with an entry at `HEAD` and no `HOLD` leaves `STATE` 0 for 1. -/
theorem watchedLineWrite_ready {w : State} {e : Nat} (h : readHeader s p q = (v, .found hva bad ws)) (hen : hdrEn ws = true)
    (hbad : bad = false) (hwatched : (queueSt v p q).watched = true) (hread : agentRead v p (hdrEntry ws (hdrHead ws)) 8 = (w, .val e))
    (hodd : e % 2 = 1) (hhold : hdrHold ws = false) (hst : (queueSt v p q).state = 0)
    (hw : (agentWrite w p (hva + 72) (natToBytes 8 (statWord w { queueSt v p q with state := 1, since := w.tick }))).2 = true) :
    ∃ t, exec (.watchedLineWrite p q) s = .next t ∧ queueSt t p q = { queueSt v p q with state := 1, since := s.tick } := by
  have htick : w.tick = s.tick := by
    have hheader := aside_readHeader s p q
    have hentry := aside_agentRead v p (hdrEntry ws (hdrHead ws)) 8
    rw [h] at hheader
    rw [hread] at hentry
    obtain ⟨-, -, -, htick⟩ := (hheader.trans hentry).frame
    exact htick
  refine ⟨_, watchedLineWrite_read h hen hbad hwatched hread, ?_⟩
  rw [if_neg (by simp [hodd, hhold]), if_pos hst, ← htick]
  exact queueSt_setState hw

/-- A queue with no entry at `HEAD`, or with `HOLD`, goes back to `STATE` 0. -/
theorem watchedLineWrite_empty {w : State} {e : Nat} (h : readHeader s p q = (v, .found hva bad ws)) (hen : hdrEn ws = true)
    (hbad : bad = false) (hwatched : (queueSt v p q).watched = true) (hread : agentRead v p (hdrEntry ws (hdrHead ws)) 8 = (w, .val e))
    (hnot : e % 2 = 0 ∨ hdrHold ws = true) (hst : (queueSt v p q).state ≠ 0)
    (hw : (agentWrite w p (hva + 72) (natToBytes 8 (statWord w { queueSt v p q with state := 0, pinned := [], parkedOn := none }))).2 = true) :
    ∃ t, exec (.watchedLineWrite p q) s = .next t ∧ queueSt t p q = { queueSt v p q with state := 0, pinned := [], parkedOn := none } := by
  have hunready : (!(e % 2 == 1 && !hdrHold ws)) = true := by
    rcases hnot with h | h
    · simp [h]
    · simp [h]
  refine ⟨_, watchedLineWrite_read h hen hbad hwatched hread, ?_⟩
  rw [if_pos hunready, if_neg hst]
  exact queueSt_setState hw

end Found

/-! ## Picking and pinning (R358, R48) -/

theorem pick_none {s : State} {p : Nat} (h : queueCount s p = 0) : exec (.pick p) s = .next s := by
  rw [exec_pick, execPick, if_pos h]

theorem pick_waits {s : State} {p : Nat} (h : queueCount s p ≠ 0) (hready : s.hub.ready.getLsbD 1 = false ∨ s.hub.ready.getLsbD 2 = false) :
    exec (.pick p) s = .next (postOnce s (.pick p)) := by
  have hnot : (!(s.hub.ready.getLsbD 1 && s.hub.ready.getLsbD 2)) = true := by
    rcases hready with h | h
    · rw [h]; rfl
    · rw [h, Bool.and_false]; rfl
  rw [exec_pick, execPick, if_neg h, if_pos hnot]

theorem pick_picks {s : State} {p : Nat} (h : queueCount s p ≠ 0) (h1 : s.hub.ready.getLsbD 1 = true) (h2 : s.hub.ready.getLsbD 2 = true) :
    exec (.pick p) s = .next (postOnce (pickOnce (examineAll s p (queueCount s p)) p) (.pick p)) := by
  have hgo : ¬ (!(s.hub.ready.getLsbD 1 && s.hub.ready.getLsbD 2)) = true := by simp [h1, h2]
  rw [exec_pick, execPick, if_neg h, if_neg hgo]

theorem headPin_idle {s : State} {p q : Nat} (h : (queueSt s p q).state ≠ 3 ∨ (queueSt s p q).pinned ≠ []) :
    exec (.headPin p q) s = .next s := by
  rw [exec_headPin, execHeadPin, if_pos h]

theorem headPin_early {s : State} {p q : Nat} (hst : (queueSt s p q).state = 3) (hpin : (queueSt s p q).pinned = [])
    (ht : s.tick < (queueSt s p q).blockedAt + 65536) : exec (.headPin p q) s = .next (postOnce s (.headPin p q)) := by
  have hnot : ¬ ((queueSt s p q).state ≠ 3 ∨ (queueSt s p q).pinned ≠ []) := by simp [hst, hpin]
  rw [exec_headPin, execHeadPin, if_neg hnot, if_pos ht]

/-- A head blocked for long enough gets the cores of the best tray that could be pinned. -/
theorem headPin_pins {s w u : State} {p q hva r : Nat} {bad : Bool} {ws : List Word} {d : Desc} (hst : (queueSt s p q).state = 3)
    (hpin : (queueSt s p q).pinned = []) (ht : (queueSt s p q).blockedAt + 65536 ≤ s.tick)
    (hread : readHeader s p q = (u, .found hva bad ws)) (hhead : readHead u p q ws (hdrHead ws) = (w, .blocked d 3))
    (hrecon : descRecon d.words = false)
    (hbest : bestOf w (descW d.words) (descH d.words) ((List.range 512).filter
      (originPinnable w p (descW d.words) (descH d.words) (descSlots d.words) (pinnedCores w p (some q)))) = some r) :
    ∃ t, exec (.headPin p q) s = .next t ∧ (queueSt t p q).pinned = trayCores r (descW d.words) (descH d.words) ∧ t.slots = w.slots := by
  have hnot : ¬ ((queueSt s p q).state ≠ 3 ∨ (queueSt s p q).pinned ≠ []) := by simp [hst, hpin]
  have htarget : pinTarget s p q = (w, .pin (trayCores r (descW d.words) (descH d.words))) := by
    rw [pinTarget, hread]
    dsimp only
    rw [hhead]
    simp only [hrecon, Bool.false_eq_true, if_false, hbest]
  rw [exec_headPin, execHeadPin, if_neg hnot, if_neg (Nat.not_lt.mpr ht), htarget]
  exact ⟨_, rfl, by rw [queueSt_setQueue_same], rfl⟩

/-! ## Rounds (R45, R46, R64) -/

theorem RoundClosed.post {s t : State} {p : Nat} (h : RoundClosed s t p) (e : Instr) : RoundClosed s (t.post e) p := by
  obtain ⟨hround, hpos, hat, hslqd, hslots, htxs, hdev, hmarkers⟩ := h
  exact ⟨hround, hpos, hat, hslqd, hslots, htxs, hdev, fun n hn => List.mem_append_left _ (hmarkers n hn)⟩

theorem roundClose_none {s : State} {p : Nat} (h : (s.part p).roundAt = none ∨ inPod s p = true) :
    exec (.roundCloseWindow p) s = .next s ∧ exec (.roundCloseIdle p) s = .next s := by
  have hidle : ((s.part p).roundAt.isNone || inPod s p) = true := by rcases h with h | h <;> simp [h]
  refine ⟨?_, by rw [exec_roundCloseIdle, execRoundCloseIdle, if_pos hidle]⟩
  rw [exec_roundCloseWindow, execRoundCloseWindow]
  split
  · rfl
  · next a ha => rw [if_pos (h.resolve_left (by simp [ha]))]

section Open

variable {s : State} {p a : Nat}

theorem roundCloseWindow_closes (h : (s.part p).roundAt = some a) (hout : inPod s p = false) (ht : a + 2048 ≤ s.tick) :
    exec (.roundCloseWindow p) s = .next (closeRound s p) := by
  rw [exec_roundCloseWindow, execRoundCloseWindow, h]
  dsimp only
  rw [hout, if_neg Bool.false_ne_true, if_pos ht]

theorem roundCloseWindow_early (h : (s.part p).roundAt = some a) (hout : inPod s p = false) (ht : s.tick < a + 2048) :
    exec (.roundCloseWindow p) s = .next (postOnce s (.roundCloseWindow p)) := by
  rw [exec_roundCloseWindow, execRoundCloseWindow, h]
  dsimp only
  rw [hout, if_neg Bool.false_ne_true, if_neg (Nat.not_le.mpr ht)]

theorem roundCloseIdle_looks (h : (s.part p).roundAt = some a) (hout : inPod s p = false) : exec (.roundCloseIdle p) s = .next (
    if ((examineAll s p (queueCount s p)).part p).queues.any fun e => queueReady e.2 then
      postOnce (examineAll s p (queueCount s p)) (.roundCloseIdle p)
    else closeRound (examineAll s p (queueCount s p)) p) := by
  have hopen : ¬ ((s.part p).roundAt.isNone || inPod s p) = true := by simp [h, hout]
  rw [exec_roundCloseIdle, execRoundCloseIdle, if_neg hopen]
  dsimp only
  split <;> rfl

end Open

theorem podCloseMarkerSend_outside {s : State} {p : Nat} (h : inPod s p = false) : exec (.podCloseMarkerSend p) s = .next s := by
  rw [exec_podCloseMarkerSend, execPodCloseMarkerSend, h]
  rfl

theorem podCloseMarkerSend_inside {s : State} {p : Nat} (h : inPod s p = true) : exec (.podCloseMarkerSend p) s = .next (State.post
    (if ((s.part p).round + 1) * 2048 ≤ s.tick + 1 then closeRound s p else s) (.podCloseMarkerSend p)) := by
  rw [exec_podCloseMarkerSend, execPodCloseMarkerSend, h]
  rfl

/-- With no queue ready, a round in which nothing is left to come closes. -/
theorem roundCloseIdle_closes {s : State} {p a : Nat} (h : (s.part p).roundAt = some a) (hout : inPod s p = false)
    (hidle : ∀ e ∈ ((examineAll s p (queueCount s p)).part p).queues, queueReady e.2 = false) :
    exec (.roundCloseIdle p) s = .next (closeRound (examineAll s p (queueCount s p)) p) := by
  rw [roundCloseIdle_looks h hout, if_neg (by simpa using hidle)]

theorem roundCloseIdle_busy {s : State} {p a : Nat} (h : (s.part p).roundAt = some a) (hout : inPod s p = false)
    (hbusy : ∃ e ∈ ((examineAll s p (queueCount s p)).part p).queues, queueReady e.2 = true) :
    exec (.roundCloseIdle p) s = .next (postOnce (examineAll s p (queueCount s p)) (.roundCloseIdle p)) := by
  rw [roundCloseIdle_looks h hout, if_pos (List.any_eq_true.mpr hbusy)]

/-- A marker that a request of its round is still ahead of waits. -/
theorem closeMarker_waits {s : State} {p mgr dev round : Nat} (hdev : dev = ownDev s p) (hbehind : requestBehind s p mgr round = true) :
    exec (.closeMarker p mgr dev round) s = .next (s.post (.closeMarker p mgr dev round)) := by
  rw [exec_closeMarker, execCloseMarker, if_pos ⟨hdev, hbehind⟩]

/-! ## RECON transactions (R60, R361) -/

section Recon

variable {s : State} {t c : Nat} {tx : Tx}

theorem reconNumbering_gone (h : s.tx? t = none) : exec (.reconNumbering t) s = .next s := by
  rw [exec_reconNumbering, execReconNumbering, h]

theorem reconNumbering_places (h : s.tx? t = some tx) (hst : tx.st = .recon) (hkey : tx.key = none) (hcrews : tx.crews = [])
    (hfree : replacing s tx.part = false)
    (hbest : bestOrigin s tx.part 1 1 1 [] (tx.failedCores ++ pinnedCores s tx.part tx.queue) = some c) :
    ∃ u, exec (.reconNumbering t) s = .next u ∧ u.tx? t = some { tx with crews := [(c, (unreservedSlots s c).take 1)] } ∧
      (∀ i ∈ (unreservedSlots s c).take 1, (u.slot (slotKey c i)).resv = some t) ∧ .reconNumbering t ∈ u.agenda := by
  have hstep : reconStep s t tx = placePass s t tx := by
    simp only [reconStep, hst, hkey, hcrews, Option.isSome_none, Bool.false_eq_true, if_false]
  obtain ⟨htx, hgiven⟩ := placePass_places hfree hbest
  obtain ⟨a, hexec, -, hmem⟩ := reconNumbering_again h hstep htx hst
  exact ⟨_, hexec, htx, hgiven, hmem⟩

theorem reconNumbering_starts {i : Nat} {is : List Nat} {rest : List (Nat × List Nat)} (h : s.tx? t = some tx) (hst : tx.st = .recon)
    (hkey : tx.key = none) (hcrews : tx.crews = (c, i :: is) :: rest) (hend : tx.ended = false) (hlive : tx.live = 0)
    (hfree : (s.slot (slotKey c i)).st = .free) :
    ∃ u, exec (.reconNumbering t) s = .next u ∧ u.tx? t = some { tx with live := 1, nEntries := 0, nNotes := 0 } ∧
      .pickUp c i ∈ u.agenda ∧ let sl := u.slot (slotKey c i)
        sl.st = .load ∧ sl.tx = some t ∧ sl.pc = tx.word 0 ∧ ∀ j : Fin 6, sl.x[j.val + 1] = tx.word (5 + j.val) := by
  have hstep : reconStep s t tx = startPass s t tx c i := by
    simp only [reconStep, hst, hkey, hcrews, hend, hlive, Option.isSome_none, Bool.false_eq_true, if_false, if_true, List.headD_cons]
  obtain ⟨htx, hpick, hslot⟩ := startPass_starts tx hfree
  obtain ⟨a, hexec, hkeep, -⟩ := reconNumbering_again h hstep htx hst
  exact ⟨_, hexec, htx, hkeep _ hpick, hslot⟩

theorem reconNumbering_numbers {r : Nat} (h : s.tx? t = some tx) (hst : tx.st = .unnumbered) (hdet : descDet tx.desc = false)
    (hcan : canNumber s tx.part = true) (hfree : replacing s tx.part = false)
    (hbest : bestOrigin s tx.part (descW tx.desc) (descH tx.desc) (descSlots tx.desc) (pushesOf tx) (pinnedCores s tx.part none) = some r) :
    ∃ u, exec (.reconNumbering t) s = .next u ∧ Numbered s u tx.part t tx.tiles := by
  have hnum := numberRecon_numbers (t := t) hdet hcan hfree hbest
  have hstep : reconStep s t tx = numberRecon s t tx := by simp only [reconStep, hst]
  have hoff : ¬ reconGoesOn (numberRecon s t tx) t = true := by
    obtain ⟨⟨y, hy, hwait, -, -⟩, -, -⟩ := hnum
    rw [reconGoesOn, hy]
    dsimp only
    rw [hwait]
    decide
  rw [exec_reconNumbering_of_tx h, hstep, if_neg hoff]
  exact ⟨_, rfl, hnum⟩

end Recon

/-! ## The obligation -/

/-- Settles O56: each event of the sequencer by its own lemma, with a round's close and a transaction's numbering proved once for
all that lead to them. -/
theorem queuesAndRounds : Obligations.QueuesAndRounds := by
  unfold Obligations.QueuesAndRounds
  intro later closes numbered
  refine ⟨fun s v p q h => ⟨queueEnable_absent h, watchedLineWrite_absent h⟩, fun s v p q hva bad ws h => ?found, fun s p => ?picks,
    fun s p q e cs h => chooseQueue_first h, fun s u v p hva i a b ws hopen hwrite hhead hentry _ _ ha hb hapart hplain => ?takes,
    fun s p q r batch d ws hrecon hdet hfit => ?starts, fun s p q => ?pins, fun s p => ?closes, fun s p mgr dev round => ?markers,
    fun s t h => reconNumbering_gone h, fun s t tx h => ?recon⟩
  case found =>
    refine ⟨queueEnable_off h, fun hen hmal hw => ⟨_, queueEnable_malformed h hen hmal, queueSt_setState hw⟩,
      fun hen hmal hloc hw => ⟨_, queueEnable_elsewhere h hen hmal hloc, queueSt_setState hw⟩,
      fun hen hmal hloc => ?_, fun w e hen hbad hwatched hread _ => ?_⟩
    · exact ⟨(shareQueue_shares p (queueGranules hva ws) v).1, queueEnable_watches h hen hmal hloc rfl⟩
    · exact ⟨watchedLineWrite_ready h hen hbad hwatched hread, watchedLineWrite_empty h hen hbad hwatched hread⟩
  case picks =>
    refine ⟨pick_none, fun hn hready => later_of_postOnce (pick_waits hn hready), fun hn h1 h2 => ?_⟩
    obtain ⟨a, ha, hmem⟩ := postOnce_cases (pickOnce (examineAll s p (queueCount s p)) p) (.pick p)
    exact ⟨_, pick_picks hn h1 h2, by rw [ha]; exact hmem, rfl⟩
  case takes =>
    refine takeEntry_takes hopen hentry ha hb hapart hplain fun v' hv' => ?_
    obtain rfl : v = v' := congrArg Prod.fst (hwrite.symm.trans hv')
    exact hhead
  case starts =>
    obtain ⟨hnum, tx, htx, hroot, hdesc, hqueue, hcrews⟩ :=
      startTx_starts (s := s) (p := p) (q := q) (batch := batch) (ws := ws) hrecon hdet hfit
    refine ⟨hnum, fun y hy => ?_⟩
    obtain rfl : tx = y := Option.some.inj (htx.symm.trans hy)
    exact ⟨hroot, hdesc, hqueue, hcrews⟩
  case pins =>
    exact ⟨headPin_idle, fun hst hpin => ⟨fun ht => later_of_postOnce (headPin_early hst hpin ht),
      fun w u hva bad ws d r ht hread hhead hrecon hbest => headPin_pins hst hpin ht hread hhead hrecon hbest⟩⟩
  case closes =>
    refine ⟨roundClose_none, fun a ha hout => ⟨fun ht => ⟨_, roundCloseWindow_closes ha hout ht, (closeRound_closes s p).1⟩,
      fun ht => later_of_postOnce (roundCloseWindow_early ha hout ht),
      fun hidle => ⟨_, roundCloseIdle_closes ha hout hidle, (closeRound_closes _ p).1⟩, fun hbusy => ?_⟩, podCloseMarkerSend_outside,
      fun hin => ⟨fun ht => ?_, fun ht => ?_⟩⟩
    · obtain ⟨b, hb, hmem⟩ := postOnce_cases (examineAll s p (queueCount s p)) (.roundCloseIdle p)
      exact ⟨b, by rw [roundCloseIdle_busy ha hout hbusy, hb], hmem⟩
    · exact ⟨_, by rw [podCloseMarkerSend_inside hin, if_neg (Nat.not_le.mpr ht)]; rfl, mem_post ..⟩
    · exact ⟨_, by rw [podCloseMarkerSend_inside hin, if_pos ht], (closeRound_closes s p).1.post _, mem_post ..⟩
  case markers => exact ⟨closeMarker_waits, closeMarker_does s p mgr dev round⟩
  case recon =>
    exact ⟨fun c hst hkey hcrews hfree hbest => reconNumbering_places h hst hkey hcrews hfree hbest,
      fun c i is rest hst hkey hcrews hend hlive hfree => reconNumbering_starts h hst hkey hcrews hend hlive hfree,
      fun r hst hdet hcan hfree hbest => reconNumbering_numbers h hst hdet hcan hfree hbest⟩

end Sys2Proof.Machine
end

section
/-! SUPPORT. Results on their way: what lands in the next cycle of a core, at once or when its latency is over, what stays
pending, and the causes that flags raise. -/

namespace Sys2Proof.Machine

/-! ## A result that arrives (R70, R176) -/

/-- A slot in which the pending result `id` has arrived, with a value for the integer register `r`: it pends no more and
lands in cycle `cyc`. -/
def Slot.arrived (sl : Slot) (id : Nat) (r : Reg) (v : Vec) (cyc : Nat) : Slot :=
  { sl with vpend := sl.vpend.filter fun w => w.id != id, pend := sl.pend ++ [⟨some (xreg r), v, cyc, 0⟩] }

theorem not_mem_arrived (sl : Slot) (id : Nat) (r : Reg) (v : Vec) (cyc : Nat) :
    ∀ w ∈ (sl.arrived id r v cyc).vpend, w.id ≠ id := by
  intro w hw
  simpa using (List.mem_filter.mp hw).2

theorem xreg_isX0 {r : Reg} (h : r ≠ 0) : (xreg r).isX0 = false := by simpa [xreg, RegId.isX0] using h

/-- A value for an integer register other than x0 is among the results of the core's next cycle. -/
theorem landSoon_xreg (s : State) (c k : Nat) {r : Reg} (v : Vec) (h : r ≠ 0) :
    landSoon s c k [xreg r] [v] 0 =
      s.setSlot k { s.slot k with pend := (s.slot k).pend ++ [⟨some (xreg r), v, (s.core c).cyc, 0⟩] } := by
  simp [landSoon, xreg_isX0 h]

theorem landSoon_arrived (s : State) (c k id : Nat) {r : Reg} (v : Vec) (h : r ≠ 0) :
    landSoon (s.setSlot k { s.slot k with vpend := (s.slot k).vpend.filter fun w => w.id != id }) c k [xreg r] [v] 0 =
      s.setSlot k ((s.slot k).arrived id r v (s.core c).cyc) := by
  rw [landSoon_xreg _ c k v h, slot_setSlot_same, setSlot_setSlot]
  rfl

/-- A division that is due leaves the divider, and its value arrives (R199). -/
theorem execDivisionComplete_due {s : State} {c : Nat} {j : DivJob} {js : List DivJob} {w : VPend} {r : Reg}
    (hq : (s.core c).divq = j :: js) (hw : (s.slot j.slot).vpend.find? (fun v => v.id == j.id) = some w)
    (hregs : w.regs = [xreg r]) (hr : r ≠ 0) (hdue : j.due ≤ (s.core c).cyc) :
    execDivisionComplete c s = .next ((s.setCore c { s.core c with divq := js }).setSlot j.slot
      ((s.slot j.slot).arrived j.id r (j.value.setWidth 512) (s.core c).cyc)) := by
  have harr := landSoon_arrived (s.setCore c { s.core c with divq := js }) c j.slot j.id (j.value.setWidth 512) hr
  simp only [slot_setCore, core_setCore_same] at harr
  simp only [execDivisionComplete, hq, if_neg (Nat.not_lt.mpr hdue), slot_setCore, hw, hregs, List.map_cons, List.map_nil, harr]

/-- Settles O10: a division that is due arrives as any pending result does; before that the event waits. -/
theorem divisionArrives : Obligations.DivisionArrives := by
  intro s c j js w r hq hw hregs _ hr
  refine ⟨fun hdue => ⟨_, execDivisionComplete_due hq hw hregs hr hdue, ?_⟩, fun hearly => ?_, ?_⟩
  · rw [slot_setSlot_same, core_setSlot, core_setCore_same]
    exact ⟨rfl, rfl, rfl, not_mem_arrived _ _ _ _ _, rfl, fun k hk => slot_setSlot_ne _ _ hk, fun e he => core_setCore_ne s _ he, rfl, rfl⟩
  · simp only [exec_divisionComplete, execDivisionComplete, hq, if_pos hearly]
  · simp only [mustRun, hq, decide_eq_true_eq]

/-! ## A variable-latency result (R70, R176, R178) -/

/-- The slot with the sequence of its lease not bounded any more (R230). -/
def Slot.unbounded (sl : Slot) : Slot := { sl with lease := sl.lease.map fun l => { l with bounded := false } }

/-- The slot with one more pending result (R178). -/
def Slot.awaiting (sl : Slot) (w : VPend) : Slot := { sl with vpend := sl.vpend ++ [w] }

/-- The state with the next serial number taken. -/
def State.counted (s : State) : State := { s with nextId := s.nextId + 1 }

theorem unbound_eq (s : State) : unbound s = s.setMe s.me.unbounded := rfl

theorem pendV_eq (s : State) (k : Nat) (source : VSource) (regs : List RegId) (values : Option (List Vec)) (flags : Word) :
    pendV s k source regs values flags =
      (s.nextId, s.counted.setSlot k ((s.slot k).awaiting ⟨s.nextId, regs, values, flags, source⟩)) := rfl

/-- A result that comes with its value pends, and its arrival is on the agenda (R176, R178). -/
theorem writeVar_eq (s : State) {d : Reg} (v : Vec) (fl : Word) (h : d ≠ 0) :
    writeVar s (xreg d) v fl = (s.counted.setMe (s.me.unbounded.awaiting ⟨s.nextId, [xreg d], some [v], fl, .plain⟩)).post
        (.variableResultArrival s.curCore s.curSlot s.nextId) := by
  have hslot : (s.setMe s.me.unbounded).slot s.cur = s.me.unbounded := me_setMe ..
  have hput : (s.setMe s.me.unbounded).counted = s.counted.setMe s.me.unbounded := rfl
  simp only [writeVar, xreg_isX0 h, Bool.false_and, Bool.false_eq_true, if_false, unbound_eq, pendV_eq, cur_setMe, hslot, hput, setMe_nextId]
  exact congrArg (State.post · _) (setMe_setMe ..)

/-- A pending result that comes with its value and is no special function's arrives (R178). -/
theorem execVariableResultArrival_plain {s : State} {c k id : Nat} {r : Reg} {v : Vec} {w : VPend}
    (hw : (s.slot (slotKey c k)).vpend.find? (fun w => w.id == id) = some w) (hregs : w.regs = [xreg r])
    (hvals : w.values = some [v]) (hflags : w.flags = 0) (hsource : w.source = .plain) (hr : r ≠ 0) :
    execVariableResultArrival c k id s =
      .next (s.setSlot (slotKey c k) ((s.slot (slotKey c k)).arrived id r v (s.core c).cyc)) := by
  have hripe : resultRipe (s.slot (slotKey c k)) (s.core c).cyc w = true := by simp [resultRipe, hsource, VSource.ripe, VSource.isSpecial]
  simp only [execVariableResultArrival, hw, hvals, hripe, hregs, hflags, hsource, VSource.isSpecial, landSoon_arrived _ _ _ _ _ hr,
    Bool.not_true, Bool.false_and, Bool.false_eq_true, if_false]

/-- Settles O13: a result pends until its arrival, which changes its slot alone. -/
theorem variableResults : Obligations.VariableResults := by
  refine ⟨fun s v => rfl, fun s d v fl hd => ?_, fun s c k id r v w hr _ hw hregs hvals hflags hsource => ?_⟩
  · rw [writeVar_eq s v fl hd]
    simp only [me_post, me_setMe]
    exact ⟨rfl, rfl, rfl, rfl, rfl, rfl, rfl, fun k hk => slot_setMe_ne _ _ hk, rfl, rfl⟩
  · refine ⟨_, execVariableResultArrival_plain hw hregs hvals hflags hsource hr, ?_⟩
    rw [slot_setSlot_same]
    exact ⟨rfl, rfl, rfl, rfl, not_mem_arrived _ _ _ _ _, fun j hj => slot_setSlot_ne _ _ hj, rfl, rfl, rfl⟩

/-! ## Flags (R80, R339) -/

/-- The lowest set bit below `n`, when bit `i` is set and none below it. -/
theorem lowestBit_some {w : Word} {i : Nat} (hi : w.getLsbD i = true) (hlow : ∀ j, j < i → w.getLsbD j = false) (n : Nat) (hn : i < n) :
    lowestBit w n = some i := by
  have none_below : ∀ m, m ≤ i → lowestBit w m = none := by
    intro m hm
    induction m with
    | zero => rfl
    | succ m ih => simp [lowestBit, ih (by omega), hlow m hm]
  induction n with
  | zero => omega
  | succ n ih =>
    rcases Nat.lt_succ_iff_lt_or_eq.mp hn with hlt | rfl
    · simp [lowestBit, ih hlt]
    · simp [lowestBit, none_below i le_rfl, hi]

theorem lowestBit_zero (n : Nat) : lowestBit 0 n = none := by
  induction n with
  | zero => rfl
  | succ n ih => rw [lowestBit, ih]; exact if_neg (by simp)

/-- Settles O24: the cause is that of the lowest bit that is raised and enabled. -/
theorem arithmeticCauses : Obligations.ArithmeticCauses := by
  intro sl f hf
  have hmask : f &&& 0xFF = f := by
    apply BitVec.eq_of_toNat_eq
    rw [BitVec.toNat_and]
    exact Nat.and_two_pow_sub_one_of_lt_two_pow (n := 8) hf
  have hcsr : (sl.orFlags f).csr.fflags = sl.csr.fflags ||| f ∧ (sl.orFlags f).x = sl.x ∧ (sl.orFlags f).f = sl.f := by
    unfold Slot.orFlags
    rw [hmask]
    split <;> exact ⟨rfl, rfl, rfl⟩
  obtain ⟨hfl, hx, hv⟩ := hcsr
  refine ⟨hfl, hx, hv, fun hnone => ?_, fun i hi hbit hlow => ?_⟩
  · simp only [Slot.orFlags, hnone, lowestBit_zero]
  · simp only [Slot.orFlags, lowestBit_some hbit hlow 8 hi]

/-! ## A result of fixed latency (R68, R176) -/

/-- Two registers of the slot with one index are one register. -/
theorem idx_inj {a b : Reg} (ha : a.shared = false) (hb : b.shared = false) (h : a.idx = b.idx) : a = b := by
  have hlow : a.toNat % 16 = b.toNat % 16 := by simpa [Reg.idx] using congrArg Fin.val h
  have hhigh (r : Reg) (hr : r.shared = false) : r.toNat < 16 := by
    by_contra hge
    have hbit : r.toNat.testBit 4 = true := Nat.testBit_eq_decide_div_mod_eq ▸ by simp; omega
    exact absurd (hbit.symm.trans hr) (by decide)
  have := hhigh a ha
  have := hhigh b hb
  exact BitVec.eq_of_toNat_eq (by omega)

/-- What reading an integer register depends on. -/
theorem readX_congr {s t : State} (e : Reg) (hy : t.myCore.y = s.myCore.y)
    (hx : e.shared = false → e ≠ 0 → t.me.x[e.idx] = s.me.x[e.idx]) : readX t e = readX s e := by
  unfold readX
  split
  · rw [hy]
  · next hsh =>
    split
    · rfl
    · next h0 => exact hx (by simpa using hsh) h0

theorem readX_setMe {s : State} {sl : Slot} (e : Reg) (hx : sl.x = s.me.x) : readX (s.setMe sl) e = readX s e :=
  readX_congr e rfl fun _ _ => by rw [me_setMe, hx]

/-- An integer register of the slot reads what landed in it, and every other one as before (R66). -/
theorem readX_landReg (s : State) {d : Reg} (e : Reg) (v : Vec) (hsh : d.shared = false) (h0 : d ≠ 0) :
    readX (landReg s s.curCore s.cur (xreg d) v) e = if e = d then v.setWidth 64 else readX s e := by
  have hland : landReg s s.curCore s.cur (xreg d) v = s.setMe { s.me with x := s.me.x.set d.idx (v.setWidth 64) } := by
    simp only [landReg, xreg, hsh]
    exact if_neg h0
  rw [hland]
  split
  · next he =>
    subst he
    rw [readX, if_neg (by simp [hsh]), if_neg h0, me_setMe]
    simp
  · next he =>
    refine readX_congr e rfl fun hesh _ => ?_
    rw [me_setMe]
    exact Vector.getElem_set_ne d.idx.isLt _ fun hidx => he (idx_inj hesh hsh (Fin.ext hidx.symm))

/-- The only result of the issuing slot on its way lands once it is due, and stays on its way before (R176). -/
theorem landDue_lone {s : State} {w : PendWrite} (hp : s.me.pend = [w]) (hf : w.flags = 0) :
    landDue s s.curCore s.curSlot = if w.due ≤ s.myCore.cyc then
        match w.reg with
        | some r => landReg (s.setMe { s.me with pend := [] }) s.curCore s.cur r w.value
        | none => s.setMe { s.me with pend := [] }
      else s := by
  replace hp : (s.slot (slotKey s.curCore s.curSlot)).pend = [w] := hp
  by_cases hdue : w.due ≤ (s.core s.curCore).cyc
  · have hlate : ¬ (s.core s.curCore).cyc < w.due := Nat.not_lt.mpr hdue
    rw [if_pos (show w.due ≤ s.myCore.cyc from hdue)]
    simp [landDue, hp, hdue, landList, hf]
    rfl
  · rw [if_neg (show ¬ w.due ≤ s.myCore.cyc from hdue)]
    simp [landDue, hp, hdue]

/-- Settles O11: the lone result is read once it is due; no other register changes. -/
theorem resultLandsAfterLatency : Obligations.ResultLandsAfterLatency := by
  intro s d lat v hp t after
  have hpend (cyc : Nat) : (t cyc).me.pend =
      [⟨if d = 0 then none else some (xreg d), v.setWidth 512, s.myCore.cyc + lat, 0⟩] := by
    simp [t, withResult, hp]
  have hread (cyc : Nat) (e : Reg) : readX (t cyc) e = readX s e :=
    readX_congr e (by simp [t]) fun _ _ => by simp [t, withResult]
  have hcyc (cyc : Nat) : (t cyc).myCore.cyc = cyc := by simp [t]
  have hclear (cyc : Nat) (e : Reg) : readX ((t cyc).setMe { (t cyc).me with pend := [] }) e = readX s e :=
    (readX_setMe (sl := { (t cyc).me with pend := [] }) e rfl).trans (hread cyc e)
  have hland (cyc : Nat) : after cyc = _ := landDue_lone (hpend cyc) rfl
  refine ⟨rfl, fun h0 cyc e => ?_, fun h0 hsh => ?_⟩
  · simp only [if_pos h0] at hland
    rw [hland]
    split
    · exact hclear cyc e
    · exact hread cyc e
  · have hafter (cyc : Nat) (e : Reg) : readX (after cyc) e =
        if s.myCore.cyc + lat ≤ cyc then if e = d then v else readX s e else readX s e := by
      have hv : (v.setWidth 512).setWidth 64 = v := by simp
      rw [hland]
      simp only [if_neg h0, hcyc]
      split
      · have hr := readX_landReg ((t cyc).setMe { (t cyc).me with pend := [] }) e (v.setWidth 512) hsh h0
        rw [hclear, hv] at hr
        exact hr
      · exact hread cyc e
    refine ⟨fun cyc hdue => ?_, fun cyc hearly => ?_, fun cyc e he => ?_⟩
    · rw [hafter, if_pos hdue, if_pos rfl]
    · rw [hafter, if_neg (Nat.not_le.mpr hearly)]
    · rw [hafter, if_neg he, ite_self]

end Sys2Proof.Machine
end

section
/-! SUPPORT. The checks of R183 and the CSRs (R78 to R81, R209, R210, R331, R351, R352): what the checks let happen, what a
CSR instruction does, and what the fields of a CSR hold after a write. -/

namespace Sys2Proof.Machine

/-! ## The checks of R183 -/

/-- Holding the issuing slot leaves everything but slots, partitions and the agenda. -/
theorem hold_frame (s : State) (w : Wait) : ∃ ps sl ag, hold s w = { s with parts := ps, slots := sl, agenda := ag } := by
  have hq : OnlyParts s (if s.me.wait = some w then s else leaveQueue s s.cur) := by
    split
    · exact onlyParts_refl s
    · exact leaveQueue_onlyParts ..
  obtain ⟨ps, hq⟩ := hq
  simp only [hold, hq]
  split <;> exact ⟨ps, _, _, rfl⟩

/-- No register of the shared banks is named, so that no field is bad (R67, R69, R70). -/
theorem badField_unshared {s : State} {u : Uses} (hbad : u.bad = none) (h : ∀ r ∈ u.all, r.r.shared = false) :
    badField s u = none := by
  have hfind (p : Bool) (l : List RegId) (hl : ∀ r ∈ l, r ∈ u.all) : l.find? (fun r => r.r.shared && p) = none :=
    List.find?_eq_none.mpr fun r hr => by simp [h r (hl r hr)]
  have hv : ∀ r ∈ u.vwrites, r ∈ u.all := fun r hr => by simp [Uses.all, hr]
  simp only [badField, hbad, hfind _ u.all (fun _ hr => hr), hfind _ u.vwrites hv]

/-- At U level, outside a transaction, a register of the shared banks is a bad field (R69). -/
theorem badField_shared {s : State} {u : Uses} (hbad : u.bad = none) (hu : s.me.level = .u) (htx : s.me.tx = none)
    (h : ∃ r ∈ u.all, r.r.shared = true) : ∃ r, badField s u = some r := by
  have howns : ownsShared s = false := by simp [ownsShared, hu, htx]
  obtain ⟨r, hr⟩ : ∃ r, u.all.find? (fun r => r.r.shared && !ownsShared s) = some r := by
    rw [← Option.isSome_iff_exists, List.find?_isSome]
    obtain ⟨r, hr, hsh⟩ := h
    exact ⟨r, hr, by simp [howns, hsh]⟩
  exact ⟨r.r, by simp only [badField, hbad, hr]⟩

/-- Settles O20: each check is one branch of `gate`, and a hold changes no register. -/
theorem checksBeforeEffects : Obligations.ChecksBeforeEffects := by
  intro priv u s act
  refine ⟨fun hp hu => ?_, fun hok => ?_, badField_unshared, badField_shared⟩
  · subst hp
    exact gate_privileged hu act
  · have hpriv : (priv && s.me.level == .u) = false := by
      rcases hok with h | h
      · simp [h]
      · cases priv <;> simp [h]
    refine ⟨fun r hr => ?_, fun hgood => ⟨fun r hon hr => ?_, fun hcov => ?_⟩⟩
    · simp only [gate, hpriv, hr]
      rfl
    · simp only [gate, hpriv, hgood, hon, hr]
      rfl
    · have hcovered : (if s.me.csr.schk.getLsbD 0 then uncovered s u else none) = none := by
        split
        · exact hcov ‹_›
        · rfl
      have hgate : gate priv u s act = match pendingRegs s u with
          | [] => act s
          | rs => .next (hold s (.result rs)) := by
        simp only [gate, hpriv, hgood, hcovered]
        rfl
      refine ⟨fun hnone => by rw [hgate, hnone], fun hsome => ⟨hold s (.result (pendingRegs s u)), ?_, ?_⟩⟩
      · rw [hgate]
        split
        · next hnil => exact absurd hnil hsome
        · rfl
      · obtain ⟨⟨at_, hme⟩, hother⟩ := hold_holds s (.result (pendingRegs s u))
        obtain ⟨ps, sl, ag, hframe⟩ := hold_frame s (.result (pendingRegs s u))
        refine ⟨by rw [hme]; rfl, by rw [hme], by rw [hme], by rw [hme], by rw [hme], by rw [hframe], by rw [hframe], hother⟩

/-! ## The CSR instructions (R78, R209, R210) -/

/-- A CSR instruction that writes, when the level reaches the number and the checks pass (R78, R209). -/
theorem csrWriting_clear {s : State} {a : Reg} {n : Nat} {old : Word} (op : CsrOp) (hp : csrPrivileged s.me.level n = false)
    (hc : Clear false { reads := [xreg a] } s) (hold : readCsr s n = some old) :
    csrWriting op a n s =
      if op != .w && a == 0 then .next (finish s)
      else if csrReadOnly n then .next (trapI s 0x07 (BitVec.ofNat 64 n))
      else if n = 0x534 then .next (finish (writeSevst s (readX s a)))
      else .next (finish (writeCsr s n (csrNew op old (readX s a)))) := by
  simp only [csrWriting, hp, gate_clear hc, hold]
  rfl

theorem csrWriting_unassigned {s : State} {a : Reg} {n : Nat} (op : CsrOp) (hp : csrPrivileged s.me.level n = false)
    (hc : Clear false { reads := [xreg a] } s) (hnone : readCsr s n = none) :
    csrWriting op a n s = .next (trapI s 0x07 (BitVec.ofNat 64 n)) := by
  simp only [csrWriting, hp, gate_clear hc, hnone]
  rfl

theorem csrWriting_privileged {s : State} {n : Nat} (op : CsrOp) (a : Reg) (hp : csrPrivileged s.me.level n = true) :
    csrWriting op a n s = .next (trapI s 0x04 (BitVec.ofNat 64 n)) := by
  simp only [csrWriting, hp, if_true]

theorem csrReading_assigned {s : State} {d : Reg} {n : Nat} {v : Word} (hp : csrPrivileged s.me.level n = false)
    (hc : Clear false { writes := [xreg d] } s) (hv : readCsr s n = some v) :
    csrReading d n s = .next (finish (withResult s d 2 v)) := by
  simp only [csrReading, hp, gate_clear hc, hv, writeInt_eq]
  rfl

theorem csrReading_unassigned {s : State} {d : Reg} {n : Nat} (hp : csrPrivileged s.me.level n = false)
    (hc : Clear false { writes := [xreg d] } s) (hnone : readCsr s n = none) :
    csrReading d n s = .next (trapI s 0x07 (BitVec.ofNat 64 n)) := by
  simp only [csrReading, hp, gate_clear hc, hnone]
  rfl

/-- The numbers of instructions are twelve bits wide, and so is the value that their traps show. -/
theorem ofNat_toNat_csr (n : BitVec 12) : BitVec.ofNat 64 n.toNat = n.setWidth 64 := BitVec.ofNat_toNat 64 n

/-- An access to `FFLAGS` once every earlier flag is there is the instruction of its number (R210). -/
theorem execFflagsAccess_settled {s : State} {x : Reg} (op : CsrOp) (hop : op ≠ .r) (hc : Clear false { reads := [xreg x] } s)
    (hs : flagsSettled s = true) : execFflagsAccess op x s = csrWriting op x 0x21 s := by
  cases op with
  | r => exact absurd rfl hop
  | w => simp only [execFflagsAccess, gate_clear hc, hs]; rfl
  | s => simp only [execFflagsAccess, gate_clear hc, hs]; rfl
  | c => simp only [execFflagsAccess, gate_clear hc, hs]; rfl

/-- The writes of an assigned number by `csrw`, `csrs` and `csrc` (R78, R209, R351). -/
theorem csrWrites_assigned {s : State} {n : BitVec 12} {a : Reg} {old : Word} (hp : csrPrivileged s.me.level n.toNat = false)
    (hc : Clear false { reads := [xreg a] } s) (hold : readCsr s n.toNat = some old) :
    (a = 0 → RunsTo (exec (.csrs a n) s) s (nextPc s) ∧ RunsTo (exec (.csrc a n) s) s (nextPc s)) ∧
    (csrReadOnly n.toNat = true → exec (.csrw a n) s = .next (trapI s 0x07 (n.setWidth 64)) ∧
      (a ≠ 0 → exec (.csrs a n) s = .next (trapI s 0x07 (n.setWidth 64)) ∧
        exec (.csrc a n) s = .next (trapI s 0x07 (n.setWidth 64)))) ∧
    (csrReadOnly n.toNat = false → n ≠ 0x534 →
      exec (.csrw a n) s = .next (finish (writeCsr s n.toNat (readX s a))) ∧
      (a ≠ 0 → exec (.csrs a n) s = .next (finish (writeCsr s n.toNat (old ||| readX s a))) ∧
        exec (.csrc a n) s = .next (finish (writeCsr s n.toNat (old &&& ~~~readX s a))))) ∧
    (n = 0x534 → let cleared := writeSevst s (readX s a)
      RunsTo (exec (.csrw a n) s) cleared (nextPc s) ∧
      (a ≠ 0 → RunsTo (exec (.csrs a n) s) cleared (nextPc s) ∧ RunsTo (exec (.csrc a n) s) cleared (nextPc s))) := by
  have hw : exec (.csrw a n) s = _ := csrWriting_clear .w hp hc hold
  have hs : exec (.csrs a n) s = _ := csrWriting_clear .s hp hc hold
  have hk : exec (.csrc a n) s = _ := csrWriting_clear .c hp hc hold
  have hne : n ≠ 0x534 → n.toNat ≠ 0x534 := fun h h' => h (BitVec.eq_of_toNat_eq h')
  simp only [ofNat_toNat_csr] at hw hs hk
  rw [hw, hs, hk]
  refine ⟨fun h0 => ?_, fun hro => ?_, fun hro h534 => ?_, fun h534 => ?_⟩
  · subst h0
    exact ⟨runsTo_finish s, runsTo_finish s⟩
  · simp only [hro, if_true]
    refine ⟨rfl, fun h0 => ?_⟩
    simp only [beq_eq_false_iff_ne.mpr h0, Bool.and_false]
    exact ⟨rfl, rfl⟩
  · simp only [hro, hne h534, if_false]
    refine ⟨rfl, fun h0 => ?_⟩
    simp only [beq_eq_false_iff_ne.mpr h0, Bool.and_false]
    exact ⟨rfl, rfl⟩
  · subst h534
    have hrun : RunsTo (.next (finish (writeSevst s (readX s a)))) (writeSevst s (readX s a)) (nextPc s) := runsTo_finish _
    refine ⟨hrun, fun h0 => ?_⟩
    simp only [beq_eq_false_iff_ne.mpr h0, Bool.and_false]
    exact ⟨hrun, hrun⟩

/-- Settles O21: the four instructions by what the number is, and the accesses with rows of their own as the same
accesses. -/
theorem csrInstructions : Obligations.CsrInstructions := by
  refine ⟨fun s n d hp => ?_, fun s n d hp hc => ?_, fun s n a hp hc => ?_, fun s a k => ?_, fun s x hc hs => ?_, fun s x hc hs => ?_⟩
  · intro traps
    simp only [traps, ← ofNat_toNat_csr]
    refine ⟨?_, csrWriting_privileged .w d hp, csrWriting_privileged .s d hp, csrWriting_privileged .c d hp⟩
    simp only [exec_csrr, execCsrr, csrReading, hp, if_true]
  · cases hv : readCsr s n.toNat with
    | none => exact (csrReading_unassigned hp hc hv).trans (by rw [ofNat_toNat_csr])
    | some v =>
      rw [exec_csrr, execCsrr, csrReading_assigned hp hc hv]
      simpa only [nextPc_withResult] using runsTo_finish (withResult s d 2 v)
  · cases hv : readCsr s n.toNat with
    | none =>
      intro i hi
      simp only [List.mem_cons, List.not_mem_nil, or_false] at hi
      rw [← ofNat_toNat_csr]
      rcases hi with rfl | rfl | rfl
      · exact csrWriting_unassigned .w hp hc hv
      · exact csrWriting_unassigned .s hp hc hv
      · exact csrWriting_unassigned .c hp hc hv
    | some old => exact csrWrites_assigned hp hc hv
  · have hk : ((0x50 : BitVec 12) + k.setWidth 12).toNat = 0x50 + k.toNat := by
      have := k.isLt
      rw [BitVec.toNat_add, BitVec.toNat_setWidth]
      simp
      omega
    refine ⟨rfl, rfl, ?_, rfl, rfl, rfl, rfl, rfl, rfl, rfl, rfl⟩
    simp only [exec_vtabWrite, execVtabWrite, exec_csrw, execCsrw, hk]
  · exact ⟨execFflagsAccess_settled .w (by decide) hc hs, execFflagsAccess_settled .s (by decide) hc hs,
      execFflagsAccess_settled .c (by decide) hc hs⟩
  · simp only [exec_fflagsAccess, execFflagsAccess, gate_clear hc, hs]
    rfl

/-! ## What a CSR holds after a write (R80, R331, R351, R352) -/

/-- xTSTAT keeps PLV where 3 is written (R331). -/
theorem statusWritten_eq (old v : Word) :
    statusWritten old v = if v.toNat % 4 = 3 then (v &&& 0x7C) ||| (old &&& 3) else v &&& 0x7F := by
  have h : v.extractLsb' 0 2 = 3 ↔ v.toNat % 4 = 3 := by
    rw [← BitVec.toNat_inj]
    simp
  simp only [statusWritten, masked, h]

/-- The trap CSRs of the three levels read back (R331). -/
theorem readCsr_trapRegs (s : State) (v : Word) (i : Fin 5) :
    readCsr (writeCsr s (0x100 + i.val) v) (0x100 + i.val) = some ((s.me.tu.write i.val v).word i.val) ∧
    readCsr (writeCsr s (0x500 + i.val) v) (0x500 + i.val) = some ((s.me.ts.write i.val v).word i.val) ∧
    readCsr (writeCsr s (0x900 + i.val) v) (0x900 + i.val) = some ((s.me.tm.write i.val v).word i.val) := by
  fin_cases i <;> simp [readCsr, readUser, readSuper, readMachine, writeCsr, writeUser, writeSlotSuper, writeMachine]

/-- The user CSRs with fields of their own read back (R80). -/
theorem readCsr_user (s : State) (v : Word) :
    readCsr (writeCsr s 0x20 v) 0x20 = some (if v.toNat % 8 ≤ 4 then v &&& 7 else s.me.csr.rmode) ∧
    readCsr (writeCsr s 0x21 v) 0x21 = some (v &&& 0xFF) ∧ readCsr (writeCsr s 0x22 v) 0x22 = some v ∧
    readCsr (writeCsr s 0x42 v) 0x42 = some (v &&& 0xFFFFFFFFFF) ∧ readCsr (writeCsr s 0x43 v) 0x43 = some (leaseLimit v) ∧
    readCsr (writeCsr s 0x44 v) 0x44 = some (v &&& 1) ∧ readCsr (writeCsr s 0x60 v) 0x60 = some (shapeWritten v) := by
  simp [readCsr, readUser, writeCsr, writeUser, masked]

/-- The CSRs of S and M level with fields of their own read back (R351, R352). -/
theorem readCsr_super (s : State) (v : Word) :
    readCsr (writeCsr s 0x520 v) 0x520 = some (v &&& 0xFF) ∧ readCsr (writeCsr s 0x521 v) 0x521 = some (v &&& 0x01FFFFFFFFFFFFFF) ∧
    readCsr (writeCsr s 0x522 v) 0x522 = some v ∧ readCsr (writeCsr s 0x530 v) 0x530 = some (v &&& 0x01FFFFFFFFFE0000) ∧
    readCsr (writeCsr s 0x531 v) 0x531 = some (v &&& 0xFFFFFFFF) ∧ readCsr (writeCsr s 0x910 v) 0x910 = some (v &&& 0xFFFFFFFFFFFF) := by
  have htimer : readCsr (writeCsr s 0x522 v) 0x522 = some v := by
    by_cases hv : v = 0
    · simp [readCsr, readSuper, writeCsr, writeSlotSuper, hv]
    · have hv' : ¬ v = 0#64 := hv
      simp [readCsr, readSuper, writeCsr, writeSlotSuper, hv']
  refine ⟨?_, ?_, htimer, ?_, ?_, ?_⟩ <;>
    simp [readCsr, readSuper, readMachine, writeCsr, writeSlotSuper, writeCoreSuper, writeMachine, masked]

/-- A delegation mask has the bits of the causes that may be delegated (R338, R351). -/
theorem getLsbD_delegable (i j : Nat) (hj : j < 64) : (delegable i).getLsbD j = toU (64 * i + j) := by
  have h := testBit_sum_powers (fun j => toU (64 * i + j)) 0 64 j hj
  simp only [Nat.zero_add] at h
  rw [delegable, BitVec.getLsbD_ofNat, decide_eq_true hj, Bool.true_and, h]

theorem readCsr_sdlg (s : State) (v : Word) (i : Fin 4) :
    readCsr (writeCsr s (0x510 + i.val) v) (0x510 + i.val) = some (v &&& delegable i.val) := by
  fin_cases i <;> simp [readCsr, readSuper, writeCsr, writeSlotSuper, masked]

theorem clamp_eq {lo hi : Nat} (h : lo ≤ hi) (v : Nat) : clamp v lo hi = max lo (min hi v) := by
  show min (max v lo) hi = max lo (min hi v)
  omega

theorem leaseLimit_eq (v : Word) : leaseLimit v = BitVec.ofNat 64 (max 16 (min 4096 (v.toNat % 2 ^ 13))) := by
  have h : (v.extractLsb' 0 13).toNat = v.toNat % 2 ^ 13 := by simp
  rw [leaseLimit, h, clamp_eq (by decide)]

theorem shapeWritten_eq (v : Word) : shapeWritten v = BitVec.ofNat 64 (max 1 (min 64 (v.toNat % 2 ^ 7)) +
    2 ^ 8 * max 1 (min 64 (v.toNat / 2 ^ 8 % 2 ^ 7)) + 2 ^ 16 * max 1 (min 128 (v.toNat / 2 ^ 16 % 2 ^ 8))) := by
  have h (i n : Nat) : (v.extractLsb' i n).toNat = v.toNat / 2 ^ i % 2 ^ n := by simp [Nat.shiftRight_eq_div_pow]
  simp only [shapeWritten, clamp_eq (show 1 ≤ 64 by decide), clamp_eq (show 1 ≤ 128 by decide), h, Nat.pow_zero, Nat.div_one]
  congr 1
  omega

/-- Settles O23: each CSR gives back what the rule of its fields makes of the value. -/
theorem csrFieldRules : Obligations.CsrFieldRules := by
  intro s v back
  obtain ⟨hrmode, hfflags, hvm, hwaitlim, hleaselim, hschk, hshape⟩ := readCsr_user s v
  obtain ⟨hsftrap, hsbpc, hpctb, hsaveb, hslbi, hmdlg⟩ := readCsr_super s v
  have htu (i : Fin 5) := (readCsr_trapRegs s v i).1
  have hts (i : Fin 5) := (readCsr_trapRegs s v i).2.1
  have htm (i : Fin 5) := (readCsr_trapRegs s v i).2.2
  rw [leaseLimit_eq] at hleaselim
  rw [shapeWritten_eq] at hshape
  have hstat (old : Word) := statusWritten_eq old v
  refine ⟨hrmode, hfflags, hvm, hwaitlim, hleaselim, hschk, hshape, htu 0, htu 1, htu 2, htu 3, hts 0, hts 1, hts 2, hts 3,
    htm 0, htm 1, htm 2, htm 3, hstat s.me.tu.tstat ▸ htu 4, hstat s.me.ts.tstat ▸ hts 4, hstat s.me.tm.tstat ▸ htm 4,
    hsftrap, hsbpc, hpctb, fun i => ⟨_, readCsr_sdlg s v i, fun j => ?_⟩, hsaveb, hslbi, hmdlg⟩
  rw [BitVec.getLsbD_and, getLsbD_delegable _ _ j.isLt]

end Sys2Proof.Machine
end

section
/-! SUPPORT. The CSR writes with rules of their own (R71, R81, R351, R352, R354, R362, R368, R380, R383). -/

namespace Sys2Proof.Machine

/-- What the issuing slot goes on with stands as before: its integer registers and its next PC. -/
def SameFlow (s u : State) : Prop := u.me.x = s.me.x ∧ nextPc u = nextPc s

/-- A state that differs from another in memories, cores and partitions at most goes on as that does. -/
theorem sameFlow_of_slots {s u : State} (hc : u.curCore = s.curCore) (hk : u.curSlot = s.curSlot) (hs : u.slots = s.slots) :
    SameFlow s u := by
  have hme : u.me = s.me := by simp only [State.me, State.slot, State.cur, hc, hk, hs]
  exact ⟨by rw [hme], by simp only [nextPc, hme]⟩

theorem SameFlow.setPart {s u : State} (h : SameFlow s u) (p : Nat) (v : Part) : SameFlow s (u.setPart p v) := h

theorem sameFlow_of_setPart {s u : State} {p : Nat} {v : Part} (h : SameFlow (s.setPart p v) u) : SameFlow s u := h

theorem sameFlow_setMe {s : State} {sl : Slot} (hx : sl.x = s.me.x) (hr : sl.resume = s.me.resume) (hpc : sl.pc = s.me.pc)
    (hl : sl.line = s.me.line) : SameFlow s (s.setMe sl) := by
  refine ⟨by rw [me_setMe, hx], ?_⟩
  simp only [nextPc, me_setMe, hr, fallThrough, hpc, hl]

/-- The slot after its instruction has gone on keeps its CSRs and registers. -/
theorem finish_me (u : State) : (finish u).me.csr = u.me.csr ∧ (finish u).me.f = u.me.f ∧ (finish u).me.x = u.me.x ∧
    (finish u).me.pc = nextPc u ∧ (finish u).me.st = .ready ∧ (finish u).me.wait = none := by
  have hme : (finish u).me = _ := me_setMe ..
  rw [hme]
  exact ⟨rfl, rfl, rfl, rfl, rfl, rfl⟩

/-- `csrw` at M level of a writable number, from what its write leaves. -/
theorem csrw_done {s : State} {a : Reg} {n : Nat} {old : Word} {q : State → Prop} {u : State} (hl : s.me.level = .m)
    (hc : Clear false { reads := [xreg a] } s) (hold : readCsr s n = some old) (hro : csrReadOnly n = false) (hn : n ≠ 0x534)
    (hw : writeCsr s n (readX s a) = u) (hflow : SameFlow s u) (hq : q (finish u)) :
    ∃ t, csrWriting .w a n s = .next t ∧ t.me.pc = nextPc s ∧ t.me.st = .ready ∧ t.me.x = s.me.x ∧ q t := by
  have hp : csrPrivileged s.me.level n = false := by rw [hl]; rfl
  obtain ⟨hx, hpc⟩ := hflow
  obtain ⟨-, -, hfx, hfpc, hst, -⟩ := finish_me u
  refine ⟨_, ?_, hfpc.trans hpc, hst, hfx.trans hx, hq⟩
  simp only [csrWriting_clear .w hp hc hold, hro, if_neg hn, csrNew, hw]
  rfl

/-! ## The writes, one by one -/

/-- `qi` is free, so that the low four bits of `QEN` are written; registers whose binding changes read zero (R71, R72). -/
theorem writeQen_free {s : State} (v : Word) (h : s.myCore.qiSlot = none) :
    (writeQen s v).me.csr.qen = v &&& 0xF ∧ (writeQen s v).me.f = rebind s.me.f 12 s.me.csr.qen (v &&& 0xF) ∧
      SameFlow s (writeQen s v) := by
  simp only [writeQen, h, masked, if_true]
  refine ⟨by simp, by simp, ?_⟩
  exact sameFlow_setMe (s := s) rfl rfl rfl rfl

theorem writeSen_me (s : State) (v : Word) :
    (writeSen s v).me.csr.sen = v &&& 0xF ∧ (writeSen s v).me.f = rebind s.me.f 0 s.me.csr.sen (v &&& 0xF) ∧
      SameFlow s (writeSen s v) :=
  ⟨by simp [writeSen, masked], by simp [writeSen, masked], sameFlow_setMe rfl rfl rfl rfl⟩

theorem rebind_getElem (f : Vector Vec 16) (base : Nat) (old new : Word) (i : Fin 16) : (rebind f base old new)[i] =
    if base ≤ i.val ∧ i.val < base + 4 ∧ old.getLsbD (i.val - base) ≠ new.getLsbD (i.val - base) then 0 else f[i] := by
  show (Vector.ofFn _)[i.val] = _
  rw [Vector.getElem_ofFn]

/-- `VTAB` is held aside by its owner and left by any other slot (R81). -/
theorem writeVtab_owner {s : State} (k : Nat) (v : Word) (h : ownsVtab s = true) :
    (writeVtab s k v).myCore.vtab = s.myCore.vtab ∧ (writeVtab s k v).myCore.vtabHeld.isSome = true ∧
      SameFlow s (writeVtab s k v) := by
  simp only [writeVtab, h, Bool.not_true, Bool.false_eq_true, if_false, myCore_setMyCore]
  exact ⟨trivial, rfl, sameFlow_of_slots rfl rfl rfl⟩

theorem writeVtab_other {s : State} (k : Nat) (v : Word) (h : ownsVtab s = false) : writeVtab s k v = s := by
  simp only [writeVtab, h, Bool.not_false, if_true]

/-- A write of `MPART` empties the first-level cache and the ready queue of the core (R352, R366). -/
theorem writeMpart_core (s : State) (v : Word) :
    (writeMpart s v).myCore.mpart = v &&& 7 ∧ (writeMpart s v).myCore.rq = Vector.replicate 4 [] ∧ SameFlow s (writeMpart s v) := by
  obtain ⟨cs, m, r, hflush⟩ := flushLines_onlyCores s s.curCore fun _ => true
  simp only [writeMpart, hflush, myCore_setMyCore]
  exact ⟨rfl, trivial, sameFlow_of_slots rfl rfl rfl⟩

/-- A write of `SLQD` while the open round holds no transaction takes effect at once (R354). -/
theorem writeSlqd_open {s : State} (v : Word) (h : (s.part s.myPart).roundAt = none) :
    ((((writeSlqd s v).part s.myPart).slqd.extractLsb' 0 9).toNat = min (v.extractLsb' 0 9).toNat 256 ∧
      ((writeSlqd s v).part s.myPart).slqd.extractLsb' 12 45 = v.extractLsb' 12 45) ∧
    (writeSlqd s v).agenda = s.agenda ++ [.pick s.myPart] ∧ SameFlow s (writeSlqd s v) := by
  simp only [writeSlqd, h, part_post, part_setPart_same, masked]
  refine ⟨?_, rfl, sameFlow_of_slots rfl rfl rfl⟩
  have hcount : Nat.min (v.extractLsb' 0 9).toNat 256 ≤ 256 := Nat.min_le_right _ _
  show (_ = Nat.min _ _) ∧ _
  generalize Nat.min (v.extractLsb' 0 9).toNat 256 = n at hcount ⊢
  have hbits (i : Nat) (hi : 12 ≤ i) : n.testBit i = false := Nat.testBit_lt_two_pow (lt_of_le_of_lt hcount (by
    calc 256 < 2 ^ 12 := by decide
      _ ≤ 2 ^ i := Nat.pow_le_pow_right (by decide) hi))
  constructor
  · have hlow : ((v &&& 0x01FFFFFFFFFFF000#64) ||| BitVec.ofNat 64 n).extractLsb' 0 9 = BitVec.ofNat 9 n := by
      have hmask : ∀ i < 9, (0x01FFFFFFFFFFF000#64).getLsbD i = false := by decide
      refine BitVec.eq_of_getLsbD_eq fun i hi => ?_
      simp only [BitVec.getLsbD_extractLsb', BitVec.getLsbD_or, BitVec.getLsbD_and, BitVec.getLsbD_ofNat, Nat.zero_add, hmask i hi, hi,
        show i < 64 by omega, decide_true, Bool.true_and, Bool.and_false, Bool.false_or]
    rw [hlow, BitVec.toNat_ofNat]
    omega
  · have hmask : ∀ i < 45, (0x01FFFFFFFFFFF000#64).getLsbD (12 + i) = true := by decide
    refine BitVec.eq_of_getLsbD_eq fun i hi => ?_
    simp only [BitVec.getLsbD_extractLsb', BitVec.getLsbD_or, BitVec.getLsbD_and, BitVec.getLsbD_ofNat, hmask i hi,
      hbits (12 + i) (by omega), Bool.and_false, Bool.or_false, Bool.and_true]

/-- With every translation dropped the partition has none, and slots are as before. -/
theorem dropXlat_part (s : State) (p : Nat) :
    (dropXlat s p).part p = { s.part p with xlat := [] } ∧ SameFlow s (dropXlat s p) := by
  obtain ⟨cs, m, r, hdrop⟩ := (dropXlat_drops s p).1
  rw [hdrop]
  exact ⟨part_setPart_same .., sameFlow_of_slots rfl rfl rfl⟩

theorem reportAll_nil (s : State) (p : Nat) : reportAll s p [] = s := rfl

/-- A write of `SPASID` with no page request outstanding drops every translation and enables page requests (R378, R380). -/
theorem spasidWritten_idle {s : State} {p : Nat} (v : Word) (h : pagingPages (s.part p) = []) :
    ((spasidWritten s p v).part p).spasid = v ∧ ((spasidWritten s p v).part p).xlat = [] ∧
      ((spasidWritten s p v).part p).pagesOff = false ∧ SameFlow s (spasidWritten s p v) := by
  obtain ⟨hpart, hflow⟩ := dropXlat_part s p
  simp only [spasidWritten, h]
  generalize dropXlat s p = u at hpart hflow ⊢
  rw [reportAll_nil, part_setPart_same, hpart]
  exact ⟨rfl, rfl, rfl, hflow.setPart ..⟩

/-- A write of `SHWIN` drops every translation and reads the window table again (R383). -/
theorem readWindows_dropXlat (s : State) (p : Nat) (v : Word) :
    let u := readWindows (dropXlat (s.setPart p { s.part p with shwin := v }) p) p
    (u.part p).shwin = v ∧ (u.part p).xlat = [] ∧ SameFlow s u := by
  obtain ⟨hpart, hflow⟩ := dropXlat_part (s.setPart p { s.part p with shwin := v }) p
  rw [part_setPart_same] at hpart
  simp only [readWindows, part_setPart_same, hpart]
  exact ⟨trivial, trivial, (sameFlow_of_setPart hflow).setPart ..⟩

/-- Two fields under masks that share no bit are read back apart. -/
theorem masks_apart {m c : Word} (h : m &&& c = 0#64) (v x : Word) :
    ((v &&& m) ||| (x &&& c)) &&& ~~~c = v &&& m ∧ ((v &&& m) ||| (x &&& c)) &&& c = x &&& c := by
  have hbit (i : Nat) : (m.getLsbD i && c.getLsbD i) = false := by rw [← BitVec.getLsbD_and, h, BitVec.getLsbD_zero]
  have hbool : ∀ a b m c : Bool, (m && c) = false →
      ((a && m || b && c) && !c) = (a && m) ∧ ((a && m || b && c) && c) = (b && c) := by decide
  refine ⟨BitVec.eq_of_getLsbD_eq fun i hi => ?_, BitVec.eq_of_getLsbD_eq fun i _ => ?_⟩
  · simp only [BitVec.getLsbD_and, BitVec.getLsbD_or, BitVec.getLsbD_not, hi, decide_true, Bool.true_and]
    exact (hbool _ _ _ _ (hbit i)).1
  · simp only [BitVec.getLsbD_and, BitVec.getLsbD_or]
    exact (hbool _ _ _ _ (hbit i)).2

/-- SHIFT of `SPODW` takes the values 30 to 40 alone, and the other fields what is written (R380). -/
theorem podWindowWritten_fields (old v : Word) :
    podWindowWritten old v &&& ~~~0x3F#64 = v &&& 0x81FFFFFFC0000000#64 ∧
    (30 ≤ v.toNat % 64 → v.toNat % 64 ≤ 40 → (podWindowWritten old v).toNat % 64 = v.toNat % 64) := by
  have hshift : (v.extractLsb' 0 6).toNat = v.toNat % 64 := by simp
  have hlow (x : Word) : (x &&& 0x3F).toNat = x.toNat % 64 := by
    rw [BitVec.toNat_and]
    exact Nat.and_two_pow_sub_one_eq_mod x.toNat 6
  have happart := masks_apart (m := 0x81FFFFFFC0000000#64) (c := 0x3F#64) (by decide) v
  simp only [podWindowWritten, masked, hshift]
  constructor
  · split <;> exact (happart _).1
  · intro h30 h40
    rw [if_pos ⟨h30, h40⟩, ← hlow, ← hlow]
    exact congrArg BitVec.toNat (happart v).2

/-- The eight words of `VTAB` are assigned and written by its owner (R79, R81). -/
theorem csr_vtab (s : State) {k : Nat} (hk : k < 8) (v : Word) :
    readCsr s (0x50 + k) = some (vtabWord s.myCore k) ∧ csrReadOnly (0x50 + k) = false ∧
      writeCsr s (0x50 + k) v = writeVtab s k v := by
  refine ⟨?_, ?_, ?_⟩
  · simp (disch := omega) only [readCsr, readUser, if_neg, if_pos, dif_neg, Nat.add_sub_cancel_left]
  · simp only [csrReadOnly, Bool.or_eq_false_iff, Bool.and_eq_false_iff, decide_eq_false_iff_not, beq_eq_false_iff_ne]
    omega
  · simp (disch := omega) only [writeCsr, writeUser, if_neg, if_pos, Nat.add_sub_cancel_left]

theorem writeCsr_shwin (s : State) (v : Word) : writeCsr s 0x545 v =
    readWindows (dropXlat (s.setPart s.myPart { s.part s.myPart with shwin := masked v 0x01FFFFFFFFFFFF00#64 }) s.myPart) s.myPart := by
  simp only [writeCsr, writePartSuper, Nat.reduceLT, Nat.reduceEqDiff, if_false, if_true]

theorem writeCsr_spodw (s : State) (v : Word) : writeCsr s 0x547 v =
    dropXlat (s.setPart s.myPart { s.part s.myPart with spodw := podWindowWritten (s.part s.myPart).spodw v }) s.myPart := by
  simp only [writeCsr, writePartSuper, Nat.reduceLT, Nat.reduceEqDiff, if_false, if_true]

/-- Settles O22: each write by what it leaves, with the slot gone on. -/
theorem specialWritesComplete : Obligations.SpecialWritesComplete := by
  intro s a k hl hc v p done
  have hcsr (u : State) : (finish u).me.csr = u.me.csr := (finish_me u).1
  have hf (u : State) : (finish u).me.f = u.me.f := (finish_me u).2.1
  obtain ⟨hk, hkro, hkw⟩ := csr_vtab s k.isLt v
  refine ⟨fun hqi => ?qen, ?sen, fun htx => ?vtab, fun hno => ?other, fun hopen => ?slqd, fun hpages => ?spasid, ?shwin, ?spodw, fun hdet => ?smsg,
    fun hover => ?sdovf, ?sevst, ?mpart⟩
  case qen =>
    obtain ⟨hq, hfr, hflow⟩ := writeQen_free v hqi
    refine csrw_done (u := writeQen s v) hl hc rfl rfl (by decide) rfl hflow ⟨(congrArg _ (hcsr _)).trans hq, fun i => ?_⟩
    have hin : 12 ≤ i.val → i.val < 12 + 4 := by have := i.isLt; omega
    rw [hf, hfr, rebind_getElem]
    exact if_congr ⟨fun h => ⟨h.1, h.2.2⟩, fun h => ⟨h.1, hin h.1, h.2⟩⟩ rfl rfl
  case sen =>
    obtain ⟨hq, hfr, hflow⟩ := writeSen_me s v
    refine csrw_done (u := writeSen s v) hl hc rfl rfl (by decide) rfl hflow ⟨(congrArg _ (hcsr _)).trans hq, fun i => ?_⟩
    rw [hf, hfr, rebind_getElem]
    exact if_congr ⟨fun h => ⟨by omega, h.2.2⟩, fun h => ⟨by omega, by omega, h.2⟩⟩ rfl rfl
  case vtab =>
    obtain ⟨hv, hheld, hflow⟩ := writeVtab_owner (s := s) k.toNat v (by simp [ownsVtab, htx, hl])
    exact csrw_done hl hc hk hkro (by omega) hkw hflow ⟨hv, hheld⟩
  case other =>
    exact csrw_done hl hc hk hkro (by omega) (hkw.trans (writeVtab_other k.toNat v hno)) (sameFlow_of_slots rfl rfl rfl) rfl
  case slqd =>
    obtain ⟨⟨hcount, hbase⟩, hag, hflow⟩ := writeSlqd_open v hopen
    exact csrw_done hl hc rfl rfl (by decide) rfl hflow ⟨hcount, hbase, hag⟩
  case spasid =>
    obtain ⟨hpasid, hxlat, hoff, hflow⟩ := spasidWritten_idle (masked v 0x80000000000FFFFF#64) hpages
    exact csrw_done hl hc rfl rfl (by decide) rfl hflow ⟨hpasid, hxlat, hoff⟩
  case shwin =>
    have hwr := writeCsr_shwin s v
    obtain ⟨hw, hxlat, hflow⟩ := readWindows_dropXlat s s.myPart (masked v 0x01FFFFFFFFFFFF00#64)
    generalize readWindows (dropXlat _ _) _ = u at hwr hw hxlat hflow
    exact csrw_done hl hc rfl rfl (by decide) hwr hflow ⟨hw, hxlat⟩
  case spodw =>
    have hwr := writeCsr_spodw s v
    obtain ⟨hpart, hflow⟩ := dropXlat_part
      (s.setPart s.myPart { s.part s.myPart with spodw := podWindowWritten (s.part s.myPart).spodw v }) s.myPart
    rw [part_setPart_same] at hpart
    generalize dropXlat _ _ = u at hwr hpart hflow
    obtain ⟨hbits, hshift⟩ := podWindowWritten_fields (s.part s.myPart).spodw v
    refine csrw_done hl hc rfl rfl (by decide) hwr (sameFlow_of_setPart hflow) ?_
    show (u.part _).xlat = [] ∧ (u.part _).spodw &&& _ = _ ∧ (_ → _ → (u.part _).spodw.toNat % 64 = _)
    rw [hpart]
    exact ⟨rfl, hbits, hshift⟩
  case smsg =>
    have hw : writeSmsg s v = s.setMyCore { s.myCore with smsg := v &&& 1, smsgHeld := none } := by
      simp only [writeSmsg, hdet, Bool.and_false, masked]
      rfl
    exact csrw_done hl hc rfl rfl (by decide) hw (sameFlow_of_slots rfl rfl rfl) (congrArg Core.smsg (myCore_setMyCore ..))
  case sdovf =>
    have hw : writeCsr s 0x535 v = s.setMyCore { s.myCore with sdovf := v &&& 0x01FFFFFFFFFFF0FF#64 } := by
      simp only [writeCsr, writeCoreSuper, Nat.reduceLT, Nat.reduceEqDiff, if_false, if_true, hover, masked]
    exact csrw_done hl hc rfl rfl (by decide) hw (sameFlow_of_slots rfl rfl rfl) (congrArg Core.sdovf (myCore_setMyCore ..))
  case sevst =>
    have hp : csrPrivileged s.me.level 0x534 = false := by rw [hl]; rfl
    obtain ⟨-, -, hx, hpc, hst, -⟩ := finish_me (writeSevst s v)
    have hcore : (finish (writeSevst s v)).myCore = _ := myCore_setMyCore s _
    exact ⟨_, csrWriting_clear .w hp hc rfl, hpc, hst, hx, congrArg Core.eventLost hcore, (congrArg Core.events hcore :)⟩
  case mpart =>
    obtain ⟨hmp, hrq, hflow⟩ := writeMpart_core s v
    exact csrw_done hl hc rfl rfl (by decide) rfl hflow ⟨hmp, hrq⟩

end Sys2Proof.Machine
end

section
/-! SUPPORT. Vector arithmetic on lanes (R247 to R254): lanes as numbers of their type, an instruction of one source, and the
exact cases of the floating operations. -/

namespace Sys2Proof.Machine

/-! ## Lanes -/

theorem laneAt_lt (w i v : Nat) : laneAt w i v < 2 ^ w := Nat.mod_lt _ (Nat.two_pow_pos w)

theorem secondLane_lt (s : State) (c : VCtl) (sx : Bool) (b : Reg) (k : Nat) : secondLane s c sx b k < 2 ^ c.lt.bits := by
  unfold secondLane
  split
  · exact Nat.mod_lt _ (Nat.two_pow_pos _)
  · exact laneAt_lt ..

theorem lanesOf_eq (c : VCtl) : lanesOf c = (if c.x2 then 2 else 1) * (512 / c.lt.bits) := by
  unfold lanesOf LaneT.lanes
  split <;> omega

/-- The signed value of a pattern of `w` bits. -/
theorem toInt_ofNat_lane {w v : Nat} (hw : 0 < w) (h : v < 2 ^ w) :
    (BitVec.ofNat w v).toInt = if 2 ^ (w - 1) ≤ v then (v : Int) - (2 ^ w : Nat) else v := by
  obtain ⟨m, rfl⟩ : ∃ m, w = m + 1 := ⟨w - 1, by omega⟩
  rw [BitVec.toInt_eq_toNat_cond, BitVec.toNat_ofNat, Nat.mod_eq_of_lt h, Nat.add_sub_cancel, Nat.pow_succ]
  split <;> split <;> omega

theorem bits_pos (lt : LaneT) : 0 < lt.bits := by cases lt <;> decide

/-- The two readings of a lane's number agree on patterns of its width (R247). -/
theorem laneInt_eq {lt : LaneT} {v : Nat} (h : v < 2 ^ lt.bits) : laneInt lt v = laneNum lt v := by
  simp only [laneInt, laneNum, toInt_ofNat_lane (bits_pos lt) h, BitVec.toNat_ofNat, Nat.mod_eq_of_lt h]
  cases lt.isSigned <;> simp

theorem signedLane_eq {w v : Nat} (hw : 0 < w) (h : v < 2 ^ w) : signedLane w v = (BitVec.ofNat w v).toInt :=
  (toInt_ofNat_lane hw h).symm

/-- An arithmetic shift right is the quotient by a power of two, rounded down (R252). -/
theorem toNat_sshiftRight_lane {w v : Nat} (n : Nat) (hw : 0 < w) (h : v < 2 ^ w) :
    ((BitVec.ofNat w v).sshiftRight n).toNat = intBits w (signedLane w v / (2 ^ n : Nat)) := by
  have hint := BitVec.toInt_sshiftRight (x := BitVec.ofNat w v) (n := n)
  rw [signedLane_eq hw h, intBits, ← Int.shiftRight_eq_div_pow, ← hint]
  generalize (BitVec.ofNat w v).sshiftRight n = x
  have hx : (x.toNat : Int) % (2 ^ w : Nat) = x.toNat := by exact_mod_cast Nat.mod_eq_of_lt x.isLt
  rw [BitVec.toInt_eq_toNat_bmod, Int.bmod_emod, hx, Int.toNat_natCast]

/-! ## Instructions on lanes -/

/-- Lanes that agree bit for bit, with the same flags, are the same run. -/
theorem LanesRun.congr {o : Out} {s : State} {c : VCtl} {lat n m : Nat} {d : Reg} {f g : Nat → Nat} {fl gl : Nat → Word}
    (h : LanesRun o s c lat d n f fl) (hn : n = m) (hf : ∀ k, f k % 2 ^ c.lt.bits = g k % 2 ^ c.lt.bits) (hfl : ∀ k, fl k = gl k) :
    LanesRun o s c lat d m g gl := by
  subst hn
  obtain rfl : fl = gl := funext hfl
  obtain ⟨v, hrun, hlanes, hlt⟩ := h
  refine ⟨v, hrun, fun k hk => ?_, hlt⟩
  rw [hlanes k hk, hf k]

/-- What a lane-wise instruction of one source does. -/
theorem lanewise1_runs {s : State} {lat : Nat} {d a : Reg} {c : VCtl} (h : VecClear s c.x2 c.merge d [a] []) (f : Nat → Nat × Word) :
    let r (k : Nat) : Nat × Word := f (laneAt c.lt.bits k (fieldVal s c.x2 a))
    LanesRun (lanewise1 lat d a c f s) s c lat d (lanesOf c) (fun k => (r k).1) (fun k => (r k).2) := by
  intro r
  have hrun := vectorOp_runs (s := s) (lat := lat) (x2 := c.x2) (merge := c.merge) (readD := false) (d := d) (srcs := [a]) (xs := [])
    (by simpa using h) (fun vals _ old vm => mergeLanes c.merge vm c.lt.bits (lanesOf c) old fun i => f (laneAt c.lt.bits i (vals.getD 0 0)))
  let live (k : Nat) : Bool := !c.merge || s.me.csr.vm.getLsbD k
  let old := if c.merge then fieldVal s c.x2 d else 0
  have hflags : (mergeLanes c.merge s.me.csr.vm c.lt.bits (lanesOf c) old r).2 =
      laneFlags (fun k => if live k then (r k).2 else 0) (lanesOf c) := by
    simp only [mergeLanes, vmBit, foldl_flags, live]
    rfl
  refine ⟨(mergeLanes c.merge s.me.csr.vm c.lt.bits (lanesOf c) old r).1, ?_, fun k hk => ?_, packLanes_lt ..⟩
  · rw [← hflags]
    exact hrun
  · have hlane : laneAt c.lt.bits k (mergeLanes c.merge s.me.csr.vm c.lt.bits (lanesOf c) old r).1 =
        (if live k then (r k).1 else laneAt c.lt.bits k old) % 2 ^ c.lt.bits := laneAt_packLanes _ _ _ _ hk
    rw [hlane]
    show _ = if live k then _ else _
    by_cases hlive : live k = true
    · rw [if_pos hlive, if_pos hlive]
    · have hmerge : c.merge = true := by
        by_contra hm
        exact hlive (by simp [live, hm])
      rw [if_neg hlive, if_neg hlive, Nat.mod_eq_of_lt (laneAt_lt ..)]
      simp only [old, hmerge, if_true]

/-- Every operation of integer lanes is the operation on their numbers, wrapped to the lane (R252). -/
theorem vint_runs {s : State} {d a b : Reg} {sx : Bool} {c : VCtl} (h : LaneClear s c false sx d a b) {o : Out} {f g : Int → Int → Int}
    (ho : o = vint d a b sx c f s) (hfg : ∀ x y, f x y = g x y) :
    LanesRun o s c 2 d ((if c.x2 then 2 else 1) * (512 / c.lt.bits)) (fun k =>
      (g (laneNum c.lt (laneAt c.lt.bits k (fieldVal s c.x2 a))) (laneNum c.lt (secondLane s c sx b k)) % 2 ^ c.lt.bits).toNat) (fun _ => 0) := by
  subst ho
  refine (lanewise2_runs (lat := 2) h fun x y _ => intLane c.lt f x y).congr (lanesOf_eq c) (fun k => ?_) (fun _ => rfl)
  have ha := laneInt_eq (laneAt_lt c.lt.bits k (fieldVal s c.x2 a))
  have hb := laneInt_eq (secondLane_lt s c sx b k)
  show intBits c.lt.bits (f (laneInt c.lt _) (laneInt c.lt (secondLane s c sx b k))) % _ = _
  rw [ha, hb, hfg, intBits]
  push_cast
  rfl

/-- Every operation on the bits of lanes is the operation on them, wrapped to the lane (R252). -/
theorem vbits_runs {s : State} {d a b : Reg} {sx : Bool} {c : VCtl} (h : LaneClear s c false sx d a b) {o : Out} {f g : Nat → Nat → Nat}
    (ho : o = vbits d a b sx c f s)
    (hfg : ∀ x y, x < 2 ^ c.lt.bits → f x y % 2 ^ c.lt.bits = g x y % 2 ^ c.lt.bits) :
    LanesRun o s c 2 d ((if c.x2 then 2 else 1) * (512 / c.lt.bits)) (fun k =>
      g (laneAt c.lt.bits k (fieldVal s c.x2 a)) (secondLane s c sx b k)) (fun _ => 0) := by
  subst ho
  refine (lanewise2_runs (lat := 2) h fun x y _ => (f x y % 2 ^ c.lt.bits, 0)).congr (lanesOf_eq c) (fun k => ?_) (fun _ => rfl)
  show f _ (secondLane s c sx b k) % _ % _ = _
  rw [Nat.mod_mod, hfg _ _ (laneAt_lt ..)]

theorem clampLane_eq (lt : LaneT) (v : Int) : clampLane lt v =
    max (if lt.isSigned then -2 ^ (lt.bits - 1) else 0) (min (if lt.isSigned then 2 ^ (lt.bits - 1) - 1 else 2 ^ lt.bits - 1) v) := by
  unfold clampLane laneRange
  cases lt.isSigned <;> simp

/-- Settles O39: each instruction is one operation of numbers or of bits, lane by lane. -/
theorem vectorIntegers : Obligations.VectorIntegers := by
  intro s d a b sx c _ w n A B sh lo hi runs ints
  refine ⟨fun h => ?_, fun h => ?_⟩
  · have hint {i : Instr} {f g : Int → Int → Int} (hi : exec i s = vint d a b sx c f s) (hfg : ∀ x y, f x y = g x y) : ints i g :=
      vint_runs h hi hfg
    have hbits {i : Instr} {f g : Nat → Nat → Nat} (hi : exec i s = vbits d a b sx c f s)
        (hfg : ∀ x y, x < 2 ^ w → f x y % 2 ^ w = g x y % 2 ^ w) : runs i fun k => g (A k) (B k) := vbits_runs h hi hfg
    have hmin (x y : Int) : min x y = if x < y then x else y := by split <;> omega
    have hmax (x y : Int) : max x y = if x < y then y else x := by split <;> omega
    have hpow : ((2 ^ w : Nat) : Int) = 2 ^ w := by push_cast; rfl
    exact ⟨hint (exec_vaddInt ..) fun _ _ => rfl, hint (exec_vsubInt ..) fun _ _ => rfl, hint (exec_vmulInt ..) fun _ _ => rfl,
      hint (exec_vmulh ..) fun x y => congrArg (x * y / ·) hpow, hint (exec_vminInt ..) hmin, hint (exec_vmaxInt ..) hmax,
      hint (exec_vaddSat ..) fun _ _ => clampLane_eq .., hint (exec_vsubSat ..) fun _ _ => clampLane_eq ..,
      hbits (exec_vand ..) fun _ _ _ => rfl, hbits (exec_vor ..) fun _ _ _ => rfl, hbits (exec_vxor ..) fun _ _ _ => rfl,
      hbits (exec_vsll ..) fun _ _ _ => rfl, hbits (exec_vsrl ..) fun _ _ _ => rfl,
      hbits (exec_vsra ..) fun x y hx => congrArg (· % 2 ^ w) (toNat_sshiftRight_lane (y % w) (bits_pos c.lt) hx).symm⟩
  · refine (lanewise1_runs (lat := 2) h fun x => (intBits c.lt.bits ((laneInt c.lt x).natAbs : Int), 0)).congr (lanesOf_eq c)
      (fun k => ?_) (fun _ => rfl)
    show intBits c.lt.bits ((laneInt c.lt (A k)).natAbs : Int) % _ = _
    rw [laneInt_eq (laneAt_lt ..), Int.natCast_natAbs, intBits]
    push_cast
    rfl

/-! ## Floating lanes (R147, R148, R253, R254) -/

theorem laneFmt_eq (lt : LaneT) : LaneT.fmt lt = laneFmt lt := by cases lt <;> rfl

/-- A value that is no NaN is not signalling (R147). -/
theorem signalling_number {fm : Fmt} {x : Nat} (h : decodeFmt fm x ≠ .nan) : signalling fm x = false := by
  simp [signalling, h]

theorem nvOf_pair (fm : Fmt) (x y : Nat) : nvOf fm [x, y] = if signalling fm x || signalling fm y then flagNV else 0 := by
  simp [nvOf]

theorem nvOf_numbers {fm : Fmt} {x y : Nat} (hx : decodeFmt fm x ≠ .nan) (hy : decodeFmt fm y ≠ .nan) : nvOf fm [x, y] = 0 := by
  rw [nvOf_pair, signalling_number hx, signalling_number hy]
  rfl

theorem finishFp_nan (fm : Fmt) (mode : Rnd) (nv : Word) (bad : Bool) :
    finishFp fm mode nv (.nan, bad) = (fm.nan, nv ||| if bad then flagNV else 0) := by
  simp [finishFp, roundFixed]

/-- A valid operation on operands that raise nothing is the exact result rounded once (R148). -/
theorem finishFp_valid (fm : Fmt) (mode : Rnd) (v : XVal) : finishFp fm mode 0 (v, false) = roundFixed fm mode v := by
  simp [finishFp]

theorem xadd_nan (mode : Rnd) {u v : XVal} (h : u = .nan ∨ v = .nan) : xadd mode u v = (.nan, false) := by
  rcases h with rfl | rfl
  · rfl
  · cases u <;> rfl

theorem xmul_nan {u v : XVal} (h : u = .nan ∨ v = .nan) : xmul u v = (.nan, false) := by
  rcases h with rfl | rfl
  · rfl
  · cases u <;> rfl

/-- A NaN operand gives the canonical NaN, and a signalling one raises NV (R147). -/
theorem fp_nan {fm : Fmt} (mode : Rnd) {x y : Nat} (h : decodeFmt fm x = .nan ∨ decodeFmt fm y = .nan) :
    let r := (fm.nan, if signalling fm x || signalling fm y then flagNV else (0 : Word))
    fpAdd fm mode x y = r ∧ fpSub fm mode x y = r ∧ fpMul fm mode x y = r := by
  have hneg : decodeFmt fm x = .nan ∨ (decodeFmt fm y).neg = .nan := h.imp_right fun hy => by rw [hy]; rfl
  simp only [fpAdd, fpSub, fpMul, xadd_nan mode h, xadd_nan mode hneg, xmul_nan h, finishFp_nan, nvOf_pair]
  simp

/-- Infinities of unlike signs have no sum (R147). -/
theorem fpAdd_inf {fm : Fmt} (mode : Rnd) {x y : Nat} {p : Bool} (hx : decodeFmt fm x = .inf p) (hy : decodeFmt fm y = .inf !p) :
    fpAdd fm mode x y = (fm.nan, flagNV) := by
  have hnv : nvOf fm [x, y] = 0 := nvOf_numbers (by simp [hx]) (by simp [hy])
  have hsum : xadd mode (.inf p) (.inf !p) = (.nan, true) := by cases p <;> rfl
  rw [fpAdd, hx, hy, hnv, hsum, finishFp_nan]
  rfl

/-- An infinity and a zero have no product (R147). -/
theorem fpMul_inf_zero {fm : Fmt} (mode : Rnd) {x y : Nat} {p q : Bool} {e : Nat} (hx : decodeFmt fm x = .inf p)
    (hy : decodeFmt fm y = .fin q 0 e) : fpMul fm mode x y = (fm.nan, flagNV) := by
  have hnv : nvOf fm [x, y] = 0 := nvOf_numbers (by simp [hx]) (by simp [hy])
  rw [fpMul, hx, hy, hnv, show xmul (.inf p) (.fin q 0 e) = (.nan, true) from rfl, finishFp_nan]
  rfl

/-- The sum of finite values is the exact one rounded; an exact zero of unlike addends takes its sign from the mode (R148,
R254). -/
theorem fpAdd_finite {fm : Fmt} (mode : Rnd) {x y : Nat} {p q : Bool} {m e l f : Nat} (hx : decodeFmt fm x = .fin p m e)
    (hy : decodeFmt fm y = .fin q l f) : let sum : Int := signedNum p m * f + signedNum q l * e
    (sum ≠ 0 → fpAdd fm mode x y = roundFixed fm mode (.fin (decide (sum < 0)) sum.natAbs (e * f))) ∧
    (sum = 0 → m ≠ 0 → fpAdd fm mode x y = (fm.withSign (mode == .rdn) 0, 0)) := by
  intro sum
  have hnv : nvOf fm [x, y] = 0 := nvOf_numbers (by simp [hx]) (by simp [hy])
  have hsum : xadd mode (.fin p m e) (.fin q l f) = if sum = 0 then
      (.fin (if m = 0 ∧ l = 0 ∧ p = q then p else mode == .rdn) 0 1, false)
    else (.fin (decide (sum < 0)) sum.natAbs (e * f), false) := rfl
  rw [fpAdd, hx, hy, hnv, hsum]
  refine ⟨fun h0 => ?_, fun h0 hm => ?_⟩
  · rw [if_neg h0, finishFp_valid]
  · rw [if_pos h0, finishFp_valid, if_neg (fun h => hm h.1)]
    rfl

theorem fpMul_finite {fm : Fmt} (mode : Rnd) {x y : Nat} {p q : Bool} {m e l f : Nat} (hx : decodeFmt fm x = .fin p m e)
    (hy : decodeFmt fm y = .fin q l f) : fpMul fm mode x y = roundFixed fm mode (.fin (p != q) (m * l) (e * f)) := by
  have hnv : nvOf fm [x, y] = 0 := nvOf_numbers (by simp [hx]) (by simp [hy])
  rw [fpMul, hx, hy, hnv, show xmul (.fin p m e) (.fin q l f) = (.fin (p != q) (m * l) (e * f), false) from rfl, finishFp_valid]

/-- Settles O40: the lanes by the shared scheme, the single operations by the operands' values. -/
theorem vectorFloats : Obligations.VectorFloats := by
  refine ⟨fun s d a b sx c _ => ?_, fun fm mode x y _ => ?_⟩
  · intro w n fm mode A B D runs
    have hfm : LaneT.fmt c.lt = fm := laneFmt_eq c.lt
    refine ⟨fun h => ?_, fun h => ?_, fun h => ?_⟩
    · have hfp {i : Instr} {f : Fmt → Rnd → Nat → Nat → Nat × Word} (hi : exec i s = vfp d a b sx c f s) :
          runs i fun k => f fm mode (A k) (B k) := by
        have hrun := lanewise2_runs (lat := 6) h fun x y _ => f (LaneT.fmt c.lt) (modeOf s c) x y
        rw [hfm] at hrun
        simp only [runs, hi, vfp, hfm]
        exact hrun.congr (lanesOf_eq c) (fun _ => rfl) (fun _ => rfl)
      exact ⟨hfp (exec_vaddFp ..), hfp (exec_vsubFp ..), hfp (exec_vmulFp ..), hfp (exec_vminFp ..), hfp (exec_vmaxFp ..)⟩
    · have hfused {i : Instr} {p q : Bool} (hi : exec i s = vfused p q d a b sx c s) :
          runs i fun k => fpFma p q fm mode (A k) (B k) (D k) := by
        have hrun := lanewise2_runs (lat := 6) h fun x y z => fpFma p q (LaneT.fmt c.lt) (modeOf s c) x y z
        rw [hfm] at hrun
        simp only [runs, hi, vfused, hfm]
        exact hrun.congr (lanesOf_eq c) (fun _ => rfl) (fun _ => rfl)
      exact ⟨hfused (exec_vfma ..), hfused (exec_vfms ..), hfused (exec_vfnma ..), hfused (exec_vfnms ..)⟩
    · have hsign {i : Instr} {p : Bool} (hi : exec i s = lanewise1 6 d a c (fpSign (LaneT.fmt c.lt) p) s) :
          runs i fun k => fpSign fm p (A k) := by
        rw [hfm] at hi
        simp only [runs, hi]
        exact (lanewise1_runs (lat := 6) h (fpSign fm p)).congr (lanesOf_eq c) (fun _ => rfl) (fun _ => rfl)
      exact ⟨hsign (exec_vabsFp ..), hsign (exec_vneg ..)⟩
  · exact ⟨fp_nan mode, fun p => fpAdd_inf mode, fun p q e => fpMul_inf_zero mode, fun p m e q l f hx hy _ _ =>
      ⟨(fpAdd_finite mode hx hy).1, (fpAdd_finite mode hx hy).2, fpMul_finite mode hx hy⟩⟩

end Sys2Proof.Machine
end

section
/-! SUPPORT. Instructions of the matrix port at issue (R270 to R280): what entering the port changes, and the checks that come
before it. -/

namespace Sys2Proof.Machine

/-! ## Entering the port (R275) -/

/-- `u` is `s` made ready for an instruction to enter the port: of the issuing slot its relaxed accesses and pending results,
of its core the operand slots may differ, and besides only what names events and accesses. -/
def Prepared (s u : State) : Prop :=
  (u.curCore = s.curCore ∧ u.curSlot = s.curSlot ∧ u.devMem = s.devMem ∧ u.hostMem = s.hostMem) ∧
  (∃ r v, u.me = { s.me with relaxed := r, vpend := v }) ∧ (∃ o, u.myCore = { s.myCore with os := o }) ∧
  (∀ k, k ≠ s.cur → u.slot k = s.slot k) ∧ ∀ c, c ≠ s.curCore → u.core c = s.core c

theorem prepared_refl (s : State) : Prepared s s :=
  ⟨⟨rfl, rfl, rfl, rfl⟩, ⟨_, _, rfl⟩, ⟨_, rfl⟩, fun _ _ => rfl, fun _ _ => rfl⟩

theorem Prepared.cur {s u : State} (h : Prepared s u) : u.cur = s.cur := by
  obtain ⟨⟨hc, hk, -, -⟩, -⟩ := h
  simp only [State.cur, hc, hk]

/-- A slot of its own with other relaxed accesses and pending results keeps a state prepared. -/
theorem Prepared.setMe {s u : State} (h : Prepared s u) (r : List Relaxed) (v : List VPend) (n : Nat) :
    Prepared s (({ u with nextId := n } : State).setMe { u.me with relaxed := r, vpend := v }) := by
  have hcur := h.cur
  obtain ⟨hframe, ⟨r', v', hme⟩, hcore, hslot, hothers⟩ := h
  refine ⟨hframe, ⟨r, v, by rw [me_setMe, hme]⟩, hcore, fun k hk => ?_, hothers⟩
  exact (slot_setMe_ne _ _ (show k ≠ State.cur { u with nextId := n } from hcur ▸ hk)).trans (hslot k hk)

theorem Prepared.setMyCore {s u : State} (h : Prepared s u) (o : SMap OpSlot) : Prepared s (u.setMyCore { u.myCore with os := o }) := by
  obtain ⟨hframe, hme, ⟨o', hcore⟩, hslot, hothers⟩ := h
  refine ⟨hframe, hme, ⟨o, by rw [myCore_setMyCore, hcore]⟩, hslot, fun c hc => ?_⟩
  exact (core_setCore_ne u _ (hframe.1 ▸ hc)).trans (hothers c hc)

theorem Prepared.addRelaxed {s u : State} (h : Prepared s u) (space : Space) (ea : Word) (loc : Option Loc) (op : AccessOp)
    (kind : LoadKind) (red counts : Bool) : Prepared s (addRelaxed u space ea loc op kind red counts).2 :=
  h.setMe (u.me.relaxed ++ [(⟨u.nextId, u.me.tx, space, ea, loc, op, kind, red, counts, u.tick⟩ : Relaxed)]) u.me.vpend (u.nextId + 1)

theorem Prepared.setOsState {s u : State} (h : Prepared s u) (os : Nat) (st : OsSt) : Prepared s (setOsState u os st) :=
  h.setMyCore _

theorem osOf_setOsState (s : State) (os o : Nat) (st : OsSt) :
    osOf (setOsState s os st).myCore o = if o = os then { osOf s.myCore os with st := st } else osOf s.myCore o := by
  generalize hv : ({ osOf s.myCore os with st := st } : OpSlot) = v
  have hcore : (setOsState s os st).myCore =
      { s.myCore with os := if v = OpSlot.free then remove s.myCore.os os else put s.myCore.os os v } := by
    subst hv
    exact myCore_setMyCore ..
  rw [hcore]
  show look (if v = OpSlot.free then remove s.myCore.os os else put s.myCore.os os v) OpSlot.free o = _
  split
  · next hfree =>
    split
    · next ho => rw [ho, look_remove_same, hfree]
    · next ho => exact look_remove_ne _ _ ho
  · split
    · next ho => rw [ho, look_put_same]
    · next ho => exact look_put_ne _ _ _ ho

/-- The state after an instruction has entered the port from `u` and the slot has gone on. -/
def issuedPort (u : State) (op : PortOp) : State := finish (unbound (enqueuePort u op 0))

theorem enqueuePort_eq (u : State) (op : PortOp) (flags : Word) : ∃ ag, enqueuePort u op flags =
    ({ u with agenda := ag } : State).setMyCore { u.myCore with
      port := u.myCore.port ++ [⟨u.cur, u.me.cont, u.me.tx, u.me.csr.fmt, op, false, 0, [], flags⟩] } ∧
    (u.myCore.port = [] → .matrixStart u.curCore ∈ ag) := by
  by_cases hp : u.myCore.port = []
  · refine ⟨u.agenda ++ [.matrixStart u.curCore], ?_, fun _ => by simp⟩
    simp only [enqueuePort, hp, List.isEmpty_nil, if_true]
    rfl
  · refine ⟨u.agenda, ?_, fun h => absurd h hp⟩
    have hne : u.myCore.port.isEmpty = false := by simpa using hp
    simp only [enqueuePort, hne, Bool.false_eq_true, if_false]

/-- The slot of an instruction that has gone on: what it keeps between instructions is as before (R33, R174). -/
theorem finish_slot (u : State) : ∃ lease at_ cover, (finish u).me = { u.me with
    st := .ready, wait := none, pc := nextPc u, xfer := 0, brkSkip := false, resume := none, xfault := none, had := [],
    admitted := [], replay := none, lease := lease, readyAt := at_, cover := cover } :=
  ⟨_, _, _, me_setMe ..⟩

theorem nextPc_congr {s u : State} (hr : u.me.resume = s.me.resume) (hpc : u.me.pc = s.me.pc) (hl : u.me.line = s.me.line) :
    nextPc u = nextPc s := by
  simp only [nextPc, hr, fallThrough, hpc, hl]

/-- The slot going on changes it alone. -/
theorem finish_unbound_frame (w : State) : let t := finish (unbound w)
    t.cores = w.cores ∧ t.agenda = w.agenda ∧ t.devMem = w.devMem ∧ t.hostMem = w.hostMem ∧ ∀ k, k ≠ w.cur → t.slot k = w.slot k :=
  ⟨rfl, rfl, rfl, rfl, fun k hk => (slot_setMe_ne (unbound w) _ hk).trans (slot_setMe_ne w _ hk)⟩

/-- An instruction enters the port behind the others, and the slot goes on (R275). -/
theorem issuedPort_enters {s u : State} (h : Prepared s u) (op : PortOp) :
    EntersPort s (issuedPort u op) op ∧ (issuedPort u op).me.vpend = u.me.vpend ∧ (issuedPort u op).myCore.os = u.myCore.os := by
  obtain ⟨ag, henq, hag⟩ := enqueuePort_eq u op 0
  have hcur := h.cur
  obtain ⟨⟨hc, hk, hdev, hhost⟩, ⟨r, v, hme⟩, ⟨o, hcore⟩, hslot, hothers⟩ := h
  rw [issuedPort, henq]
  generalize hv : ({ u.myCore with
    port := u.myCore.port ++ [⟨u.cur, u.me.cont, u.me.tx, u.me.csr.fmt, op, false, 0, [], 0⟩] } : Core) = v'
  generalize hw : ({ u with agenda := ag } : State).setMyCore v' = w
  have hwme : w.me = u.me := by subst hw; rfl
  have hwcore : w.myCore = v' := by subst hw; exact myCore_setMyCore ..
  have hwother (c : Nat) (hne : c ≠ s.curCore) : w.core c = s.core c := by
    subst hw
    exact (core_setCore_ne _ _ (hc ▸ hne)).trans (hothers c hne)
  obtain ⟨hcores, hagenda, htdev, hthost, hslots⟩ := finish_unbound_frame w
  obtain ⟨lease, at_, cover, hfin⟩ := finish_slot (unbound w)
  have hunb : (unbound w).me = u.me.unbounded := by rw [unbound_eq, me_setMe, hwme]
  have hnext : nextPc (unbound w) = nextPc s := nextPc_congr (by rw [hunb, Slot.unbounded, hme]) (by rw [hunb, Slot.unbounded, hme])
    (by rw [hunb, Slot.unbounded, hme])
  have htcore : (finish (unbound w)).myCore = v' := hwcore
  rw [hunb, Slot.unbounded, hnext, hme] at hfin
  have hwcur : w.cur = s.cur := by subst hw; exact hcur
  have hwag : w.agenda = ag := by subst hw; rfl
  have hwmem : w.devMem = s.devMem ∧ w.hostMem = s.hostMem := by subst hw; exact ⟨hdev, hhost⟩
  have hwslot (k : Nat) : w.slot k = u.slot k := by subst hw; rfl
  have hport : v'.port = s.myCore.port ++ [⟨s.cur, s.me.cont, s.me.tx, s.me.csr.fmt, op, false, 0, [], 0⟩] := by
    subst hv
    rw [hcur, hme, hcore]
  have hkept : v'.scratch = s.myCore.scratch ∧ v'.tags = s.myCore.tags ∧ v'.os = u.myCore.os := by
    subst hv
    rw [hcore]
    exact ⟨rfl, rfl, rfl⟩
  refine ⟨⟨by rw [htcore, hport], fun hempty => ?_, ?_⟩, by rw [hfin, hme], by rw [htcore]; exact hkept.2.2⟩
  · rw [hagenda, hwag, ← hc]
    exact hag (by rw [hcore]; exact hempty)
  · refine ⟨by rw [hfin], by rw [hfin], by rw [hfin], by rw [hfin], by rw [hfin], by rw [hfin], by rw [hfin], by rw [htcore]; exact hkept.1,
      by rw [htcore]; exact hkept.2.1, fun k hk => ?_, fun c hne => ?_, htdev.trans hwmem.1, hthost.trans hwmem.2⟩
    · rw [hslots k (hwcur ▸ hk), hwslot, hslot k hk]
    · exact (show (finish (unbound w)).core c = w.core c by simp only [State.core, hcores]).trans (hwother c hne)

/-! ## The checks before the port (R271, R274, R275) -/

theorem clear_nothing (s : State) : Clear false {} s :=
  ⟨nofun, rfl, fun _ => rfl, rfl⟩

theorem namesOs_unclaimed {s : State} {os : Nat} (act : State → Out) (h : claimsOs s os = false) :
    namesOs os act s = .next (trapI s 0x63 (BitVec.ofNat 64 os)) := by
  simp only [namesOs, h, Bool.not_false, if_true]

theorem namesOs_claimed {s : State} {os : Nat} (act : State → Out) (h : MayName s os) : namesOs os act s = act s := by
  obtain ⟨hclaim, hqueued, -⟩ := h
  simp only [namesOs, hclaim, hqueued, Bool.not_true, Bool.false_eq_true, if_false]

theorem ofNat_toNat_os (os : BitVec 6) : BitVec.ofNat 64 os.toNat = os.setWidth 64 := BitVec.ofNat_toNat 64 os

/-- An operand slot that the transaction has not claimed stops every instruction that names it (R271). -/
theorem unclaimed_traps {s : State} {a : Reg} {os : BitVec 6} (h : claimsOs s os.toNat = false) (ha : Clear false { reads := [xreg a] } s)
    (h0 : Clear false { reads := [xreg a, xreg 0] } s) :
    ∀ i ∈ [Instr.osRel os, .osLdG a 0 os false, .osLdS a 0 os false, .osStG a os, .osStS a os],
      exec i s = .next (trapI s 0x63 (os.setWidth 64)) := by
  have hnames (act : State → Out) : namesOs os.toNat act s = .next (trapI s 0x63 (os.setWidth 64)) := by
    rw [namesOs_unclaimed act h, ofNat_toNat_os]
  intro i hi
  simp only [List.mem_cons, List.not_mem_nil, or_false] at hi
  rcases hi with rfl | rfl | rfl | rfl | rfl
  · rw [exec_osRel, execOsRel, gate_clear (clear_nothing s), hnames]
  · rw [exec_osLdG, execOsLdG, gate_clear h0, hnames]
  · rw [exec_osLdS, execOsLdS, gate_clear h0, hnames]
  · rw [exec_osStG, execOsStG, gate_clear ha, hnames]
  · rw [exec_osStS, execOsStS, gate_clear ha, hnames]

/-- With room in the port the instruction enters it. -/
theorem issuePort_room {u : State} (op : PortOp) (h : u.myCore.port.length < 8) : issuePort u op 0 = .next (issuedPort u op) := by
  rw [issuePort, if_neg (by omega), issuedPort]

/-- `os.claim` in a transaction, with room in the port, enters it with its result pending (R273). -/
theorem execOsClaim_room {s : State} {d : Reg} (os : BitVec 6) (hc : Clear false { vwrites := [xreg d] } s) (htx : s.me.tx ≠ none)
    (hroom : s.myCore.port.length < 8) : ∃ t, exec (.osClaim d os) s = .next t ∧ EntersPort s t (.claim os.toNat s.nextId) ∧
      t.me.vpend = s.me.vpend ++ [⟨s.nextId, [xreg d], none, 0, .plain⟩] := by
  have hsome : s.me.tx.isNone = false := Option.isNone_eq_false_iff.mpr (Option.isSome_iff_ne_none.mpr htx)
  have hprep : Prepared s (s.counted.setMe (s.me.awaiting ⟨s.nextId, [xreg d], none, 0, .plain⟩)) :=
    (prepared_refl s).setMe s.me.relaxed _ (s.nextId + 1)
  obtain ⟨henter, hv, -⟩ := issuedPort_enters hprep (.claim os.toNat s.nextId)
  refine ⟨_, ?_, henter, hv.trans (congrArg Slot.vpend (me_setMe ..))⟩
  rw [exec_osClaim, execOsClaim, gate_clear hc]
  simp only [hsome, pendV_eq, Bool.false_eq_true, if_false, if_neg (show ¬ 8 ≤ s.myCore.port.length by omega)]
  rfl

/-! ## Loads and stores of operand slots (R274) -/

/-- A load enters the port with its operand slot FILLING. -/
theorem issueLoad_room {s : State} {os : Nat} (space : Space) (ea : Word) (n : Nat) (loc : Option Loc) (src : OsSrc)
    (hroom : s.myCore.port.length < 8) : ∃ t, issueLoad os space ea n loc src [] s = .next t ∧
      EntersPort s t (.load os src 0 [] [s.nextId]) ∧ osOf t.myCore os = { osOf s.myCore os with st := .filling } := by
  have hadd := (prepared_refl s).addRelaxed space ea loc (.load n) .none false false
  have hcore : (addRelaxed s space ea loc (.load n) .none false false).2.myCore = s.myCore := rfl
  obtain ⟨henter, -, hos⟩ := issuedPort_enters (hadd.setOsState os .filling) (.load os src 0 [] [s.nextId])
  refine ⟨_, ?_, henter, ?_⟩
  · rw [issueLoad, if_neg (by omega)]
    rfl
  · have hset := osOf_setOsState (addRelaxed s space ea loc (.load n) .none false false).2 os os .filling
    rw [if_pos rfl, hcore] at hset
    rw [← hset]
    exact congrArg (look · OpSlot.free os) hos

theorem loadHeld_open {s : State} {os : Nat} (hf : (osOf s.myCore os).st ≠ .filling) (hs : (osOf s.myCore os).st ≠ .shipping) :
    loadHeld s os = false := by
  simp [loadHeld, hf, hs]

theorem checkSegment_passes {s : State} {ea : Word} {kind : ScrKind} (h : checkScratch s ea 4096 kind = none) (hw : scrWin ea ≠ 1) :
    checkSegment s ea kind = none := by
  simp only [checkSegment, h, if_neg hw]

/-- The pieces of a tile get the next 64 serial numbers, one after the other. -/
theorem addPieces_prepared (space : Space) (loc : Option Loc) (ea : Word) (vas : List Nat) {s u : State} (h : Prepared s u) :
    (addPieces space loc ea vas u).1 = (List.range vas.length).map (fun i => u.nextId + i) ∧
      Prepared s (addPieces space loc ea vas u).2 ∧ (addPieces space loc ea vas u).2.myCore = u.myCore := by
  induction vas generalizing u with
  | nil => exact ⟨rfl, h, rfl⟩
  | cons va vas ih =>
    have hadd := h.addRelaxed space (BitVec.ofNat 64 va) (loc.map fun l => l.plus (va - ea.toNat))
      (.store (offsets 0 (natToBytes 64 0))) .none false false
    obtain ⟨hids, hprep, hcore⟩ := ih hadd
    refine ⟨?_, hprep, hcore⟩
    have hstep : (addPieces space loc ea (va :: vas) u).1 = u.nextId :: (addPieces space loc ea vas (addRelaxed u space (BitVec.ofNat 64 va)
      (loc.map fun l => l.plus (va - ea.toNat)) (.store (offsets 0 (natToBytes 64 0))) .none false false).2).1 := rfl
    rw [hstep, hids, List.length_cons, List.range_succ_eq_map, List.map_cons, List.map_map]
    refine congrArg (u.nextId :: ·) (List.map_congr_left fun i _ => ?_)
    show u.nextId + 1 + i = u.nextId + (i + 1)
    omega

/-- A store enters the port with its 64 pieces (R274). -/
theorem issueStore_room {s : State} {os : Nat} (space : Space) (ea : Word) (loc : Option Loc) (hroom : s.myCore.port.length < 8)
    (he : (osOf s.myCore os).st ≠ .empty) (hs : (osOf s.myCore os).st ≠ .shipping) :
    ∃ t, issueStore os space ea loc s = .next t ∧
      EntersPort s t (.store os space ea loc ((List.range 64).map fun i => s.nextId + i)) ∧ t.myCore.os = s.myCore.os := by
  obtain ⟨hids, hprep, hcore⟩ := addPieces_prepared space loc ea (pieces ea.toNat) (prepared_refl s)
  have hlen : (pieces ea.toNat).length = 64 := by simp [pieces]
  rw [hlen] at hids
  obtain ⟨henter, -, hos⟩ := issuedPort_enters hprep (.store os space ea loc ((List.range 64).map fun i => s.nextId + i))
  refine ⟨_, ?_, henter, hos.trans (congrArg Core.os hcore)⟩
  rw [← hids]
  simp only [issueStore, beq_eq_false_iff_ne.mpr he, beq_eq_false_iff_ne.mpr hs, Bool.or_self, Bool.false_eq_true, if_false,
    if_neg (show ¬ 8 ≤ s.myCore.port.length by omega)]
  rfl

section Tiles
variable {s : State} {a : Reg} {os : BitVec 6}

/-- Loads of a tile whose checks pass, without lists (R274). -/
theorem loads_enter (n4 : Bool) (hc : Clear false { reads := [xreg a, xreg 0] } s) (hm : MayName s os.toNat)
    (hf : (osOf s.myCore os.toNat).st ≠ .filling) (hs : (osOf s.myCore os.toNat).st ≠ .shipping) :
    let ea := readX s a
    let loads (i : Instr) (src : OsSrc) : Prop := ∃ t, exec i s = .next t ∧ EntersPort s t (.load os.toNat src 0 [] [s.nextId]) ∧
      osOf t.myCore os.toNat = { osOf s.myCore os.toNat with st := .filling }
    (∀ l, checkGlobal s { ea := ea, n := 4096, align := 4096, store := false } anyMapping = .ok l →
      loads (.osLdG a 0 os n4) (.bytes .global ea (some l) 0 0)) ∧
    (checkScratch s ea 4096 .load = none → scrWin ea ≠ 1 → loads (.osLdS a 0 os n4) (.bytes .scratch ea none 0 0)) := by
  intro ea loads
  refine ⟨fun l hok => ?_, fun hok hwin => ?_⟩
  · obtain ⟨t, ht, henter⟩ := issueLoad_room (s := s) (os := os.toNat) .global ea 4096 (some l) (.bytes .global ea (some l) 0 0) hm.2.2
    refine ⟨t, ?_, henter⟩
    rw [exec_osLdG, execOsLdG, gate_clear hc, namesOs_claimed _ hm]
    simp only [show checkGlobal s { ea := readX s a, n := 4096, align := 4096, store := false } anyMapping = .ok l from hok, stopped,
      loadHeld_open hf hs, Bool.false_eq_true, if_false]
    exact ht
  · obtain ⟨t, ht, henter⟩ := issueLoad_room (s := s) (os := os.toNat) .scratch ea 4096 none (.bytes .scratch ea none 0 0) hm.2.2
    refine ⟨t, ?_, henter⟩
    rw [exec_osLdS, execOsLdS, gate_clear hc, namesOs_claimed _ hm]
    simp only [show checkSegment s (readX s a) .load = none from checkSegment_passes hok hwin, loadHeld_open hf hs, Bool.false_eq_true,
      if_false]
    exact ht

/-- Stores of a tile whose checks pass (R274). -/
theorem stores_enter (hc : Clear false { reads := [xreg a] } s) (hm : MayName s os.toNat)
    (he : (osOf s.myCore os.toNat).st ≠ .empty) (hs : (osOf s.myCore os.toNat).st ≠ .shipping) :
    let ea := readX s a
    let ids := (List.range 64).map fun i => s.nextId + i
    (∀ l, checkGlobal s { ea := ea, n := 4096, align := 4096, store := true } anyMapping = .ok l →
      ∃ t, exec (.osStG a os) s = .next t ∧ EntersPort s t (.store os.toNat .global ea (some l) ids) ∧ t.myCore.os = s.myCore.os) ∧
    (checkScratch s ea 4096 .store = none → scrWin ea ≠ 1 →
      ∃ t, exec (.osStS a os) s = .next t ∧ EntersPort s t (.store os.toNat .scratch ea none ids) ∧ t.myCore.os = s.myCore.os) := by
  intro ea ids
  refine ⟨fun l hok => ?_, fun hok hwin => ?_⟩
  · obtain ⟨t, ht, henter⟩ := issueStore_room (s := s) .global ea (some l) hm.2.2 he hs
    refine ⟨t, ?_, henter⟩
    rw [exec_osStG, execOsStG, gate_clear hc, namesOs_claimed _ hm]
    simp only [ea, hok, stopped] at ht ⊢
    exact ht
  · obtain ⟨t, ht, henter⟩ := issueStore_room (s := s) .scratch ea none hm.2.2 he hs
    refine ⟨t, ?_, henter⟩
    rw [exec_osStS, execOsStS, gate_clear hc, namesOs_claimed _ hm]
    simp only [show checkSegment s (readX s a) .store = none from checkSegment_passes hok hwin]
    exact ht

theorem runX_two (b : Reg) : runX b 2 = [xreg b, xreg (b + 1)] := by simp [runX, Reg.succ]

/-- A handle that is valid and need not be read again is used as it stands (R76). -/
theorem withHandle_ready {h : Reg} (act : Handle → State → Out) (hv : (handleAt s.me h).valid = true)
    (hr : (handleAt s.me h).reload = false) : withHandle h act s = act (handleAt s.me h) s := by
  simp only [withHandle, hv, hr, Bool.not_true, Bool.not_false, Bool.false_eq_true, if_false, if_true]

/-- A block load through a handle that need not be read again, without lists (R274). -/
theorem loadBlock_enters {b : Reg} (cols : Bool) {c0 c1 c2 c3 m i j : Nat} {h : Handle} {r : Vec}
    (hc : Clear false { reads := [xreg b, xreg (b + 1)], bad := orBad (badHandle a) (badRun b 2) } s) (hm : MayName s os.toNat)
    (hh : handleAt s.me a = h) (hrec : h.record = r) (hco : coordsOf s b = (c0, c1, c2, c3)) (hel : coordElem r c0 c1 c2 c3 = (m, i, j))
    (hvalid : h.valid = true) (hreload : h.reload = false) (het : recEtype r ∈ [0, 2, 3, 4, 8]) (hout : recOutl r = false)
    (halign : if cols then c0 % 64 = 0 ∧ c1 % (512 / recBits r) = 0 else c1 % 64 = 0 ∧ c0 % (512 / recBits r) = 0)
    (hcoord : badCoord r c0 c1 c2 c3 = none)
    (hbytes : checkBytes s false (elemBytes r ((blockElems r m i j cols).map fun x => x.2.2)) = .ok (.dev 0))
    (hf : (osOf s.myCore os.toNat).st ≠ .filling) (hs : (osOf s.myCore os.toNat).st ≠ .shipping) :
    ∃ t, loadBlock cols a b os s = .next t ∧
      EntersPort s t (.load os.toNat (.block r m i j cols) 0 [] [s.nextId]) ∧
      osOf t.myCore os.toNat = { osOf s.myCore os.toNat with st := .filling } := by
  subst hh hrec
  have hkind : ¬ (recEtype (handleAt s.me a).record ≠ 0 ∧ recEtype (handleAt s.me a).record ≠ 2 ∧ recEtype (handleAt s.me a).record ≠ 3 ∧
      recEtype (handleAt s.me a).record ≠ 4 ∧ recEtype (handleAt s.me a).record ≠ 8) := by
    simp only [List.mem_cons, List.not_mem_nil, or_false] at het
    omega
  have haligned : ¬ (if cols then c0 % 64 ≠ 0 ∨ c1 % (512 / recBits (handleAt s.me a).record) ≠ 0
      else c1 % 64 ≠ 0 ∨ c0 % (512 / recBits (handleAt s.me a).record) ≠ 0) := by
    cases cols
    · simp only [Bool.false_eq_true, if_false] at halign ⊢; omega
    · simp only [if_true] at halign ⊢; omega
  have hlists : (OsSrc.block (handleAt s.me a).record m i j cols).lists = [] := by
    simp only [OsSrc.lists, hout, Bool.false_eq_true, if_false]
  obtain ⟨t, ht, henter⟩ := issueLoad_room (s := s) (os := os.toNat) .global _ _ _ (.block (handleAt s.me a).record m i j cols) hm.2.2
  refine ⟨t, ?_, henter⟩
  rw [loadBlock, runX_two, gate_clear hc, namesOs_claimed _ hm, withHandle_ready _ hvalid hreload]
  simp only [hco, hel, if_neg hkind, if_neg haligned, hcoord, hbytes, stopped, loadHeld_open hf hs, Bool.false_eq_true, if_false, hlists]
  exact ht

end Tiles

end Sys2Proof.Machine
end

section
/-! SUPPORT. Multiplies, zeroing and drains entering the matrix port (R275, R276, R278 to R280), and MatrixPort settled. -/

namespace Sys2Proof.Machine

/-- With an accumulator of plain segments that no earlier access of the slot touches, the instruction goes on (R275). -/
theorem withAcc_open {s : State} {seg : BitVec 8} (act : State → Out) (h : MayAccumulate s seg.toNat) : withAcc seg act s = act s := by
  obtain ⟨hseg, hplain, hown⟩ := h
  have hnone : (List.range 5).find? (fun i => (segOf s.myCore (seg.toNat + i)).st != .none) = none := by
    rw [List.find?_eq_none]
    intro i hi
    rw [hplain i (List.mem_range.mp hi)]
    decide
  simp only [withAcc, if_neg (show ¬ 246 < seg.toNat by omega), hnone, hown, Bool.false_eq_true, if_false]

/-- An accumulator that starts above segment 246 does not fit the scratchpad (R275). -/
theorem withAcc_high {s : State} {seg : BitVec 8} (act : State → Out) (h : 246 < seg.toNat) :
    withAcc seg act s = .next (trapI s 0x25 (BitVec.ofNat 64 (4096 * seg.toNat))) := by
  have hval : zextImm seg * 4096 = BitVec.ofNat 64 (4096 * seg.toNat) := by
    apply BitVec.eq_of_toNat_eq
    have := seg.isLt
    simp only [zextImm, BitVec.toNat_mul, BitVec.toNat_setWidth, BitVec.toNat_ofNat, Nat.reducePow,
      show (4096 : BitVec 64).toNat = 4096 from rfl]
    omega
  rw [withAcc, if_pos h, hval]

theorem shapeOf_eq (s : State) : shapeOf s = (s.me.csr.mxshape.toNat % 128, s.me.csr.mxshape.toNat / 256 % 128,
    s.me.csr.mxshape.toNat / 65536 % 256) := by
  simp only [shapeOf, BitVec.extractLsb'_toNat, Nat.shiftRight_eq_div_pow, Nat.pow_zero, Nat.div_one, Nat.reducePow]

/-- A state made ready for the port has the queue of the port as it was. -/
theorem Prepared.port {s u : State} (h : Prepared s u) : u.myCore.port = s.myCore.port := by
  obtain ⟨-, -, ⟨o, hcore⟩, -⟩ := h
  rw [hcore]

theorem issuePort_prepared {s u : State} (h : Prepared s u) (op : PortOp) (hroom : s.myCore.port.length < 8) :
    ∃ t, issuePort u op 0 = .next t ∧ EntersPort s t op ∧ t.myCore.os = u.myCore.os := by
  obtain ⟨henter, -, hos⟩ := issuedPort_enters h op
  exact ⟨_, issuePort_room op (by rw [h.port]; exact hroom), henter, hos⟩

/-- May the two formats be multiplied, in I40 where it asks for it (R276)? -/
def FormatsMatch (s : State) (f : MxFields) : Prop :=
  codeBits s.me.csr.fmt f.fa = codeBits s.me.csr.fmt f.fb ∧ (f.i40 = true → integral s f.fa = true ∧ integral s f.fb = true)

theorem mismatch_iff (s : State) (f : MxFields) : (codeBits s.me.csr.fmt f.fa ≠ codeBits s.me.csr.fmt f.fb ∨
    (f.i40 = true ∧ (!(integral s f.fa && integral s f.fb)) = true)) ↔ ¬ FormatsMatch s f := by
  simp only [FormatsMatch, Bool.not_eq_true', Bool.and_eq_false_iff]
  cases integral s f.fa <;> cases integral s f.fb <;> simp <;> tauto

/-- Formats that do not go together are a bad field (R276). -/
theorem issueMultiply_mismatch {s : State} {f : MxFields} (rot : Bool) (ha : badShadow s f.fa = none) (hb : badShadow s f.fb = none)
    (h : ¬ FormatsMatch s f) : issueMultiply rot f s = .next (trapI s 0x07 ((s.me.ir.extractLsb' 16 32).setWidth 64)) := by
  simp only [issueMultiply, gate_clear (clear_nothing s), ha, hb, if_pos ((mismatch_iff s f).mpr h)]
  rfl

/-- No rotating multiply is queued or still being shipped (R278). -/
def PortStill (s : State) : Prop :=
  s.myCore.outgoing = [] ∧ ∀ e ∈ s.myCore.port, ∀ g m n k tr, e.op ≠ .multiply g m n k true tr

/-- The state in which a multiply enters the port: a rotating one has its operand slots SHIPPING from issue (R278). -/
def shipped (rot : Bool) (f : MxFields) (s : State) : State :=
  if rot then setOsState (setOsState s f.oa.toNat .shipping) f.ob.toNat .shipping else s

theorem shipped_prepared (rot : Bool) (f : MxFields) (s : State) : Prepared s (shipped rot f s) := by
  cases rot
  · exact prepared_refl s
  · exact ((prepared_refl s).setOsState _ _).setOsState _ _

theorem osOf_shipped (f : MxFields) (s : State) (o : Nat) : osOf (shipped true f s).myCore o =
    if o = f.oa.toNat ∨ o = f.ob.toNat then { osOf s.myCore o with st := .shipping } else osOf s.myCore o := by
  rw [shipped, if_pos rfl, osOf_setOsState, osOf_setOsState, osOf_setOsState]
  by_cases hb : o = f.ob.toNat
  · by_cases hab : f.ob.toNat = f.oa.toNat <;> simp [hb, hab]
  · by_cases ha : o = f.oa.toNat
    · rw [if_neg hb, if_pos ha, if_pos (.inl ha), ha]
    · rw [if_neg hb, if_neg ha, if_neg (by tauto)]

theorem placeCsr_shipped (rot : Bool) (f : MxFields) (s : State) : placeCsr (shipped rot f s) 2 = placeCsr s 2 := by
  cases rot
  · rfl
  · rfl

/-- What a multiply of good formats with its operand slots claimed does once its accumulator is open (R276, R278). -/
theorem issueMultiply_named {s : State} {f : MxFields} (rot : Bool) (ha : badShadow s f.fa = none) (hb : badShadow s f.fb = none)
    (hgood : FormatsMatch s f) (hoa : MayName s f.oa.toNat) (hob : MayName s f.ob.toNat) : ∃ act, issueMultiply rot f s = withAcc f.seg act s ∧
    ((rot = true → PortStill s) →
      (operandsReady s s.curCore [f.oa.toNat, f.ob.toNat] = false → act s = .next (hold s (.operands [f.oa.toNat, f.ob.toNat] true))) ∧
      (operandsReady s s.curCore [f.oa.toNat, f.ob.toNat] = true → act s = issuePort (shipped rot f s)
        (.multiply f (s.me.csr.mxshape.toNat % 128) (s.me.csr.mxshape.toNat / 256 % 128) (s.me.csr.mxshape.toNat / 65536 % 256) rot
          (placeCsr s 2)) 0)) := by
  refine ⟨_, by simp only [issueMultiply, gate_clear (clear_nothing s), ha, hb, if_neg (not_not.mpr hgood ∘ (mismatch_iff s f).mp),
    namesOs_claimed _ hoa, namesOs_claimed _ hob]; rfl, fun hstill => ?_⟩
  have hrot : (rot && ((s.myCore.port.any fun e => match e.op with
      | .multiply _ _ _ _ r _ => r
      | _ => false) || !s.myCore.outgoing.isEmpty)) = false := by
    cases rot
    · rfl
    · obtain ⟨hout, hport⟩ := hstill rfl
      rw [hout, Bool.true_and, List.isEmpty_nil, Bool.not_true, Bool.or_false, List.any_eq_false]
      intro e he
      have hne := hport e he
      cases hop : e.op with
      | multiply g m n k r tr =>
        cases r
        · exact Bool.false_ne_true
        · exact absurd hop (hne g m n k tr)
      | _ => exact Bool.false_ne_true
  rw [if_neg (by rw [Bool.not_eq_true]; exact hrot)]
  refine ⟨fun hr => ?_, fun hr => ?_⟩
  · rw [hr, Bool.not_false, if_pos rfl]
  · rw [hr, Bool.not_true, if_neg Bool.false_ne_true, if_neg (show ¬ 8 ≤ s.myCore.port.length from Nat.not_le.mpr hoa.2.2),
      shapeOf_eq, ← placeCsr_shipped rot f s]
    rfl

/-- A drain's scale that names no scale register is 1.0 (R280). -/
theorem drainScale_one {s : State} {sel : BitVec 3} (act : BitVec 32 → Word → State → Out) (h : 4 ≤ sel.toNat) :
    drainScale sel act s = act 0x3F800000 0 s := by
  simp only [drainScale, dif_neg (show ¬ sel.toNat < 4 by omega), scaleAt, if_true]
  rw [show BitVec.ofNat 32 (roundFixed fp32 .rne (.fin false 1 1)).1 = 0x3F800000 by decide]

/-- `mx.zero` enters the port (R279). -/
theorem zero_enters {s : State} {seg : BitVec 8} (hroom : s.myCore.port.length < 8) (hacc : MayAccumulate s seg.toNat) :
    ∃ t, exec (.mxZero seg) s = .next t ∧
      EntersPort s t (.zero seg.toNat (s.me.csr.mxshape.toNat % 128) (s.me.csr.mxshape.toNat / 256 % 128)) := by
  obtain ⟨t, ht, henter, -⟩ := issuePort_prepared (prepared_refl s)
    (.zero seg.toNat (s.me.csr.mxshape.toNat % 128) (s.me.csr.mxshape.toNat / 256 % 128)) hroom
  refine ⟨t, ?_, henter⟩
  rw [exec_mxZero, execMxZero, gate_clear (clear_nothing s), withAcc_open _ hacc, shapeOf_eq]
  exact ht

/-- `mx.drain` with neither scale named enters the port with both 1.0 (R280). -/
theorem drain_enters {s : State} {f : DrainFields} (hroom : s.myCore.port.length < 8) (hacc : MayAccumulate s f.seg.toNat)
    (hi : f.i40 = false) (ha : 4 ≤ f.sa.toNat) (hb : 4 ≤ f.sb.toNat) : ∃ t, exec (.mxDrain f) s = .next t ∧
      EntersPort s t (.drain f (s.me.csr.mxshape.toNat % 128) (s.me.csr.mxshape.toNat / 256 % 128)
        (rndCode (rndOf s.me.csr.rmode f.rm)) 0x3F800000 0x3F800000) := by
  obtain ⟨t, ht, henter, -⟩ := issuePort_prepared (prepared_refl s) (.drain f (s.me.csr.mxshape.toNat % 128)
    (s.me.csr.mxshape.toNat / 256 % 128) (rndCode (rndOf s.me.csr.rmode f.rm)) 0x3F800000 0x3F800000) hroom
  refine ⟨t, ?_, henter⟩
  rw [exec_mxDrain, execMxDrain, gate_clear (clear_nothing s)]
  simp only [hi, Bool.false_eq_true, if_false]
  rw [withAcc_open _ hacc, if_neg (Nat.not_le.mpr hroom), shapeOf_eq]
  simp only [drainScale_one _ ha, drainScale_one _ hb, BitVec.or_self]
  exact ht

/-- The multiplies of good formats and claimed operand slots (R276, R278). -/
theorem multiplies_enter {s : State} {f : MxFields} (ha : badShadow s f.fa = none) (hb : badShadow s f.fb = none)
    (hgood : FormatsMatch s f) (hoa : MayName s f.oa.toNat) (hob : MayName s f.ob.toNat) :
    let op (rot : Bool) : PortOp := .multiply f (s.me.csr.mxshape.toNat % 128) (s.me.csr.mxshape.toNat / 256 % 128)
      (s.me.csr.mxshape.toNat / 65536 % 256) rot (placeCsr s 2)
    (246 < f.seg.toNat → ∀ i ∈ [Instr.mxMul f, .mxMrot f], exec i s = .next (trapI s 0x25 (BitVec.ofNat 64 (4096 * f.seg.toNat)))) ∧
    (MayAccumulate s f.seg.toNat →
      (operandsReady s s.curCore [f.oa.toNat, f.ob.toNat] = false →
        exec (.mxMul f) s = .next (hold s (.operands [f.oa.toNat, f.ob.toNat] true))) ∧
      (operandsReady s s.curCore [f.oa.toNat, f.ob.toNat] = true →
        (∃ t, exec (.mxMul f) s = .next t ∧ EntersPort s t (op false) ∧ t.myCore.os = s.myCore.os) ∧
        (PortStill s → ∃ t, exec (.mxMrot f) s = .next t ∧ EntersPort s t (op true) ∧
          t.myCore.os = (shipped true f s).myCore.os))) := by
  intro op
  obtain ⟨actMul, hmul, hmulStill⟩ := issueMultiply_named false ha hb hgood hoa hob
  obtain ⟨actRot, hrot, hrotStill⟩ := issueMultiply_named true ha hb hgood hoa hob
  obtain ⟨hmulHeld, hmulGoes⟩ := hmulStill nofun
  refine ⟨fun hseg i hi => ?_, fun hacc => ⟨fun hr => ?_, fun hr => ⟨?_, fun hstill => ?_⟩⟩⟩
  · simp only [List.mem_cons, List.not_mem_nil, or_false] at hi
    rcases hi with rfl | rfl
    · rw [exec_mxMul, execMxMul, hmul, withAcc_high _ hseg]
    · rw [exec_mxMrot, execMxMrot, hrot, withAcc_high _ hseg]
  · rw [exec_mxMul, execMxMul, hmul, withAcc_open _ hacc, hmulHeld hr]
  · rw [exec_mxMul, execMxMul, hmul, withAcc_open _ hacc, hmulGoes hr]
    exact issuePort_prepared (shipped_prepared false f s) _ hoa.2.2
  · rw [exec_mxMrot, execMxMrot, hrot, withAcc_open _ hacc, (hrotStill fun _ => hstill).2 hr]
    exact issuePort_prepared (shipped_prepared true f s) _ hoa.2.2

/-- Settles O45: every instruction enters the port through `issuedPort_enters`, from a state its issue has prepared. -/
theorem matrixPort : Obligations.MatrixPort := by
  unfold Obligations.MatrixPort
  refine ⟨fun s d os hc => ⟨fun htx => ?_, fun htx hroom => execOsClaim_room os hc htx hroom, fun htx hfull => ?_⟩,
    fun s a os hclaim ha h0 => unclaimed_traps hclaim ha h0, fun s os _ hm => ?_, fun s a os n4 hc hm => loads_enter n4 hc hm,
    fun s a b os cols hc hm => ?_, fun s a os hc hm => stores_enter hc hm,
    fun s f _ ha hb => ⟨fun hbad i hi => ?_, fun hgood hoa hob => ?_⟩,
    fun s seg f _ hroom => ⟨zero_enters hroom, drain_enters hroom⟩⟩
  · rw [exec_osClaim, execOsClaim, gate_clear hc, htx]
    rfl
  · rw [exec_osClaim, execOsClaim, gate_clear hc,
      if_neg (by rw [Option.isNone_iff_eq_none]; exact htx), if_pos hfull]
  · rw [exec_osRel, execOsRel, gate_clear (clear_nothing s), namesOs_claimed _ hm]
    obtain ⟨t, ht, henter, -⟩ := issuePort_prepared (prepared_refl s) (.release os.toNat) hm.2.2
    exact ⟨t, ht, henter⟩
  · rcases hco : coordsOf s b with ⟨c0, c1, c2, c3⟩
    rcases hel : coordElem (handleAt s.me a).record c0 c1 c2 c3 with ⟨m, i, j⟩
    simp only [hel]
    intro hvalid hreload het hout halign hcoord hbytes hf hs
    obtain ⟨t, ht, henter⟩ := loadBlock_enters cols hc hm rfl rfl hco hel hvalid hreload het hout halign hcoord hbytes hf hs
    refine ⟨t, ?_, henter⟩
    cases cols
    · exact ht
    · exact ht
  · have hmul := issueMultiply_mismatch false ha hb hbad
    have hrot := issueMultiply_mismatch true ha hb hbad
    simp only [List.mem_cons, List.not_mem_nil, or_false] at hi
    rcases hi with rfl | rfl
    · rw [exec_mxMul, execMxMul, hmul]
    · rw [exec_mxMrot, execMxMrot, hrot]
  · obtain ⟨hhigh, hopen⟩ := multiplies_enter ha hb hgood hoa hob
    refine ⟨hhigh, fun hacc => ⟨(hopen hacc).1, fun hr => ?_⟩⟩
    obtain ⟨hmul, hrot⟩ := (hopen hacc).2 hr
    refine ⟨hmul, fun hout hport => ?_⟩
    obtain ⟨t, ht, henter, hos⟩ := hrot ⟨hout, hport⟩
    have hslot (o : Nat) : osOf t.myCore o = osOf (shipped true f s).myCore o := congrArg (look · OpSlot.free o) hos
    refine ⟨t, ht, henter, by rw [hslot, osOf_shipped, if_pos (.inl rfl)], by rw [hslot, osOf_shipped, if_pos (.inr rfl)], fun o hoa hob => ?_⟩
    rw [hslot, osOf_shipped, if_neg (by tauto)]

end Sys2Proof.Machine
end

section
/-! SUPPORT. Accesses that wait for their acknowledgement (R127), and migration (R97 to R100), with MigrationAndBanks settled. -/

namespace Sys2Proof.Machine

/-! ## An access that waits for its acknowledgement (R127) -/

/-- Waiting for an access changes the issuing slot alone, and there only what the wait settles (R127). -/
theorem outstanding_awaits (s : State) (ans : List (RegId × Vec)) (ack : Bool) :
    (∃ since at_, (outstanding s ans ack).me = { s.me with
      answer := some ans, acks := 1, st := .wait, wait := some .access, waitSince := since, readyAt := at_ }) ∧
    (∃ ps sl ag, outstanding s ans ack = { s with parts := ps, slots := sl, agenda := ag }) ∧
    (∀ k, k ≠ s.cur → (outstanding s ans ack).slot k = s.slot k) ∧
    (ack = true → .accessComplete s.curCore s.curSlot ∈ (outstanding s ans ack).agenda) := by
  generalize hu : s.setMe { s.me with answer := some ans, acks := 1 } = u
  have hume : u.me = { s.me with answer := some ans, acks := 1 } := by subst hu; exact me_setMe ..
  have huslot (k : Nat) (hk : k ≠ s.cur) : u.slot k = s.slot k := by subst hu; exact slot_setMe_ne s _ hk
  have hushape : ∃ sl, u = { s with slots := sl } := by subst hu; exact ⟨_, rfl⟩
  obtain ⟨⟨at_, hme⟩, hother⟩ := hold_holds u .access
  obtain ⟨ps, sl, ag, hframe⟩ := hold_frame u .access
  have hout : outstanding s ans ack = if ack then (hold u .access).post (.accessComplete (hold u .access).curCore (hold u .access).curSlot)
      else hold u .access := by rw [outstanding, hu]
  have hcur : (hold u .access).curCore = s.curCore ∧ (hold u .access).curSlot = s.curSlot := by
    obtain ⟨sl', rfl⟩ := hushape
    rw [hframe]
    exact ⟨rfl, rfl⟩
  have hucur : u.cur = s.cur := by obtain ⟨sl', rfl⟩ := hushape; rfl
  generalize (if u.me.wait = some .access then u.me.waitSince else u.tick) = since at hme
  rw [hume] at hme
  refine ⟨⟨since, at_, ?_⟩, ?_, fun k hk => ?_, fun hack => ?_⟩
  · rw [hout]
    split
    · exact hme
    · exact hme
  · rw [hout, hframe]
    obtain ⟨sl', rfl⟩ := hushape
    split
    · exact ⟨_, _, _, rfl⟩
    · exact ⟨_, _, _, rfl⟩
  · have hrest := (hother k (hucur ▸ hk)).trans (huslot k hk)
    rw [hout]
    split
    · exact hrest
    · exact hrest
  · rw [hout, if_pos hack, hcur.1, hcur.2]
    exact mem_post ..

/-! ## Deliveries (R98) -/

theorem deliver_open {s : State} {m : Msg} (ev : Instr) (f : Msg → State → State) (hm : findMsg s m.id = some m) (hb : behind s m = false) :
    deliver s m.id ev f = .next (f m s) := by
  simp only [deliver, hm, hb, Bool.false_eq_true, if_false]

/-! ## Departure (R100) -/

/-- The context in which a slot that migrates leaves its core. -/
def departing (u : State) (d : Reg) (ea : Word) (op : AccessOp) (kd : LoadKind) (fe em : Bool) : Context :=
  ⟨travelling u.me, slotKey u.curCore u.curSlot, match u.me.away with
    | some h => some h
    | none => if u.me.resv.isSome then some (u.curCore, u.curSlot) else none, d, ea, op, kd, fe, em⟩

/-- A slot with nothing outstanding sends its context to the owner of its address (R100). -/
theorem migrationDeparture_sends {s : State} {c k : Nat} {d : Reg} {ea : Word} {op : AccessOp} {kd : LoadKind} {fe em : Bool}
    (hw : ({ s with curCore := c, curSlot := k } : State).me.wait = some (.migrate d ea op kd fe em))
    (hst : ({ s with curCore := c, curSlot := k } : State).me.st = .save) : let u : State := { s with curCore := c, curSlot := k }
    (drainedAll u u.cur = false → exec (.migrationDeparture c k) s = .next (u.post (.migrationDeparture c k))) ∧
    (drainedAll u u.cur = true → exec (.migrationDeparture c k) s =
      .next (sendMsg u (scrCore ea) (.context (departing u d ea op kd fe em)) (fun m => .landing m))) := by
  intro u
  rw [exec_migrationDeparture]
  refine ⟨fun hd => ?_, fun hd => ?_⟩
  · simp only [execMigrationDeparture, hw, hst, ne_eq, not_true_eq_false, if_false]
    exact if_pos (by rw [Bool.not_eq_true']; exact hd)
  · simp only [execMigrationDeparture, hw, hst, ne_eq, not_true_eq_false, if_false]
    exact if_neg (by rw [Bool.not_eq_true', Bool.not_eq_false]; exact hd)

theorem travelling_vec (sl : Slot) (i : Fin 16) : (travelling sl).f[i] = if 4 ≤ i.val ∧ i.val < 12 then sl.f[i] else 0 := by
  simp only [travelling, Fin.getElem_fin, Vector.getElem_ofFn]

/-! ## Landing (R100) -/

theorem leaveSource_guest {s : State} {x : Context} (h : x.homeSlot = none) : leaveSource s x = s.setSlot x.src (freeSlot (s.slot x.src)) := by
  rw [leaveSource, h, if_neg nofun]

/-- A context without a home on the core: it takes a slot, a landing place, or is refused (R100). -/
theorem landing_places {s : State} {m : Msg} {x : Context} (hm : findMsg s m.id = some m) (hb : behind s m = false)
    (hbody : m.body = .context x) (hhome : x.homeSlot = none) (hst : (s.slot x.src).st = .save) :
    exec (.landing m.id) s = .next (execLanding.place (dropMsg s m.id) { x with slot := travelling (s.slot x.src) } m.dst) := by
  rw [exec_landing, execLanding, deliver_open _ _ hm hb, hbody]
  have hrefresh : refresh (dropMsg s m.id) x = { x with slot := travelling (s.slot x.src) } := by
    rw [refresh, show (dropMsg s m.id).slot x.src = s.slot x.src from rfl, if_pos hst]
  simp only [hrefresh, hhome]

/-- The state in which a load of a landed context's own bank is performed (R100). -/
theorem landedAccess_load {s : State} {x : Context} {n : Nat} (hfe : x.fe = false) (hop : x.op = .load n) (hwin : scrWin x.addr = 0)
    (hbusy : segmentBusy s.myCore (scrOff x.addr / 4096) = false) (hseg : (segOf s.myCore (scrOff x.addr / 4096)).st = .none) :
    landedAccess s x = outstanding s (loadAnswer x.kind x.d (bytesToNat (readBytes s.myCore.scratch (scrOff x.addr) n))) true := by
  have hperf : performScratch s s.curCore x.addr (.load n) (some (s.cur, .ack)) =
      some ⟨s, bytesToNat (readBytes s.myCore.scratch (scrOff x.addr) n), false⟩ := by
    simp only [performScratch, hwin, if_neg (show ¬ (0 : Nat) = 1 from nofun),
      show segmentBusy (s.core s.curCore) (scrOff x.addr / 4096) = false from hbusy, Bool.false_eq_true, if_false,
      show (segOf (s.core s.curCore) (scrOff x.addr / 4096)).st = .none from hseg]
    rfl
  simp only [landedAccess, hbusy, hfe, hop, hperf, Bool.false_eq_true, if_false, Bool.not_false]

/-- The slot that a context brings to slot `i` of core `c` (R75, R100). -/
def landedSlot (s : State) (c i : Nat) (x : Context) : Slot :=
  { x.slot with
    st := .ready, resv := (s.slot (slotKey c i)).resv, wait := none, readyAt := (s.core c).cyc, line := none, xfer := 0, cover := []
    resume := some (x.slot.resume.getD (fallThrough x.slot))
    oldCopies := if x.src / 16 / 128 = c / 128 then x.slot.oldCopies
      else (s.rdc.filter fun e => e.1 / 2 ^ 32 == c / 128).map fun e => e.1 % 2 ^ 32
    away := if x.homeSlot = some (c, i) then none else x.homeSlot, relaxed := (s.slot (slotKey c i)).relaxed
    copies := (s.slot (slotKey c i)).copies }

theorem landIn_eq (s : State) (c i : Nat) (x : Context) : landIn s c i x = landedAccess
    { (postKnown (s.setSlot (slotKey c i) (landedSlot s c i x)) (slotKey c i)) with curCore := c, curSlot := i } x := by
  have hresume : some (x.slot.resume.getD (fallThrough x.slot)) = some (match x.slot.resume with
      | some pc => pc
      | none => fallThrough x.slot) := by cases x.slot.resume <;> rfl
  rw [landedSlot, hresume]
  rfl

/-- A context that has landed goes on with its registers, PC and CSRs, its load performed at its own bank (R75, R100). -/
theorem landIn_load {s : State} (c i : Nat) {n : Nat} {x : Context} (hfe : x.fe = false) (hop : x.op = .load n)
    (hwin : scrWin x.addr = 0) (hbusy : segmentBusy (s.core c) (scrOff x.addr / 4096) = false)
    (hseg : (segOf (s.core c) (scrOff x.addr / 4096)).st = .none) : let t := landIn s c i x
    t.me.x = x.slot.x ∧ t.me.f = x.slot.f ∧ t.me.pc = x.slot.pc ∧ t.me.csr = x.slot.csr ∧ t.me.level = x.slot.level ∧
    t.me.resv = (s.slot (slotKey c i)).resv ∧ t.curCore = c ∧ t.curSlot = i ∧ t.cores = s.cores ∧ t.devMem = s.devMem ∧
    t.me.wait = some .access ∧
    t.me.answer = some (loadAnswer x.kind x.d (bytesToNat (readBytes (s.core c).scratch (scrOff x.addr) n))) := by
  obtain ⟨ag, hknown⟩ := postKnown_onlyAgenda (s.setSlot (slotKey c i) (landedSlot s c i x)) (slotKey c i)
  generalize hu : ({ (s.setSlot (slotKey c i) (landedSlot s c i x)) with agenda := ag, curCore := c, curSlot := i } : State) = u
  have hland : landIn s c i x = landedAccess u x := by
    rw [← hu, landIn_eq, hknown]
  have hume : u.me = landedSlot s c i x := by subst hu; exact slot_setSlot_same s _ _
  have hucore : u.myCore = s.core c := by subst hu; rfl
  have huframe : u.curCore = c ∧ u.curSlot = i ∧ u.cores = s.cores ∧ u.devMem = s.devMem := by subst hu; exact ⟨rfl, rfl, rfl, rfl⟩
  obtain ⟨⟨since, at_, hme⟩, ⟨ps, sl', ag', hframe⟩, -, -⟩ :=
    outstanding_awaits u (loadAnswer x.kind x.d (bytesToNat (readBytes (s.core c).scratch (scrOff x.addr) n))) true
  have ht := landedAccess_load hfe hop hwin (hucore ▸ hbusy) (hucore ▸ hseg)
  rw [hucore] at ht
  intro t
  have hteq : t = outstanding u (loadAnswer x.kind x.d (bytesToNat (readBytes (s.core c).scratch (scrOff x.addr) n))) true := hland.trans ht
  have htme := (congrArg State.me hteq).trans hme
  rw [hume, landedSlot] at htme
  obtain ⟨hc, hi, hcores, hdev⟩ := huframe
  refine ⟨by rw [htme], by rw [htme], by rw [htme], by rw [htme], by rw [htme], by rw [htme], ?_, ?_, ?_, ?_, by rw [htme], by rw [htme]⟩
  · rw [hteq, hframe]; exact hc
  · rw [hteq, hframe]; exact hi
  · rw [hteq, hframe]; exact hcores
  · rw [hteq, hframe]; exact hdev

/-! ## Refusals and banks (R97, R100) -/

/-- A refused context's slot waits again, its access on the way to the bank as a message (R100). -/
theorem migrationRefused_asks {s u : State} {m : Msg} {x : Context} (hm : findMsg s m.id = some m) (hb : behind s m = false)
    (hbody : m.body = .refusal x) (hst : (s.slot (slotKey (x.src / 16) (x.src % 16))).st = .save) (hfe : x.fe = false)
    (hu : ({ dropMsg s m.id with curCore := x.src / 16, curSlot := x.src % 16 } : State) = u) :
    exec (.migrationRefused m.id) s = .next (sendMsg (outstanding u [] false) (scrCore x.addr) (.bank x.addr x.op x.kind x.d .ack)
      (fun m => .bankAccessArrive m)) := by
  rw [exec_migrationRefused, execMigrationRefused, deliver_open _ _ hm hb, hbody]
  have hume : u.me.st = .save := by subst hu; exact hst
  simp only [hu, hume, hfe, ne_eq,
    not_true_eq_false, Bool.false_eq_true, if_false]

/-- An access at its bank that the scratchpad performs (R97). -/
theorem bankAccess_performed {s : State} {m : Msg} {ea : Word} {op : AccessOp} {kd : LoadKind} {d : Reg} {p : Perf}
    (hm : findMsg s m.id = some m) (hb : behind s m = false) (hbody : m.body = .bank ea op kd d .ack)
    (hp : performScratch s m.dst ea op (some (slotKey m.src m.srcSlot, .ack)) = some p) (hd : p.deferred = false) :
    exec (.bankAccessArrive m.id) s = .next (((dropMsg p.s m.id).setSlot (slotKey m.src m.srcSlot)
      { (dropMsg p.s m.id).slot (slotKey m.src m.srcSlot) with answer := some (loadAnswer kd d p.old) }).post
        (.accessComplete m.src m.srcSlot)) := by
  rw [exec_bankAccessArrive, execBankAccessArrive, deliver_open _ _ hm hb, hbody]
  simp only [hp, bankAnswer, hd, Bool.false_eq_true, if_false]

/-- An access at its bank that the scratchpad does not perform now waits there (R102). -/
theorem bankAccess_waits {s : State} {m : Msg} {ea : Word} {op : AccessOp} {kd : LoadKind} {d : Reg} {r : Reply}
    (hm : findMsg s m.id = some m) (hb : behind s m = false) (hbody : m.body = .bank ea op kd d r) (hr : r ≠ .none)
    (hp : performScratch s m.dst ea op (some (slotKey m.src m.srcSlot, r)) = none) :
    exec (.bankAccessArrive m.id) s = .next (s.post (.bankAccessArrive m.id)) := by
  rw [exec_bankAccessArrive, execBankAccessArrive, deliver_open _ _ hm hb, hbody]
  cases r with
  | none => exact absurd rfl hr
  | ack => simp only [hp]
  | relaxed id => simp only [hp]

/-- Settles O30: each event is its own lemma above; a landing is decided by the landing places and the free slots. -/
theorem migrationAndBanks : Obligations.MigrationAndBanks := by
  unfold Obligations.MigrationAndBanks
  refine ⟨fun s c k d ea op kd fe em hw hst => ⟨(migrationDeparture_sends hw hst).1, fun hd => ?_⟩,
    fun s m x hm hb hbody hhome hst htakes => ?_, fun s c i n x hfe hop _ hwin hbusy hseg => landIn_load c i hfe hop hwin hbusy hseg,
    fun s c i x xs hx hfree => ?_, fun s c hx => ?_, fun s m x hm hb hbody hst hfe => ?_,
    fun s m ea op kd d p hm hb hbody hp hd => ?_, fun s m ea op kd d r hm hb hbody hr hp => bankAccess_waits hm hb hbody hr hp⟩
  · exact ⟨_, departing { s with curCore := c, curSlot := k } d ea op kd fe em, (migrationDeparture_sends hw hst).2 hd, rfl, rfl, rfl, rfl, rfl,
      travelling_vec _, rfl, rfl, mem_post .., rfl, rfl⟩
  · have hland := landing_places hm hb hbody hhome hst
    have htakes' : takesNoLandings (dropMsg s m.id) m.dst = false := htakes
    rw [hland]
    generalize hy : ({ x with slot := travelling (s.slot x.src) } : Context) = y
    have hysrc : y.src = x.src ∧ y.homeSlot = none := by subst hy; exact ⟨rfl, hhome⟩
    refine ⟨fun i hempty hfree => ?_, fun hnone => ?_⟩
    · simp only [execLanding.place, htakes', Bool.false_eq_true, if_false, show ((dropMsg s m.id).core m.dst).landing = [] from hempty,
        List.isEmpty_nil, if_true, show freeUnreserved (dropMsg s m.id) m.dst = some i from hfree]
    · have hchoice : (if ((dropMsg s m.id).core m.dst).landing.isEmpty then freeUnreserved (dropMsg s m.id) m.dst else none) = none := by
        rcases hnone with hl | hf
        · rw [if_neg (by rw [List.isEmpty_iff]; exact hl)]
        · rw [show freeUnreserved (dropMsg s m.id) m.dst = none from hf, ite_self]
      refine ⟨_, rfl, fun hroom => ?_, fun hfull => ?_⟩
      · simp only [execLanding.place, htakes', hchoice, Bool.false_eq_true, if_false,
          if_pos (show ((dropMsg s m.id).core m.dst).landing.length < 4 from hroom)]
        rw [leaveSource_guest hysrc.2, hysrc.1]
        refine ⟨?_, ?_, mem_post ..⟩
        · rw [core_post, core_setCore_same, List.length_append]
          rfl
        · exact (congrArg Slot.st (slot_setSlot_same (dropMsg s m.id) x.src _)).trans rfl
      · simp only [execLanding.place, htakes', hchoice, Bool.false_eq_true, if_false,
          if_neg (show ¬ ((dropMsg s m.id).core m.dst).landing.length < 4 from Nat.not_lt.mpr hfull)]
        refine ⟨rfl, rfl, s.nextId, ⟨⟨s.nextId, m.dst, 0, y.src / 16, .refusal y, none⟩, ?_, rfl, by rw [hysrc.1]⟩, mem_post ..⟩
        exact List.mem_append_right _ (List.mem_singleton_self _)
  · rw [exec_landingFromPlace, execLandingFromPlace, hx, hfree]
  · rw [exec_landingFromPlace, execLandingFromPlace, hx]
  · generalize hu : ({ dropMsg s m.id with curCore := x.src / 16, curSlot := x.src % 16 } : State) = u
    obtain ⟨⟨since, at_, hme⟩, ⟨ps, sl, ag, hframe⟩, -, -⟩ := outstanding_awaits u [] false
    have hexec := migrationRefused_asks hm hb hbody hst hfe hu
    generalize outstanding u [] false = v at hme hframe hexec
    have hcur : v.curCore = x.src / 16 ∧ v.curSlot = x.src % 16 ∧ v.cores = s.cores := by rw [hframe, ← hu]; exact ⟨rfl, rfl, rfl⟩
    have htx : v.me.tx = (s.slot (slotKey (x.src / 16) (x.src % 16))).tx := by rw [hme, ← hu]; rfl
    refine ⟨_, hexec, (congrArg Slot.wait hme).trans rfl, (congrArg Slot.st hme).trans rfl, hcur.2.2, v.nextId, ?_, mem_post ..⟩
    rw [← htx, ← hcur.1, ← hcur.2.1]
    exact List.mem_append_right _ (List.mem_singleton_self _)
  · exact ⟨_, bankAccess_performed hm hb hbody hp hd, (congrArg Slot.answer (slot_setSlot_same _ _ _)).trans rfl, mem_post .., rfl⟩

end Sys2Proof.Machine
end

section
/-! SUPPORT. Why a sealed record need not lie where the class of its page said before th.seal (TensorHandles): as for the
stores of GlobalStores, an UNTOUCHED granule takes the class of `privateTo 0x8000`, which is SHARED. -/

namespace Sys2Proof.Machine

/-- The address of a record named by x0. -/
def sealAddr : Word := readX outlyingCore 0

theorem clear_sealing : Clear false { reads := [xreg 0] } outlyingCore := by
  unfold Clear
  decide +kernel

theorem through_sealing :
    ThroughReq outlyingCore { ea := sealAddr, n := 64, align := 64, store := true } anyMapping (.dev 0) := by
  unfold ThroughReq NoConversion
  decide +kernel

theorem servedHome_sealing :
    servedHome outlyingCore (outlyingCore.partOf outlyingCore.curCore) sealAddr.toNat (.dev 0) = false := by
  decide +kernel

/-- The low byte of the seal of a record of zeros is at its home, which held 0. -/
theorem thSeal_outlyingCore {t : State} (h : exec (.thSeal 0) outlyingCore = .next t) :
    readByte t.devMem 36 ≠ readByte outlyingCore.devMem 36 := by
  have hrun : (match exec (.thSeal 0) outlyingCore with
      | .next u => decide (readByte u.devMem 36 ≠ readByte outlyingCore.devMem 36)
      | _ => false) = true := by decide +kernel
  rw [h] at hrun
  exact of_decide_eq_true hrun

/-- Refutes O47: a core numbered 2^15 seals a record in an UNTOUCHED granule, and the seal goes to memory, where the
statement, by the class before the access, has memory as it was and the seal in the first-level cache. R7 has 512 cores;
the statement bounds `curCore` nowhere. -/
theorem not_tensorHandles : ¬ Obligations.TensorHandles := by
  unfold Obligations.TensorHandles
  rintro ⟨-, -, hseal, -⟩
  obtain ⟨t, hexec, -, -, -, hstored⟩ := hseal outlyingCore 0 (.dev 0) clear_sealing through_sealing nofun
  obtain ⟨hsame, -⟩ := sameBytes_of_storedIn servedHome_sealing hstored
  exact thSeal_outlyingCore hexec (hsame 36)

end Sys2Proof.Machine
end

section
/-! SUPPORT. Why a load of an element need not leave every core as it was (TensorElements): the key of a slot numbered 16
or more is that of a slot of the next core, whose partition may be another one. -/

namespace Sys2Proof.Machine

/-- The record of a 4 by 2 matrix of i8 at address 0. -/
def farRecord : Vec := BitVec.ofNat 512 (4 * 2 ^ 48 + 2 * 2 ^ 40 + (4 + 2 * 2 ^ 32) * 2 ^ 128)

/-- Slot 16 of core 0, with a handle on a record whose storage page is SHARED in the partition of core 0, and READONLY in
partition 1, to which core 1 belongs. -/
def outlyingSlot : State :=
  { State.reset with
    curSlot := 16
    slots := [(16, { Slot.reset with st := .ready, h := (Vector.replicate 8 Handle.invalid).set 2 ⟨true, 0, farRecord, false⟩ })]
    cores := [(1, { Core.reset with mpart := 1 })]
    parts := [(0, { onePagePart with cls := [(0, 0xC000)] }), (1, { Part.reset 1 with cls := [(0, 0x8000)] })]
    hub := { Hub.reset with ready := BitVec.allOnes 64 } }

theorem ready_outlyingSlot : (handleAt outlyingSlot.me 2).valid = true ∧ (handleAt outlyingSlot.me 2).reload = false := by
  decide +kernel

theorem coords_outlyingSlot : coordsOf outlyingSlot 4 = (0, 0, 0, 0) := by decide +kernel

theorem element_outlyingSlot : coordElem (handleAt outlyingSlot.me 2).record 0 0 0 0 = (0, 0, 0) ∧
    badCoord (handleAt outlyingSlot.me 2).record 0 0 0 0 = none := by
  decide +kernel

theorem clear_outlyingSlot :
    Clear false { reads := [xreg 4, xreg (4 + 1)], vwrites := [xreg 3], bad := orBad (badHandle 2) (badRun 4 2) } outlyingSlot := by
  unfold Clear
  decide +kernel

theorem elemsOpen_outlyingSlot : ElemsOpen outlyingSlot false (handleAt outlyingSlot.me 2).record [(0, 0, 0)] := by
  unfold ElemsOpen OpenAt
  decide +kernel

/-- The load finds the granule READONLY in the partition of core 1, whose first-level cache takes the line. -/
theorem tldE_outlyingSlot {t : State} (h : exec (.tldE 3 2 4 false) outlyingSlot = .next t) : t.cores ≠ outlyingSlot.cores := by
  have hrun : (match exec (.tldE 3 2 4 false) outlyingSlot with
      | .next u => decide (u.cores ≠ outlyingSlot.cores)
      | _ => false) = true := by decide +kernel
  rw [h] at hrun
  exact of_decide_eq_true hrun

/-- Refutes O48: slot 16 of core 0 loads an element; the access is made as one of the slot with key 16, on core 1 and in its
partition, and fills the first-level cache of core 1, where the statement has every core as before. R7 has 16 slots; the
statement bounds `curSlot` nowhere. -/
theorem not_tensorElements : ¬ Obligations.TensorElements := by
  unfold Obligations.TensorElements
  rintro ⟨hload, -⟩
  have helem := hload outlyingSlot 3 2 4 false ready_outlyingSlot
  obtain ⟨hcoord, hbad⟩ := element_outlyingSlot
  rw [coords_outlyingSlot] at helem
  dsimp only at helem
  rw [hcoord] at helem
  obtain ⟨-, hgoes⟩ := helem clear_outlyingSlot
  obtain ⟨⟨t, hexec, hkeeps, -⟩, -⟩ := hgoes hbad elemsOpen_outlyingSlot
  obtain ⟨-, -, -, -, hcores, -⟩ := hkeeps
  exact tldE_outlyingSlot hexec hcores

end Sys2Proof.Machine
end

section
/-! SUPPORT. Special functions (R264, R265) and the top-k unit (R266 to R268). -/

namespace Sys2Proof.Machine

/-! ## Special functions over lanes (R264, R265) -/

theorem toNat_ofNat_fits {w n : Nat} (h : n < 2 ^ w) : (BitVec.ofNat w n).toNat = n := by
  rw [BitVec.toNat_ofNat, Nat.mod_eq_of_lt h]

theorem lanes_fit (lt : LaneT) : lt.bits * (512 / lt.bits) = 512 := by cases lt <;> rfl

/-- A special function over a register: the lanes that are live take its value, the others keep theirs (R248, R264). -/
theorem sfApply_lanes (fn : Nat) (lt : LaneT) (mode : Rnd) (merge : Bool) (vm : Word) (old v : Vec) :
    let live (k : Nat) : Bool := !merge || vm.getLsbD k
    let y (k : Nat) : Nat × Word := sfLane fn (laneFmt lt) mode (laneAt lt.bits k v.toNat)
    (sfApply fn lt mode merge vm old v).2 = laneFlags (fun k => if live k then (y k).2 else 0) (512 / lt.bits) ∧
    ∀ k, k < 512 / lt.bits → laneAt lt.bits k (sfApply fn lt mode merge vm old v).1.toNat =
      if live k then (y k).1 % 2 ^ lt.bits else laneAt lt.bits k old.toNat := by
  intro live y
  have happly : sfApply fn lt mode merge vm old v = (BitVec.ofNat 512 (mergeLanes merge vm lt.bits (512 / lt.bits) old.toNat y).1,
      (mergeLanes merge vm lt.bits (512 / lt.bits) old.toNat y).2) := by
    simp only [sfApply, laneFmt_eq]
    rfl
  rw [happly]
  refine ⟨?_, fun k hk => ?_⟩
  · simp only [mergeLanes, vmBit, foldl_flags, live]
    rfl
  · have hfit : (mergeLanes merge vm lt.bits (512 / lt.bits) old.toNat y).1 < 2 ^ 512 := by
      have hlt := packLanes_lt lt.bits (fun i => if live i then (y i).1 else laneAt lt.bits i old.toNat) (512 / lt.bits)
      rw [lanes_fit] at hlt
      exact hlt
    rw [toNat_ofNat_fits hfit]
    refine (laneAt_packLanes _ _ _ _ hk).trans ?_
    show (if live k then (y k).1 else laneAt lt.bits k old.toNat) % 2 ^ lt.bits = _
    by_cases hl : live k = true
    · rw [if_pos hl, if_pos hl]
    · rw [if_neg hl, if_neg hl, Nat.mod_eq_of_lt (laneAt_lt ..)]

/-- The state in which a special function has issued: its result pending, its arrival posted, the pipe closed after a 16-bit
one, and the slot gone on (R250, R265). -/
def specialIssued (s : State) (v : VPend) (lt : LaneT) : State :=
  finish (closeSf (unbound ((s.counted.setMe (s.me.awaiting v)).post (.variableResultArrival s.curCore s.curSlot v.id))) lt)

theorem specialIssued_does (s : State) (v : VPend) (lt : LaneT) : let t := specialIssued s v lt
    t.me.vpend = s.me.vpend ++ [v] ∧ t.agenda = s.agenda ++ [.variableResultArrival s.curCore s.curSlot v.id] ∧ t.me.pc = nextPc s ∧
    t.me.st = .ready ∧ t.me.x = s.me.x ∧ t.me.f = s.me.f ∧ t.me.csr = s.me.csr ∧
    (lt.bits = 16 → t.myCore.sfClosed = some (s.myCore.cyc + 1)) ∧ (∀ k, k ≠ s.cur → t.slot k = s.slot k) ∧
    t.devMem = s.devMem ∧ t.hostMem = s.hostMem := by
  generalize hw : unbound ((s.counted.setMe (s.me.awaiting v)).post (.variableResultArrival s.curCore s.curSlot v.id)) = w
  have hwme : w.me = (s.me.awaiting v).unbounded := by
    subst hw
    rw [unbound_eq, me_setMe, me_post, me_setMe]
  have hwframe : w.cur = s.cur ∧ w.agenda = s.agenda ++ [.variableResultArrival s.curCore s.curSlot v.id] ∧
      w.myCore = s.myCore ∧ w.devMem = s.devMem ∧ w.hostMem = s.hostMem := by subst hw; exact ⟨rfl, rfl, rfl, rfl, rfl⟩
  have hwslot (k : Nat) (hk : k ≠ s.cur) : w.slot k = s.slot k := by
    subst hw
    have hpend := slot_setMe_ne s.counted (s.me.awaiting v) (show k ≠ s.counted.cur from hk)
    exact (slot_setMe_ne ((s.counted.setMe (s.me.awaiting v)).post _) _ (show k ≠ s.cur from hk)).trans hpend
  generalize hu : closeSf w lt = u
  have hushape : ∃ cs, u = { w with cores := cs } := by
    subst hu
    unfold closeSf
    split
    · exact ⟨_, rfl⟩
    · exact ⟨w.cores, rfl⟩
  have hclosed (hb : lt.bits = 16) : u.myCore.sfClosed = some (s.myCore.cyc + 1) := by
    rw [← hu, closeSf, if_pos hb, myCore_setMyCore, hwframe.2.2.1]
  obtain ⟨lease, at_, cover, hfin⟩ := finish_slot u
  obtain ⟨cs, hu'⟩ := hushape
  have hume : u.me = (s.me.awaiting v).unbounded := by rw [hu']; exact hwme
  have hnext : nextPc u = nextPc s := nextPc_congr (by rw [hume]; rfl) (by rw [hume]; rfl) (by rw [hume]; rfl)
  rw [hume, hnext] at hfin
  intro t
  have ht : t = finish u := by rw [← hu, ← hw]; rfl
  have htme := (congrArg State.me ht).trans hfin
  obtain ⟨hcur, hag, -, hdev, hhost⟩ := hwframe
  refine ⟨by rw [htme]; rfl, ?_, by rw [htme], by rw [htme], by rw [htme]; rfl, by rw [htme]; rfl, by rw [htme]; rfl, fun hb => ?_, fun k hk => ?_, ?_, ?_⟩
  · rw [ht, ← hag, hu']; rfl
  · rw [ht]; exact hclosed hb
  · have hkeep : t.slot k = u.slot k := by
      rw [ht]
      exact slot_setMe_ne u _ (by rw [hu']; exact hcur ▸ hk)
    rw [hkeep, hu']
    exact hwslot k hk
  · rw [ht, ← hdev, hu']; rfl
  · rw [ht, ← hhost, hu']; rfl

/-- A special function of plain registers issues with its value pending (R264, R265). -/
theorem specialFn_issues {s : State} {d a : Reg} {c : VCtl} (fn : Nat) (ha : isBound s.me a = false) (hd : isBound s.me d = false)
    (hc : Clear false { reads := vreg a :: (if c.merge then [vreg d] else []), vwrites := [vreg d] } s) :
    let z := sfApply fn c.lt (rndOf s.me.csr.rmode c.rm) c.merge s.me.csr.vm (if c.merge then readV s d else 0) (readV s a)
    specialFn fn d a c s = .next (specialIssued s
      ⟨s.nextId, [vreg d], some [z.1], z.2, .special (s.myCore.cyc + sfLatency c.lt)⟩ c.lt) := by
  intro z
  have hboth (rs : List Reg) (h : ∀ r ∈ rs, r = a ∨ r = d) : ∀ r ∈ rs, isBound s.me r = false := fun r hr => by
    rcases h r hr with rfl | rfl
    · exact ha
    · exact hd
  have hpush (r : Vec) (act plain : State → Out) : pushV s s d r act plain = plain s := by
    simp only [pushV, boundQueue_none hd, boundStream_none hd]
  have hnote := noteBound_plain [d, a] (hboth [d, a] (by simp))
  have hone := plainV_plain [a] (hboth [a] (by simp))
  have hdst := plainV_plain [d] (hboth [d] (by simp))
  cases hm : c.merge
  · have hpop := popAll_plain [a] (hboth [a] (by simp))
    simp only [hm, Bool.false_eq_true, if_false] at hc
    simp only [specialFn, hm, Bool.false_and, Bool.false_eq_true, if_false, hone, hdst, List.map_cons, List.map_nil, List.append_nil,
      gate_clear hc, hpop, hnote, boundQueue_none hd, reduceCtorEq, hpush, pendV_eq, z]
    rfl
  · have hpop := popAll_plain [a, d] (hboth [a, d] (by simp))
    simp only [hm, if_true] at hc
    simp only [specialFn, hm, decide_false, Bool.true_and, Bool.not_false, if_true, hone, hdst, List.map_cons, List.map_nil, List.cons_append,
      List.nil_append, gate_clear hc, hpop, hnote, boundQueue_none hd, reduceCtorEq, if_false, hpush, pendV_eq, z]
    rfl

/-! ## The table of R264 -/

section Table
variable {fm : Fmt} {mode : Rnd} {a : Nat}

theorem sfLane_nan (fn : Nat) (h : decodeFmt fm a = .nan) : sfLane fn fm mode a = (fm.nan, if signalling fm a then flagNV else 0) := by
  simp only [sfLane, h, nvOf, List.any_cons, List.any_nil, Bool.or_false]

theorem sfLane_negInf (h : decodeFmt fm a = .inf true) : let f (fn : Nat) : Nat × Word := sfLane fn fm mode a
    [f 0, f 1, f 2, f 3, f 4, f 5, f 6, f 7, f 9] = [(0, 0), (0, 0), (fm.nan, flagNV), (fm.withSign true 0, 0), (fm.nan, flagNV),
      (fm.nan, flagNV), (fm.nan, flagNV), (fm.nan, flagNV), (0, 0)] := by
  simp only [sfLane, h, if_true]

theorem sfLane_posInf (h : decodeFmt fm a = .inf false) : let f (fn : Nat) : Nat × Word := sfLane fn fm mode a
    [f 0, f 1, f 2, f 3, f 4, f 5, f 6, f 7] = [(fm.inf false, 0), (fm.inf false, 0), (fm.inf false, 0), (0, 0), (0, 0),
      (fm.inf false, 0), (fm.nan, flagNV), (fm.nan, flagNV)] := by
  simp only [sfLane, h, Bool.false_eq_true, if_false]
  rfl

theorem sfLane_zero {p : Bool} {e : Nat} (h : decodeFmt fm a = .fin p 0 e) : let f (fn : Nat) : Nat × Word := sfLane fn fm mode a
    [f 2, f 3, f 4, f 5, f 6, f 8] = [(fm.inf true, flagDZ), (fm.inf p, flagDZ), (fm.inf p, flagDZ), (a, 0), (a, 0), (a, 0)] := by
  simp only [sfLane, h, if_true]

theorem sfLane_negative {m e : Nat} (hm : 0 < m) (h : decodeFmt fm a = .fin true m e) : let f (fn : Nat) : Nat × Word := sfLane fn fm mode a
    [f 2, f 4, f 5] = [(fm.nan, flagNV), (fm.nan, flagNV), (fm.nan, flagNV)] := by
  simp only [sfLane, h, if_neg (show ¬ m = 0 by omega), if_true]

theorem sfLane_finite {p : Bool} {m e : Nat} (hm : 0 < m) (h : decodeFmt fm a = .fin p m e) :
    sfLane 3 fm mode a = roundFixed fm mode (.fin p e m) ∧
    (2 ^ 20 * e < m → sfLane 6 fm mode a = (fm.nan, flagSR) ∧ sfLane 7 fm mode a = (fm.nan, flagSR)) := by
  refine ⟨?_, fun hbig => ?_⟩
  · simp only [sfLane, h, if_neg (show ¬ m = 0 by omega)]
  · simp only [sfLane, h, if_neg (show ¬ m = 0 by omega), if_pos hbig, and_self]

end Table

/-! ## The held set of a top-k session (R267) -/

/-- A candidate goes in before the first one that it ranks before (R267). -/
theorem rankInsert_splits (t : TopK) (p : KPair) (l : List KPair) : ∃ better worse, l = better ++ worse ∧
    rankInsert t p l = better ++ p :: worse ∧ (∀ b ∈ better, ranksBefore t p b = false) ∧ ∀ b ∈ worse.head?, ranksBefore t p b = true := by
  induction l with
  | nil => exact ⟨[], [], rfl, rfl, nofun, nofun⟩
  | cons b bs ih =>
    by_cases hb : ranksBefore t p b = true
    · refine ⟨[], b :: bs, rfl, by rw [rankInsert, if_pos hb]; rfl, nofun, fun c hc => ?_⟩
      obtain rfl : b = c := by simpa using hc
      exact hb
    · obtain ⟨better, worse, hl, hins, hlow, hhigh⟩ := ih
      refine ⟨b :: better, worse, by rw [hl]; rfl, by rw [rankInsert, if_neg hb, hins]; rfl, fun c hc => ?_, hhigh⟩
      rcases List.mem_cons.mp hc with rfl | hc
      · exact Bool.eq_false_iff.mpr hb
      · exact hlow c hc

/-- The session with another held set. -/
def TopK.holding (t : TopK) (l : List KPair) : TopK := { t with held := l }

theorem enterPair_holding (t : TopK) (p : KPair) : ∃ l, enterPair t p = t.holding l := by
  unfold enterPair
  split
  · exact ⟨t.held, rfl⟩
  · exact ⟨_, rfl⟩

theorem enterPair_refused {t : TopK} {p : KPair} (h : p.idx = 0xFFFFFFFF ∨ keyVal t.lt p.key = .nan) : enterPair t p = t := if_pos h

/-- Candidates entered one after the other change the held set alone. -/
theorem foldl_holding {α : Type} (f : TopK → α → TopK) (hf : ∀ t a, ∃ l, f t a = t.holding l) (as : List α) (t : TopK) :
    ∃ l, as.foldl f t = t.holding l := by
  induction as generalizing t with
  | nil => exact ⟨t.held, rfl⟩
  | cons a as ih =>
    obtain ⟨l, hl⟩ := hf t a
    obtain ⟨l', hl'⟩ := ih (f t a)
    exact ⟨l', by rw [List.foldl_cons, hl', hl]; rfl⟩

theorem foldl_unmoved {α β : Type} (f : β → α → β) (as : List α) (t : β) (h : ∀ a ∈ as, f t a = t) : as.foldl f t = t := by
  induction as with
  | nil => rfl
  | cons a as ih => rw [List.foldl_cons, h a (List.mem_cons_self ..), ih fun b hb => h b (List.mem_cons_of_mem _ hb)]

/-- Of the numbers below `n`, one alone takes part. -/
theorem foldl_range_one {β : Type} (f : β → Nat → β) (j : Nat) (hf : ∀ t i, i ≠ j → f t i = t) (n : Nat) (t : β) :
    (List.range n).foldl f t = if j < n then f t j else t := by
  induction n with
  | zero => rfl
  | succ n ih =>
    rw [List.range_succ, List.foldl_append, ih]
    show f (if j < n then f t j else t) n = _
    rcases Nat.lt_trichotomy j n with hlt | rfl | hgt
    · rw [hf _ n (by omega), if_pos hlt, if_pos (by omega)]
    · rw [if_neg (by omega), if_pos (by omega)]
    · rw [hf _ n (by omega), if_neg (by omega), if_neg (by omega)]

/-- The candidate in lane i of a chunk (R267). -/
def candidate (t : TopK) (v : Vec) (i : Nat) : KPair := ⟨BitVec.ofNat 32 (laneAt t.lt.bits i v.toNat), t.counter + BitVec.ofNat 32 i⟩

/-- A chunk of candidates: the counter moves by the lanes, and those that `VM` enables are entered (R267). -/
theorem enterChunk_enters (t : TopK) (vm : Word) (v : Vec) : ∃ l, enterChunk t vm v =
      { t with held := l, counter := t.counter + BitVec.ofNat 32 (512 / t.lt.bits) } ∧
    (vm = 0 → l = t.held) ∧
    ∀ j, j < 512 / t.lt.bits → vm = BitVec.ofNat 64 (2 ^ j) → l = (enterPair t (candidate t v j)).held := by
  generalize hf : (fun (t' : TopK) i => if vmBit vm i then enterPair t' (candidate t v i) else t') = f
  have hfold : ∃ l, (List.range (512 / t.lt.bits)).foldl f t = t.holding l := foldl_holding f (fun t' i => by
    subst hf
    show ∃ l, (if vmBit vm i then enterPair t' (candidate t v i) else t') = t'.holding l
    split
    · exact enterPair_holding ..
    · exact ⟨t'.held, rfl⟩) _ t
  obtain ⟨l, hl⟩ := hfold
  refine ⟨l, ?_, fun hvm => ?_, fun j hj hvm => ?_⟩
  · have hchunk : enterChunk t vm v =
        { (List.range (512 / t.lt.bits)).foldl f t with counter := t.counter + BitVec.ofNat 32 (512 / t.lt.bits) } := by
      subst hf
      rfl
    rw [hchunk, hl]
    rfl
  · have hstill := foldl_unmoved f (List.range (512 / t.lt.bits)) t fun i _ => by
      subst hf hvm
      show (if vmBit 0 i then enterPair t (candidate t v i) else t) = t
      rw [vmBit, show (0 : Word).getLsbD i = false from BitVec.getLsbD_zero, if_neg Bool.false_ne_true]
    exact congrArg TopK.held (hl.symm.trans hstill)
  · have hbits : 512 / t.lt.bits ≤ 64 := by cases t.lt <;> decide
    have hbit (i : Nat) : vmBit vm i = decide (i = j) := by
      rw [hvm, vmBit, BitVec.getLsbD_ofNat, Nat.testBit_two_pow]
      by_cases hij : i = j
      · simp [hij, show j < 64 by omega]
      · simp [hij, Ne.symm hij]
    have hone := foldl_range_one f j (fun t' i hij => by
      subst hf
      show (if vmBit vm i then enterPair t' (candidate t v i) else t') = t'
      rw [hbit, if_neg (by simpa using hij)]) (512 / t.lt.bits) t
    have hj' : f t j = enterPair t (candidate t v j) := by
      subst hf
      show (if vmBit vm j then enterPair t (candidate t v j) else t) = _
      rw [hbit, if_pos (by simp)]
    rw [if_pos hj, hj'] at hone
    exact congrArg TopK.held (hl.symm.trans hone)

/-- A chunk of pairs changes the held set alone, and padding nothing (R267). -/
theorem mergePairs_merges (t : TopK) (v : Vec) : ∃ l, mergePairs t v = t.holding l ∧
    ((∀ j, j < 8 → laneAt 64 j v.toNat / 2 ^ 32 = 0xFFFFFFFF) → l = t.held) := by
  obtain ⟨l, hl⟩ := foldl_holding (fun (t' : TopK) j => enterPair t' ⟨BitVec.ofNat 32 (if t.lt.bits = 16 then
      laneAt 64 j v.toNat % 2 ^ 16 else laneAt 64 j v.toNat % 2 ^ 32), BitVec.ofNat 32 (laneAt 64 j v.toNat / 2 ^ 32)⟩)
    (fun t' j => enterPair_holding ..) (List.range 8) t
  refine ⟨l, hl, fun hpad => ?_⟩
  have hstill := foldl_unmoved (fun (t' : TopK) j => enterPair t' ⟨BitVec.ofNat 32 (if t.lt.bits = 16 then
      laneAt 64 j v.toNat % 2 ^ 16 else laneAt 64 j v.toNat % 2 ^ 32), BitVec.ofNat 32 (laneAt 64 j v.toNat / 2 ^ 32)⟩)
    (List.range 8) t fun j hj => enterPair_refused (.inl (by
      show BitVec.ofNat 32 (laneAt 64 j v.toNat / 2 ^ 32) = _
      rw [hpad j (List.mem_range.mp hj)]
      rfl))
  exact congrArg TopK.held (hl.symm.trans hstill)

/-! ## The instructions of the unit (R266 to R268) -/

theorem badTopK_iff (v : Word) : badTopK v = true ↔ ¬ (0 < v.toNat % 512 ∧ v.toNat % 512 ≤ 256 ∧ v.toNat / 512 % 2 ^ 23 = 0) := by
  have hk : (v.extractLsb' 0 9).toNat = v.toNat % 512 := by rw [BitVec.extractLsb'_toNat, Nat.shiftRight_zero]
  have hz : (v.extractLsb' 9 23).toNat = v.toNat / 512 % 2 ^ 23 := by rw [BitVec.extractLsb'_toNat, Nat.shiftRight_eq_div_pow]
  have hkz : v.extractLsb' 0 9 = 0#9 ↔ v.toNat % 512 = 0 := by rw [← BitVec.toNat_inj, hk]; rfl
  have hzz : v.extractLsb' 9 23 = 0#23 ↔ v.toNat / 512 % 2 ^ 23 = 0 := by rw [← BitVec.toNat_inj, hz]; rfl
  simp only [badTopK, Bool.or_eq_true, bne_iff_ne, beq_iff_eq, decide_eq_true_eq, hk]
  rw [show (0 : BitVec 23) = 0#23 from rfl, show (0 : BitVec 9) = 0#9 from rfl, ne_eq, hkz, hzz]
  omega

/-- What a chunk put into the session does (R267). -/
theorem topkInput_session {s : State} {a : Reg} {t : TopK} (enter : TopK → Word → Vec → TopK) (ha : isBound s.me a = false)
    (hc : Clear false { reads := [vreg a] } s) (ht : s.me.topk = some t) :
    (t.isOpen = false → topkInput enter a s = .next (trapI s 0x64 0)) ∧
    (t.isOpen = true → RunsTo (topkInput enter a s) (s.setMe { s.me with topk := some (enter t s.me.csr.vm (readV s a)) }) (nextPc s)) := by
  have hone : ∀ r ∈ [a], isBound s.me r = false := by simpa using ha
  refine ⟨fun ho => ?_, fun ho => ?_⟩
  · simp only [topkInput, plainV_plain [a] hone, List.map_cons, List.map_nil, gate_clear hc, popV_plain ha, openSession, ht, ho,
      Bool.false_eq_true, if_false]
  · simp only [topkInput, plainV_plain [a] hone, List.map_cons, List.map_nil, gate_clear hc, popV_plain ha, noteBound_plain [a] hone, openSession,
      ht, ho, if_true]
    have hnext : nextPc (s.setMe { s.me with topk := some (enter t s.me.csr.vm (readV s a)) }) = nextPc s :=
      nextPc_congr (by rw [me_setMe]) (by rw [me_setMe]) (by rw [me_setMe])
    rw [← hnext]
    exact runsTo_finish _

theorem pairBits_lt (p : KPair) : pairBits p < 2 ^ 64 := by
  have hk := p.key.isLt
  have hi := p.idx.isLt
  unfold pairBits
  omega

/-- The chunks of a held set: their number, and the pair in each place, padded (R268). -/
theorem topkChunks_hold (l : List KPair) : (topkChunks l).length = max 1 ((l.length + 7) / 8) ∧
    ∀ j i, j < (topkChunks l).length → i < 8 →
      laneAt 64 i ((topkChunks l).getD j 0).toNat = pairBits (l.getD (8 * j + i) padPair) := by
  have hlen : (topkChunks l).length = max 1 ((l.length + 7) / 8) := by rw [topkChunks, List.length_map, List.length_range]
  refine ⟨hlen, fun j i hj hi => ?_⟩
  have hchunk : (topkChunks l).getD j 0 = topkVec l j := by
    rw [List.getD_eq_getElem _ _ hj]
    simp only [topkChunks, List.getElem_map, List.getElem_range]
  have hfit := packLanes_lt 64 (fun i => pairBits (l.getD (8 * j + i) padPair)) 8
  rw [show 64 * 8 = 512 from rfl] at hfit
  rw [hchunk, topkVec, toNat_ofNat_fits hfit, laneAt_packLanes _ _ _ _ hi, Nat.mod_eq_of_lt (pairBits_lt _)]

/-- `topk.out` closes the session, with its count pending and its chunks to be produced (R268). -/
theorem topkOut_closes {s : State} {d : Reg} {t : TopK} (hc : Clear false { vwrites := [xreg d] } s) (hd : d ≠ 0) (ht : s.me.topk = some t)
    (hout : t.out = []) : ∃ u, exec (.topkOut d) s = .next u ∧
      u.me.topk = some { t with isOpen := false, out := topkChunks t.held } ∧
      u.me.vpend = s.me.vpend ++ [⟨s.nextId, [xreg d], some [BitVec.ofNat 512 t.held.length], 0, .plain⟩] ∧ u.me.pc = nextPc s ∧
      .topkChunk s.curCore s.curSlot ∈ u.agenda ∧ u.me.x = s.me.x ∧ u.cores = s.cores ∧ u.devMem = s.devMem := by
  generalize hw : writeVar s (xreg d) (BitVec.ofNat 512 t.held.length) 0 = w
  have hwrite := writeVar_eq s (BitVec.ofNat 512 t.held.length) 0 hd
  rw [hw] at hwrite
  have hwme : w.me = s.me.unbounded.awaiting ⟨s.nextId, [xreg d], some [BitVec.ofNat 512 t.held.length], 0, .plain⟩ := by
    rw [hwrite, me_post, me_setMe]
  have hwframe : w.curCore = s.curCore ∧ w.curSlot = s.curSlot ∧ w.cores = s.cores ∧ w.devMem = s.devMem := by
    rw [hwrite]; exact ⟨rfl, rfl, rfl, rfl⟩
  generalize hy : ((w.setMe { w.me with topk := some { t with isOpen := false, out := topkChunks t.held } }).post
    (.topkChunk w.curCore w.curSlot)) = y
  have hyme : y.me = { w.me with topk := some { t with isOpen := false, out := topkChunks t.held } } := by
    rw [← hy, me_post, me_setMe]
  have hyframe : .topkChunk w.curCore w.curSlot ∈ y.agenda ∧ y.cores = w.cores ∧ y.devMem = w.devMem := by
    subst hy; exact ⟨mem_post .., rfl, rfl⟩
  obtain ⟨lease, at_, cover, hfin⟩ := finish_slot y
  have hnext : nextPc y = nextPc s := nextPc_congr (by rw [hyme, hwme]; rfl) (by rw [hyme, hwme]; rfl) (by rw [hyme, hwme]; rfl)
  obtain ⟨hc', hs', hcores, hdev⟩ := hwframe
  obtain ⟨hmem, hycores, hydev⟩ := hyframe
  rw [hyme, hwme, hnext] at hfin
  refine ⟨finish y, ?_, by rw [hfin], by rw [hfin]; rfl, by rw [hfin], ?_, by rw [hfin]; rfl, hycores.trans hcores, hydev.trans hdev⟩
  · rw [exec_topkOut, execTopkOut, gate_clear hc]
    simp only [sessionOf, ht, hout, List.nil_append]
    rw [← hy, ← hw]
    rfl
  · rw [← hc', ← hs']
    exact hmem

/-- A chunk of `topk.out` reaches `qk` while it has room (R268). -/
theorem topkChunk_produces {s : State} {c k : Nat} {t : TopK} {v : Vec} {vs : List Vec} (ht : (s.slot (slotKey c k)).topk = some t)
    (hout : t.out = v :: vs) :
    ((s.slot (slotKey c k)).qk.length < 4 → ∃ u, exec (.topkChunk c k) s = .next u ∧
      (u.slot (slotKey c k)).qk = (s.slot (slotKey c k)).qk ++ [v] ∧ (u.slot (slotKey c k)).topk = some { t with out := vs } ∧
      (∀ j, j ≠ slotKey c k → u.slot j = s.slot j) ∧ u.cores = s.cores ∧ u.devMem = s.devMem) ∧
    (4 ≤ (s.slot (slotKey c k)).qk.length → exec (.topkChunk c k) s = .next s) := by
  refine ⟨fun hroom => ?_, fun hfull => ?_⟩
  · generalize hw : s.setSlot (slotKey c k)
      { s.slot (slotKey c k) with qk := (s.slot (slotKey c k)).qk ++ [v], topk := some { t with out := vs } } = w
    have hexec : exec (.topkChunk c k) s = .next (if vs.isEmpty then w else w.post (.topkChunk c k)) := by
      rw [exec_topkChunk, execTopkChunk]
      simp only [ht, hout, if_neg (show ¬ 4 ≤ (s.slot (slotKey c k)).qk.length by omega), hw]
    have hslot : w.slot (slotKey c k) =
        { s.slot (slotKey c k) with qk := (s.slot (slotKey c k)).qk ++ [v], topk := some { t with out := vs } } := by
      subst hw; exact slot_setSlot_same ..
    have hframe : (∀ j, j ≠ slotKey c k → w.slot j = s.slot j) ∧ w.cores = s.cores ∧ w.devMem = s.devMem := by
      subst hw; exact ⟨fun j hj => slot_setSlot_ne s _ hj, rfl, rfl⟩
    refine ⟨_, hexec, ?_⟩
    split
    · exact ⟨by rw [hslot], by rw [hslot], hframe⟩
    · exact ⟨by rw [slot_post, hslot], by rw [slot_post, hslot], hframe⟩
  · rw [exec_topkChunk, execTopkChunk]
    simp only [ht, hout, if_pos hfull]

end Sys2Proof.Machine
end

section
/-! SUPPORT. Loads that nothing stops: the class lookup of R85, the first-level cache of R87, and relaxed loads (R90, R130),
which change no byte. -/

namespace Sys2Proof.Machine

/-! ## The class lookup before a load (R85) -/

/-- Two states that differ in class entries at most. -/
def OnlyClasses (s t : State) : Prop := OnlyParts s t ∧ ∀ q, ∃ cls, t.part q = { s.part q with cls := cls }

theorem onlyClasses_refl (s : State) : OnlyClasses s s := ⟨onlyParts_refl s, fun q => ⟨(s.part q).cls, rfl⟩⟩

theorem onlyClasses_setClass (s : State) (p va : Nat) (e : BitVec 16) : OnlyClasses s (setClass s p va e) := by
  refine ⟨onlyParts_setPart .., fun q => ?_⟩
  by_cases hq : q = p
  · exact ⟨put (s.part p).cls (va / 4096) e, by rw [hq]; exact part_setPart_same ..⟩
  · exact ⟨(s.part q).cls, part_setPart_ne s _ hq⟩

section Classes
variable {s t : State} (h : OnlyClasses s t)
include h

theorem OnlyClasses.frame : t.cores = s.cores ∧ t.slots = s.slots ∧ t.devMem = s.devMem ∧ t.hostMem = s.hostMem ∧ t.rdc = s.rdc ∧
    t.curCore = s.curCore ∧ t.curSlot = s.curSlot ∧ t.agenda = s.agenda := by
  obtain ⟨⟨ps, rfl⟩, -⟩ := h
  exact ⟨rfl, rfl, rfl, rfl, rfl, rfl, rfl, rfl⟩

theorem OnlyClasses.partOf (c : Nat) : t.partOf c = s.partOf c := by
  obtain ⟨⟨ps, rfl⟩, -⟩ := h
  rfl

theorem OnlyClasses.core (c : Nat) : t.core c = s.core c := by
  obtain ⟨⟨ps, rfl⟩, -⟩ := h
  rfl

theorem OnlyClasses.convAt (p va : Nat) : convAt (t.part p) va = Machine.convAt (s.part p) va := by
  obtain ⟨cls, hp⟩ := h.2 p
  rw [hp]
  rfl

theorem OnlyClasses.l1At (c va : Nat) : l1At t c va = Machine.l1At s c va := by
  obtain ⟨cls, hp⟩ := h.2 (s.partOf c)
  simp only [Machine.l1At, l1Tag, h.core, h.partOf, hp]

theorem OnlyClasses.lineQueue (p key : Nat) : lineQueue t p key = Machine.lineQueue s p key := by
  obtain ⟨cls, hp⟩ := h.2 p
  simp only [Machine.lineQueue, hp]

theorem OnlyClasses.copyHolds (p key : Nat) : copyHolds t p key = Machine.copyHolds s p key := by
  obtain ⟨cls, hp⟩ := h.2 p
  simp only [Machine.copyHolds, hp]

theorem OnlyClasses.lineOpen (p key k : Nat) : lineOpen t p key k = Machine.lineOpen s p key k := by
  obtain ⟨cls, hp⟩ := h.2 p
  simp only [Machine.lineOpen, lineStuck, heldElsewhere, h.lineQueue, h.copyHolds, hp]

end Classes

theorem classStep_load (e : BitVec 16) (c : Nat) : (classOf e = 0 ∧ classStep e (some c) false = .set readonly) ∨
    (classOf e ≠ 0 ∧ (classStep e (some c) false = .keep ∨ classStep e (some c) false = .reclassify)) := by
  unfold classStep
  rcases classOf e with _ | _ | _ | k
  · exact .inl ⟨rfl, rfl⟩
  · refine .inr ⟨Nat.one_ne_zero, ?_⟩
    by_cases ho : ownerOf e = c
    · exact .inl (if_pos ho)
    · exact .inr (if_neg ho)
  · exact .inr ⟨by omega, .inl rfl⟩
  · exact .inr ⟨by omega, .inl rfl⟩

theorem classEntry_setClass (s : State) (p va : Nat) (e : BitVec 16) : classEntry ((setClass s p va e).part p) va = e := by
  rw [setClass, part_setPart_same]
  exact look_put_same ..

/-- A load of a core leaves what serves its page as it was, and an UNTOUCHED page READONLY (R85). -/
theorem touch_load {s t : State} {p va c : Nat} {l : Loc} (h : touch s p va l (some c) false = (t, true)) :
    OnlyClasses s t ∧ servedHome t p va l = servedHome s p va l ∧ (l.isHost = false → classOf (classEntry (t.part p) va) ≠ 0) := by
  unfold touch at h
  split at h
  · next hhost =>
    cases h
    exact ⟨onlyClasses_refl s, rfl, fun hd => absurd (hhost.symm.trans hd) (by decide)⟩
  · split at h
    · cases h
    · rcases classStep_load (classEntry (s.part p) va) c with ⟨h0, hset⟩ | ⟨hne, hkeep | hre⟩
      · rw [hset] at h
        cases h
        refine ⟨onlyClasses_setClass .., ?_, fun _ => ?_⟩
        · rw [servedHome, servedHome, classEntry_setClass, h0]
          rfl
        · rw [classEntry_setClass]
          decide
      · rw [hkeep] at h
        cases h
        exact ⟨onlyClasses_refl s, rfl, fun _ => hne⟩
      · rw [hre] at h
        cases h

/-! ## What loads leave alone -/

theorem onlyLoads_of_eq {s t : State} {c va : Nat} {l : Loc} (hdev : t.devMem = s.devMem) (hhost : t.hostMem = s.hostMem)
    (hcores : t.cores = s.cores) (hparts : t.parts = s.parts) : OnlyLoads s t c va l := by
  have hcore (d : Nat) : t.core d = s.core d := by simp only [State.core, hcores]
  have hl1 (d a : Nat) : l1At t d a = l1At s d a := by simp only [l1At, State.partOf, State.part, hcore, hparts]
  refine ⟨⟨fun a => by rw [hdev], fun a => by rw [hhost]⟩, ⟨fun d _ => hcore d, by rw [hcore], fun a _ => hl1 c a⟩,
    fun x hx => by rw [hl1]; exact hx, ?_, fun _ => hcores⟩
  simp only [lineSeen, hl1, memLine, hdev]

/-- What a load notes in the slots: stores seen and copies that are stale (R130, R132). -/
def OnlyNotes (s t : State) : Prop :=
  t.curCore = s.curCore ∧ t.curSlot = s.curSlot ∧ ∀ j, ∃ seen old, t.slot j = { s.slot j with seen := seen, oldCopies := old }

theorem onlyNotes_of_eq {s t : State} (hc : t.curCore = s.curCore) (hk : t.curSlot = s.curSlot) (hs : t.slots = s.slots) : OnlyNotes s t :=
  ⟨hc, hk, fun j => ⟨(s.slot j).seen, (s.slot j).oldCopies, by simp only [State.slot, hs]⟩⟩

theorem OnlyNotes.trans {s t u : State} (h : OnlyNotes s t) (g : OnlyNotes t u) : OnlyNotes s u := by
  obtain ⟨hc, hk, hslot⟩ := h
  obtain ⟨gc, gk, gslot⟩ := g
  refine ⟨gc.trans hc, gk.trans hk, fun j => ?_⟩
  obtain ⟨a, b, hj⟩ := hslot j
  obtain ⟨a', b', gj⟩ := gslot j
  exact ⟨a', b', by rw [gj, hj]⟩

theorem OnlyNotes.setSlot {s u : State} (h : OnlyNotes s u) (k : Nat) (seen : List Seen) (old : List Nat) :
    OnlyNotes s (u.setSlot k { s.slot k with seen := seen, oldCopies := old }) := by
  obtain ⟨hc, hk, hslot⟩ := h
  refine ⟨hc, hk, fun j => ?_⟩
  by_cases hj : j = k
  · exact ⟨seen, old, by rw [hj, slot_setSlot_same]⟩
  · rw [slot_setSlot_ne u _ hj]
    exact hslot j

/-- A state that differs in slots, copies of lines and what serves no byte. -/
def SameStores (s t : State) : Prop := t.devMem = s.devMem ∧ t.hostMem = s.hostMem ∧ t.cores = s.cores ∧ t.parts = s.parts

theorem SameStores.trans {s t u : State} (h : SameStores s t) (g : SameStores t u) : SameStores s u :=
  ⟨g.1.trans h.1, g.2.1.trans h.2.1, g.2.2.1.trans h.2.2.1, g.2.2.2.trans h.2.2.2⟩

theorem noteRequest_notes (s : State) (port : Nat) (home : Bool) (l : Loc) :
    OnlyNotes s (noteRequest s port home l) ∧ SameStores s (noteRequest s port home l) ∧ (noteRequest s port home l).rdc = s.rdc := by
  unfold noteRequest
  split
  · exact ⟨onlyNotes_of_eq rfl rfl rfl, ⟨rfl, rfl, rfl, rfl⟩, rfl⟩
  · exact ⟨onlyNotes_of_eq rfl rfl rfl, ⟨rfl, rfl, rfl, rfl⟩, rfl⟩

theorem noteSeen_notes (s : State) (k p va : Nat) (l : Loc) : OnlyNotes s (noteSeen s k p va l) ∧ SameStores s (noteSeen s k p va l) := by
  unfold noteSeen
  dsimp only
  split
  · exact ⟨onlyNotes_of_eq rfl rfl rfl, rfl, rfl, rfl, rfl⟩
  · exact ⟨(onlyNotes_of_eq rfl rfl rfl : OnlyNotes s s).setSlot k _ (s.slot k).oldCopies, rfl, rfl, rfl, rfl⟩

theorem makeRoom_notes (s : State) (die line : Nat) : OnlyNotes s (makeRoom s die line) ∧ SameStores s (makeRoom s die line) := by
  unfold makeRoom
  dsimp only
  split
  · exact ⟨onlyNotes_of_eq rfl rfl rfl, rfl, rfl, rfl, rfl⟩
  · split
    · exact ⟨onlyNotes_of_eq rfl rfl rfl, rfl, rfl, rfl, rfl⟩
    · exact ⟨onlyNotes_of_eq rfl rfl rfl, rfl, rfl, rfl, rfl⟩

theorem fillCopy_notes (s : State) (c : Nat) (l : Loc) : OnlyNotes s (fillCopy s c l) ∧ SameStores s (fillCopy s c l) := by
  unfold fillCopy
  split
  · next pa =>
    split
    · exact ⟨onlyNotes_of_eq rfl rfl rfl, rfl, rfl, rfl, rfl⟩
    · dsimp only
      have hroom : ∀ u : State, u = s ∨ u = makeRoom s (c / 128) (pa / 128) → ∀ m,
          OnlyNotes s { u with rdc := m } ∧ SameStores s { u with rdc := m } := by
        rintro u (rfl | rfl) m
        · exact ⟨onlyNotes_of_eq rfl rfl rfl, rfl, rfl, rfl, rfl⟩
        · obtain ⟨hn, hs⟩ := makeRoom_notes s (c / 128) (pa / 128)
          exact ⟨hn.trans (onlyNotes_of_eq rfl rfl rfl), hs⟩
      split
      · exact hroom _ (.inl rfl) _
      · exact hroom _ (.inr rfl) _
  · exact ⟨onlyNotes_of_eq rfl rfl rfl, rfl, rfl, rfl, rfl⟩

theorem refill_notes (s : State) (k : Nat) (l : Loc) : OnlyNotes s (refill s k l) ∧ SameStores s (refill s k l) := by
  cases l with
  | dev pa =>
    obtain ⟨hn, hs⟩ := fillCopy_notes s (k / 16) (.dev pa)
    exact ⟨hn.setSlot k (s.slot k).seen _, hs⟩
  | host pa c => exact ⟨onlyNotes_of_eq rfl rfl rfl, rfl, rfl, rfl, rfl⟩

/-! ## The first-level cache (R87) -/

theorem map_place_some {α : Type} (m : SMap α) (k : Nat) (v : α) :
    (place m k v).map (fun e => (e.1, some e.2)) = place (m.map fun e => (e.1, some e.2)) k (some v) := by
  induction m with
  | nil => rfl
  | cons e m ih =>
    obtain ⟨j, w⟩ := e
    by_cases hk : k < j
    · simp only [place, hk, if_true, List.map_cons]
    · simp only [place, hk, if_false, List.map_cons, ih]

theorem map_remove_some {α : Type} (m : SMap α) (k : Nat) :
    (remove m k).map (fun e => (e.1, some e.2)) = remove (m.map fun e => (e.1, some e.2)) k := by
  induction m with
  | nil => rfl
  | cons e m ih =>
    obtain ⟨j, w⟩ := e
    by_cases hk : j = k
    · simp only [remove, hk, if_true, List.map_cons, ih]
    · simp only [remove, hk, if_false, List.map_cons, ih]

theorem map_put_some {α : Type} (m : SMap α) (k : Nat) (v : α) :
    (put m k v).map (fun e => (e.1, some e.2)) = put (m.map fun e => (e.1, some e.2)) k (some v) := by
  simp only [put, map_place_some, map_remove_some]

/-- A line put into the first-level cache of a core is there, and every other line is as it was (R87). -/
theorem setL1_puts (s : State) (c va : Nat) (x : L1Line) : let t := setL1 s c va x
    l1At t c va = some x ∧ (∀ a, a / 128 ≠ va / 128 → l1At t c a = l1At s c a) ∧ (∀ d, d ≠ c → t.core d = s.core d) ∧
    t.core c = { s.core c with l1 := (t.core c).l1 } := by
  intro t
  have hcore : t.core c = { s.core c with l1 := put (s.core c).l1 (l1Tag (s.part (s.partOf c)) va) x } := core_setCore_same ..
  have hpart : t.part (t.partOf c) = s.part (s.partOf c) := by
    have hp : t.partOf c = s.partOf c := by simp only [State.partOf, hcore]
    rw [hp]
    rfl
  have hl1 (a : Nat) : l1At t c a = look (put ((s.core c).l1.map fun e => (e.1, some e.2)) (l1Tag (s.part (s.partOf c)) va) (some x)) none
      (l1Tag (s.part (s.partOf c)) a) := by
    rw [l1At, hpart, hcore, ← map_put_some]
  refine ⟨by rw [hl1, look_put_same], fun a ha => ?_, fun d hd => core_setCore_ne s _ hd, by rw [hcore]⟩
  rw [hl1, look_put_ne _ _ _ (by unfold l1Tag; omega)]
  rfl

/-- A miss of the first-level cache brings in the line from memory, a hit nothing (R87). -/
theorem l1Fill_fills (s : State) (c va pa : Nat) (writable readonly : Bool) :
    let r := l1Fill s c va (.dev pa) writable readonly
    r.2.data = lineSeen s c va (.dev pa) ∧ OnlyNotes s r.1 ∧ r.1.devMem = s.devMem ∧ r.1.hostMem = s.hostMem ∧ SameButLine s r.1 c va ∧
    (∀ x, l1At s c va = some x → l1At r.1 c va = some x) ∧ lineSeen r.1 c va (.dev pa) = lineSeen s c va (.dev pa) := by
  intro r
  cases hx : l1At s c va with
  | some x =>
    have hr : r = (s, { x with writable := x.writable || writable }) := by simp only [r, l1Fill, hx]
    rw [hr]
    refine ⟨?_, onlyNotes_of_eq rfl rfl rfl, rfl, rfl, ⟨fun d _ => rfl, rfl, fun a _ => rfl⟩, fun y hy => hx.trans hy, rfl⟩
    simp only [lineSeen, hx]
  | none =>
    generalize hu : (if readonly then fillCopy s c (.dev pa) else s) = u
    have hnotes : OnlyNotes s u ∧ SameStores s u := by
      subst hu
      split
      · exact fillCopy_notes ..
      · exact ⟨onlyNotes_of_eq rfl rfl rfl, rfl, rfl, rfl, rfl⟩
    obtain ⟨hnotes, hdev, hhost, hcores, hparts⟩ := hnotes
    have hucore (d : Nat) : u.core d = s.core d := by simp only [State.core, hcores]
    have hul1 (a : Nat) : l1At u c a = l1At s c a := by simp only [l1At, State.partOf, State.part, hucore, hparts]
    have hseen : lineSeen s c va (.dev pa) = memLine s pa := by simp only [lineSeen, hx, Loc.addr]
    have hr : r = (setL1 u c va ⟨memLine s pa, 0, .dev (pa / 128 * 128), writable⟩, ⟨memLine s pa, 0, .dev (pa / 128 * 128), writable⟩) := by
      simp only [r, l1Fill, hx, hu]
    rw [hr, hseen]
    generalize memLine s pa = line
    obtain ⟨hin, hother, hcore, hown⟩ := setL1_puts u c va ⟨line, 0, .dev (pa / 128 * 128), writable⟩
    have hline : OnlyNotes u (setL1 u c va ⟨line, 0, .dev (pa / 128 * 128), writable⟩) := onlyNotes_of_eq rfl rfl rfl
    refine ⟨rfl, hnotes.trans hline, hdev, hhost, ⟨fun d hd => (hcore d hd).trans (hucore d), ?_, fun a ha => ?_⟩,
      fun x hs => (Option.some_ne_none x hs.symm).elim, ?_⟩
    · rw [hown, hucore]
    · rw [hother a ha, hul1]
    · rw [lineSeen, hin]

/-! ## Loads where they are served (R87, R125) -/

theorem performGlobal_load {s : State} {p va n : Nat} (l : Loc) (w : Option (Nat × Reply)) (h : convAt (s.part p) va = none) :
    performGlobal s p va l (.load n) w = ⟨s, bytesToNat (readBytes (memoryOf s l) l.addr n), false⟩ := by
  have hbytes : s.bytesAt l n = readBytes (memoryOf s l) l.addr n := by cases l <;> rfl
  simp only [performGlobal, h, Option.isSome_none, Bool.false_eq_true, if_false]
  rw [← hbytes]
  rfl

/-- A load of a core within a line, no relayout covering it, gives the bytes as the core sees them and changes none (R87). -/
theorem performServed_load {s : State} {c va n : Nat} {l : Loc} (w : Option (Nat × Reply)) (hconv : convAt (s.part (s.partOf c)) va = none)
    (hfit : va % 128 + n ≤ 128) (hcls : l.isHost = false → classOf (classEntry (s.part (s.partOf c)) va) ≠ 0) :
    let r := performServed s c (s.partOf c) va l (.load n) w
    r.old = valueSeen s c va l n ∧ OnlyNotes s r.s ∧ OnlyLoads s r.s c va l := by
  intro r
  cases hserved : servedHome s (s.partOf c) va l with
  | true =>
    have hhome : (l.isHost || classOf (classEntry (s.part (s.partOf c)) va) == 0 || classOf (classEntry (s.part (s.partOf c)) va) == 3) = true := by
      have := hserved
      rw [servedHome] at this
      cases hh : l.isHost
      · rw [hh, Bool.false_or] at this
        rw [this, Bool.or_true]
      · rfl
    have hr : r = ⟨s, bytesToNat (readBytes (memoryOf s l) l.addr n), false⟩ := by
      simp only [r, performServed, hhome, if_true, performGlobal_load l w hconv]
    rw [hr]
    refine ⟨by rw [valueSeen, hserved, if_pos rfl], onlyNotes_of_eq rfl rfl rfl, onlyLoads_of_eq rfl rfl rfl rfl⟩
  | false =>
    cases l with
    | host pa k => exact absurd hserved (by rw [servedHome]; exact nofun)
    | dev pa =>
      have h3 : (classOf (classEntry (s.part (s.partOf c)) va) == 3) = false := hserved
      have h0 : (classOf (classEntry (s.part (s.partOf c)) va) == 0) = false := beq_eq_false_iff_ne.mpr (hcls rfl)
      generalize hw : (match translate (s.part (s.partOf c)) va .write with
        | .hit _ => true
        | _ => false) = writable
      obtain ⟨hdata, hnotes, hdev, hhost, hbut, hkeep, hseen⟩ :=
        l1Fill_fills s c va pa writable (classOf (classEntry (s.part (s.partOf c)) va) == 2)
      generalize hf : l1Fill s c va (.dev pa) writable (classOf (classEntry (s.part (s.partOf c)) va) == 2) = f at hdata hnotes hdev hhost hbut hkeep hseen
      have hr : r = ⟨f.1, lineValue f.2.data (va % 128) n, false⟩ := by
        simp only [r, performServed, Loc.isHost, h0, h3, hconv, Bool.or_self, Bool.false_eq_true, if_false, Option.isSome_none, Bool.false_or,
          AccessOp.extent]
        rw [← hf, ← hw]
        exact if_neg (fun hb => by have : 128 < va % 128 + n := of_decide_eq_true hb; omega)
      rw [hr]
      refine ⟨by rw [valueSeen, hserved, if_neg Bool.false_ne_true, hdata], hnotes, ⟨fun a => by rw [hdev], fun a => by rw [hhost]⟩, hbut, hkeep,
        hseen, fun h => absurd (hserved.symm.trans h) (by decide)⟩

/-! ## Relaxed loads (R90, R130) -/

/-- The bytes and cores are those of an earlier state, as are the partitions. -/
theorem OnlyLoads.same {s t u : State} {c va : Nat} {l : Loc} (h : OnlyLoads s t c va l) (g : SameStores t u) : OnlyLoads s u c va l := by
  obtain ⟨⟨hdev, hhost⟩, ⟨hcore, hown, hl1⟩, hkeep, hseen, hhome⟩ := h
  obtain ⟨gdev, ghost, gcores, gparts⟩ := g
  have gcore (d : Nat) : u.core d = t.core d := by simp only [State.core, gcores]
  have gl1 (a : Nat) : l1At u c a = l1At t c a := by simp only [l1At, State.partOf, State.part, gcore, gparts]
  refine ⟨⟨fun a => by rw [gdev, hdev], fun a => by rw [ghost, hhost]⟩, ⟨fun d hd => (gcore d).trans (hcore d hd), by rw [gcore, hown], fun a ha => by
    rw [gl1, hl1 a ha]⟩, fun x hx => by rw [gl1, hkeep x hx], ?_, fun hs => gcores.trans (hhome hs)⟩
  rw [← hseen]
  simp only [lineSeen, gl1, memLine, gdev]

theorem sameStores_loads {s t : State} {c va : Nat} {l : Loc} (h : SameStores s t) : OnlyLoads s t c va l :=
  onlyLoads_of_eq h.1 h.2.1 h.2.2.1 h.2.2.2

/-- A relaxed load of the core's own slot, whose die holds no copy of the line, gives the bytes as the core sees them and
changes none (R87, R90). -/
theorem relaxedLoad_loads {s : State} {k va n : Nat} {l : Loc} (hconv : convAt (s.part (s.partOf (k / 16))) va = none)
    (hfit : va % 128 + n ≤ 128) (hcls : l.isHost = false → classOf (classEntry (s.part (s.partOf (k / 16))) va) ≠ 0)
    (hcopy : copyAt s (k / 16 / 128) l = none) :
    let r := relaxedLoad s k va l n
    r.2 = valueSeen s (k / 16) va l n ∧ OnlyNotes s r.1 ∧ OnlyLoads s r.1 (k / 16) va l := by
  intro r
  by_cases h3 : classOf (classEntry (s.part (s.partOf (k / 16))) va) < 3
  · obtain ⟨hold, hnotes, hloads⟩ := performServed_load none hconv hfit hcls
    generalize hf : performServed s (k / 16) (s.partOf (k / 16)) va l (.load n) none = f at hold hnotes hloads
    have hr : r = (noteRequest f.s (k / 16) (classOf (classEntry (s.part (s.partOf (k / 16))) va) == 3) l, f.old) := by
      simp only [r, relaxedLoad, h3, decide_true, Bool.true_or, if_true, performAt, hf]
    obtain ⟨gnotes, gsame, -⟩ := noteRequest_notes f.s (k / 16) (classOf (classEntry (s.part (s.partOf (k / 16))) va) == 3) l
    rw [hr]
    exact ⟨hold, hnotes.trans gnotes, hloads.same gsame⟩
  · have hclass : classOf (classEntry (s.part (s.partOf (k / 16))) va) = 3 := by
      have : classOf (classEntry (s.part (s.partOf (k / 16))) va) < 4 := BitVec.isLt _
      omega
    have hhome : servedHome s (s.partOf (k / 16)) va l = true := by rw [servedHome, hclass, beq_self_eq_true, Bool.or_true]
    have hvalue : valueSeen s (k / 16) va l n = bytesToNat (readBytes (memoryOf s l) l.addr n) := by rw [valueSeen, hhome, if_pos rfl]
    obtain ⟨hnotes, hsame, hrdc⟩ := noteRequest_notes s (k / 16) false l
    generalize hu : noteRequest s (k / 16) false l = u at hnotes hsame hrdc
    obtain ⟨snotes, ssame⟩ := noteSeen_notes u k (s.partOf (k / 16)) va l
    obtain ⟨rnotes, rsame⟩ := refill_notes u k l
    obtain ⟨qnotes, qsame⟩ := noteSeen_notes (refill u k l) k (s.partOf (k / 16)) va l
    have hr : r.2 = bytesToNat (readBytes (memoryOf s l) l.addr n) ∧ (r.1 = noteSeen u k (s.partOf (k / 16)) va l ∨
        r.1 = noteSeen (refill u k l) k (s.partOf (k / 16)) va l) := by
      have hcopy' : copyAt u (k / 16 / 128) l = none := by
        cases l with
        | dev pa => rw [← hcopy]; simp only [copyAt, hrdc]
        | host pa c => rfl
      simp only [r, relaxedLoad, h3, decide_false, hconv, Option.isSome_none, Bool.or_self, Bool.false_eq_true, if_false,
        performGlobal_load l none hconv, hu]
      cases l with
      | host pa c => exact ⟨rfl, .inl rfl⟩
      | dev pa =>
        dsimp only
        by_cases hspan : 128 < pa % 128 + n
        · rw [if_pos hspan]
          exact ⟨rfl, .inl rfl⟩
        · rw [if_neg hspan, hcopy']
          exact ⟨rfl, .inr rfl⟩
    obtain ⟨hval, hst | hst⟩ := hr
    · rw [hst]
      exact ⟨hval.trans hvalue.symm, hnotes.trans snotes, sameStores_loads (hsame.trans ssame)⟩
    · rw [hst]
      exact ⟨hval.trans hvalue.symm, hnotes.trans (rnotes.trans qnotes), sameStores_loads (hsame.trans (rsame.trans qsame))⟩

theorem unitBlock_none {pt : Part} {va : Nat} (write : Bool) : ∀ n, (∀ x, va ≤ x → x < va + n → convAt pt x = none) →
    unitBlock pt va write n = none
  | 0, _ => rfl
  | n + 1, h => by
    have hlow : redirNibble pt (2 * (va + n)) write = .nib (2 * (va + n)) := by
      rw [redirNibble, show 2 * (va + n) / 2 = va + n by omega, h _ (by omega) (by omega)]
    have hhigh : redirNibble pt (2 * (va + n) + 1) write = .nib (2 * (va + n) + 1) := by
      rw [redirNibble, show (2 * (va + n) + 1) / 2 = va + n by omega, h _ (by omega) (by omega)]
    rw [unitBlock, hlow, hhigh]
    exact unitBlock_none write n fun x hx hn => h x hx (by omega)

theorem OnlyClasses.valueSeen {s t : State} (h : OnlyClasses s t) {c va n : Nat} {l : Loc}
    (hhome : servedHome t (s.partOf c) va l = servedHome s (s.partOf c) va l) : valueSeen t c va l n = Machine.valueSeen s c va l n := by
  obtain ⟨-, -, hdev, hhost, -⟩ := h.frame
  have hmem : memoryOf t l = memoryOf s l := by cases l <;> assumption
  simp only [Machine.valueSeen, lineSeen, h.partOf, hhome, h.l1At, memLine, hmem, hdev]

theorem OnlyClasses.loads {s t u : State} (h : OnlyClasses s t) {c va : Nat} {l : Loc}
    (hhome : servedHome t (s.partOf c) va l = servedHome s (s.partOf c) va l) (g : OnlyLoads t u c va l) : OnlyLoads s u c va l := by
  obtain ⟨hcores, -, hdev, hhost, -⟩ := h.frame
  have hline : lineSeen t c va l = lineSeen s c va l := by simp only [lineSeen, h.l1At, memLine, hdev]
  obtain ⟨⟨gdev, ghost⟩, ⟨gcore, gown, gl1⟩, gkeep, gseen, ghome⟩ := g
  rw [h.partOf, hhome] at ghome
  exact ⟨⟨fun a => by rw [gdev, hdev], fun a => by rw [ghost, hhost]⟩, ⟨fun d hd => by rw [gcore d hd, h.core], by rw [gown, h.core],
    fun a ha => by rw [gl1 a ha, h.l1At]⟩, fun x hx => gkeep x (by rw [h.l1At, hx]), gseen.trans hline, fun hs => (ghome hs).trans hcores⟩

/-! ## Chunks read ahead (R262) -/

/-- The slot of its own number and core. -/
theorem slotKey_core (c n : Nat) (h : n < 16) : slotKey c n / 16 = c := by rw [slotKey]; omega

/-- A chunk of a stream in global memory that nothing stops is the bytes at its address (R262). -/
theorem readChunk_reads {s : State} {t : Stream} {j : Nat} {l : Loc} (hscr : t.scratch = false) (hslot : s.curSlot < 16)
    (hal : (t.chunkAddr j).toNat % 64 = 0) (hlen : t.chunkLen j ≤ 64) (hpos : 0 < t.chunkLen j)
    (hgo : ThroughReq s { ea := t.chunkAddr j, n := t.chunkLen j, align := 1, store := false } anyMapping l)
    (hcopy : copyAt s (s.curCore / 128) l = none) :
    ∃ u, readChunk s t j = .got (.data (BitVec.ofNat 512 (valueSeen s s.curCore (t.chunkAddr j).toNat l (t.chunkLen j)))) u ∧
      OnlyNotes s u ∧ OnlyLoads s u s.curCore (t.chunkAddr j).toNat l := by
  obtain ⟨hcheck, -, hlease, hown, -, htouch, hopen, hconv, -⟩ := hgo
  have hcore : s.cur / 16 = s.curCore := slotKey_core _ _ hslot
  generalize hva : (t.chunkAddr j).toNat = va at *
  generalize hn : t.chunkLen j = n at *
  dsimp only at hown htouch hconv
  have hleased : leasedLine s.me va n = none := by simp only [leasedLine, hlease]
  generalize hw : touch s s.myPart va l (some s.curCore) false = w at htouch
  obtain ⟨w, b⟩ := w
  obtain rfl : b = true := htouch
  obtain ⟨hcl, hserved, hcls⟩ := touch_load hw
  obtain ⟨-, hslots, -, -, hrdc, hcc, hcs, -⟩ := hcl.frame
  have hconvs : ∀ x, va ≤ x → x < va + n → convAt (w.part s.myPart) x = none := fun x hx hxn => by
    rw [hcl.convAt]
    exact hconv x hx (by omega)
  have hunit : unitBlock (w.part s.myPart) va false n = none := unitBlock_none false n hconvs
  have hcopy' : copyAt w (s.cur / 16 / 128) l = none := by
    rw [hcore, ← hcopy]
    cases l <;> simp only [copyAt, hrdc]
  have hpart : w.partOf (s.cur / 16) = s.myPart := by rw [hcl.partOf, hcore]; rfl
  obtain ⟨hval, hnotes, hloads⟩ := relaxedLoad_loads (s := w) (k := s.cur) (va := va) (n := n) (l := l)
    (by rw [hpart]; exact hconvs va le_rfl (by omega)) (by omega) (by rw [hpart]; exact hcls) hcopy'
  rw [hcore] at hval hloads
  generalize hr : relaxedLoad w s.cur va l n = r at hval hnotes hloads
  refine ⟨r.1, ?_, ?_, hcl.loads hserved hloads⟩
  · have hopen' : lineOpen w s.myPart l.key s.cur = true := (hcl.lineOpen ..).trans hopen
    rw [← hcl.valueSeen hserved, ← hval]
    have hcur : w.cur = s.cur := by simp only [State.cur, hcc, hcs]
    simp only [readChunk, hscr, Bool.false_eq_true, if_false, hva, hn, hcheck, hown, hleased, hw, hcur, hopen', Bool.not_true, hunit, hr, chunkData]
  · obtain ⟨gc, gs, gslot⟩ := hnotes
    exact ⟨gc.trans hcc, gs.trans hcs, fun k => by
      obtain ⟨a, b, hk⟩ := gslot k
      exact ⟨a, b, by rw [hk]; simp only [State.slot, hslots]⟩⟩

theorem chunkLen_pos {t : Stream} (h : t.fetched < (t.len + 63) / 64) : 0 < t.chunkLen t.fetched ∧ t.chunkLen t.fetched ≤ 64 := by
  have h2 : t.chunkLen t.fetched = min 64 (t.len - 64 * t.fetched) := rfl
  omega

/-- The state in which an event of slot `n` of core `c` happens. -/
def asSlot (s : State) (c n : Nat) : State := { s with curCore := c, curSlot := n }

/-- The request of a stream's chunk `j` (R216, R262). -/
def chunkReq (t : Stream) (j : Nat) : GReq := { ea := t.chunkAddr j, n := t.chunkLen j, align := 1, store := false }

/-- The next chunk of a read stream in global memory that nothing stops is read ahead (R262). -/
theorem streamChunkArrive_arrives {s : State} {c n : Nat} {k : Fin 4} {l : Loc} {st : Stream} (hst : (asSlot s c n).me.streams[k] = st)
    (hon : st.on = true) (hread : st.write = false) (hscr : st.scratch = false) (hleft : st.fetched < (st.len + 63) / 64)
    (hempty : st.ahead = []) (hal : (st.chunkAddr st.fetched).toNat % 64 = 0)
    (hgo : ThroughReq (asSlot s c n) (chunkReq st st.fetched) anyMapping l) (hslot : n < 16) (hcopy : copyAt s (c / 128) l = none) :
    let u := asSlot s c n
    let ea := st.chunkAddr st.fetched
    ∃ t, exec (.streamChunkArrive c n k) s = .next t ∧
      t.me.streams = u.me.streams.set k { st with
        fetched := st.fetched + 1, ahead := [.data (BitVec.ofNat 512 (valueSeen u c ea.toNat l (st.chunkLen st.fetched)))] } ∧
      t.me.x = u.me.x ∧ t.me.f = u.me.f ∧ OnlyLoads u t c ea.toNat l := by
  intro u ea
  obtain ⟨hpos, hlen⟩ := chunkLen_pos hleft
  obtain ⟨v, hchunk, ⟨hcc, hcs, hvslot⟩, hloads⟩ := readChunk_reads (s := u) (t := st) (j := st.fetched) hscr hslot hal hlen hpos hgo hcopy
  have hcur : v.cur = u.cur := by simp only [State.cur, hcc, hcs]
  obtain ⟨seen, old, hme⟩ := hvslot u.cur
  have hvme : v.me = { u.me with seen := seen, oldCopies := old } := by rw [State.me, hcur]; exact hme
  have hchunks : ¬ st.chunks ≤ st.fetched := by
    simp only [Stream.chunks]
    omega
  generalize hdata : Chunk.data (BitVec.ofNat 512 (valueSeen u c ea.toNat l (st.chunkLen st.fetched))) = data
  have hgot : readChunk u st st.fetched = .got data v := by rw [← hdata]; exact hchunk
  let w : State := v.setMe { v.me with streams := v.me.streams.set k { st with ahead := [data], fetched := st.fetched + 1 } }
  have hw : w.me = { v.me with streams := v.me.streams.set k { st with ahead := [data], fetched := st.fetched + 1 } } := me_setMe ..
  have hout : exec (.streamChunkArrive c n k) s =
      .next (if st.fetched + 1 < st.chunks ∧ 0 + 1 < 4 then w.post (.streamChunkArrive c n k) else w) := by
    have hstream : u.me.streams[k.val] = st := hst
    have hsame : ({ st with on := true, write := false, ahead := [data], fetched := st.fetched + 1 } : Stream) =
        { st with ahead := [data], fetched := st.fetched + 1 } := by rw [← hon, ← hread]
    have hu : ({ s with curCore := c, curSlot := n } : State) = u := rfl
    simp only [exec_streamChunkArrive, execStreamChunkArrive, hu, k.isLt, dite_true, hstream, hempty, hon, hread, hgot, hchunks, decide_false,
      List.getLast?_nil, List.length_nil, List.nil_append, Bool.not_true, Bool.or_false, Bool.false_eq_true, if_false,
      show decide (4 ≤ 0) = false from rfl, hsame]
    rfl
  have hloadsw : OnlyLoads u w c ea.toNat l := hloads.same ⟨rfl, rfl, rfl, rfl⟩
  refine ⟨_, hout, ?_⟩
  split
  · exact ⟨by rw [me_post, hw, hvme], by rw [me_post, hw, hvme], by rw [me_post, hw, hvme], hloadsw.same ⟨rfl, rfl, rfl, rfl⟩⟩
  · exact ⟨by rw [hw, hvme], by rw [hw, hvme], by rw [hw, hvme], hloadsw⟩

end Sys2Proof.Machine
end

section
/-! SUPPORT. Streams configured, stopped and branched on (R261, R263), and O44 settled. -/

namespace Sys2Proof.Machine

/-! ## Code offsets (R175) -/

theorem codeTarget_split (pc : Word) (off : BitVec 16) : codeTarget pc off =
    (pc &&& ~~~63#64) + BitVec.ofInt 64 (64 * (off.toInt / 32)) + BitVec.ofNat 64 (2 * (off.toNat % 32)) := by
  have hlines : BitVec.sshiftRight (off.signExtend 64) 5 <<< 6 = BitVec.ofInt 64 (64 * (off.toInt / 32)) := by
    have hquot : BitVec.sshiftRight (off.signExtend 64) 5 = BitVec.ofInt 64 (off.toInt / 32) := by
      rw [← BitVec.ofInt_toInt (x := BitVec.sshiftRight _ _), BitVec.toInt_sshiftRight, BitVec.toInt_signExtend_of_le (by decide),
        Int.shiftRight_eq_div_pow]
      rfl
    rw [hquot, BitVec.shiftLeft_eq_mul_twoPow, mul_comm (64 : Int), BitVec.ofInt_mul]
    rfl
  have hparcels : (off.extractLsb' 0 5).setWidth 64 <<< 1 = BitVec.ofNat 64 (2 * (off.toNat % 32)) := by
    apply BitVec.eq_of_toNat_eq
    rw [BitVec.toNat_shiftLeft, BitVec.toNat_setWidth, BitVec.extractLsb'_toNat, BitVec.toNat_ofNat, Nat.shiftRight_zero, Nat.shiftLeft_eq]
    omega
  rw [codeTarget, hlines, hparcels]

/-- `bstr` goes to its target while the stream has chunks left, and else on (R263). -/
theorem bstr_branches {s : State} (k : BitVec 2) (off : BitVec 16) :
    let tgt := (s.me.pc &&& ~~~63#64) + BitVec.ofInt 64 (64 * (off.toInt / 32)) + BitVec.ofNat 64 (2 * (off.toNat % 32))
    let st := s.me.streams[k.toFin]
    (st.on = true → st.pos < (st.len + 63) / 64 → RunsTo (exec (.bstr k off) s) (if tgt.ule s.me.pc then unbound s else s) tgt) ∧
    (st.on = false ∨ (st.len + 63) / 64 ≤ st.pos → RunsTo (exec (.bstr k off) s) s (nextPc s)) := by
  intro tgt st
  have hexec : exec (.bstr k off) s = .next (if st.on && decide (st.pos < st.chunks) then transfer s tgt else finish s) := by
    rw [exec_bstr, execBstr, gate_clear (clear_nothing s), codeTarget_split]
  refine ⟨fun hon hleft => ?_, fun hend => ?_⟩
  · rw [hexec, hon, show decide (st.pos < st.chunks) = true from decide_eq_true hleft]
    exact runsTo_finishAt ..
  · have hoff : (st.on && decide (st.pos < st.chunks)) = false := by
      rcases hend with hoff | hend
      · rw [hoff, Bool.false_and]
      · rw [show decide (st.pos < st.chunks) = false from decide_eq_false (Nat.not_lt.mpr hend), Bool.and_false]
    rw [hexec, hoff]
    exact runsTo_finish s

theorem runsTo_next {b : State} {pc : Word} (h : nextPc b = pc) : RunsTo (.next (finish b)) b pc := by
  rw [← h]
  exact runsTo_finish b

theorem strStop_ends (s : State) (k : BitVec 2) :
    RunsTo (exec (.strStop k) s) (s.setMe { s.me with streams := s.me.streams.set k.toFin Stream.off }) (nextPc s) := by
  rw [exec_strStop, execStrStop, gate_clear (clear_nothing s)]
  exact runsTo_next (nextPc_congr (by rw [me_setMe]) (by rw [me_setMe]) (by rw [me_setMe]))

/-! ## Configuring a stream (R261) -/

/-- The state with the stream of number `k` discarded (R261). -/
def streamCleared (s : State) (k : BitVec 2) : State := s.setMe { s.me with streams := s.me.streams.set k.toFin Stream.off }

theorem low_zero (v : Word) : v.extractLsb' 0 6 = 0 ↔ v.toNat % 64 = 0 := by
  rw [← BitVec.toNat_inj, BitVec.extractLsb'_toNat, Nat.shiftRight_zero]
  rfl

theorem mode_zero (v : Word) : v.extractLsb' 2 2 = 0 ↔ v.toNat / 4 % 4 = 0 := by
  rw [← BitVec.toNat_inj, BitVec.extractLsb'_toNat, Nat.shiftRight_eq_div_pow]
  rfl

theorem reserved_zero (v : Word) : v.extractLsb' 6 58 = 0 ↔ v.toNat < 64 := by
  have h := v.isLt
  rw [← BitVec.toNat_inj, BitVec.extractLsb'_toNat, Nat.shiftRight_eq_div_pow]
  show v.toNat / 64 % 2 ^ 58 = 0 ↔ _
  omega

theorem streamWidth_eq (ctl : Word) : streamWidth ctl = 2 ^ (ctl.toNat / 16 % 4) := by
  rw [streamWidth, BitVec.extractLsb'_toNat, Nat.shiftRight_eq_div_pow]

/-- The stream that `str.cfg` configures (R261). -/
def streamOf (base len stride ctl : Word) : Stream :=
  ⟨true, ctl.getLsbD 0, ctl.getLsbD 1, 2 ^ (ctl.toNat / 16 % 4), base, len.toNat, if stride = 0 then 64 else stride.toNat, 0, 0, []⟩

section Config
variable {s : State} {k : BitVec 2} {a : Reg} (hc : Clear false { reads := runX a 4, bad := badPrivateRun a 4 } s)
include hc

theorem strCfg_checks : exec (.strCfg k a) s =
    if (readX s a).toNat % 64 ≠ 0 then .next (trapI (streamCleared s k) 0x20 (readX s a))
    else if (readX s (a + 2)).toNat % 64 ≠ 0 then .next (trapI (streamCleared s k) 0x20 (readX s (a + 2)))
    else if ¬ ((readX s (a + 3)).toNat / 4 % 4 = 0 ∧ (readX s (a + 3)).toNat < 64 ∧
        (readX s (a + 1)).toNat % 2 ^ ((readX s (a + 3)).toNat / 16 % 4) = 0) then .next (trapI (streamCleared s k) 0x64 (readX s (a + 3)))
    else .next (let t := finish ((streamCleared s k).setMe { (streamCleared s k).me with
        streams := (streamCleared s k).me.streams.set k.toFin (streamOf (readX s a) (readX s (a + 1)) (readX s (a + 2)) (readX s (a + 3))) })
      if (readX s (a + 3)).getLsbD 0 then t else t.post (.streamChunkArrive t.curCore t.curSlot k.toNat)) := by
  have hsucc (n : Nat) : Reg.succ a n = a + BitVec.ofNat 5 n := rfl
  rw [exec_strCfg, execStrCfg, gate_clear hc, hsucc, hsucc, hsucc]
  have hctl : ((readX s (a + 3)).extractLsb' 2 2 ≠ 0 ∨ (readX s (a + 3)).extractLsb' 6 58 ≠ 0 ∨
      (readX s (a + 1)).toNat % streamWidth (readX s (a + 3)) ≠ 0) ↔ ¬ ((readX s (a + 3)).toNat / 4 % 4 = 0 ∧
      (readX s (a + 3)).toNat < 64 ∧ (readX s (a + 1)).toNat % 2 ^ ((readX s (a + 3)).toNat / 16 % 4) = 0) := by
    rw [ne_eq, ne_eq, mode_zero, reserved_zero, streamWidth_eq]
    tauto
  refine if_congr (not_congr (low_zero _)) rfl (if_congr (not_congr (low_zero _)) rfl (if_congr hctl rfl ?_))
  rw [streamWidth_eq]
  rfl

theorem strCfg_refuses : let cleared := streamCleared s k
    let ctl := readX s (a + 3)
    ((readX s a).toNat % 64 ≠ 0 → exec (.strCfg k a) s = .next (trapI cleared 0x20 (readX s a))) ∧
    ((readX s a).toNat % 64 = 0 → (readX s (a + 2)).toNat % 64 ≠ 0 → exec (.strCfg k a) s = .next (trapI cleared 0x20 (readX s (a + 2)))) ∧
    ((readX s a).toNat % 64 = 0 → (readX s (a + 2)).toNat % 64 = 0 →
      ¬ (ctl.toNat / 4 % 4 = 0 ∧ ctl.toNat < 64 ∧ (readX s (a + 1)).toNat % 2 ^ (ctl.toNat / 16 % 4) = 0) →
      exec (.strCfg k a) s = .next (trapI cleared 0x64 ctl)) := by
  refine ⟨fun hb => ?_, fun hb hs => ?_, fun hb hs hg => ?_⟩
  · rw [strCfg_checks hc, if_pos hb]
  · rw [strCfg_checks hc, if_neg (not_not_intro hb), if_pos hs]
  · rw [strCfg_checks hc, if_neg (not_not_intro hb), if_neg (not_not_intro hs), if_pos hg]

/-- Good words configure the stream, and a read stream starts to read ahead (R261, R262). -/
theorem strCfg_configures (hb : (readX s a).toNat % 64 = 0) (hs : (readX s (a + 2)).toNat % 64 = 0)
    (hg : (readX s (a + 3)).toNat / 4 % 4 = 0 ∧ (readX s (a + 3)).toNat < 64 ∧
      (readX s (a + 1)).toNat % 2 ^ ((readX s (a + 3)).toNat / 16 % 4) = 0) :
    ∃ t, exec (.strCfg k a) s = .next t ∧ t.me.pc = nextPc s ∧
      t.me.streams = s.me.streams.set k.toFin (streamOf (readX s a) (readX s (a + 1)) (readX s (a + 2)) (readX s (a + 3))) ∧
      t.me.x = s.me.x ∧ t.me.f = s.me.f ∧ t.me.st = .ready ∧
      ((readX s (a + 3)).getLsbD 0 = false → t.agenda = s.agenda ++ [.streamChunkArrive s.curCore s.curSlot k.toNat]) ∧
      (∀ j, j ≠ s.cur → t.slot j = s.slot j) ∧ t.cores = s.cores ∧ t.devMem = s.devMem := by
  have hexec := strCfg_checks hc (k := k)
  rw [if_neg (not_not_intro hb), if_neg (not_not_intro hs), if_neg (not_not_intro hg)] at hexec
  generalize streamOf (readX s a) (readX s (a + 1)) (readX s (a + 2)) (readX s (a + 3)) = st at hexec ⊢
  have hset : (streamCleared s k).setMe { (streamCleared s k).me with streams := (streamCleared s k).me.streams.set k.toFin st } =
      s.setMe { s.me with streams := s.me.streams.set k.toFin st } := by
    rw [streamCleared, me_setMe, setMe_setMe]
    simp only [Vector.set_set]
  rw [hset] at hexec
  generalize hu : s.setMe { s.me with streams := s.me.streams.set k.toFin st } = u at hexec
  have hume : u.me = { s.me with streams := s.me.streams.set k.toFin st } := by rw [← hu, me_setMe]
  have huframe : u.agenda = s.agenda ∧ u.curCore = s.curCore ∧ u.curSlot = s.curSlot ∧ u.cur = s.cur ∧ u.cores = s.cores ∧ u.devMem = s.devMem := by
    rw [← hu]; exact ⟨rfl, rfl, rfl, rfl, rfl, rfl⟩
  have huslot (j : Nat) (hj : j ≠ s.cur) : u.slot j = s.slot j := by rw [← hu]; exact slot_setMe_ne s _ hj
  obtain ⟨hagenda, hcc, hcs, hcur, hcores, hdev⟩ := huframe
  have hpc : nextPc u = nextPc s := nextPc_congr (by rw [hume]) (by rw [hume]) (by rw [hume])
  obtain ⟨lease, at_, cover, hme⟩ := finish_slot u
  rw [hume, hpc] at hme
  have hslot (j : Nat) (hj : j ≠ s.cur) : (finish u).slot j = s.slot j := (slot_setMe_ne u _ (by rw [hcur]; exact hj)).trans (huslot j hj)
  have hsame : (finish u).cores = s.cores ∧ (finish u).devMem = s.devMem ∧ (finish u).agenda = s.agenda := ⟨hcores, hdev, hagenda⟩
  refine ⟨_, hexec, ?_⟩
  dsimp only
  split
  · next hw => exact ⟨by rw [hme], by rw [hme], by rw [hme], by rw [hme], by rw [hme], fun h => absurd (hw.symm.trans h) (by decide), hslot,
      hsame.1, hsame.2.1⟩
  · refine ⟨by rw [me_post, hme], by rw [me_post, hme], by rw [me_post, hme], by rw [me_post, hme], by rw [me_post, hme], fun _ => ?_, hslot,
      hsame.1, hsame.2.1⟩
    rw [← hcc, ← hcs, ← hsame.2.2]
    rfl

end Config

/-! ## O44 -/

/-- A special function on plain registers puts its lanes and their flags on the way to D (R264). -/
theorem specialFn_runs {s : State} {d a : Reg} {c : VCtl} (fn : Nat) (ha : isBound s.me a = false) (hd : isBound s.me d = false)
    (hc : Clear false { reads := vreg a :: (if c.merge then [vreg d] else []), vwrites := [vreg d] } s) :
    let w := c.lt.bits
    let live (k : Nat) : Bool := !c.merge || s.me.csr.vm.getLsbD k
    let y (k : Nat) : Nat × Word := sfLane fn (laneFmt c.lt) (rndOf s.me.csr.rmode c.rm) (laneAt w k (readV s a).toNat)
    ∃ t r, specialFn fn d a c s = .next t ∧ t.me.vpend = s.me.vpend ++ [⟨s.nextId, [vreg d], some [r],
        laneFlags (fun k => if live k then (y k).2 else 0) (512 / w), .special (s.myCore.cyc + if w = 32 then 12 else 13)⟩] ∧
      (∀ k, k < 512 / w → laneAt w k r.toNat = if live k then (y k).1 % 2 ^ w else laneAt w k (readV s d).toNat) ∧
      t.agenda = s.agenda ++ [.variableResultArrival s.curCore s.curSlot s.nextId] ∧ t.me.pc = nextPc s ∧ t.me.st = .ready ∧
      t.me.x = s.me.x ∧ t.me.f = s.me.f ∧ t.me.csr = s.me.csr ∧ (w = 16 → t.myCore.sfClosed = some (s.myCore.cyc + 1)) ∧
      (∀ k, k ≠ s.cur → t.slot k = s.slot k) ∧ t.devMem = s.devMem ∧ t.hostMem = s.hostMem := by
  intro w live y
  obtain ⟨hflags, hlanes⟩ := sfApply_lanes fn c.lt (rndOf s.me.csr.rmode c.rm) c.merge s.me.csr.vm (if c.merge then readV s d else 0) (readV s a)
  have hissue := specialFn_issues fn ha hd hc
  dsimp only at hissue
  generalize hz : sfApply fn c.lt (rndOf s.me.csr.rmode c.rm) c.merge s.me.csr.vm (if c.merge then readV s d else 0) (readV s a) = z at *
  obtain ⟨hpend, hagenda, hpc, hst, hx, hf, hcsr, hclosed, hslot, hdev, hhost⟩ :=
    specialIssued_does s ⟨s.nextId, [vreg d], some [z.1], z.2, .special (s.myCore.cyc + sfLatency c.lt)⟩ c.lt
  refine ⟨_, z.1, hissue, ?_, fun k hk => ?_, hagenda, hpc, hst, hx, hf, hcsr, hclosed, hslot, hdev, hhost⟩
  · rw [hpend, hflags]
    rfl
  · rw [hlanes k hk]
    cases hm : c.merge with
    | false => simp only [live, hm, Bool.not_false, Bool.true_or, if_true]; rfl
    | true => simp only [live, hm, if_true]; rfl

/-- `topk.cfg` opens an empty session when its word is good (R266). -/
theorem topkCfg_opens {s : State} {a : Reg} (lt : LaneT) (smallest : Bool) (hc : Clear false { reads := [xreg a] } s) :
    let v := readX s a
    let good := 0 < v.toNat % 512 ∧ v.toNat % 512 ≤ 256 ∧ v.toNat / 512 % 2 ^ 23 = 0
    (good → RunsTo (exec (.topkCfg a lt smallest) s) (s.setMe { s.me with
      topk := some ⟨lt, smallest, v.toNat % 512, BitVec.ofNat 32 (v.toNat / 2 ^ 32), [], true, []⟩, qk := [] }) (nextPc s)) ∧
    (¬ good → exec (.topkCfg a lt smallest) s = .next (trapI s 0x64 v)) := by
  intro v good
  have hexec : exec (.topkCfg a lt smallest) s = if badTopK v then .next (trapI s 0x64 v) else .next (finish (s.setMe { s.me with
      topk := some ⟨lt, smallest, v.toNat % 512, BitVec.ofNat 32 (v.toNat / 2 ^ 32), [], true, []⟩, qk := [] })) := by
    have hk : (v.extractLsb' 0 9).toNat = v.toNat % 512 := by rw [BitVec.extractLsb'_toNat, Nat.shiftRight_zero]
    have hcount : v.extractLsb' 32 32 = BitVec.ofNat 32 (v.toNat / 2 ^ 32) := by
      apply BitVec.eq_of_toNat_eq
      rw [BitVec.extractLsb'_toNat, BitVec.toNat_ofNat, Nat.shiftRight_eq_div_pow]
    rw [exec_topkCfg, execTopkCfg, gate_clear hc, ← hk, ← hcount]
  refine ⟨fun hg => ?_, fun hg => ?_⟩
  · rw [hexec, if_neg (fun hb => (badTopK_iff v).mp hb hg)]
    exact runsTo_next (nextPc_congr (by rw [me_setMe]) (by rw [me_setMe]) (by rw [me_setMe]))
  · rw [hexec, if_pos ((badTopK_iff v).mpr hg)]

theorem topkIn_inputs (a : Reg) (s : State) : exec (.topkIn a) s = topkInput enterChunk a s := by
  rw [exec_topkIn, execTopkIn]

theorem topkMerge_inputs (a : Reg) (s : State) : exec (.topkMerge a) s = topkInput (fun t _ v => mergePairs t v) a s := by
  rw [exec_topkMerge, execTopkMerge]

/-- Settles O44: a special function is one map over lanes whose result waits in the scoreboard, a stream is its configuration
with the chunks read ahead, and a top-k session is a list in rank order. -/
theorem specialFunctionsStreamsAndTopK : Obligations.SpecialFunctionsStreamsAndTopK := by
  unfold Obligations.SpecialFunctionsStreamsAndTopK
  refine ⟨fun s d a c ha hd hc => ?_, fun fm _ mode a => ?_, fun s k a hc => ?_, fun s k off _ => ?_,
    fun s c n k l hon hread hscr hleft hempty hal hgo hslot hcopy => streamChunkArrive_arrives rfl hon hread hscr hleft hempty hal hgo hslot hcopy,
    fun s a lt smallest hc => ?_, fun s a t ha hc ht => ⟨fun ho => ?_, fun ho => ⟨?_, ?_⟩⟩, fun t p => ⟨enterPair_refused, fun hi hk => ?_⟩,
    fun s d t hc hd ht hout => ?_, fun s c k t v vs ht hout => topkChunk_produces ht hout⟩
  · exact ⟨specialFn_runs 0 ha hd hc, specialFn_runs 1 ha hd hc, specialFn_runs 2 ha hd hc, specialFn_runs 3 ha hd hc,
      specialFn_runs 4 ha hd hc, specialFn_runs 5 ha hd hc, specialFn_runs 6 ha hd hc, specialFn_runs 7 ha hd hc,
      specialFn_runs 8 ha hd hc, specialFn_runs 9 ha hd hc⟩
  · exact ⟨fun h fn => sfLane_nan fn h, fun h => sfLane_negInf h, fun h => sfLane_posInf h, fun p e h => sfLane_zero h,
      fun m e hm h => sfLane_negative hm h, fun p m e hm h => sfLane_finite hm h⟩
  · obtain ⟨hbase, hstride, hctl⟩ := strCfg_refuses hc (k := k)
    exact ⟨hbase, hstride, hctl, fun hb hs hg => strCfg_configures hc hb hs hg⟩
  · exact ⟨strStop_ends s k, bstr_branches k off⟩
  · exact topkCfg_opens lt smallest hc
  · rw [topkIn_inputs, topkMerge_inputs]
    exact ⟨(topkInput_session _ ha hc ht).1 ho, (topkInput_session _ ha hc ht).1 ho⟩
  · obtain ⟨held, henter, hnone, hone⟩ := enterChunk_enters t s.me.csr.vm (readV s a)
    refine ⟨enterChunk t s.me.csr.vm (readV s a), ?_, ?_⟩
    · rw [topkIn_inputs]
      exact (topkInput_session enterChunk ha hc ht).2 ho
    rw [henter]
    exact ⟨ho, rfl, rfl, hnone, hone⟩
  · obtain ⟨held, hmerge, hstill⟩ := mergePairs_merges t (readV s a)
    refine ⟨mergePairs t (readV s a), ?_, ?_⟩
    · rw [topkMerge_inputs]
      exact (topkInput_session (fun t _ v => mergePairs t v) ha hc ht).2 ho
    rw [hmerge]
    exact ⟨ho, rfl, hstill⟩
  · obtain ⟨better, worse, hheld, hins, hlow, hhigh⟩ := rankInsert_splits t p t.held
    refine ⟨better, worse, hheld, ?_, hlow, hhigh⟩
    rw [enterPair, if_neg (not_or.mpr ⟨hi, hk⟩), hins]
  · obtain ⟨hlen, hpairs⟩ := topkChunks_hold t.held
    obtain ⟨u, hexec, htopk, hpend, hpc, hagenda, hx, hcores, hdev⟩ := topkOut_closes hc hd ht hout
    refine ⟨u, _, hexec, htopk, rfl, hlen, fun j i hj hi => ?_, hpend, hpc, hagenda, hx, hcores, hdev⟩
    rw [hpairs j i hj hi, List.getD_eq_getElem?_getD]
    cases t.held[8 * j + i]? <;> rfl

end Sys2Proof.Machine
end

section
/-! SUPPORT. Why the bytes of one line of a copy's source need not lie behind one another (Copies): nothing in a state keeps
the windows of its host window table on page boundaries, and one that begins within a line takes the line's rest. -/

namespace Sys2Proof.Machine

/-- Partition 0 with one SHARED page, whose first byte lies in device memory and whose other bytes in host memory. -/
def splitLinePart : Part :=
  { onePagePart with
    hwin := [⟨1, 1, 0⟩, ⟨0, 1, 2⟩]
    cls := [(0, 0xC000)] }

/-- A copy of the two bytes at 0 to 64, with its lines granted and nothing read. -/
def splitLineJob : CopyJob :=
  ⟨⟨0, Handle.invalid, none, .u, 0, 64, 2, 0, 1⟩, 0, 0, 0, 0, false, true, [], none, [], [], 0, none⟩

/-- A machine whose engine has that copy before it, with 1 in byte 1 of host memory. -/
def splitLine : State :=
  { State.reset with
    parts := [(0, splitLinePart)]
    copies := [splitLineJob]
    hostMem := writeByte State.reset.hostMem 1 1
    hub := { Hub.reset with ready := BitVec.allOnes 64 } }

theorem find_splitLine : splitLine.copies.find? (fun x => x.req.id == splitLineJob.req.id) = some splitLineJob := rfl

theorem jobClosed_splitLine : jobClosed splitLine splitLineJob = none := by decide +kernel

theorem placeAt_splitLine : placeAt splitLine splitLineJob.part 0 .read = .dev 0 := by decide +kernel

theorem open_splitLine : (splitLine.part splitLineJob.part).convs = [] ∧ rangeAt splitLine splitLineJob.part 0 = none ∧
    (∀ i, i < 2 → copyAway splitLine splitLineJob.part (0 + i) = false) ∧
    copyBlocked splitLine splitLineJob.part splitLineJob.req.id (2 * (0 / 128)) = false := by
  decide +kernel

theorem copyTouch_splitLine :
    copyTouch splitLine.draw splitLineJob.part false ((List.range 2).map (0 + ·)) = (splitLine.draw, true) := by
  decide +kernel

/-- Byte `i` as the copy has read it (R135). -/
def byteRead (s : State) (i : Nat) : Option Nat :=
  (s.copies.find? fun x => x.req.id == splitLineJob.req.id).map fun x => look x.data 0 i

/-- The moves of the copy (R281). -/
def splitLineMoves : List (Nat × Move) := [(0, ⟨.byte false 0, .byte false 64⟩), (1, ⟨.byte false 1, .byte false 65⟩)]

theorem numbered_splitLine : splitLineJob.numbered = splitLineMoves := by decide +kernel

theorem copyWork_splitLine : copyWork splitLine splitLineJob 2 = some (copyReads splitLine splitLineJob splitLineMoves) := by
  have hjoin (left : List (Nat × Move)) : joinLines splitLine splitLineJob left = (splitLine, splitLineJob) := if_pos (by decide +kernel)
  have hunread : ((splitLineMoves.filter fun e => decide (e.1 < 2)).filter fun e =>
      (look (splitLineJob.data.map fun d => (d.1, some d.2)) none e.1).isNone) = splitLineMoves := by decide +kernel
  have hgranted : splitLineJob.granted = true := rfl
  have hscale : copyScale splitLineJob.req splitLineJob.record = none := by decide +kernel
  simp only [copyWork, hgranted, Bool.not_true, Bool.false_eq_true, if_false, hjoin, hscale, numbered_splitLine, hunread]
  rfl

/-- All of a list being 0, so is what the schedule chooses from it. -/
theorem chosen_zero {l : List Nat} (s : State) (h : ∀ x ∈ l, x = 0) : chosen s l = 0 := by
  rw [chosen, List.getD_eq_getElem?_getD]
  cases hx : l[Config.choose s.draws % l.length]? with
  | none => rfl
  | some x => exact h x (List.mem_of_getElem? hx)

/-- The engine reads the second byte from host memory, where there is a 1; device memory holds 0 there. -/
theorem copyComplete_splitLine {t : State} (h : exec (.copyComplete splitLineJob.req.id) splitLine = .next t) :
    byteRead t 1 ≠ some (readByte splitLine.devMem 1).toNat := by
  have hstep : exec (.copyComplete splitLineJob.req.id) splitLine = .next (copyReads splitLine splitLineJob splitLineMoves) := by
    rw [exec_copyComplete, execCopyComplete, find_splitLine]
    simp only [jobClosed_splitLine, numbered_splitLine]
    rw [show splitLineMoves.length = 2 from rfl, copyWork_splitLine]
  obtain rfl := (Host.Outcome.next.inj (hstep.symm.trans h)).symm
  rw [copyReads, chosen_zero splitLine (l := splitLineMoves.map fun e => e.2.src.group splitLineJob.record) (by decide +kernel)]
  decide +kernel

/-- Refutes O50: a window of the host window table that begins one byte into a line of device memory takes the line's second
byte, so the engine reads it from host memory, where the statement has the bytes from the line's first place on. R383 has
windows of whole pages; the statement bounds the bases of `hwin` nowhere. -/
theorem not_copies : ¬ Obligations.Copies := by
  unfold Obligations.Copies
  rintro ⟨-, -, -, -, -, hprogress, -⟩
  have hjob := hprogress splitLine splitLineJob find_splitLine
  obtain ⟨-, hline, -⟩ := hjob jobClosed_splitLine
  obtain ⟨hconvs, hrange, haway, hblocked⟩ := open_splitLine
  obtain ⟨hread, -⟩ := hline 0 0 2 rfl (by decide) (by decide) (by decide) (by decide) (by decide) (by decide) rfl hconvs hrange haway hblocked
  obtain ⟨t, hexec, -, -, -, -, m, hfind, hbytes⟩ := hread (by decide) placeAt_splitLine (by decide) copyTouch_splitLine
  refine copyComplete_splitLine hexec ?_
  rw [byteRead, hfind]
  exact congrArg some (hbytes 1 (by decide))

end Sys2Proof.Machine
end
